-- ==== Sys2Proof/Word.lean ====
section
/-! DEFINITION. The word types of the GX4 (R5, R98): 64-bit scalar registers, bytes, 32-bit words. -/

namespace Sys2Proof

/-- A 64-bit scalar register (R98). -/
abbrev Word := BitVec 64

/-- One byte; every location is one byte of one space (R164). -/
abbrev Byte := BitVec 8

end Sys2Proof
end

