-- ==== Sys2Proof/Syntax.lean ====
section
/-! DEFINITION. The operations and events of the GX4 as data: element types, modifiers, operands and the one inductive
`Instr` with a constructor per row of the opcode table (11 R227-R251, chapters 12 to 15, 95). -/

namespace Sys2Proof

/-- Element formats: the TYPE codes of R239, and E8M0 (R128 code 0x30), which has no TYPE code. -/
inductive Ty where
  | i64 | i32 | u64 | f64 | f32 | f16 | bf16
  | int4 | int8 | uint8 | int16 | uint16 | uint32
  | e4m3 | e5m2 | e3m2 | e2m3 | e2m1
  | mx8e4 | mx8e5 | mx6e3 | mx6e2 | mx4
  | dx8 | dx6 | dx4
  | e8m0
  deriving DecidableEq, Repr

/-- Rounding codes of R239. -/
inductive Rnd where
  | rne | rtz | rup | rdn | dyn
  deriving DecidableEq, Repr

/-- Order codes of R239. -/
inductive Ord where
  | rlx | acq | rel | ar | sc
  deriving DecidableEq, Repr

/-- Scope codes of R239. -/
inductive Scope where
  | core | st | quad | die | pkg | pod
  deriving DecidableEq, Repr

/-- Condition codes of R239. -/
inductive Cond where
  | eq | ne | lt | le | gt | ge | ltu | leu | gtu | geu | ord | uno
  deriving DecidableEq, Repr

/-- Read-modify-write operations of R299, codes 0 to 6. -/
inductive RmwOp where
  | swap | add | and | or | xor | min | max
  deriving DecidableEq, Repr

/-- The guard of an instruction (R230, R235): predicate `g`, negated when `n`. -/
structure Guard where
  g : Nat
  n : Bool
  deriving DecidableEq, Repr

/-- A wait or post spec of a record header (R243): KIND, OBJ and COUNT; KIND 0 is none. -/
structure Spec where
  kind  : Nat
  obj   : Nat
  count : Nat
  deriving DecidableEq, Repr

/-- The 16-byte header of an N record (R242 to R244), less the ENG and OP that its constructor names. -/
structure RecHdr where
  guard : Guard
  qsel  : Nat
  wait  : Spec
  post  : Spec
  /-- The four capture entries: the scalar register of entry k, if its V bit is set (R244). -/
  capt0 : Option Nat
  capt1 : Option Nat
  capt2 : Option Nat
  capt3 : Option Nat
  deriving DecidableEq, Repr

/-- A firmware image as start step 2 sees it (R43, R44). -/
structure FwImage where
  magic   : BitVec 32
  version : Nat
  length  : Nat
  digest  : BitVec 384
  rsaPub  : List Byte
  slhPub  : List Byte
  rsaSig  : List Byte
  slhSig  : List Byte
  body    : List Byte
  deriving DecidableEq, Repr

/-- A port that start step 5 or a retraining brought up: lanes and far-end identity (R26, R40). -/
structure LinkUp where
  port  : Nat
  width : Nat
  peer  : Nat
  deriving DecidableEq, Repr

/-- How a start step ends (R40, R42, R44): the physical outcome, which is not the part's choice. -/
inductive StepResult where
  /-- The step ends well; nothing to report. -/
  | done
  /-- Step 2 read this image; the part itself checks it (R44). -/
  | image (fw : FwImage)
  /-- Step 5 trained these ports. -/
  | links (ups : List LinkUp)
  /-- The step failed with this FAILCODE of R42 and the detail of its log entry (R39). -/
  | failed (code detail : Nat)
  deriving DecidableEq, Repr

/-- What the power controller measures of one die at an evaluation (R19): its hottest junction, and the watts it draws at each
ratio from 4/16 to 16/16. -/
structure PowerReading where
  temp : Nat
  draw : List Nat
  deriving DecidableEq, Repr

/-- What the power controller measures at an evaluation (R19): its four dies in order, and the watts of everything else. -/
structure PowerReport where
  dies  : List PowerReading
  other : Nat
  deriving DecidableEq, Repr

/-- Where a host function accesses package memory: the key id of the page and the physical address (R12, R47). -/
structure HostPlace where
  key : Nat
  pa  : Nat
  deriving DecidableEq, Repr

/-- What ABORT carries (R75, R209): the attempt it ends, and the cause and the code of a launch that ends with it, else 0. -/
structure GangEnd where
  attempt : Nat
  cause   : Nat
  code    : Nat
  deriving DecidableEq, Repr

/-- What DONE of a peer carries (R75, R212): the TASKID, and whether its members left a pending MCHECK. -/
structure GangResult where
  task  : BitVec 64
  check : Bool
  deriving DecidableEq, Repr

/-- What a P-space access does (R23, R178). -/
inductive PeerOp where
  | read  (len : Nat)
  | write (bytes : List Byte)
  | rmw   (width : Nat) (op : RmwOp) (ty : Ty) (operand : BitVec 64)
  | cas   (width : Nat) (expected desired : BitVec 64)
  deriving DecidableEq, Repr

/-- A P-space access of a peer: the tenant it acts for, and the physical address and key id of the page its bind pinned (R47, R48,
R137). -/
structure PeerRequest where
  tenant : Nat
  key    : Nat
  pa     : Nat
  op     : PeerOp
  deriving DecidableEq, Repr

/-- A message of a pod barrier on virtual channel 0 (R23, R123). -/
inductive PodBarrierMsg where
  | arrivals (n : Nat)
  | phase (p : BitVec 32)
  deriving DecidableEq, Repr

/-- A unit that can hold a soft error (R215 to R217): a 32-byte HBM unit, a 64-bit word of a W, A or S store (0, 1, 2),
a 64-bit word of a vector register (256 words and 32 of its sidecar), of a Z patch, of a queue register (counted from its head) or of a
PFU table, a strand register, control state of a core (with the DIE_RESET cause of R79) or a hub table. -/
inductive ErrorUnit where
  | hbm (unit : Nat)
  | store (core store word : Nat)
  | vreg (core reg word : Nat)
  | queue (core reg word : Nat)
  | pfu (core table word : Nat)
  | patch (core z word : Nat)
  | sreg (core strand reg : Nat)
  | control (die cause : Nat)
  | hub
  /-- What a peer package answers with poisoned data, by its identity and the virtual address (R27, R50). -/
  | peer (peer va : Nat)
  deriving DecidableEq, Repr

/-- What patrol scrub finds in one HBM unit (R218). -/
inductive ScrubResult where
  | clean | corrected | uncorrectable
  deriving DecidableEq, Repr


/-- Every operation and event of the part, one constructor per row of the opcode table (R247-R249 and the rules
named in spec/95_what_each_step_holds.md).  An S form has the bare name, an L form of the same operation the
suffix `Long`, an X form the suffix `Ext`. -/
inductive Instr where
  /-- ADD (R260): S-form integer add. -/
  | add (g : Guard) (d : Nat) (a : Nat) (b : Nat)
  /-- ADD_LONG (R260): L-form integer add with type and .SAT. -/
  | addLong (g : Guard) (ty : Ty) (sat : Bool) (d : Nat) (a : Nat) (b : Nat)
  /-- SUB (R260): S-form integer subtract. -/
  | sub (g : Guard) (d : Nat) (a : Nat) (b : Nat)
  /-- SUB_LONG (R260): L-form integer subtract. -/
  | subLong (g : Guard) (ty : Ty) (sat : Bool) (d : Nat) (a : Nat) (b : Nat)
  /-- ADDI (R261): S-form add of a 6-bit signed immediate. -/
  | addi (g : Guard) (d : Nat) (a : Nat) (imm : Int)
  /-- ADDI_LONG (R261): L-form add of a 9-bit signed immediate. -/
  | addiLong (g : Guard) (ty : Ty) (sat : Bool) (d : Nat) (a : Nat) (imm : Int)
  /-- ADDI_EXT (R261): X-form add of a 32-bit immediate. -/
  | addiExt (g : Guard) (ty : Ty) (sat : Bool) (d : Nat) (a : Nat) (imm : Int)
  /-- MUL (R260): Integer multiply, low bits. -/
  | mul (g : Guard) (ty : Ty) (sat : Bool) (d : Nat) (a : Nat) (b : Nat)
  /-- MULH (R260): Signed multiply, high half. -/
  | mulh (g : Guard) (ty : Ty) (d : Nat) (a : Nat) (b : Nat)
  /-- MULHU (R260): Unsigned multiply, high half. -/
  | mulhu (g : Guard) (ty : Ty) (d : Nat) (a : Nat) (b : Nat)
  /-- DIV (R260): Signed divide, truncated towards zero. -/
  | div (g : Guard) (ty : Ty) (d : Nat) (a : Nat) (b : Nat)
  /-- DIVU (R260): Unsigned divide. -/
  | divu (g : Guard) (ty : Ty) (d : Nat) (a : Nat) (b : Nat)
  /-- REM (R260): Signed remainder. -/
  | rem (g : Guard) (ty : Ty) (d : Nat) (a : Nat) (b : Nat)
  /-- REMU (R260): Unsigned remainder. -/
  | remu (g : Guard) (ty : Ty) (d : Nat) (a : Nat) (b : Nat)
  /-- AND (R260): S-form bitwise AND. -/
  | and (g : Guard) (d : Nat) (a : Nat) (b : Nat)
  /-- AND_LONG (R260): L-form bitwise AND. -/
  | andLong (g : Guard) (ty : Ty) (d : Nat) (a : Nat) (b : Nat)
  /-- OR (R260): S-form bitwise OR. -/
  | or (g : Guard) (d : Nat) (a : Nat) (b : Nat)
  /-- OR_LONG (R260): L-form bitwise OR. -/
  | orLong (g : Guard) (ty : Ty) (d : Nat) (a : Nat) (b : Nat)
  /-- XOR (R260): S-form bitwise XOR. -/
  | xor (g : Guard) (d : Nat) (a : Nat) (b : Nat)
  /-- XOR_LONG (R260): L-form bitwise XOR. -/
  | xorLong (g : Guard) (ty : Ty) (d : Nat) (a : Nat) (b : Nat)
  /-- ANDN (R260): x AND NOT y. -/
  | andn (g : Guard) (ty : Ty) (d : Nat) (a : Nat) (b : Nat)
  /-- ORN (R260): x OR NOT y. -/
  | orn (g : Guard) (ty : Ty) (d : Nat) (a : Nat) (b : Nat)
  /-- SHL (R260): Shift left by a register amount. -/
  | shl (g : Guard) (ty : Ty) (d : Nat) (a : Nat) (b : Nat)
  /-- SHLI (R261): S-form shift left by an immediate. -/
  | shli (g : Guard) (d : Nat) (a : Nat) (n : Nat)
  /-- SHLI_LONG (R261): L-form shift left by an immediate. -/
  | shliLong (g : Guard) (ty : Ty) (d : Nat) (a : Nat) (n : Nat)
  /-- SHR (R260): Logical shift right by a register amount. -/
  | shr (g : Guard) (ty : Ty) (d : Nat) (a : Nat) (b : Nat)
  /-- SHRI (R261): S-form logical shift right by an immediate. -/
  | shri (g : Guard) (d : Nat) (a : Nat) (n : Nat)
  /-- SHRI_LONG (R261): L-form logical shift right by an immediate. -/
  | shriLong (g : Guard) (ty : Ty) (d : Nat) (a : Nat) (n : Nat)
  /-- SRA (R260): Arithmetic shift right by a register amount. -/
  | sra (g : Guard) (ty : Ty) (d : Nat) (a : Nat) (b : Nat)
  /-- SRAI (R261): S-form arithmetic shift right by an immediate. -/
  | srai (g : Guard) (d : Nat) (a : Nat) (n : Nat)
  /-- SRAI_LONG (R261): L-form arithmetic shift right by an immediate. -/
  | sraiLong (g : Guard) (ty : Ty) (d : Nat) (a : Nat) (n : Nat)
  /-- ROTL (R260): Rotate left within w bits. -/
  | rotl (g : Guard) (ty : Ty) (d : Nat) (a : Nat) (b : Nat)
  /-- MIN (R260): S-form signed minimum. -/
  | min (g : Guard) (d : Nat) (a : Nat) (b : Nat)
  /-- MIN_LONG (R260): L-form signed minimum. -/
  | minLong (g : Guard) (ty : Ty) (d : Nat) (a : Nat) (b : Nat)
  /-- MAX (R260): S-form signed maximum. -/
  | max (g : Guard) (d : Nat) (a : Nat) (b : Nat)
  /-- MAX_LONG (R260): L-form signed maximum. -/
  | maxLong (g : Guard) (ty : Ty) (d : Nat) (a : Nat) (b : Nat)
  /-- MINU (R260): Unsigned minimum. -/
  | minu (g : Guard) (ty : Ty) (d : Nat) (a : Nat) (b : Nat)
  /-- MAXU (R260): Unsigned maximum. -/
  | maxu (g : Guard) (ty : Ty) (d : Nat) (a : Nat) (b : Nat)
  /-- CLZ (R262): Count leading zeros. -/
  | clz (g : Guard) (ty : Ty) (d : Nat) (a : Nat)
  /-- CTZ (R262): Count trailing zeros. -/
  | ctz (g : Guard) (ty : Ty) (d : Nat) (a : Nat)
  /-- POPC (R262): Count one bits. -/
  | popc (g : Guard) (ty : Ty) (d : Nat) (a : Nat)
  /-- BREV (R262): Reverse the bits. -/
  | brev (g : Guard) (ty : Ty) (d : Nat) (a : Nat)
  /-- BFX (R263): Extract a bit field, sign-extended. -/
  | bfx (g : Guard) (pos : Nat) (len : Nat) (d : Nat) (a : Nat)
  /-- BFXU (R263): Extract a bit field, zero-extended. -/
  | bfxu (g : Guard) (pos : Nat) (len : Nat) (d : Nat) (a : Nat)
  /-- BFI (R263): Insert a bit field into s[d]. -/
  | bfi (g : Guard) (pos : Nat) (len : Nat) (d : Nat) (a : Nat)
  /-- SEXT (R263): Sign-extend from bit k − 1. -/
  | sext (g : Guard) (k : Nat) (d : Nat) (a : Nat)
  /-- ZEXT (R263): Zero-extend from bit k − 1. -/
  | zext (g : Guard) (k : Nat) (d : Nat) (a : Nat)
  /-- SEL (R265): S-form select by p1. -/
  | sel (g : Guard) (d : Nat) (a : Nat) (b : Nat)
  /-- SEL_LONG (R265): L-form select by a named predicate. -/
  | selLong (g : Guard) (d : Nat) (a : Nat) (b : Nat) (c : Nat)
  /-- MOV (R264): S-form register move. -/
  | mov (g : Guard) (d : Nat) (a : Nat)
  /-- MOV_LONG (R264): L-form register move. -/
  | movLong (g : Guard) (d : Nat) (a : Nat)
  /-- MOVI (R264): L-form move of a 9-bit signed immediate. -/
  | movi (g : Guard) (d : Nat) (imm : Int)
  /-- MOVI_EXT (R264): X-form move of a 32-bit immediate, sign-extended. -/
  | moviExt (g : Guard) (d : Nat) (imm : Int)
  /-- MOVHI (R264): L-form write of bits 63:32 from a 9-bit immediate. -/
  | movhi (g : Guard) (d : Nat) (imm : Int)
  /-- MOVHI_EXT (R264): X-form write of bits 63:32 from lit32. -/
  | movhiExt (g : Guard) (d : Nat) (imm : Int)
  /-- CMP (R266): Integer compare into two predicates. -/
  | cmp (g : Guard) (ty : Ty) (cond : Cond) (pt : Nat) (pf : Nat) (a : Nat) (b : Nat)
  /-- CMP_EXT (R266): Integer compare with a 32-bit immediate. -/
  | cmpExt (g : Guard) (ty : Ty) (cond : Cond) (pt : Nat) (pf : Nat) (a : Nat) (imm : Int)
  /-- PAND (R267): Predicate AND. -/
  | pand (g : Guard) (d : Nat) (a : Nat) (b : Nat)
  /-- POR (R267): Predicate OR. -/
  | por (g : Guard) (d : Nat) (a : Nat) (b : Nat)
  /-- PXOR (R267): Predicate XOR. -/
  | pxor (g : Guard) (d : Nat) (a : Nat) (b : Nat)
  /-- PANDN (R267): Predicate AND NOT. -/
  | pandn (g : Guard) (d : Nat) (a : Nat) (b : Nat)
  /-- PSET (R268): Set predicates from a register under a mask. -/
  | pset (g : Guard) (a : Nat) (b : Nat)
  /-- PGET (R268): Read all predicates into a register. -/
  | pget (g : Guard) (d : Nat)
  /-- FADD (R270): Scalar floating add. -/
  | fadd (g : Guard) (ty : Ty) (rnd : Rnd) (d : Nat) (a : Nat) (b : Nat)
  /-- FSUB (R270): Scalar floating subtract. -/
  | fsub (g : Guard) (ty : Ty) (rnd : Rnd) (d : Nat) (a : Nat) (b : Nat)
  /-- FMUL (R270): Scalar floating multiply. -/
  | fmul (g : Guard) (ty : Ty) (rnd : Rnd) (d : Nat) (a : Nat) (b : Nat)
  /-- FFMA (R270): Scalar fused multiply-add. -/
  | ffma (g : Guard) (ty : Ty) (rnd : Rnd) (d : Nat) (a : Nat) (b : Nat) (c : Nat)
  /-- FDIV (R270): Scalar floating divide. -/
  | fdiv (g : Guard) (ty : Ty) (rnd : Rnd) (d : Nat) (a : Nat) (b : Nat)
  /-- FSQRT (R270): Scalar floating square root. -/
  | fsqrt (g : Guard) (ty : Ty) (rnd : Rnd) (d : Nat) (a : Nat)
  /-- FMIN (R271): Floating minimum. -/
  | fmin (g : Guard) (ty : Ty) (d : Nat) (a : Nat) (b : Nat)
  /-- FMAX (R271): Floating maximum. -/
  | fmax (g : Guard) (ty : Ty) (d : Nat) (a : Nat) (b : Nat)
  /-- FABS (R271): Clear the sign bit. -/
  | fabs (g : Guard) (ty : Ty) (d : Nat) (a : Nat)
  /-- FNEG (R271): Flip the sign bit. -/
  | fneg (g : Guard) (ty : Ty) (d : Nat) (a : Nat)
  /-- FCMP (R272): Floating compare into two predicates. -/
  | fcmp (g : Guard) (ty : Ty) (cond : Cond) (pt : Nat) (pf : Nat) (a : Nat) (b : Nat)
  /-- FCVT (R273): Floating-to-floating conversion. -/
  | fcvt (g : Guard) (ty : Ty) (rnd : Rnd) (sat : Bool) (d : Nat) (a : Nat) (src : Ty)
  /-- ICVT (R273): Integer-to-floating conversion. -/
  | icvt (g : Guard) (ty : Ty) (rnd : Rnd) (sat : Bool) (d : Nat) (a : Nat) (src : Ty)
  /-- FCVTI (R273): Floating-to-integer conversion with clamping. -/
  | fcvti (g : Guard) (ty : Ty) (rnd : Rnd) (d : Nat) (a : Nat) (src : Ty)
  /-- PBR (R274): L-form load of a branch target by displacement. -/
  | pbr (g : Guard) (x : Nat) (imm : Int)
  /-- PBR_EXT (R274): X-form load of a branch target by a 32-bit displacement. -/
  | pbrExt (g : Guard) (x : Nat) (imm : Int)
  /-- PBRS (R274): Load a branch target from a scalar and start its fetch. -/
  | pbrs (g : Guard) (x : Nat) (a : Nat)
  /-- MOVB (R274): Load a branch target from a scalar without fetch. -/
  | movb (g : Guard) (x : Nat) (a : Nat)
  /-- MOVSB (R274): Copy a branch target to a scalar. -/
  | movsb (g : Guard) (d : Nat) (x : Nat)
  /-- BR (R275): S-form branch through b[X]. -/
  | br (g : Guard) (x : Nat)
  /-- BR_LONG (R275): L-form branch through b[X]. -/
  | brLong (g : Guard) (x : Nat)
  /-- CALL (R275): S-form call through b[X], link in b7. -/
  | call (g : Guard) (x : Nat)
  /-- CALL_LONG (R275): L-form call through b[X]. -/
  | callLong (g : Guard) (x : Nat)
  /-- LOOP (R277): Decrement a counter and branch while it is not zero. -/
  | loop (g : Guard) (d : Nat) (x : Nat)
  /-- KNEXT (R278): S-form end of an iteration; the core steps when every strand has executed it. -/
  | knext (g : Guard)
  /-- KNEXT_LONG (R278): L-form end of an iteration. -/
  | knextLong (g : Guard)
  /-- TDONE (R279): S-form end of the strand. -/
  | tdone (g : Guard)
  /-- TDONE_LONG (R279): L-form end of the strand. -/
  | tdoneLong (g : Guard)
  /-- NOP (R280): S-form no operation. -/
  | nop (g : Guard)
  /-- NOP_LONG (R280): L-form no operation. -/
  | nopLong (g : Guard)
  /-- BRK (R280): Raise BRK, kind F. -/
  | brk (g : Guard)
  /-- TRAP (R280): Raise TRAP, kind C, with a register operand. -/
  | trap (g : Guard) (a : Nat)
  /-- TRAP_EXT (R280): Raise TRAP, kind C, with a 32-bit immediate operand. -/
  | trapExt (g : Guard) (imm : Int)
  /-- ERET (R280): Return from a handler to TRAPPC and clear INH. -/
  | eret (g : Guard)
  /-- SYSRD (R281): Read a system register. -/
  | sysrd (g : Guard) (n : Nat) (d : Nat)
  /-- SYSWR (R281): Write a system register. -/
  | syswr (g : Guard) (n : Nat) (a : Nat)
  /-- RDCLK (R283): Read CORECLK. -/
  | rdclk (g : Guard) (d : Nat)
  /-- RDID (R284): Read a placement or identity field. -/
  | rdid (g : Guard) (k : Nat) (d : Nat)
  /-- WFE (R285): Wait for the strand's event latch. -/
  | wfe (g : Guard)
  /-- YIELD (R286): Make the strand not ready until the others have issued or 16 clocks have passed. -/
  | yield (g : Guard)
  /-- HBIND (R292): Check, translate and pin a descriptor into a handle slot. -/
  | hbind (g : Guard) (h : Nat) (a : Nat)
  /-- HUNBIND (R293): Unbind a handle slot. -/
  | hunbind (g : Guard) (h : Nat)
  /-- HINFO (R294): Read a handle slot's state. -/
  | hinfo (g : Guard) (d : Nat) (h : Nat) (k : Nat)
  /-- SEAL (R293): Seal a bound slot. -/
  | seal (g : Guard) (h : Nat)
  /-- LD (R295): S-form scalar load. -/
  | ld (g : Guard) (d : Nat) (h : Nat) (x0 : Nat)
  /-- LD_LONG (R295): L-form scalar load. -/
  | ldLong (g : Guard) (ty : Ty) (ord : Ord) (sc : Scope) (d : Nat) (h : Nat) (x0 : Nat) (x1 : Nat)
  /-- LD_EXT (R295): X-form scalar load with six coordinates. -/
  | ldExt (g : Guard) (ty : Ty) (ord : Ord) (sc : Scope) (d : Nat) (h : Nat) (x0 : Nat) (x1 : Nat) (x2 : Nat) (x3 : Nat) (x4 : Nat) (x5 : Nat)
  /-- ST (R295): S-form scalar store. -/
  | st (g : Guard) (d : Nat) (h : Nat) (x0 : Nat)
  /-- ST_LONG (R295): L-form scalar store. -/
  | stLong (g : Guard) (ty : Ty) (ord : Ord) (sc : Scope) (d : Nat) (h : Nat) (x0 : Nat) (x1 : Nat)
  /-- ST_EXT (R295): X-form scalar store. -/
  | stExt (g : Guard) (ty : Ty) (ord : Ord) (sc : Scope) (d : Nat) (h : Nat) (x0 : Nat) (x1 : Nat) (x2 : Nat) (x3 : Nat) (x4 : Nat) (x5 : Nat)
  /-- LDA (R297): S-form asynchronous load on lc0. -/
  | lda (g : Guard) (d : Nat) (h : Nat) (x0 : Nat)
  /-- LDA_LONG (R297): L-form asynchronous load on a named counter. -/
  | ldaLong (g : Guard) (ty : Ty) (ord : Ord) (sc : Scope) (d : Nat) (h : Nat) (x0 : Nat) (lc : Nat)
  /-- LDA_EXT (R297): X-form asynchronous load. -/
  | ldaExt (g : Guard) (ty : Ty) (ord : Ord) (sc : Scope) (d : Nat) (h : Nat) (x0 : Nat) (lc : Nat) (x1 : Nat) (x2 : Nat) (x3 : Nat) (x4 : Nat) (x5 : Nat)
  /-- WAITC (R298): S-form wait on a load counter. -/
  | waitc (g : Guard) (lc : Nat) (k : Nat)
  /-- WAITC_LONG (R298): L-form wait on a load counter. -/
  | waitcLong (g : Guard) (lc : Nat) (k : Nat)
  /-- VLD (R296): S-form vector tile load. -/
  | vld (g : Guard) (d : Nat) (h : Nat) (x0 : Nat)
  /-- VLD_LONG (R296): L-form vector tile load. -/
  | vldLong (g : Guard) (ord : Ord) (sc : Scope) (d : Nat) (h : Nat) (x0 : Nat) (x1 : Nat)
  /-- VLD_EXT (R296): X-form vector tile load. -/
  | vldExt (g : Guard) (ord : Ord) (sc : Scope) (d : Nat) (h : Nat) (x0 : Nat) (x1 : Nat) (x2 : Nat) (x3 : Nat) (x4 : Nat) (x5 : Nat)
  /-- VST (R296): S-form vector tile store. -/
  | vst (g : Guard) (d : Nat) (h : Nat) (x0 : Nat)
  /-- VST_LONG (R296): L-form vector tile store. -/
  | vstLong (g : Guard) (ord : Ord) (sc : Scope) (d : Nat) (h : Nat) (x0 : Nat) (x1 : Nat)
  /-- VST_EXT (R296): X-form vector tile store. -/
  | vstExt (g : Guard) (ord : Ord) (sc : Scope) (d : Nat) (h : Nat) (x0 : Nat) (x1 : Nat) (x2 : Nat) (x3 : Nat) (x4 : Nat) (x5 : Nat)
  /-- VLDA (R297): L-form asynchronous vector load. -/
  | vlda (g : Guard) (ord : Ord) (sc : Scope) (d : Nat) (h : Nat) (x0 : Nat) (lc : Nat)
  /-- VLDA_EXT (R297): X-form asynchronous vector load. -/
  | vldaExt (g : Guard) (ord : Ord) (sc : Scope) (d : Nat) (h : Nat) (x0 : Nat) (lc : Nat) (x1 : Nat) (x2 : Nat) (x3 : Nat) (x4 : Nat) (x5 : Nat)
  /-- ATOM (R300): L-form atomic read-modify-write returning the old value. -/
  | atom (g : Guard) (ty : Ty) (ord : Ord) (sc : Scope) (op : RmwOp) (d : Nat) (h : Nat) (x0 : Nat) (x1 : Nat)
  /-- ATOM_EXT (R300): X-form atomic read-modify-write. -/
  | atomExt (g : Guard) (ty : Ty) (ord : Ord) (sc : Scope) (op : RmwOp) (d : Nat) (h : Nat) (x0 : Nat) (x1 : Nat) (x2 : Nat) (x3 : Nat) (x4 : Nat) (x5 : Nat)
  /-- CAS (R300): L-form compare-and-swap. -/
  | cas (g : Guard) (ty : Ty) (ord : Ord) (sc : Scope) (d : Nat) (h : Nat) (x0 : Nat) (x1 : Nat)
  /-- CAS_EXT (R300): X-form compare-and-swap. -/
  | casExt (g : Guard) (ty : Ty) (ord : Ord) (sc : Scope) (d : Nat) (h : Nat) (x0 : Nat) (x1 : Nat) (x2 : Nat) (x3 : Nat) (x4 : Nat) (x5 : Nat)
  /-- RED (R300): L-form reduction at the home port, returning nothing. -/
  | red (g : Guard) (ty : Ty) (ord : Ord) (sc : Scope) (op : RmwOp) (d : Nat) (h : Nat) (x0 : Nat) (x1 : Nat)
  /-- RED_EXT (R300): X-form reduction. -/
  | redExt (g : Guard) (ty : Ty) (ord : Ord) (sc : Scope) (op : RmwOp) (d : Nat) (h : Nat) (x0 : Nat) (x1 : Nat) (x2 : Nat) (x3 : Nat) (x4 : Nat) (x5 : Nat)
  /-- FENCE (R301): Fence by order and scope, or FENCE.SC with drain and heartbeat wait. -/
  | fence (g : Guard) (ord : Ord) (sc : Scope)
  /-- BINIT (R302): Initialise a core barrier's expectation. -/
  | binit (g : Guard) (x : Nat) (a : Nat) (b : Nat)
  /-- BARV (R302): S-form barrier arrival returning a phase token. -/
  | barv (g : Guard) (d : Nat) (x : Nat)
  /-- BARV_LONG (R302): L-form barrier arrival. -/
  | barvLong (g : Guard) (d : Nat) (x : Nat)
  /-- BWAIT (R302): S-form wait for a barrier phase past a token. -/
  | bwait (g : Guard) (x : Nat) (b : Nat)
  /-- BWAIT_LONG (R302): L-form barrier wait. -/
  | bwaitLong (g : Guard) (x : Nat) (b : Nat)
  /-- BSYNC (R302): Post bytes to a core barrier without an arrival. -/
  | bsync (g : Guard) (x : Nat) (b : Nat)
  /-- BTEST (R302): Test the barrier wait condition into predicates. -/
  | btest (g : Guard) (pt : Nat) (pf : Nat) (x : Nat) (b : Nat)
  /-- RINIT (R304): Initialise a ring in the S or A store. -/
  | rinit (g : Guard) (x : Nat) (a : Nat) (b : Nat)
  /-- RFREEW (R305): Claim the next free ring slot for filling. -/
  | rfreew (g : Guard) (d : Nat) (x : Nat)
  /-- RPUB (R305): Publish a held ring slot as FULL. -/
  | rpub (g : Guard) (x : Nat) (b : Nat)
  /-- RFILLW (R305): Claim the next filled ring slot for draining. -/
  | rfillw (g : Guard) (d : Nat) (x : Nat)
  /-- RRET (R305): Return a drained ring slot as FREE. -/
  | rret (g : Guard) (x : Nat) (b : Nat)
  /-- RQRY (R306): Read a ring's state. -/
  | rqry (g : Guard) (d : Nat) (x : Nat) (k : Nat)
  /-- QPUSH (R307): S-form push into a queue register. -/
  | qpush (g : Guard) (q : Nat) (a : Nat)
  /-- QPUSH_LONG (R307): L-form push into a queue register. -/
  | qpushLong (g : Guard) (q : Nat) (a : Nat)
  /-- QPOP (R307): S-form pop from a queue register. -/
  | qpop (g : Guard) (d : Nat) (q : Nat)
  /-- QPOP_LONG (R307): L-form pop from a queue register. -/
  | qpopLong (g : Guard) (d : Nat) (q : Nat)
  /-- QTST (R307): Test a queue register for an entry or a free place. -/
  | qtst (g : Guard) (pt : Nat) (pf : Nat) (q : Nat) (k : Nat)
  /-- WAITT (R308): S-form wait for a timeline value. -/
  | waitt (g : Guard) (t : Nat) (b : Nat)
  /-- WAITT_LONG (R308): L-form wait for a timeline value. -/
  | waittLong (g : Guard) (t : Nat) (b : Nat)
  /-- RDTL (R308): Read a record's completion word. -/
  | rdtl (g : Guard) (d : Nat) (t : Nat) (b : Nat)
  /-- SBIND (R309): Bind a vector register to a ring as a stream. -/
  | sbind (g : Guard) (v : Nat) (x : Nat) (k : Nat)
  /-- SUNBIND (R309): Remove a stream binding. -/
  | sunbind (g : Guard) (v : Nat)
  /-- TSPAWN (R310): Offer a launch record to a TGS queue and receive the answer. -/
  | tspawn (g : Guard) (d : Nat) (a : Nat) (b : Nat)
  /-- REQ (R311): Place a record into an engine queue of a gang core on the same die. -/
  | req (g : Guard) (a : Nat) (b : Nat)
  /-- ECTL (R312): Read an engine's queue, timeline or micro-PC state. -/
  | ectl (g : Guard) (eng : Nat) (item : Nat) (d : Nat)
  /-- ZSTAT (R313): Wait for a patch's ME records and test its status. -/
  | zstat (g : Guard) (pt : Nat) (pf : Nat) (z : Nat) (k : Nat)
  /-- VSHAPE (R317): L-form load of VSHAPE from a scalar. -/
  | vshape (g : Guard) (a : Nat)
  /-- VSHAPE_EXT (R317): X-form load of VSHAPE from format, rows and columns. -/
  | vshapeExt (g : Guard) (imm : Nat)
  /-- VMOV (R323): S-form whole-register copy with sidecar. -/
  | vmov (g : Guard) (d : Nat) (a : Nat)
  /-- VMOV_LONG (R323): L-form whole-register copy. -/
  | vmovLong (g : Guard) (d : Nat) (a : Nat)
  /-- VBCAST (R323): L-form broadcast of a scalar. -/
  | vbcast (g : Guard) (d : Nat) (a : Nat)
  /-- VBCAST_EXT (R323): X-form broadcast of lit32. -/
  | vbcastExt (g : Guard) (d : Nat) (imm : Int)
  /-- VEXT (R323): Extract one element to a scalar. -/
  | vext (g : Guard) (d : Nat) (a : Nat) (b : Nat)
  /-- VINS (R323): Insert one element from a scalar. -/
  | vins (g : Guard) (d : Nat) (a : Nat) (b : Nat)
  /-- VADD (R324): S-form vector floating add. -/
  | vadd (g : Guard) (d : Nat) (a : Nat) (b : Nat)
  /-- VADD_LONG (R324): L-form vector floating add. -/
  | vaddLong (g : Guard) (rnd : Rnd) (d : Nat) (a : Nat) (b : Nat)
  /-- VSUB (R324): S-form vector floating subtract. -/
  | vsub (g : Guard) (d : Nat) (a : Nat) (b : Nat)
  /-- VSUB_LONG (R324): L-form vector floating subtract. -/
  | vsubLong (g : Guard) (rnd : Rnd) (d : Nat) (a : Nat) (b : Nat)
  /-- VMUL (R324): S-form vector floating multiply. -/
  | vmul (g : Guard) (d : Nat) (a : Nat) (b : Nat)
  /-- VMUL_LONG (R324): L-form vector floating multiply. -/
  | vmulLong (g : Guard) (rnd : Rnd) (d : Nat) (a : Nat) (b : Nat)
  /-- VFMA (R324): S-form vector fused multiply-add with the destination as addend. -/
  | vfma (g : Guard) (d : Nat) (a : Nat) (b : Nat)
  /-- VFMA_LONG (R324): L-form vector fused multiply-add. -/
  | vfmaLong (g : Guard) (rnd : Rnd) (d : Nat) (a : Nat) (b : Nat) (c : Nat)
  /-- VMIN (R324): Vector floating minimum. -/
  | vmin (g : Guard) (d : Nat) (a : Nat) (b : Nat)
  /-- VMAX (R324): Vector floating maximum. -/
  | vmax (g : Guard) (d : Nat) (a : Nat) (b : Nat)
  /-- VABS (R324): Vector absolute value. -/
  | vabs (g : Guard) (d : Nat) (a : Nat)
  /-- VNEG (R324): Vector negation. -/
  | vneg (g : Guard) (d : Nat) (a : Nat)
  /-- VRCP (R324): Vector reciprocal. -/
  | vrcp (g : Guard) (rnd : Rnd) (d : Nat) (a : Nat)
  /-- VRSQ (R324): Vector reciprocal square root. -/
  | vrsq (g : Guard) (rnd : Rnd) (d : Nat) (a : Nat)
  /-- VDIV (R324): Vector floating divide. -/
  | vdiv (g : Guard) (rnd : Rnd) (d : Nat) (a : Nat) (b : Nat)
  /-- VSQRT (R324): Vector square root. -/
  | vsqrt (g : Guard) (rnd : Rnd) (d : Nat) (a : Nat)
  /-- VIADD (R325): Vector integer add. -/
  | viadd (g : Guard) (sat : Bool) (d : Nat) (a : Nat) (b : Nat)
  /-- VISUB (R325): Vector integer subtract. -/
  | visub (g : Guard) (sat : Bool) (d : Nat) (a : Nat) (b : Nat)
  /-- VIMUL (R325): Vector integer multiply. -/
  | vimul (g : Guard) (sat : Bool) (d : Nat) (a : Nat) (b : Nat)
  /-- VIMIN (R325): Vector integer minimum. -/
  | vimin (g : Guard) (d : Nat) (a : Nat) (b : Nat)
  /-- VIMAX (R325): Vector integer maximum. -/
  | vimax (g : Guard) (d : Nat) (a : Nat) (b : Nat)
  /-- VAND (R325): Vector bitwise AND. -/
  | vand (g : Guard) (d : Nat) (a : Nat) (b : Nat)
  /-- VOR (R325): Vector bitwise OR. -/
  | vor (g : Guard) (d : Nat) (a : Nat) (b : Nat)
  /-- VXOR (R325): Vector bitwise XOR. -/
  | vxor (g : Guard) (d : Nat) (a : Nat) (b : Nat)
  /-- VSHL (R325): Vector shift left. -/
  | vshl (g : Guard) (d : Nat) (a : Nat) (b : Nat)
  /-- VSHR (R325): Vector logical shift right. -/
  | vshr (g : Guard) (d : Nat) (a : Nat) (b : Nat)
  /-- VSRA (R325): Vector arithmetic shift right. -/
  | vsra (g : Guard) (d : Nat) (a : Nat) (b : Nat)
  /-- VCMP (R326): Vector compare into a mask and two predicates. -/
  | vcmp (g : Guard) (cond : Cond) (pt : Nat) (pf : Nat) (a : Nat) (b : Nat) (c : Nat)
  /-- VSEL (R327): Vector select by mask. -/
  | vsel (g : Guard) (d : Nat) (a : Nat) (b : Nat) (c : Nat)
  /-- VRED (R328): Vector reduction in a fixed pairwise tree. -/
  | vred (g : Guard) (rnd : Rnd) (d : Nat) (a : Nat) (col : Bool) (op : Nat)
  /-- VSCAN (R328): Vector inclusive scan. -/
  | vscan (g : Guard) (rnd : Rnd) (d : Nat) (a : Nat) (col : Bool) (op : Nat)
  /-- VTRN (R330): Vector transpose. -/
  | vtrn (g : Guard) (d : Nat) (a : Nat)
  /-- VPERM (R330): Vector permute within rows. -/
  | vperm (g : Guard) (d : Nat) (a : Nat) (b : Nat)
  /-- VROT (R330): Vector rotate within rows. -/
  | vrot (g : Guard) (d : Nat) (a : Nat) (b : Nat)
  /-- VDOT (R329): Per-row dot product in matrix accumulation order. -/
  | vdot (g : Guard) (d : Nat) (a : Nat) (b : Nat) (c : Nat)
  /-- VCVT (R331): Vector format conversion. -/
  | vcvt (g : Guard) (ty : Ty) (rnd : Rnd) (sat : Bool) (d : Nat) (a : Nat)
  /-- VQMX (R332): Quantise to MX blocks. -/
  | vqmx (g : Guard) (ty : Ty) (d : Nat) (a : Nat)
  /-- VQDX (R332): Quantise to DX blocks. -/
  | vqdx (g : Guard) (ty : Ty) (d : Nat) (a : Nat)
  /-- VRESC (R333): Rescale MX or DX blocks by 2^k. -/
  | vresc (g : Guard) (d : Nat) (a : Nat) (imm : Int)
  /-- VZLD (R335): Load a tile of a Z patch after its ME records. -/
  | vzld (g : Guard) (d : Nat) (z : Nat) (b : Nat)
  /-- VZST (R335): Store a tile into a Z patch. -/
  | vzst (g : Guard) (z : Nat) (a : Nat) (b : Nat)
  /-- PFLOAD (R336): Load a PFU table from memory. -/
  | pfload (g : Guard) (x : Nat) (h : Nat) (b : Nat)
  /-- PFEVAL (R337): Evaluate a piecewise cubic table per element. -/
  | pfeval (g : Guard) (d : Nat) (a : Nat) (x : Nat)
  /-- MMA (R345): Dispatch a matrix multiply-accumulate record. -/
  | mma (h : RecHdr) (body : BitVec 384)
  /-- OCON (R348): Dispatch an orbit contraction record. -/
  | ocon (h : RecHdr) (body : BitVec 384)
  /-- MDRAIN (R351): Dispatch a patch drain record. -/
  | mdrain (h : RecHdr) (body : BitVec 384)
  /-- MCLR (R352): Dispatch a patch clear record. -/
  | mclr (h : RecHdr) (body : BitVec 384)
  /-- CPY (R355): Dispatch a copy record. -/
  | cpy (h : RecHdr) (body : BitVec 384)
  /-- CPYS (R358): Dispatch a record that pushes chunks into an ME stream. -/
  | cpys (h : RecHdr) (body : BitVec 384)
  /-- CFILL (R357): Dispatch a constant fill record. -/
  | cfill (h : RecHdr) (body : BitVec 384)
  /-- GATH (R360): Dispatch a row gather record. -/
  | gath (h : RecHdr) (body : BitVec 384)
  /-- SCAT (R360): Dispatch a row scatter record. -/
  | scat (h : RecHdr) (body : BitVec 384)
  /-- MERG (R361): Dispatch a k-way merge record (the Churn). -/
  | merg (h : RecHdr) (body : BitVec 384)
  /-- TOPK (R362): Dispatch a top-k selection record (the Skimmer). -/
  | topk (h : RecHdr) (body : BitVec 384)
  /-- CMPT (R363): Dispatch a stable compaction record. -/
  | cmpt (h : RecHdr) (body : BitVec 384)
  /-- NBIN (R155): Dispatch a neighbour-engine binning record. -/
  | nbin (h : RecHdr) (body : BitVec 384)
  /-- NSTRM (R156): Dispatch a neighbour-engine pair stream record. -/
  | nstrm (h : RecHdr) (body : BitVec 384)
  /-- CHAIN (R366): Dispatch a list of records from S as one queue place. -/
  | chain (h : RecHdr) (body : BitVec 384)
  /-- RNOP (R367): Dispatch a record that only waits and posts. -/
  | rnop (h : RecHdr) (body : BitVec 384)
  /-- POWER_ON (R40): Power is applied and the part begins a cold start at step 1. -/
  | powerOn
  /-- FUNDAMENTAL_RESET (R40): A PCIe fundamental reset begins a cold start at step 1. -/
  | fundamentalReset
  /-- POWER_REMOVAL (R18): Package power is removed and no state of any kind is retained. -/
  | powerRemoval
  /-- START_STEP_COMPLETE (R40): A timed start step ends; the start advances to the next step, or a failure restarts it as a cold start or enters the safe state. -/
  | startStepComplete (res : StepResult)
  /-- FUNCTION_LEVEL_RESET (R36): A function-level reset clears EN, discards the backlog, resets the SEQ values and aborts the function's mailbox command. -/
  | functionLevelReset (f : Nat)
  /-- HEARTBEAT_TICK (R15): The heartbeat ticks every 32 reference periods; clock ratio changes and FENCE.SC continuations take effect on it. -/
  | heartbeatTick
  /-- POWER_EVALUATION (R19): Every 1,024 ticks the power controller lowers or raises each die's limit ratio L_d. -/
  | powerEvaluation (readings : PowerReport)
  /-- SUPPLY_CURRENT_ALARM (R19): A supply-current alarm lowers L_d to 8 at the next tick. -/
  | supplyCurrentAlarm (die : Nat)
  /-- JUNCTION_HOT (R19): A junction temperature of 100 °C or more lowers L_d to 8 at the next tick. -/
  | junctionHot (die : Nat) (temp : Nat)
  /-- THERMAL_TRIP (R19): A junction temperature of 110 °C or more posts TRIP, stops every clock except the security controller and host port, and enters the safe state. -/
  | thermalTrip (die : Nat) (temp : Nat)
  /-- QPI_WRITE (R59): A host write of a queue's producer index is accepted or refused, then adds, withdraws or overruns records. -/
  | qpiWrite (f : Nat) (n : Nat) (v : BitVec 64)
  /-- EVQ_CTL_WRITE (R34): A write of EVQ_CTL enables or disables the event ring and sets its vector and size. -/
  | evqCtlWrite (f : Nat) (v : BitVec 32)
  /-- EVQ_HEAD_WRITE (R33): The host reports ring progress; backlog events move into the freed entries and the interrupt is re-armed. -/
  | evqHeadWrite (f : Nat) (v : BitVec 32)
  /-- REGISTER_WRITE (R29): A write of a register that has no row of its own; it is checked for form and access rights and then stored. -/
  | registerWrite (f : Nat) (hub : Bool) (off : Nat) (size : Nat) (v : BitVec 64)
  /-- GET_STATUS (R39): Mailbox command 0x01: returns BOOT_STAT, the firmware version and digest, the rollback counter and STATE. -/
  | getStatus (f : Nat)
  /-- GET_LOG (R39): Mailbox command 0x02: returns 256 bytes of the start log from the offset given. -/
  | getLog (f : Nat)
  /-- GET_ATTEST (R45): Mailbox command 0x10: writes a signed attestation report over the nonce to host memory. -/
  | getAttest (f : Nat)
  /-- OPEN_TRANSPORT (R39): Mailbox command 0x11: takes one part of an ML-KEM ciphertext and, on the last part, opens a transport session. -/
  | openTransport (f : Nat)
  /-- LOAD_KEY (R49): Mailbox command 0x20: unwraps and installs a tenant's memory and Larder keys, closing the session. -/
  | loadKey (f : Nat)
  /-- REVOKE_KEY (R49): Mailbox command 0x21: writes back and invalidates the tenant's lines, removes its Larder entries and zeroes its slot. -/
  | revokeKey (f : Nat)
  /-- ASSIGN_FN (R38): Mailbox command 0x22: sets the TENANT field of a virtual function. -/
  | assignFn (f : Nat)
  /-- WARM_START (R40): Mailbox command 0x30: pre-empts every running task without saving it and runs a warm start. -/
  | warmStart (f : Nat)
  /-- COLD_START (R40): Mailbox command 0x31: runs a cold start, which also resets the retry count from the safe state. -/
  | coldStart (f : Nat)
  /-- MBX_UNKNOWN_COMMAND (R37): A GO with an unassigned command code ends with RESULT 1. -/
  | mbxUnknownCommand (f : Nat) (cmd : Nat)
  /-- MBX_DONE (R37): A mailbox command finishes: the results are written, BUSY is cleared, RESULT is set and an MBX_DONE entry is posted. -/
  | mbxDone (f : Nat)
  /-- PKCTL_RETRY (R211): PKCTL action 0 resolves a park entry and runs the parked HBIND again. -/
  | pkctlRetry (f : Nat) (idx : Nat)
  /-- PKCTL_DELIVER (R211): PKCTL action 1 (or 3) resolves a park entry by raising the PAGE to the strand. -/
  | pkctlDeliver (f : Nat) (idx : Nat)
  /-- PKCTL_ABORT (R211): PKCTL action 2 resolves a park entry by aborting the task with code 0x06. -/
  | pkctlAbort (f : Nat) (idx : Nat)
  /-- SHOOTDOWN (R139): An SDCTL write with GO set marks every bound slot of the tenant over the range unbound in one hub cycle. -/
  | shootdown (f : Nat) (v : BitVec 64)
  /-- SHOOTDOWN_COMPLETE (R139): Once the named records have drained, the pages are unpinned, the runs purged from the caches and BUSY cleared. -/
  | shootdownComplete
  /-- SAVECFG_WRITE (R221): A SAVECFG write sets the save region, and is ignored while any task is saved. -/
  | savecfgWrite (f : Nat) (v : BitVec 64)
  /-- LPOOL_WRITE (R95): An LPOOL write removes the tenant's entries and binds or refuses the new pool. -/
  | lpoolWrite (f : Nat) (t : Nat) (v : BitVec 64)
  /-- LQUOTA_WRITE (R96): An LQUOTA write sets the quota, or is ignored with QERR set, and evicts entries down to the quota. -/
  | lquotaWrite (f : Nat) (t : Nat) (v : BitVec 64)
  /-- LWMAP_WRITE (R97): An LWMAP write sets a die's watch region, and is ignored when the die bits or the clearing conditions fail. -/
  | lwmapWrite (f : Nat) (d : Nat) (v : BitVec 64)
  /-- QCFG_WRITE (R58): A QCFG write configures a queue; while EN is 1 it changes only EN. -/
  | qcfgWrite (f : Nat) (n : Nat) (v : BitVec 32)
  /-- IDLE (R22): An IDLE flit is received; it keeps lock and carries ACK. -/
  | idle (p : Nat) (flit : BitVec 2048)
  /-- DATA (R24): A DATA flit is received, corrected, CRC-checked, and delivered in order or forwarded by the route table. -/
  | data (p : Nat) (flit : BitVec 2048)
  /-- CREDIT (R22): A CREDIT flit returns credits to the four virtual channels. -/
  | credit (p : Nat) (flit : BitVec 2048)
  /-- NAK (R24): A NAK flit makes the port replay from the expected sequence number. -/
  | nak (p : Nat) (flit : BitVec 2048)
  /-- TRAIN (R25): A TRAIN flit is received during retraining. -/
  | train (p : Nat) (flit : BitVec 2048)
  /-- FLIT_RESERVED_TYPE (R22): A flit of a reserved type is discarded as if it had failed the CRC. -/
  | flitReservedType (p : Nat) (flit : BitVec 2048)
  /-- LANE_LOCK_LOSS (R25): A lane loses lock and the port begins to retrain. -/
  | laneLockLoss (p : Nat)
  /-- RETRAIN (R25): The port begins to retrain after 8 failed replays of one flit or at the driver's request. -/
  | retrain (p : Nat)
  /-- RETRAIN_DONE (R25): Retraining ends at 8 or 4 lanes, posting LINK_RETRAINED, or marks the port failed after three failures. -/
  | retrainDone (p : Nat) (width : Nat) (peer : Nat)
  /-- P_SPACE_REQUEST (R23): A P-space read, write or atomic arrives from a peer and is performed at the home port. -/
  | pSpaceRequest (p : Nat) (peer : Nat) (req : PeerRequest)
  /-- P_SPACE_RESPONSE (R27): A P-space response or write acknowledgement arrives, possibly as poisoned data. -/
  | pSpaceResponse (tag : Nat) (data : BitVec 64) (poisoned : Bool)
  /-- POD_BARRIER_ARRIVAL (R23): A pod barrier arrival or phase release arrives on virtual channel 0. -/
  | podBarrierArrival (task : BitVec 64) (msg : PodBarrierMsg)
  /-- RESERVE (R75): A peer receives RESERVE and enters the ready pool, or answers NAK if the access table refuses it. -/
  | reserve (p : Nat) (peer : Nat) (task : BitVec 64) (attempt : Nat) (rec : BitVec 512) (tenant : Nat) (prio : Nat)
  /-- ACK (R75): The launcher receives ACK: it notes it, sends GO on the last one, or aborts a stale attempt. -/
  | ack (peer : Nat) (task : BitVec 64) (attempt : Nat)
  /-- GANG_NAK (R75): The launcher receives NAK, sends ABORT to all, releases its cores and retires the task ABORTED. -/
  | gangNak (peer : Nat) (task : BitVec 64) (attempt : Nat)
  /-- GO (R75): A peer receives GO and starts its members, or answers LATE if it holds no reservation. -/
  | go (peer : Nat) (task : BitVec 64) (attempt : Nat)
  /-- ABORT (R75): A peer receives ABORT and releases its held cores. -/
  | abort (peer : Nat) (task : BitVec 64) (attempt : GangEnd)
  /-- LATE (R75): The launcher receives LATE: it aborts the old attempt, or treats the gang as broken. -/
  | late (peer : Nat) (task : BitVec 64) (attempt : Nat)
  /-- GANG_DONE (R75): The launcher receives DONE from a peer and retires the task once all are done. -/
  | gangDone (peer : Nat) (task : GangResult)
  /-- ACK_TIMER_EXPIRY (R75): The launcher's 1 ms timer expires: ABORT is sent, the cores are released and the task is retried later. -/
  | ackTimerExpiry (task : BitVec 64)
  /-- RESERVATION_TIMER_EXPIRY (R75): A peer's 2 ms timer expires and it releases its reserved cores. -/
  | reservationTimerExpiry (task : BitVec 64)
  /-- TASK (R61): The TGS reads a TASK record, checks it, and starts it into the ready pool when its order allows, or halts the queue. -/
  | task (n : Nat)
  /-- GRAPH (R67): The TGS reads a GRAPH record, loads its dependence counters and puts the root nodes into the ready pool. -/
  | graph (n : Nat)
  /-- QFENCE (R61): The TGS reads a QFENCE record, which starts and retires when the earlier launches have retired. -/
  | qfence (n : Nat)
  /-- SIGNAL (R63): The TGS reads a SIGNAL record, writes VALUE to ADDR with release and posts a SIGNAL event. -/
  | signal (n : Nat)
  /-- PLACEMENT_PATIENCE_EXPIRY (R71): A head task's 2 µs placement patience expires and further dies become eligible. -/
  | placementPatienceExpiry (task : BitVec 64)
  /-- CORE_CLEAR_DONE (R41): Clearing of an unclean or PURE core ends and the task's first instruction may issue. -/
  | coreClearDone (c : Nat)
  /-- CORE_DONE (R279): A core becomes done; when all cores are, the launch releases its effects and retires. -/
  | coreDone (c : Nat)
  /-- PREEMPTION_COMPLETE (R219): Every agent of a pre-empted task has stopped and its save slots are written. -/
  | preemptionComplete (task : BitVec 64)
  /-- CHUNK_REQUEST (R73): The TGS answers a core's request with the next chunk of LOOP iterations, or with none left. -/
  | chunkRequest (c : Nat)
  /-- DIGEST_DONE (R88): A Larder digest completes; once all are done the key is formed and looked up. -/
  | digestDone (task : BitVec 64) (part : Nat)
  /-- WATCH_NOTICE (R86): The hub accepts a watch notice and, in one cycle, discards digests, voids keys and removes result entries. -/
  | watchNotice (granule : Nat)
  /-- HIT_COPY_DONE (R88): A hit copy ends; the task releases its effects, retires REUSED and releases its successors. -/
  | hitCopyDone (task : BitVec 64)
  /-- CAPTURE_DONE (R88): The out-window capture ends; the entry is installed or dropped and the task retires. -/
  | captureDone (task : BitVec 64)
  /-- RECORD_START (R243): An engine's next record has its wait spec met and begins its nest. -/
  | recordStart (c : Nat) (e : Nat)
  /-- ENGINE_ITERATION (R102): An engine performs the next iteration of its record's nest and advances its micro-PC. -/
  | engineIteration (c : Nat) (e : Nat)
  /-- RECORD_COMPLETION (R106): A record completes; it performs its post, leaves its completion word and advances its timeline. -/
  | recordCompletion (c : Nat) (e : Nat)
  /-- LDA_COMPLETION (R297): An outstanding LDA or VLDA writes its destination and decrements its load counter. -/
  | ldaCompletion (c : Nat) (k : Nat) (lc : Nat)
  /-- WRITE_PERFORMED (R167): A write reaches its home port and becomes visible to every agent, merged REDs included. -/
  | writePerformed (c : Nat) (i : Nat)
  /-- STRAND_HOLD_RELEASE (R101): The condition that holds a strand ends and its held instruction proceeds. -/
  | strandHoldRelease (c : Nat) (k : Nat)
  /-- WATCHDOG (R213): A strand held longer than WDLIMIT ticks raises WATCHDOG on its holding instruction. -/
  | watchdog (c : Nat) (k : Nat)
  /-- SOFT_ERROR (R215): An error is detected in stored data: it is corrected and counted, or its unit is poisoned. -/
  | softError (u : ErrorUnit) (correctable : Bool)
  /-- PATROL_SCRUB (R218): Patrol scrub reads each HBM unit once a day, writing back corrected data and poisoning the rest. -/
  | patrolScrub (unit : Nat) (res : ScrubResult)
  /-- ATS_INVALIDATION (R137): A host invalidation over a bound H range is answered once the records using the slot have drained. -/
  | atsInvalidation (f : Nat) (page : Nat) (pages : Nat)
  /-- DIE_CLK_STAT_READ (R21): A read of DIE_CLK_STAT returns MIN_K and then sets MIN_K to LIMIT_K. -/
  | dieClkStatRead (f : Nat) (d : Nat)
  /-- HOST_MEMORY_WRITE (R12): A host function's write to package physical memory through the host port is checked by the HBM range controller's access table and the watch map, then performed at the home G-cache. -/
  | hostMemoryWrite (f : Nat) (pa : HostPlace) (bytes : List Byte)
  /-- RETRY_DELAY_EXPIRY (R75): The 1 ms hold on a pod-scope task whose RESERVE round timed out expires, and the task may be tried again with the next attempt number. -/
  | retryDelayExpiry (task : BitVec 64)
  deriving DecidableEq, Repr

end Sys2Proof
end

