-- ==== Sys2Proof/WellFormed.lean ====
section
/-! DEFINITION. Which terms of `Instr` the encodings and the part admit (R229, R237 to R244, R250, R288, R319). -/

namespace Sys2Proof

/-- .I64, .I32 and .U64 (R259). -/
def tyI3 : Ty → Bool | .i64 | .i32 | .u64 => true | _ => false
/-- .I64 and .I32 (R259, R262, R266). -/
def tyI2 : Ty → Bool | .i64 | .i32 => true | _ => false
/-- .I64, .I32, .U64 and .UINT32 (R273, R288). -/
def tyI4 : Ty → Bool | .i64 | .i32 | .u64 | .uint32 => true | _ => false
/-- The scalar floating types (R269). -/
def tyF4 : Ty → Bool | .f64 | .f32 | .f16 | .bf16 => true | _ => false
/-- The formats of FCVT (R273). -/
def tyF9 : Ty → Bool
  | .f64 | .f32 | .f16 | .bf16 | .e4m3 | .e5m2 | .e3m2 | .e2m3 | .e2m1 => true
  | _ => false
/-- The types of LD, LDA and ST (R290). -/
def tyMem : Ty → Bool
  | .i64 | .u64 | .f64 | .i32 | .uint32 | .f32 | .int16 | .uint16 | .f16 | .bf16
  | .int8 | .uint8 | .e4m3 | .e5m2 => true
  | _ => false
/-- The types of ATOM and RED by operation (R299). -/
def tyAtom (op : RmwOp) (t : Ty) : Bool :=
  tyI4 t || (match op with
    | .swap | .add => (match t with | .f64 | .f32 => true | _ => false)
    | _ => false)
/-- MX codes (R191, R332). -/
def tyMx : Ty → Bool | .mx8e4 | .mx8e5 | .mx6e3 | .mx6e2 | .mx4 => true | _ => false
/-- DX codes (R193, R332). -/
def tyDx : Ty → Bool | .dx8 | .dx6 | .dx4 => true | _ => false
/-- Block formats (class BLK of R320). -/
def tyBlk (t : Ty) : Bool := tyMx t || tyDx t
/-- Destinations of VCVT: every TYPE code that is not a block format (R331). -/
def tyPlain (t : Ty) : Bool := !tyBlk t && (match t with | .e8m0 => false | _ => true)
/-- .RNE to .RDN. -/
def rnd4 : Rnd → Bool | .dyn => false | _ => true
/-- .RNE to .RDN and .DYN (R232). -/
def rnd5 : Rnd → Bool := fun _ => true
/-- Orders of loads (R171, R288). -/
def ordLd : Ord → Bool | .rlx | .acq | .sc => true | _ => false
/-- Orders of stores and RED (R171, R288). -/
def ordSt : Ord → Bool | .rlx | .rel | .sc => true | _ => false
/-- Orders of ATOM and CAS (R288). -/
def ordAll : Ord → Bool := fun _ => true
/-- Orders of FENCE, which has no .RLX form (R288). -/
def ordFence : Ord → Bool | .rlx => false | _ => true
/-- FENCE.SC takes SCOPE .pkg or 0 only (R177). -/
def fenceScope (o : Ord) (s : Scope) : Bool :=
  match o with
  | .sc => (match s with | .core | .pkg => true | _ => false)
  | _ => true
/-- Conditions of CMP (R266). -/
def condCmp : Cond → Bool | .ord | .uno => false | _ => true
/-- Conditions of FCMP (R272). -/
def condFcmp : Cond → Bool | .ltu | .leu | .gtu | .geu => false | _ => true
/-- Conditions of VCMP; the set for the current format is checked when it executes (R326). -/
def condAll : Cond → Bool := fun _ => true
/-- Bits of an element of a TYPE code, 0 where R239 assigns none (R239, R315). -/
def codeBits (c : Nat) : Nat :=
  [64, 32, 64, 64, 32, 16, 16, 0, 4, 8, 8, 16, 16, 32, 8, 8, 6, 6, 4, 8, 8, 6, 6, 4, 8, 6, 4].getD c 0
/-- A legal VSHAPE value (R315): EF, ROWS and COLS in their ranges, the reserved bits zero. -/
def wfShape (v : Nat) : Bool :=
  let ef := v % 32
  let rows := v / 32 % 512
  let cols := v / 65536 % 8192
  decide (codeBits ef ≠ 0) && decide (v / 16384 % 4 = 0) && decide (v < 536870912) && decide (1 ≤ rows) && decide (rows ≤ 256) &&
  decide (1 ≤ cols) && decide (cols ≤ 4096) && decide (rows * cols * codeBits ef ≤ 16384) && (decide (ef < 19) || decide (cols % 32 = 0))
/-- System registers that SYSRD reads (R281). -/
def sysReadable (n : Nat) : Bool :=
  n == 0 || n == 1 || n == 2 || n == 0x10 || n == 0x11 || n == 0x12 || n == 0x13 ||
  n == 0x20 || n == 0x21 || n == 0x30 || n == 0x31
/-- System registers that SYSWR writes (R281). -/
def sysWritable (n : Nat) : Bool :=
  n == 0 || n == 1 || n == 0x10 || n == 0x11 || n == 0x12 || n == 0x13
/-- A guard names one of p0 to p15. -/
def wfGuard (g : Guard) : Bool := decide (g.g < 16)
/-- A pT and pF pair: in range, and different unless both are p0 (R266). -/
def wfPair (pt pf : Nat) : Bool := decide (pt < 16) && decide (pf < 16) && !(decide (pt = pf) && decide (pt ≠ 0))
/-- QSEL values that an ENG admits (R242). -/
def wfQsel (eng q : Nat) : Bool :=
  if eng = 1 then decide (q < 2) else if eng = 15 then decide (q < 5) else decide (q = 0)
/-- A wait spec (R243). -/
def wfWait (s : Spec) : Bool :=
  match s.kind with
  | 0 => decide (s.obj = 0 ∧ s.count = 0)
  | 1 | 2 => decide (s.obj < 32 ∧ 1 ≤ s.count ∧ s.count < 65536)
  | 3 => decide (s.obj < 17 ∧ 1 ≤ s.count ∧ s.count < 65536)
  | _ => false
/-- A post spec (R243); a byte post to bg is refused. -/
def wfPost (s : Spec) : Bool :=
  match s.kind with
  | 0 => decide (s.obj = 0 ∧ s.count = 0)
  | 1 | 2 => decide (s.obj < 32 ∧ s.count = 0)
  | 3 => decide (s.obj < 16 ∧ s.count = 0)
  | _ => false
/-- A capture entry (R244); whether the op has the word is a matter of the dispatch check (R339). -/
def wfCapt : Option Nat → Bool
  | none => true
  | some r => decide (r < 64)
/-- A record header for an op of engine `eng`. -/
def wfHdr (eng : Nat) (h : RecHdr) : Bool :=
  wfGuard h.guard && wfQsel eng h.qsel && wfWait h.wait && wfPost h.post &&
  wfCapt h.capt0 && wfCapt h.capt1 && wfCapt h.capt2 && wfCapt h.capt3


/-- Well-formedness of an instruction or event: every field at a value its encoding, register file or the part admits
(R237 to R251, R259 to R318, and the counts of R2 for events). -/
def wellFormed : Instr → Bool
  | .add g d a b => wfGuard g && decide (d < 64) && decide (a < 64) && decide (b < 64)
  | .addLong g ty _ d a b => wfGuard g && tyI3 ty && decide (d < 64) && decide (a < 64) && decide (b < 64)
  | .sub g d a b => wfGuard g && decide (d < 64) && decide (a < 64) && decide (b < 64)
  | .subLong g ty _ d a b => wfGuard g && tyI3 ty && decide (d < 64) && decide (a < 64) && decide (b < 64)
  | .addi g d a imm => wfGuard g && decide (d < 64) && decide (a < 64) && decide (-32 ≤ imm ∧ imm ≤ 31)
  | .addiLong g ty _ d a imm => wfGuard g && tyI3 ty && decide (d < 64) && decide (a < 64) && decide (-256 ≤ imm ∧ imm ≤ 255)
  | .addiExt g ty _ d a imm => wfGuard g && tyI3 ty && decide (d < 64) && decide (a < 64) && decide (-2147483648 ≤ imm ∧ imm ≤ 2147483647)
  | .mul g ty _ d a b => wfGuard g && tyI3 ty && decide (d < 64) && decide (a < 64) && decide (b < 64)
  | .mulh g ty d a b => wfGuard g && tyI2 ty && decide (d < 64) && decide (a < 64) && decide (b < 64)
  | .mulhu g ty d a b => wfGuard g && tyI2 ty && decide (d < 64) && decide (a < 64) && decide (b < 64)
  | .div g ty d a b => wfGuard g && tyI2 ty && decide (d < 64) && decide (a < 64) && decide (b < 64)
  | .divu g ty d a b => wfGuard g && tyI2 ty && decide (d < 64) && decide (a < 64) && decide (b < 64)
  | .rem g ty d a b => wfGuard g && tyI2 ty && decide (d < 64) && decide (a < 64) && decide (b < 64)
  | .remu g ty d a b => wfGuard g && tyI2 ty && decide (d < 64) && decide (a < 64) && decide (b < 64)
  | .and g d a b => wfGuard g && decide (d < 64) && decide (a < 64) && decide (b < 64)
  | .andLong g ty d a b => wfGuard g && tyI2 ty && decide (d < 64) && decide (a < 64) && decide (b < 64)
  | .or g d a b => wfGuard g && decide (d < 64) && decide (a < 64) && decide (b < 64)
  | .orLong g ty d a b => wfGuard g && tyI2 ty && decide (d < 64) && decide (a < 64) && decide (b < 64)
  | .xor g d a b => wfGuard g && decide (d < 64) && decide (a < 64) && decide (b < 64)
  | .xorLong g ty d a b => wfGuard g && tyI2 ty && decide (d < 64) && decide (a < 64) && decide (b < 64)
  | .andn g ty d a b => wfGuard g && tyI2 ty && decide (d < 64) && decide (a < 64) && decide (b < 64)
  | .orn g ty d a b => wfGuard g && tyI2 ty && decide (d < 64) && decide (a < 64) && decide (b < 64)
  | .shl g ty d a b => wfGuard g && tyI2 ty && decide (d < 64) && decide (a < 64) && decide (b < 64)
  | .shli g d a n => wfGuard g && decide (d < 64) && decide (a < 64) && decide (n < 64)
  | .shliLong g ty d a n => wfGuard g && tyI2 ty && decide (d < 64) && decide (a < 64) && decide (n < 64 ∧ (ty = .i32 → n < 32))
  | .shr g ty d a b => wfGuard g && tyI2 ty && decide (d < 64) && decide (a < 64) && decide (b < 64)
  | .shri g d a n => wfGuard g && decide (d < 64) && decide (a < 64) && decide (n < 64)
  | .shriLong g ty d a n => wfGuard g && tyI2 ty && decide (d < 64) && decide (a < 64) && decide (n < 64 ∧ (ty = .i32 → n < 32))
  | .sra g ty d a b => wfGuard g && tyI2 ty && decide (d < 64) && decide (a < 64) && decide (b < 64)
  | .srai g d a n => wfGuard g && decide (d < 64) && decide (a < 64) && decide (n < 64)
  | .sraiLong g ty d a n => wfGuard g && tyI2 ty && decide (d < 64) && decide (a < 64) && decide (n < 64 ∧ (ty = .i32 → n < 32))
  | .rotl g ty d a b => wfGuard g && tyI2 ty && decide (d < 64) && decide (a < 64) && decide (b < 64)
  | .min g d a b => wfGuard g && decide (d < 64) && decide (a < 64) && decide (b < 64)
  | .minLong g ty d a b => wfGuard g && tyI2 ty && decide (d < 64) && decide (a < 64) && decide (b < 64)
  | .max g d a b => wfGuard g && decide (d < 64) && decide (a < 64) && decide (b < 64)
  | .maxLong g ty d a b => wfGuard g && tyI2 ty && decide (d < 64) && decide (a < 64) && decide (b < 64)
  | .minu g ty d a b => wfGuard g && tyI2 ty && decide (d < 64) && decide (a < 64) && decide (b < 64)
  | .maxu g ty d a b => wfGuard g && tyI2 ty && decide (d < 64) && decide (a < 64) && decide (b < 64)
  | .clz g ty d a => wfGuard g && tyI2 ty && decide (d < 64) && decide (a < 64)
  | .ctz g ty d a => wfGuard g && tyI2 ty && decide (d < 64) && decide (a < 64)
  | .popc g ty d a => wfGuard g && tyI2 ty && decide (d < 64) && decide (a < 64)
  | .brev g ty d a => wfGuard g && tyI2 ty && decide (d < 64) && decide (a < 64)
  | .bfx g pos len d a => wfGuard g && decide (1 ≤ len ∧ pos + len ≤ 64) && decide (d < 64) && decide (a < 64)
  | .bfxu g pos len d a => wfGuard g && decide (1 ≤ len ∧ pos + len ≤ 64) && decide (d < 64) && decide (a < 64)
  | .bfi g pos len d a => wfGuard g && decide (1 ≤ len ∧ pos + len ≤ 64) && decide (d < 64) && decide (a < 64)
  | .sext g k d a => wfGuard g && decide (1 ≤ k ∧ k ≤ 64) && decide (d < 64) && decide (a < 64)
  | .zext g k d a => wfGuard g && decide (1 ≤ k ∧ k ≤ 64) && decide (d < 64) && decide (a < 64)
  | .sel g d a b => wfGuard g && decide (d < 64) && decide (a < 64) && decide (b < 64)
  | .selLong g d a b c => wfGuard g && decide (d < 64) && decide (a < 64) && decide (b < 64) && decide (c < 16)
  | .mov g d a => wfGuard g && decide (d < 64) && decide (a < 64)
  | .movLong g d a => wfGuard g && decide (d < 64) && decide (a < 64)
  | .movi g d imm => wfGuard g && decide (d < 64) && decide (-256 ≤ imm ∧ imm ≤ 255)
  | .moviExt g d imm => wfGuard g && decide (d < 64) && decide (-2147483648 ≤ imm ∧ imm ≤ 2147483647)
  | .movhi g d imm => wfGuard g && decide (d < 64) && decide (-256 ≤ imm ∧ imm ≤ 255)
  | .movhiExt g d imm => wfGuard g && decide (d < 64) && decide (-2147483648 ≤ imm ∧ imm ≤ 2147483647)
  | .cmp g ty cond pt pf a b => wfGuard g && tyI2 ty && condCmp cond && wfPair pt pf && decide (a < 64) && decide (b < 64)
  | .cmpExt g ty cond pt pf a imm => wfGuard g && tyI2 ty && condCmp cond && wfPair pt pf && decide (a < 64) && decide (-2147483648 ≤ imm ∧ imm ≤ 2147483647)
  | .pand g d a b => wfGuard g && decide (d < 16) && decide (a < 16) && decide (b < 16)
  | .por g d a b => wfGuard g && decide (d < 16) && decide (a < 16) && decide (b < 16)
  | .pxor g d a b => wfGuard g && decide (d < 16) && decide (a < 16) && decide (b < 16)
  | .pandn g d a b => wfGuard g && decide (d < 16) && decide (a < 16) && decide (b < 16)
  | .pset g a b => wfGuard g && decide (a < 64) && decide (b < 64)
  | .pget g d => wfGuard g && decide (d < 64)
  | .fadd g ty rnd d a b => wfGuard g && tyF4 ty && rnd4 rnd && decide (d < 64) && decide (a < 64) && decide (b < 64)
  | .fsub g ty rnd d a b => wfGuard g && tyF4 ty && rnd4 rnd && decide (d < 64) && decide (a < 64) && decide (b < 64)
  | .fmul g ty rnd d a b => wfGuard g && tyF4 ty && rnd4 rnd && decide (d < 64) && decide (a < 64) && decide (b < 64)
  | .ffma g ty rnd d a b c => wfGuard g && tyF4 ty && rnd4 rnd && decide (d < 64) && decide (a < 64) && decide (b < 64) && decide (c < 64)
  | .fdiv g ty rnd d a b => wfGuard g && tyF4 ty && rnd4 rnd && decide (d < 64) && decide (a < 64) && decide (b < 64)
  | .fsqrt g ty rnd d a => wfGuard g && tyF4 ty && rnd4 rnd && decide (d < 64) && decide (a < 64)
  | .fmin g ty d a b => wfGuard g && tyF4 ty && decide (d < 64) && decide (a < 64) && decide (b < 64)
  | .fmax g ty d a b => wfGuard g && tyF4 ty && decide (d < 64) && decide (a < 64) && decide (b < 64)
  | .fabs g ty d a => wfGuard g && tyF4 ty && decide (d < 64) && decide (a < 64)
  | .fneg g ty d a => wfGuard g && tyF4 ty && decide (d < 64) && decide (a < 64)
  | .fcmp g ty cond pt pf a b => wfGuard g && tyF4 ty && condFcmp cond && wfPair pt pf && decide (a < 64) && decide (b < 64)
  | .fcvt g ty rnd _ d a src => wfGuard g && tyF9 ty && rnd4 rnd && decide (d < 64) && decide (a < 64) && tyF9 src
  | .icvt g ty rnd _ d a src => wfGuard g && tyF4 ty && rnd4 rnd && decide (d < 64) && decide (a < 64) && tyI4 src
  | .fcvti g ty rnd d a src => wfGuard g && tyI4 ty && rnd4 rnd && decide (d < 64) && decide (a < 64) && tyF4 src
  | .pbr g x imm => wfGuard g && decide (x < 8) && decide (-256 ≤ imm ∧ imm ≤ 255 ∧ imm % 4 = 0)
  | .pbrExt g x imm => wfGuard g && decide (x < 8) && decide (-2147483648 ≤ imm ∧ imm ≤ 2147483647 ∧ imm % 4 = 0)
  | .pbrs g x a => wfGuard g && decide (x < 8) && decide (a < 64)
  | .movb g x a => wfGuard g && decide (x < 8) && decide (a < 64)
  | .movsb g d x => wfGuard g && decide (d < 64) && decide (x < 8)
  | .br g x => wfGuard g && decide (x < 8)
  | .brLong g x => wfGuard g && decide (x < 8)
  | .call g x => wfGuard g && decide (x < 8)
  | .callLong g x => wfGuard g && decide (x < 8)
  | .loop g d x => wfGuard g && decide (d < 64) && decide (x < 8)
  | .knext g => wfGuard g
  | .knextLong g => wfGuard g
  | .tdone g => wfGuard g
  | .tdoneLong g => wfGuard g
  | .nop g => wfGuard g
  | .nopLong g => wfGuard g
  | .brk g => wfGuard g
  | .trap g a => wfGuard g && decide (a < 64)
  | .trapExt g imm => wfGuard g && decide (-2147483648 ≤ imm ∧ imm ≤ 2147483647)
  | .eret g => wfGuard g
  | .sysrd g n d => wfGuard g && sysReadable n && decide (d < 64)
  | .syswr g n a => wfGuard g && sysWritable n && decide (a < 64)
  | .rdclk g d => wfGuard g && decide (d < 64)
  | .rdid g k d => wfGuard g && decide (k < 8) && decide (d < 64)
  | .wfe g => wfGuard g
  | .yield g => wfGuard g
  | .hbind g h a => wfGuard g && decide (h < 256) && decide (a < 64)
  | .hunbind g h => wfGuard g && decide (h < 256)
  | .hinfo g d h k => wfGuard g && decide (d < 64) && decide (h < 256) && decide (k ≤ 7)
  | .seal g h => wfGuard g && decide (h < 256)
  | .ld g d h x0 => wfGuard g && decide (d < 64) && decide (h < 64) && decide (x0 < 64)
  | .ldLong g ty ord _ d h x0 x1 => wfGuard g && tyMem ty && ordLd ord && decide (d < 64) && decide (h < 256) && decide (x0 < 64) && decide (x1 < 64)
  | .ldExt g ty ord _ d h x0 x1 x2 x3 x4 x5 => wfGuard g && tyMem ty && ordLd ord && decide (d < 64) && decide (h < 256) && decide (x0 < 64) && decide (x1 < 64) && decide (x2 < 64) && decide (x3 < 64) && decide (x4 < 64) && decide (x5 < 64)
  | .st g d h x0 => wfGuard g && decide (d < 64) && decide (h < 64) && decide (x0 < 64)
  | .stLong g ty ord _ d h x0 x1 => wfGuard g && tyMem ty && ordSt ord && decide (d < 64) && decide (h < 256) && decide (x0 < 64) && decide (x1 < 64)
  | .stExt g ty ord _ d h x0 x1 x2 x3 x4 x5 => wfGuard g && tyMem ty && ordSt ord && decide (d < 64) && decide (h < 256) && decide (x0 < 64) && decide (x1 < 64) && decide (x2 < 64) && decide (x3 < 64) && decide (x4 < 64) && decide (x5 < 64)
  | .lda g d h x0 => wfGuard g && decide (d < 64) && decide (h < 64) && decide (x0 < 64)
  | .ldaLong g ty ord _ d h x0 lc => wfGuard g && tyMem ty && ordLd ord && decide (d < 64) && decide (h < 256) && decide (x0 < 64) && decide (lc < 4)
  | .ldaExt g ty ord _ d h x0 lc x1 x2 x3 x4 x5 => wfGuard g && tyMem ty && ordLd ord && decide (d < 64) && decide (h < 256) && decide (x0 < 64) && decide (lc < 4) && decide (x1 < 64) && decide (x2 < 64) && decide (x3 < 64) && decide (x4 < 64) && decide (x5 < 64)
  | .waitc g lc k => wfGuard g && decide (lc < 4) && decide (k ≤ 63)
  | .waitcLong g lc k => wfGuard g && decide (lc < 4) && decide (k ≤ 511)
  | .vld g d h x0 => wfGuard g && decide (d < 64) && decide (h < 64) && decide (x0 < 64)
  | .vldLong g ord _ d h x0 x1 => wfGuard g && ordLd ord && decide (d < 320) && decide (h < 256) && decide (x0 < 64) && decide (x1 < 64)
  | .vldExt g ord _ d h x0 x1 x2 x3 x4 x5 => wfGuard g && ordLd ord && decide (d < 320) && decide (h < 256) && decide (x0 < 64) && decide (x1 < 64) && decide (x2 < 64) && decide (x3 < 64) && decide (x4 < 64) && decide (x5 < 64)
  | .vst g d h x0 => wfGuard g && decide (d < 64) && decide (h < 64) && decide (x0 < 64)
  | .vstLong g ord _ d h x0 x1 => wfGuard g && ordSt ord && decide (d < 320) && decide (h < 256) && decide (x0 < 64) && decide (x1 < 64)
  | .vstExt g ord _ d h x0 x1 x2 x3 x4 x5 => wfGuard g && ordSt ord && decide (d < 320) && decide (h < 256) && decide (x0 < 64) && decide (x1 < 64) && decide (x2 < 64) && decide (x3 < 64) && decide (x4 < 64) && decide (x5 < 64)
  | .vlda g ord _ d h x0 lc => wfGuard g && ordLd ord && decide (d < 320) && decide (h < 256) && decide (x0 < 64) && decide (lc < 4)
  | .vldaExt g ord _ d h x0 lc x1 x2 x3 x4 x5 => wfGuard g && ordLd ord && decide (d < 320) && decide (h < 256) && decide (x0 < 64) && decide (lc < 4) && decide (x1 < 64) && decide (x2 < 64) && decide (x3 < 64) && decide (x4 < 64) && decide (x5 < 64)
  | .atom g ty ord _ op d h x0 x1 => wfGuard g && tyAtom op ty && ordAll ord && decide (d < 64) && decide (h < 256) && decide (x0 < 64) && decide (x1 < 64)
  | .atomExt g ty ord _ op d h x0 x1 x2 x3 x4 x5 => wfGuard g && tyAtom op ty && ordAll ord && decide (d < 64) && decide (h < 256) && decide (x0 < 64) && decide (x1 < 64) && decide (x2 < 64) && decide (x3 < 64) && decide (x4 < 64) && decide (x5 < 64)
  | .cas g ty ord _ d h x0 x1 => wfGuard g && tyI4 ty && ordAll ord && decide (d < 64 ∧ d % 2 = 0) && decide (h < 256) && decide (x0 < 64) && decide (x1 < 64)
  | .casExt g ty ord _ d h x0 x1 x2 x3 x4 x5 => wfGuard g && tyI4 ty && ordAll ord && decide (d < 64 ∧ d % 2 = 0) && decide (h < 256) && decide (x0 < 64) && decide (x1 < 64) && decide (x2 < 64) && decide (x3 < 64) && decide (x4 < 64) && decide (x5 < 64)
  | .red g ty ord _ op d h x0 x1 => wfGuard g && tyAtom op ty && ordSt ord && decide (op ≠ .swap) && decide (d < 64) && decide (h < 256) && decide (x0 < 64) && decide (x1 < 64)
  | .redExt g ty ord _ op d h x0 x1 x2 x3 x4 x5 => wfGuard g && tyAtom op ty && ordSt ord && decide (op ≠ .swap) && decide (d < 64) && decide (h < 256) && decide (x0 < 64) && decide (x1 < 64) && decide (x2 < 64) && decide (x3 < 64) && decide (x4 < 64) && decide (x5 < 64)
  | .fence g ord sc => wfGuard g && ordFence ord && fenceScope ord sc
  | .binit g x a b => wfGuard g && decide (x < 17) && decide (a < 64) && decide (b < 64)
  | .barv g d x => wfGuard g && decide (d < 64) && decide (x < 17)
  | .barvLong g d x => wfGuard g && decide (d < 64) && decide (x < 17)
  | .bwait g x b => wfGuard g && decide (x < 17) && decide (b < 64)
  | .bwaitLong g x b => wfGuard g && decide (x < 17) && decide (b < 64)
  | .bsync g x b => wfGuard g && decide (x < 16) && decide (b < 64)
  | .btest g pt pf x b => wfGuard g && wfPair pt pf && decide (x < 17) && decide (b < 64)
  | .rinit g x a b => wfGuard g && decide (x < 32) && decide (a < 64) && decide (b < 64)
  | .rfreew g d x => wfGuard g && decide (d < 64) && decide (x < 32)
  | .rpub g x b => wfGuard g && decide (x < 32) && decide (b < 64)
  | .rfillw g d x => wfGuard g && decide (d < 64) && decide (x < 32)
  | .rret g x b => wfGuard g && decide (x < 32) && decide (b < 64)
  | .rqry g d x k => wfGuard g && decide (d < 64) && decide (x < 32) && decide (k ≤ 4)
  | .qpush g q a => wfGuard g && decide (q < 16) && decide (a < 64)
  | .qpushLong g q a => wfGuard g && decide (q < 16) && decide (a < if q < 8 then 64 else 320)
  | .qpop g d q => wfGuard g && decide (d < 64) && decide (q < 16)
  | .qpopLong g d q => wfGuard g && decide (d < if q < 8 then 64 else 320) && decide (q < 16)
  | .qtst g pt pf q k => wfGuard g && wfPair pt pf && decide (q < 16) && decide (k ≤ 1)
  | .waitt g t b => wfGuard g && decide (t < 5) && decide (b < 64)
  | .waittLong g t b => wfGuard g && decide (t < 5) && decide (b < 64)
  | .rdtl g d t b => wfGuard g && decide (d < 64) && decide (t < 5) && decide (b < 64)
  | .sbind g v x k => wfGuard g && decide (288 ≤ v ∧ v < 320) && decide (x < 32) && decide (k ≤ 1)
  | .sunbind g v => wfGuard g && decide (v < 320)
  | .tspawn g d a b => wfGuard g && decide (d < 64) && decide (a < 64) && decide (b < 64)
  | .req g a b => wfGuard g && decide (a < 64) && decide (b < 64)
  | .ectl g eng item d => wfGuard g && decide (eng ≤ 4 ∧ item ≤ 8) && decide (d < 64)
  | .zstat g pt pf z k => wfGuard g && wfPair pt pf && decide (z < 32) && decide (k ≤ 15)
  | .vshape g a => wfGuard g && decide (a < 64)
  | .vshapeExt g imm => wfGuard g && wfShape imm
  | .vmov g d a => wfGuard g && decide (d < 64) && decide (a < 64)
  | .vmovLong g d a => wfGuard g && decide (d < 320) && decide (a < 320)
  | .vbcast g d a => wfGuard g && decide (d < 320) && decide (a < 64)
  | .vbcastExt g d imm => wfGuard g && decide (d < 320) && decide (-2147483648 ≤ imm ∧ imm ≤ 2147483647)
  | .vext g d a b => wfGuard g && decide (d < 64) && decide (a < 320) && decide (b < 64)
  | .vins g d a b => wfGuard g && decide (d < 320) && decide (a < 64) && decide (b < 64)
  | .vadd g d a b => wfGuard g && decide (d < 64) && decide (a < 64) && decide (b < 64)
  | .vaddLong g rnd d a b => wfGuard g && rnd5 rnd && decide (d < 320) && decide (a < 320) && decide (b < 320)
  | .vsub g d a b => wfGuard g && decide (d < 64) && decide (a < 64) && decide (b < 64)
  | .vsubLong g rnd d a b => wfGuard g && rnd5 rnd && decide (d < 320) && decide (a < 320) && decide (b < 320)
  | .vmul g d a b => wfGuard g && decide (d < 64) && decide (a < 64) && decide (b < 64)
  | .vmulLong g rnd d a b => wfGuard g && rnd5 rnd && decide (d < 320) && decide (a < 320) && decide (b < 320)
  | .vfma g d a b => wfGuard g && decide (d < 64) && decide (a < 64) && decide (b < 64)
  | .vfmaLong g rnd d a b c => wfGuard g && rnd5 rnd && decide (d < 320) && decide (a < 320) && decide (b < 320) && decide (c < 320)
  | .vmin g d a b => wfGuard g && decide (d < 320) && decide (a < 320) && decide (b < 320)
  | .vmax g d a b => wfGuard g && decide (d < 320) && decide (a < 320) && decide (b < 320)
  | .vabs g d a => wfGuard g && decide (d < 320) && decide (a < 320)
  | .vneg g d a => wfGuard g && decide (d < 320) && decide (a < 320)
  | .vrcp g rnd d a => wfGuard g && rnd4 rnd && decide (d < 320) && decide (a < 320)
  | .vrsq g rnd d a => wfGuard g && rnd4 rnd && decide (d < 320) && decide (a < 320)
  | .vdiv g rnd d a b => wfGuard g && rnd4 rnd && decide (d < 320) && decide (a < 320) && decide (b < 320)
  | .vsqrt g rnd d a => wfGuard g && rnd4 rnd && decide (d < 320) && decide (a < 320)
  | .viadd g _ d a b => wfGuard g && decide (d < 320) && decide (a < 320) && decide (b < 320)
  | .visub g _ d a b => wfGuard g && decide (d < 320) && decide (a < 320) && decide (b < 320)
  | .vimul g _ d a b => wfGuard g && decide (d < 320) && decide (a < 320) && decide (b < 320)
  | .vimin g d a b => wfGuard g && decide (d < 320) && decide (a < 320) && decide (b < 320)
  | .vimax g d a b => wfGuard g && decide (d < 320) && decide (a < 320) && decide (b < 320)
  | .vand g d a b => wfGuard g && decide (d < 320) && decide (a < 320) && decide (b < 320)
  | .vor g d a b => wfGuard g && decide (d < 320) && decide (a < 320) && decide (b < 320)
  | .vxor g d a b => wfGuard g && decide (d < 320) && decide (a < 320) && decide (b < 320)
  | .vshl g d a b => wfGuard g && decide (d < 320) && decide (a < 320) && decide (b < 320)
  | .vshr g d a b => wfGuard g && decide (d < 320) && decide (a < 320) && decide (b < 320)
  | .vsra g d a b => wfGuard g && decide (d < 320) && decide (a < 320) && decide (b < 320)
  | .vcmp g cond pt pf a b c => wfGuard g && condAll cond && wfPair pt pf && decide (a < 320) && decide (b < 320) && decide (c < 320)
  | .vsel g d a b c => wfGuard g && decide (d < 320) && decide (a < 320) && decide (b < 320) && decide (c < 320)
  | .vred g rnd d a _ op => wfGuard g && rnd4 rnd && decide (d < 320) && decide (a < 320) && decide (op ≤ 5)
  | .vscan g rnd d a _ op => wfGuard g && rnd4 rnd && decide (d < 320) && decide (a < 320) && decide (op ≤ 5)
  | .vtrn g d a => wfGuard g && decide (d < 320) && decide (a < 320)
  | .vperm g d a b => wfGuard g && decide (d < 320) && decide (a < 320) && decide (b < 320)
  | .vrot g d a b => wfGuard g && decide (d < 320) && decide (a < 320) && decide (b < 64)
  | .vdot g d a b c => wfGuard g && decide (d < 320) && decide (a < 320) && decide (b < 320) && decide (c < 320)
  | .vcvt g ty rnd _ d a => wfGuard g && tyPlain ty && rnd4 rnd && decide (d < 320) && decide (a < 320)
  | .vqmx g ty d a => wfGuard g && tyMx ty && decide (d < 320) && decide (a < 320)
  | .vqdx g ty d a => wfGuard g && tyDx ty && decide (d < 320) && decide (a < 320)
  | .vresc g d a imm => wfGuard g && decide (d < 320) && decide (a < 320) && decide (-256 ≤ imm ∧ imm ≤ 255)
  | .vzld g d z b => wfGuard g && decide (d < 320) && decide (z < 32) && decide (b < 64)
  | .vzst g z a b => wfGuard g && decide (z < 32) && decide (a < 320) && decide (b < 64)
  | .pfload g x h b => wfGuard g && decide (x < 4) && decide (h < 256) && decide (b < 64)
  | .pfeval g d a x => wfGuard g && decide (d < 320) && decide (a < 320) && decide (x < 4)
  | .mma h _ => wfHdr 0 h
  | .ocon h _ => wfHdr 0 h
  | .mdrain h _ => wfHdr 0 h
  | .mclr h _ => wfHdr 0 h
  | .cpy h _ => wfHdr 1 h
  | .cpys h _ => wfHdr 1 h
  | .cfill h _ => wfHdr 1 h
  | .gath h _ => wfHdr 2 h
  | .scat h _ => wfHdr 2 h
  | .merg h _ => wfHdr 2 h
  | .topk h _ => wfHdr 2 h
  | .cmpt h _ => wfHdr 2 h
  | .nbin h _ => wfHdr 3 h
  | .nstrm h _ => wfHdr 3 h
  | .chain h _ => wfHdr 15 h
  | .rnop h _ => wfHdr 15 h
  | .powerOn => true
  | .fundamentalReset => true
  | .powerRemoval => true
  | .startStepComplete _ => true
  | .functionLevelReset f => decide (f < 64)
  | .heartbeatTick => true
  | .powerEvaluation _ => true
  | .supplyCurrentAlarm die => decide (die < 4)
  | .junctionHot die _ => decide (die < 4)
  | .thermalTrip die _ => decide (die < 4)
  | .qpiWrite f n _ => decide (f < 64) && decide (n < 128)
  | .evqCtlWrite f _ => decide (f < 64)
  | .evqHeadWrite f _ => decide (f < 64)
  | .registerWrite f hub off size _ => decide (f < 64) && decide (off < if hub then 1048576 else 65536) && decide (size ≤ 64)
  | .getStatus f => decide (f < 64)
  | .getLog f => decide (f < 64)
  | .getAttest f => decide (f < 64)
  | .openTransport f => decide (f < 64)
  | .loadKey f => decide (f < 64)
  | .revokeKey f => decide (f < 64)
  | .assignFn f => decide (f < 64)
  | .warmStart f => decide (f < 64)
  | .coldStart f => decide (f < 64)
  | .mbxUnknownCommand f cmd => decide (f < 64) && decide (cmd < 256)
  | .mbxDone f => decide (f < 64)
  | .pkctlRetry f idx => decide (f < 64) && decide (idx < 256)
  | .pkctlDeliver f idx => decide (f < 64) && decide (idx < 256)
  | .pkctlAbort f idx => decide (f < 64) && decide (idx < 256)
  | .shootdown f _ => decide (f < 64)
  | .shootdownComplete => true
  | .savecfgWrite f _ => decide (f < 64)
  | .lpoolWrite f t _ => decide (f < 64) && decide (t < 512)
  | .lquotaWrite f t _ => decide (f < 64) && decide (t < 512)
  | .lwmapWrite f d _ => decide (f < 64) && decide (d < 4)
  | .qcfgWrite f n _ => decide (f < 64) && decide (n < 128)
  | .idle p _ => decide (p < 12)
  | .data p _ => decide (p < 12)
  | .credit p _ => decide (p < 12)
  | .nak p _ => decide (p < 12)
  | .train p _ => decide (p < 12)
  | .flitReservedType p _ => decide (p < 12)
  | .laneLockLoss p => decide (p < 12)
  | .retrain p => decide (p < 12)
  | .retrainDone p width peer => decide (p < 12) && decide (peer < 64) && decide (width = 0 ∨ width = 4 ∨ width = 8)
  | .pSpaceRequest p peer req => decide (p < 12) && decide (peer < 64) && decide (req.tenant < 512) && decide (req.key < 512) &&
    decide (req.pa < 1099511627776)
  | .pSpaceResponse _ _ _ => true
  | .podBarrierArrival _ _ => true
  | .reserve p peer _ attempt _ tenant prio => decide (p < 12) && decide (peer < 64) && decide (attempt < 256) && decide (tenant < 512) && decide (prio < 8)
  | .ack peer _ attempt => decide (peer < 64) && decide (attempt < 256)
  | .gangNak peer _ attempt => decide (peer < 64) && decide (attempt < 256)
  | .go peer _ attempt => decide (peer < 64) && decide (attempt < 256)
  | .abort peer _ x =>
    decide (peer < 64) && decide (x.attempt < 256) && decide (x.cause < 256) && decide (x.code < 256)
  | .late peer _ attempt => decide (peer < 64) && decide (attempt < 256)
  | .gangDone peer _ => decide (peer < 64)
  | .ackTimerExpiry _ => true
  | .reservationTimerExpiry _ => true
  | .task n => decide (n < 128)
  | .graph n => decide (n < 128)
  | .qfence n => decide (n < 128)
  | .signal n => decide (n < 128)
  | .placementPatienceExpiry _ => true
  | .coreClearDone c => decide (c < 256)
  | .coreDone c => decide (c < 256)
  | .preemptionComplete _ => true
  | .chunkRequest c => decide (c < 256)
  | .digestDone _ _ => true
  | .watchNotice granule => decide (granule < 268435456)
  | .hitCopyDone _ => true
  | .captureDone _ => true
  | .recordStart c e => decide (c < 256) && decide (e < 5)
  | .engineIteration c e => decide (c < 256) && decide (e < 5)
  | .recordCompletion c e => decide (c < 256) && decide (e < 5)
  | .ldaCompletion c k lc => decide (c < 256) && decide (k < 8) && decide (lc < 4)
  | .writePerformed c _ => decide (c < 256)
  | .strandHoldRelease c k => decide (c < 256) && decide (k < 8)
  | .watchdog c k => decide (c < 256) && decide (k < 8)
  | .softError _ _ => true
  | .patrolScrub unit _ => decide (unit < 34359738368)
  | .atsInvalidation f _ _ => decide (f < 64)
  | .dieClkStatRead f d => decide (f < 64) && decide (d < 4)
  | .hostMemoryWrite f x bytes => decide (f < 64) && decide (x.key < 512) && decide (x.pa + bytes.length ≤ 1099511627776)
  | .retryDelayExpiry _ => true

end Sys2Proof
end

