-- ==== Sys2Proof/Decode.lean ====
section
/-! DEFINITION. Decoding and encoding of S, L, X and N instructions (11 R235 to R251). A refusal carries the ILLOP subcode
of R210: the first row of the table of R250 that applies (R251). -/

namespace Sys2Proof

/-- TYPE codes of R239; E8M0 has none and takes a code no field of five bits reaches. -/
def Ty.code : Ty → Nat
  | .i64 => 0x00 | .i32 => 0x01 | .u64 => 0x02 | .f64 => 0x03 | .f32 => 0x04 | .f16 => 0x05 | .bf16 => 0x06
  | .int4 => 0x08 | .int8 => 0x09 | .uint8 => 0x0A | .int16 => 0x0B | .uint16 => 0x0C | .uint32 => 0x0D
  | .e4m3 => 0x0E | .e5m2 => 0x0F | .e3m2 => 0x10 | .e2m3 => 0x11 | .e2m1 => 0x12
  | .mx8e4 => 0x13 | .mx8e5 => 0x14 | .mx6e3 => 0x15 | .mx6e2 => 0x16 | .mx4 => 0x17
  | .dx8 => 0x18 | .dx6 => 0x19 | .dx4 => 0x1A
  | .e8m0 => 0x20

/-- The element format of a TYPE code (R239). -/
def tyOf? : Nat → Option Ty
  | 0x00 => some .i64 | 0x01 => some .i32 | 0x02 => some .u64 | 0x03 => some .f64 | 0x04 => some .f32
  | 0x05 => some .f16 | 0x06 => some .bf16
  | 0x08 => some .int4 | 0x09 => some .int8 | 0x0A => some .uint8 | 0x0B => some .int16 | 0x0C => some .uint16
  | 0x0D => some .uint32 | 0x0E => some .e4m3 | 0x0F => some .e5m2 | 0x10 => some .e3m2 | 0x11 => some .e2m3
  | 0x12 => some .e2m1 | 0x13 => some .mx8e4 | 0x14 => some .mx8e5 | 0x15 => some .mx6e3 | 0x16 => some .mx6e2
  | 0x17 => some .mx4 | 0x18 => some .dx8 | 0x19 => some .dx6 | 0x1A => some .dx4
  | _ => none

/-- The format of a code that `ckTy` has accepted. -/
def tyOf (n : Nat) : Ty := (tyOf? n).getD .i64

/-- Rounding codes (R239). -/
def Rnd.code : Rnd → Nat | .rne => 0 | .rtz => 1 | .rup => 2 | .rdn => 3 | .dyn => 4
/-- The rounding of a code below 5. -/
def rndOf : Nat → Rnd | 0 => .rne | 1 => .rtz | 2 => .rup | 3 => .rdn | _ => .dyn
/-- Order codes (R239). -/
def Ord.code : Ord → Nat | .rlx => 0 | .acq => 1 | .rel => 2 | .ar => 3 | .sc => 4
/-- The order of a code below 5. -/
def ordOf : Nat → Ord | 0 => .rlx | 1 => .acq | 2 => .rel | 3 => .ar | _ => .sc
/-- Scope codes (R239). -/
def Scope.code : Scope → Nat | .core => 0 | .st => 1 | .quad => 2 | .die => 3 | .pkg => 4 | .pod => 5
/-- The scope of a code below 6. -/
def scopeOf : Nat → Scope | 0 => .core | 1 => .st | 2 => .quad | 3 => .die | 4 => .pkg | _ => .pod
/-- Condition codes (R239). -/
def Cond.code : Cond → Nat
  | .eq => 0 | .ne => 1 | .lt => 2 | .le => 3 | .gt => 4 | .ge => 5 | .ltu => 6 | .leu => 7 | .gtu => 8 | .geu => 9
  | .ord => 10 | .uno => 11
/-- The condition of a code below 12. -/
def condOf : Nat → Cond
  | 0 => .eq | 1 => .ne | 2 => .lt | 3 => .le | 4 => .gt | 5 => .ge | 6 => .ltu | 7 => .leu | 8 => .gtu | 9 => .geu
  | 10 => .ord | _ => .uno
/-- ATOM and RED operation codes (R299). -/
def RmwOp.code : RmwOp → Nat | .swap => 0 | .add => 1 | .and => 2 | .or => 3 | .xor => 4 | .min => 5 | .max => 6
/-- The operation of a code; the reserved code 7 is refused by a check of its own, whatever its type (R299). -/
def rmwOf : Nat → RmwOp
  | 0 => .swap | 1 => .add | 2 => .and | 3 => .or | 4 => .xor | 5 => .min | 6 => .max | _ => .swap

/-- The code is assigned and the operation lists it (R239). -/
def ckTy (f : Ty → Bool) (n : Nat) : Bool := match tyOf? n with | some t => f t | none => false
/-- The rounding code is assigned and listed. -/
def ckRnd (f : Rnd → Bool) (n : Nat) : Bool := decide (n < 5) && f (rndOf n)
/-- The order code is assigned and listed. -/
def ckOrd (f : Ord → Bool) (n : Nat) : Bool := decide (n < 5) && f (ordOf n)
/-- The condition code is assigned and listed. -/
def ckCond (f : Cond → Bool) (n : Nat) : Bool := decide (n < 12) && f (condOf n)

/-- The bits `lo + n - 1` to `lo` of a word held as a number. -/
def bitsAt (w lo n : Nat) : Nat := w / 2 ^ lo % 2 ^ n

/-- A field of width 2·h read as two's complement. -/
def sgn (v h : Nat) : Int := if v < h then (v : Int) else (v : Int) - 2 * (h : Int)

/-- The field of modulus `m` that holds an integer in two's complement. -/
def uns (i : Int) (m : Nat) : Nat := (i % (m : Int)).toNat

/-- Whether a check of the row with subcode `sub` fails. -/
def anyFails (cs : List (Nat × Bool)) (sub : Nat) : Bool := cs.any fun c => c.1 == sub && !c.2

/-- The subcode of the first row of R250 among reserved bits (2), register file (3), modifier (8) and operand value (9)
that fails, in that order (R251); the instruction when none does. -/
def accept (cs : List (Nat × Bool)) (i : Instr) : Except Nat Instr :=
  if anyFails cs 2 then .error 2
  else if anyFails cs 3 then .error 3
  else if anyFails cs 8 then .error 8
  else if anyFails cs 9 then .error 9
  else .ok i


/-- The S opcode map (R247): fields d, a, b of R237. -/
def decodeS (op : Nat) (g : Guard) (d a b : Nat) : Except Nat Instr :=
  match op with
  | 0x00 => accept [] (.add g d a b)
  | 0x01 => accept [] (.sub g d a b)
  | 0x02 => accept [] (.addi g d a (sgn b 32))
  | 0x03 => accept [] (.and g d a b)
  | 0x04 => accept [] (.or g d a b)
  | 0x05 => accept [] (.xor g d a b)
  | 0x06 => accept [] (.shli g d a b)
  | 0x07 => accept [] (.shri g d a b)
  | 0x08 => accept [] (.srai g d a b)
  | 0x09 => accept [] (.min g d a b)
  | 0x0a => accept [] (.max g d a b)
  | 0x0b => accept [] (.sel g d a b)
  | 0x0c => accept [(2, decide (b = 0))] (.mov g d a)
  | 0x0d => accept [(2, decide (d = 0)), (3, decide (a < 8)), (2, decide (b = 0))] (.br g a)
  | 0x0e => accept [(2, decide (d = 0)), (3, decide (a < 8)), (2, decide (b = 0))] (.call g a)
  | 0x0f => accept [(2, decide (d = 0)), (2, decide (a = 0)), (2, decide (b = 0))] (.knext g)
  | 0x10 => accept [(2, decide (d = 0)), (2, decide (a = 0)), (2, decide (b = 0))] (.tdone g)
  | 0x11 => accept [(2, decide (d = 0)), (2, decide (a = 0)), (2, decide (b = 0))] (.nop g)
  | 0x40 => accept [] (.ld g d a b)
  | 0x41 => accept [] (.st g d a b)
  | 0x42 => accept [] (.lda g d a b)
  | 0x43 => accept [(3, decide (d < 4)), (2, decide (a = 0))] (.waitc g d b)
  | 0x44 => accept [] (.vld g d a b)
  | 0x45 => accept [] (.vst g d a b)
  | 0x46 => accept [(9, decide (a < 17)), (2, decide (b = 0))] (.barv g d a)
  | 0x47 => accept [(2, decide (d = 0)), (9, decide (a < 17))] (.bwait g a b)
  | 0x48 => accept [(3, decide (d < 16)), (2, decide (b = 0))] (.qpush g d a)
  | 0x49 => accept [(3, decide (a < 16)), (2, decide (b = 0))] (.qpop g d a)
  | 0x4a => accept [(2, decide (d = 0)), (9, decide (a < 5))] (.waitt g a b)
  | 0x60 => accept [(2, decide (b = 0))] (.vmov g d a)
  | 0x61 => accept [] (.vadd g d a b)
  | 0x62 => accept [] (.vsub g d a b)
  | 0x63 => accept [] (.vmul g d a b)
  | 0x64 => accept [] (.vfma g d a b)
  | _ => .error 1

/-- Group A of the L and X opcode map (R248), fields of R238 to R240. -/
def decodeA (x : Bool) (op : Nat) (g : Guard) (d a b c m lit : Nat) : Except Nat Instr :=
  match op with
  | 0x000 => if x then .error 4 else accept [(8, ckTy tyI3 (m / 128)), (8, decide (m / 16 % 8 = 0)), (8, decide (m % 8 = 0)), (3, decide (d < 64)), (3, decide (a < 64)), (3, decide (b < 64)), (2, decide (c = 0))] (.addLong g (tyOf (m / 128)) (decide (m / 8 % 2 = 1)) d a b)
  | 0x001 => if x then .error 4 else accept [(8, ckTy tyI3 (m / 128)), (8, decide (m / 16 % 8 = 0)), (8, decide (m % 8 = 0)), (3, decide (d < 64)), (3, decide (a < 64)), (3, decide (b < 64)), (2, decide (c = 0))] (.subLong g (tyOf (m / 128)) (decide (m / 8 % 2 = 1)) d a b)
  | 0x002 => if x then accept [(8, ckTy tyI3 (m / 128)), (8, decide (m / 16 % 8 = 0)), (8, decide (m % 8 = 0)), (3, decide (d < 64)), (3, decide (a < 64)), (2, decide (b = 0)), (2, decide (c = 0))] (.addiExt g (tyOf (m / 128)) (decide (m / 8 % 2 = 1)) d a (sgn lit 2147483648))
      else accept [(8, ckTy tyI3 (m / 128)), (8, decide (m / 16 % 8 = 0)), (8, decide (m % 8 = 0)), (3, decide (d < 64)), (3, decide (a < 64)), (2, decide (c = 0))] (.addiLong g (tyOf (m / 128)) (decide (m / 8 % 2 = 1)) d a (sgn b 256))
  | 0x003 => if x then .error 4 else accept [(8, ckTy tyI3 (m / 128)), (8, decide (m / 16 % 8 = 0)), (8, decide (m % 8 = 0)), (3, decide (d < 64)), (3, decide (a < 64)), (3, decide (b < 64)), (2, decide (c = 0))] (.mul g (tyOf (m / 128)) (decide (m / 8 % 2 = 1)) d a b)
  | 0x004 => if x then .error 4 else accept [(8, ckTy tyI2 (m / 128)), (8, decide (m / 16 % 8 = 0)), (8, decide (m / 8 % 2 = 0)), (8, decide (m % 8 = 0)), (3, decide (d < 64)), (3, decide (a < 64)), (3, decide (b < 64)), (2, decide (c = 0))] (.mulh g (tyOf (m / 128)) d a b)
  | 0x005 => if x then .error 4 else accept [(8, ckTy tyI2 (m / 128)), (8, decide (m / 16 % 8 = 0)), (8, decide (m / 8 % 2 = 0)), (8, decide (m % 8 = 0)), (3, decide (d < 64)), (3, decide (a < 64)), (3, decide (b < 64)), (2, decide (c = 0))] (.mulhu g (tyOf (m / 128)) d a b)
  | 0x006 => if x then .error 4 else accept [(8, ckTy tyI2 (m / 128)), (8, decide (m / 16 % 8 = 0)), (8, decide (m / 8 % 2 = 0)), (8, decide (m % 8 = 0)), (3, decide (d < 64)), (3, decide (a < 64)), (3, decide (b < 64)), (2, decide (c = 0))] (.div g (tyOf (m / 128)) d a b)
  | 0x007 => if x then .error 4 else accept [(8, ckTy tyI2 (m / 128)), (8, decide (m / 16 % 8 = 0)), (8, decide (m / 8 % 2 = 0)), (8, decide (m % 8 = 0)), (3, decide (d < 64)), (3, decide (a < 64)), (3, decide (b < 64)), (2, decide (c = 0))] (.divu g (tyOf (m / 128)) d a b)
  | 0x008 => if x then .error 4 else accept [(8, ckTy tyI2 (m / 128)), (8, decide (m / 16 % 8 = 0)), (8, decide (m / 8 % 2 = 0)), (8, decide (m % 8 = 0)), (3, decide (d < 64)), (3, decide (a < 64)), (3, decide (b < 64)), (2, decide (c = 0))] (.rem g (tyOf (m / 128)) d a b)
  | 0x009 => if x then .error 4 else accept [(8, ckTy tyI2 (m / 128)), (8, decide (m / 16 % 8 = 0)), (8, decide (m / 8 % 2 = 0)), (8, decide (m % 8 = 0)), (3, decide (d < 64)), (3, decide (a < 64)), (3, decide (b < 64)), (2, decide (c = 0))] (.remu g (tyOf (m / 128)) d a b)
  | 0x00a => if x then .error 4 else accept [(8, ckTy tyI2 (m / 128)), (8, decide (m / 16 % 8 = 0)), (8, decide (m / 8 % 2 = 0)), (8, decide (m % 8 = 0)), (3, decide (d < 64)), (3, decide (a < 64)), (3, decide (b < 64)), (2, decide (c = 0))] (.andLong g (tyOf (m / 128)) d a b)
  | 0x00b => if x then .error 4 else accept [(8, ckTy tyI2 (m / 128)), (8, decide (m / 16 % 8 = 0)), (8, decide (m / 8 % 2 = 0)), (8, decide (m % 8 = 0)), (3, decide (d < 64)), (3, decide (a < 64)), (3, decide (b < 64)), (2, decide (c = 0))] (.orLong g (tyOf (m / 128)) d a b)
  | 0x00c => if x then .error 4 else accept [(8, ckTy tyI2 (m / 128)), (8, decide (m / 16 % 8 = 0)), (8, decide (m / 8 % 2 = 0)), (8, decide (m % 8 = 0)), (3, decide (d < 64)), (3, decide (a < 64)), (3, decide (b < 64)), (2, decide (c = 0))] (.xorLong g (tyOf (m / 128)) d a b)
  | 0x00d => if x then .error 4 else accept [(8, ckTy tyI2 (m / 128)), (8, decide (m / 16 % 8 = 0)), (8, decide (m / 8 % 2 = 0)), (8, decide (m % 8 = 0)), (3, decide (d < 64)), (3, decide (a < 64)), (3, decide (b < 64)), (2, decide (c = 0))] (.andn g (tyOf (m / 128)) d a b)
  | 0x00e => if x then .error 4 else accept [(8, ckTy tyI2 (m / 128)), (8, decide (m / 16 % 8 = 0)), (8, decide (m / 8 % 2 = 0)), (8, decide (m % 8 = 0)), (3, decide (d < 64)), (3, decide (a < 64)), (3, decide (b < 64)), (2, decide (c = 0))] (.orn g (tyOf (m / 128)) d a b)
  | 0x00f => if x then .error 4 else accept [(8, ckTy tyI2 (m / 128)), (8, decide (m / 16 % 8 = 0)), (8, decide (m / 8 % 2 = 0)), (8, decide (m % 8 = 0)), (3, decide (d < 64)), (3, decide (a < 64)), (3, decide (b < 64)), (2, decide (c = 0))] (.shl g (tyOf (m / 128)) d a b)
  | 0x010 => if x then .error 4 else accept [(8, ckTy tyI2 (m / 128)), (8, decide (m / 16 % 8 = 0)), (8, decide (m / 8 % 2 = 0)), (8, decide (m % 8 = 0)), (3, decide (d < 64)), (3, decide (a < 64)), (2, decide (b < 64)), (9, !(decide (m / 128 = 1)) || decide (b < 32)), (2, decide (c = 0))] (.shliLong g (tyOf (m / 128)) d a b)
  | 0x011 => if x then .error 4 else accept [(8, ckTy tyI2 (m / 128)), (8, decide (m / 16 % 8 = 0)), (8, decide (m / 8 % 2 = 0)), (8, decide (m % 8 = 0)), (3, decide (d < 64)), (3, decide (a < 64)), (3, decide (b < 64)), (2, decide (c = 0))] (.shr g (tyOf (m / 128)) d a b)
  | 0x012 => if x then .error 4 else accept [(8, ckTy tyI2 (m / 128)), (8, decide (m / 16 % 8 = 0)), (8, decide (m / 8 % 2 = 0)), (8, decide (m % 8 = 0)), (3, decide (d < 64)), (3, decide (a < 64)), (2, decide (b < 64)), (9, !(decide (m / 128 = 1)) || decide (b < 32)), (2, decide (c = 0))] (.shriLong g (tyOf (m / 128)) d a b)
  | 0x013 => if x then .error 4 else accept [(8, ckTy tyI2 (m / 128)), (8, decide (m / 16 % 8 = 0)), (8, decide (m / 8 % 2 = 0)), (8, decide (m % 8 = 0)), (3, decide (d < 64)), (3, decide (a < 64)), (3, decide (b < 64)), (2, decide (c = 0))] (.sra g (tyOf (m / 128)) d a b)
  | 0x014 => if x then .error 4 else accept [(8, ckTy tyI2 (m / 128)), (8, decide (m / 16 % 8 = 0)), (8, decide (m / 8 % 2 = 0)), (8, decide (m % 8 = 0)), (3, decide (d < 64)), (3, decide (a < 64)), (2, decide (b < 64)), (9, !(decide (m / 128 = 1)) || decide (b < 32)), (2, decide (c = 0))] (.sraiLong g (tyOf (m / 128)) d a b)
  | 0x015 => if x then .error 4 else accept [(8, ckTy tyI2 (m / 128)), (8, decide (m / 16 % 8 = 0)), (8, decide (m / 8 % 2 = 0)), (8, decide (m % 8 = 0)), (3, decide (d < 64)), (3, decide (a < 64)), (3, decide (b < 64)), (2, decide (c = 0))] (.rotl g (tyOf (m / 128)) d a b)
  | 0x016 => if x then .error 4 else accept [(8, ckTy tyI2 (m / 128)), (8, decide (m / 16 % 8 = 0)), (8, decide (m / 8 % 2 = 0)), (8, decide (m % 8 = 0)), (3, decide (d < 64)), (3, decide (a < 64)), (3, decide (b < 64)), (2, decide (c = 0))] (.minLong g (tyOf (m / 128)) d a b)
  | 0x017 => if x then .error 4 else accept [(8, ckTy tyI2 (m / 128)), (8, decide (m / 16 % 8 = 0)), (8, decide (m / 8 % 2 = 0)), (8, decide (m % 8 = 0)), (3, decide (d < 64)), (3, decide (a < 64)), (3, decide (b < 64)), (2, decide (c = 0))] (.maxLong g (tyOf (m / 128)) d a b)
  | 0x018 => if x then .error 4 else accept [(8, ckTy tyI2 (m / 128)), (8, decide (m / 16 % 8 = 0)), (8, decide (m / 8 % 2 = 0)), (8, decide (m % 8 = 0)), (3, decide (d < 64)), (3, decide (a < 64)), (3, decide (b < 64)), (2, decide (c = 0))] (.minu g (tyOf (m / 128)) d a b)
  | 0x019 => if x then .error 4 else accept [(8, ckTy tyI2 (m / 128)), (8, decide (m / 16 % 8 = 0)), (8, decide (m / 8 % 2 = 0)), (8, decide (m % 8 = 0)), (3, decide (d < 64)), (3, decide (a < 64)), (3, decide (b < 64)), (2, decide (c = 0))] (.maxu g (tyOf (m / 128)) d a b)
  | 0x01a => if x then .error 4 else accept [(8, ckTy tyI2 (m / 128)), (8, decide (m / 16 % 8 = 0)), (8, decide (m / 8 % 2 = 0)), (8, decide (m % 8 = 0)), (3, decide (d < 64)), (3, decide (a < 64)), (2, decide (b = 0)), (2, decide (c = 0))] (.clz g (tyOf (m / 128)) d a)
  | 0x01b => if x then .error 4 else accept [(8, ckTy tyI2 (m / 128)), (8, decide (m / 16 % 8 = 0)), (8, decide (m / 8 % 2 = 0)), (8, decide (m % 8 = 0)), (3, decide (d < 64)), (3, decide (a < 64)), (2, decide (b = 0)), (2, decide (c = 0))] (.ctz g (tyOf (m / 128)) d a)
  | 0x01c => if x then .error 4 else accept [(8, ckTy tyI2 (m / 128)), (8, decide (m / 16 % 8 = 0)), (8, decide (m / 8 % 2 = 0)), (8, decide (m % 8 = 0)), (3, decide (d < 64)), (3, decide (a < 64)), (2, decide (b = 0)), (2, decide (c = 0))] (.popc g (tyOf (m / 128)) d a)
  | 0x01d => if x then .error 4 else accept [(8, ckTy tyI2 (m / 128)), (8, decide (m / 16 % 8 = 0)), (8, decide (m / 8 % 2 = 0)), (8, decide (m % 8 = 0)), (3, decide (d < 64)), (3, decide (a < 64)), (2, decide (b = 0)), (2, decide (c = 0))] (.brev g (tyOf (m / 128)) d a)
  | 0x01e => if x then .error 4 else accept [(9, decide (m % 64 + m / 64 + 1 ≤ 64)), (3, decide (d < 64)), (3, decide (a < 64)), (2, decide (b = 0)), (2, decide (c = 0))] (.bfx g (m % 64) (m / 64 + 1) d a)
  | 0x01f => if x then .error 4 else accept [(9, decide (m % 64 + m / 64 + 1 ≤ 64)), (3, decide (d < 64)), (3, decide (a < 64)), (2, decide (b = 0)), (2, decide (c = 0))] (.bfxu g (m % 64) (m / 64 + 1) d a)
  | 0x020 => if x then .error 4 else accept [(9, decide (m % 64 + m / 64 + 1 ≤ 64)), (3, decide (d < 64)), (3, decide (a < 64)), (2, decide (b = 0)), (2, decide (c = 0))] (.bfi g (m % 64) (m / 64 + 1) d a)
  | 0x021 => if x then .error 4 else accept [(2, decide (m < 128)), (9, decide (1 ≤ m ∧ m ≤ 64)), (3, decide (d < 64)), (3, decide (a < 64)), (2, decide (b = 0)), (2, decide (c = 0))] (.sext g m d a)
  | 0x022 => if x then .error 4 else accept [(2, decide (m < 128)), (9, decide (1 ≤ m ∧ m ≤ 64)), (3, decide (d < 64)), (3, decide (a < 64)), (2, decide (b = 0)), (2, decide (c = 0))] (.zext g m d a)
  | 0x023 => if x then .error 4 else accept [(8, decide (m / 128 = 0)), (8, decide (m / 16 % 8 = 0)), (8, decide (m / 8 % 2 = 0)), (8, decide (m % 8 = 0)), (3, decide (d < 64)), (3, decide (a < 64)), (3, decide (b < 64)), (3, decide (c < 16))] (.selLong g d a b c)
  | 0x024 => if x then .error 4 else accept [(8, decide (m / 128 = 0)), (8, decide (m / 16 % 8 = 0)), (8, decide (m / 8 % 2 = 0)), (8, decide (m % 8 = 0)), (3, decide (d < 64)), (3, decide (a < 64)), (2, decide (b = 0)), (2, decide (c = 0))] (.movLong g d a)
  | 0x025 => if x then accept [(8, decide (m / 128 = 0)), (8, decide (m / 16 % 8 = 0)), (8, decide (m / 8 % 2 = 0)), (8, decide (m % 8 = 0)), (3, decide (d < 64)), (2, decide (a = 0)), (2, decide (b = 0)), (2, decide (c = 0))] (.moviExt g d (sgn lit 2147483648))
      else accept [(8, decide (m / 128 = 0)), (8, decide (m / 16 % 8 = 0)), (8, decide (m / 8 % 2 = 0)), (8, decide (m % 8 = 0)), (3, decide (d < 64)), (2, decide (a = 0)), (2, decide (c = 0))] (.movi g d (sgn b 256))
  | 0x026 => if x then accept [(8, decide (m / 128 = 0)), (8, decide (m / 16 % 8 = 0)), (8, decide (m / 8 % 2 = 0)), (8, decide (m % 8 = 0)), (3, decide (d < 64)), (2, decide (a = 0)), (2, decide (b = 0)), (2, decide (c = 0))] (.movhiExt g d (sgn lit 2147483648))
      else accept [(8, decide (m / 128 = 0)), (8, decide (m / 16 % 8 = 0)), (8, decide (m / 8 % 2 = 0)), (8, decide (m % 8 = 0)), (3, decide (d < 64)), (2, decide (a = 0)), (2, decide (c = 0))] (.movhi g d (sgn b 256))
  | 0x027 => if x then accept [(2, decide (m % 8 = 0)), (8, ckTy tyI2 (m / 128)), (8, ckCond condCmp (m / 8 % 16)), (2, decide (d < 256)), (9, wfPair (d % 16) (d / 16 % 16)), (3, decide (a < 64)), (2, decide (b = 0)), (2, decide (c = 0))] (.cmpExt g (tyOf (m / 128)) (condOf (m / 8 % 16)) (d % 16) (d / 16 % 16) a (sgn lit 2147483648))
      else accept [(2, decide (m % 8 = 0)), (8, ckTy tyI2 (m / 128)), (8, ckCond condCmp (m / 8 % 16)), (2, decide (d < 256)), (9, wfPair (d % 16) (d / 16 % 16)), (3, decide (a < 64)), (3, decide (b < 64)), (2, decide (c = 0))] (.cmp g (tyOf (m / 128)) (condOf (m / 8 % 16)) (d % 16) (d / 16 % 16) a b)
  | 0x028 => if x then .error 4 else accept [(8, decide (m / 128 = 0)), (8, decide (m / 16 % 8 = 0)), (8, decide (m / 8 % 2 = 0)), (8, decide (m % 8 = 0)), (3, decide (d < 16)), (3, decide (a < 16)), (3, decide (b < 16)), (2, decide (c = 0))] (.pand g d a b)
  | 0x029 => if x then .error 4 else accept [(8, decide (m / 128 = 0)), (8, decide (m / 16 % 8 = 0)), (8, decide (m / 8 % 2 = 0)), (8, decide (m % 8 = 0)), (3, decide (d < 16)), (3, decide (a < 16)), (3, decide (b < 16)), (2, decide (c = 0))] (.por g d a b)
  | 0x02a => if x then .error 4 else accept [(8, decide (m / 128 = 0)), (8, decide (m / 16 % 8 = 0)), (8, decide (m / 8 % 2 = 0)), (8, decide (m % 8 = 0)), (3, decide (d < 16)), (3, decide (a < 16)), (3, decide (b < 16)), (2, decide (c = 0))] (.pxor g d a b)
  | 0x02b => if x then .error 4 else accept [(8, decide (m / 128 = 0)), (8, decide (m / 16 % 8 = 0)), (8, decide (m / 8 % 2 = 0)), (8, decide (m % 8 = 0)), (3, decide (d < 16)), (3, decide (a < 16)), (3, decide (b < 16)), (2, decide (c = 0))] (.pandn g d a b)
  | 0x02c => if x then .error 4 else accept [(8, decide (m / 128 = 0)), (8, decide (m / 16 % 8 = 0)), (8, decide (m / 8 % 2 = 0)), (8, decide (m % 8 = 0)), (2, decide (d = 0)), (3, decide (a < 64)), (3, decide (b < 64)), (2, decide (c = 0))] (.pset g a b)
  | 0x02d => if x then .error 4 else accept [(8, decide (m / 128 = 0)), (8, decide (m / 16 % 8 = 0)), (8, decide (m / 8 % 2 = 0)), (8, decide (m % 8 = 0)), (3, decide (d < 64)), (2, decide (a = 0)), (2, decide (b = 0)), (2, decide (c = 0))] (.pget g d)
  | 0x02e => if x then .error 4 else accept [(8, ckTy tyF4 (m / 128)), (8, ckRnd rnd4 (m / 16 % 8)), (8, decide (m / 8 % 2 = 0)), (8, decide (m % 8 = 0)), (3, decide (d < 64)), (3, decide (a < 64)), (3, decide (b < 64)), (2, decide (c = 0))] (.fadd g (tyOf (m / 128)) (rndOf (m / 16 % 8)) d a b)
  | 0x02f => if x then .error 4 else accept [(8, ckTy tyF4 (m / 128)), (8, ckRnd rnd4 (m / 16 % 8)), (8, decide (m / 8 % 2 = 0)), (8, decide (m % 8 = 0)), (3, decide (d < 64)), (3, decide (a < 64)), (3, decide (b < 64)), (2, decide (c = 0))] (.fsub g (tyOf (m / 128)) (rndOf (m / 16 % 8)) d a b)
  | 0x030 => if x then .error 4 else accept [(8, ckTy tyF4 (m / 128)), (8, ckRnd rnd4 (m / 16 % 8)), (8, decide (m / 8 % 2 = 0)), (8, decide (m % 8 = 0)), (3, decide (d < 64)), (3, decide (a < 64)), (3, decide (b < 64)), (2, decide (c = 0))] (.fmul g (tyOf (m / 128)) (rndOf (m / 16 % 8)) d a b)
  | 0x031 => if x then .error 4 else accept [(8, ckTy tyF4 (m / 128)), (8, ckRnd rnd4 (m / 16 % 8)), (8, decide (m / 8 % 2 = 0)), (8, decide (m % 8 = 0)), (3, decide (d < 64)), (3, decide (a < 64)), (3, decide (b < 64)), (3, decide (c < 64))] (.ffma g (tyOf (m / 128)) (rndOf (m / 16 % 8)) d a b c)
  | 0x032 => if x then .error 4 else accept [(8, ckTy tyF4 (m / 128)), (8, ckRnd rnd4 (m / 16 % 8)), (8, decide (m / 8 % 2 = 0)), (8, decide (m % 8 = 0)), (3, decide (d < 64)), (3, decide (a < 64)), (3, decide (b < 64)), (2, decide (c = 0))] (.fdiv g (tyOf (m / 128)) (rndOf (m / 16 % 8)) d a b)
  | 0x033 => if x then .error 4 else accept [(8, ckTy tyF4 (m / 128)), (8, ckRnd rnd4 (m / 16 % 8)), (8, decide (m / 8 % 2 = 0)), (8, decide (m % 8 = 0)), (3, decide (d < 64)), (3, decide (a < 64)), (2, decide (b = 0)), (2, decide (c = 0))] (.fsqrt g (tyOf (m / 128)) (rndOf (m / 16 % 8)) d a)
  | 0x034 => if x then .error 4 else accept [(8, ckTy tyF4 (m / 128)), (8, decide (m / 16 % 8 = 0)), (8, decide (m / 8 % 2 = 0)), (8, decide (m % 8 = 0)), (3, decide (d < 64)), (3, decide (a < 64)), (3, decide (b < 64)), (2, decide (c = 0))] (.fmin g (tyOf (m / 128)) d a b)
  | 0x035 => if x then .error 4 else accept [(8, ckTy tyF4 (m / 128)), (8, decide (m / 16 % 8 = 0)), (8, decide (m / 8 % 2 = 0)), (8, decide (m % 8 = 0)), (3, decide (d < 64)), (3, decide (a < 64)), (3, decide (b < 64)), (2, decide (c = 0))] (.fmax g (tyOf (m / 128)) d a b)
  | 0x036 => if x then .error 4 else accept [(8, ckTy tyF4 (m / 128)), (8, decide (m / 16 % 8 = 0)), (8, decide (m / 8 % 2 = 0)), (8, decide (m % 8 = 0)), (3, decide (d < 64)), (3, decide (a < 64)), (2, decide (b = 0)), (2, decide (c = 0))] (.fabs g (tyOf (m / 128)) d a)
  | 0x037 => if x then .error 4 else accept [(8, ckTy tyF4 (m / 128)), (8, decide (m / 16 % 8 = 0)), (8, decide (m / 8 % 2 = 0)), (8, decide (m % 8 = 0)), (3, decide (d < 64)), (3, decide (a < 64)), (2, decide (b = 0)), (2, decide (c = 0))] (.fneg g (tyOf (m / 128)) d a)
  | 0x038 => if x then .error 4 else accept [(2, decide (m % 8 = 0)), (8, ckTy tyF4 (m / 128)), (8, ckCond condFcmp (m / 8 % 16)), (2, decide (d < 256)), (9, wfPair (d % 16) (d / 16 % 16)), (3, decide (a < 64)), (3, decide (b < 64)), (2, decide (c = 0))] (.fcmp g (tyOf (m / 128)) (condOf (m / 8 % 16)) (d % 16) (d / 16 % 16) a b)
  | 0x039 => if x then .error 4 else accept [(8, ckTy tyF9 (m / 128)), (8, ckRnd rnd4 (m / 16 % 8)), (8, decide (m % 8 = 0)), (3, decide (d < 64)), (3, decide (a < 64)), (2, decide (b < 32)), (9, ckTy tyF9 b), (2, decide (c = 0))] (.fcvt g (tyOf (m / 128)) (rndOf (m / 16 % 8)) (decide (m / 8 % 2 = 1)) d a (tyOf b))
  | 0x03a => if x then .error 4 else accept [(8, ckTy tyF4 (m / 128)), (8, ckRnd rnd4 (m / 16 % 8)), (8, decide (m % 8 = 0)), (3, decide (d < 64)), (3, decide (a < 64)), (2, decide (b < 32)), (9, ckTy tyI4 b), (2, decide (c = 0))] (.icvt g (tyOf (m / 128)) (rndOf (m / 16 % 8)) (decide (m / 8 % 2 = 1)) d a (tyOf b))
  | 0x03b => if x then .error 4 else accept [(8, ckTy tyI4 (m / 128)), (8, ckRnd rnd4 (m / 16 % 8)), (8, decide (m / 8 % 2 = 0)), (8, decide (m % 8 = 0)), (3, decide (d < 64)), (3, decide (a < 64)), (2, decide (b < 32)), (9, ckTy tyF4 b), (2, decide (c = 0))] (.fcvti g (tyOf (m / 128)) (rndOf (m / 16 % 8)) d a (tyOf b))
  | 0x03c => if x then accept [(8, decide (m / 128 = 0)), (8, decide (m / 16 % 8 = 0)), (8, decide (m / 8 % 2 = 0)), (8, decide (m % 8 = 0)), (3, decide (d < 8)), (2, decide (a = 0)), (2, decide (b = 0)), (2, decide (c = 0)), (9, decide (lit % 4 = 0))] (.pbrExt g d (sgn lit 2147483648))
      else accept [(8, decide (m / 128 = 0)), (8, decide (m / 16 % 8 = 0)), (8, decide (m / 8 % 2 = 0)), (8, decide (m % 8 = 0)), (3, decide (d < 8)), (2, decide (a = 0)), (9, decide (b % 4 = 0)), (2, decide (c = 0))] (.pbr g d (sgn b 256))
  | 0x03d => if x then .error 4 else accept [(8, decide (m / 128 = 0)), (8, decide (m / 16 % 8 = 0)), (8, decide (m / 8 % 2 = 0)), (8, decide (m % 8 = 0)), (3, decide (d < 8)), (3, decide (a < 64)), (2, decide (b = 0)), (2, decide (c = 0))] (.pbrs g d a)
  | 0x03e => if x then .error 4 else accept [(8, decide (m / 128 = 0)), (8, decide (m / 16 % 8 = 0)), (8, decide (m / 8 % 2 = 0)), (8, decide (m % 8 = 0)), (2, decide (d = 0)), (3, decide (a < 8)), (2, decide (b = 0)), (2, decide (c = 0))] (.brLong g a)
  | 0x03f => if x then .error 4 else accept [(8, decide (m / 128 = 0)), (8, decide (m / 16 % 8 = 0)), (8, decide (m / 8 % 2 = 0)), (8, decide (m % 8 = 0)), (2, decide (d = 0)), (3, decide (a < 8)), (2, decide (b = 0)), (2, decide (c = 0))] (.callLong g a)
  | 0x040 => if x then .error 4 else accept [(8, decide (m / 128 = 0)), (8, decide (m / 16 % 8 = 0)), (8, decide (m / 8 % 2 = 0)), (8, decide (m % 8 = 0)), (3, decide (d < 64)), (3, decide (a < 8)), (2, decide (b = 0)), (2, decide (c = 0))] (.loop g d a)
  | 0x041 => if x then .error 4 else accept [(8, decide (m / 128 = 0)), (8, decide (m / 16 % 8 = 0)), (8, decide (m / 8 % 2 = 0)), (8, decide (m % 8 = 0)), (3, decide (d < 8)), (3, decide (a < 64)), (2, decide (b = 0)), (2, decide (c = 0))] (.movb g d a)
  | 0x042 => if x then .error 4 else accept [(8, decide (m / 128 = 0)), (8, decide (m / 16 % 8 = 0)), (8, decide (m / 8 % 2 = 0)), (8, decide (m % 8 = 0)), (3, decide (d < 64)), (3, decide (a < 8)), (2, decide (b = 0)), (2, decide (c = 0))] (.movsb g d a)
  | 0x043 => if x then .error 4 else accept [(8, decide (m / 128 = 0)), (8, decide (m / 16 % 8 = 0)), (8, decide (m / 8 % 2 = 0)), (8, decide (m % 8 = 0)), (2, decide (d = 0)), (2, decide (a = 0)), (2, decide (b = 0)), (2, decide (c = 0))] (.knextLong g)
  | 0x044 => if x then .error 4 else accept [(8, decide (m / 128 = 0)), (8, decide (m / 16 % 8 = 0)), (8, decide (m / 8 % 2 = 0)), (8, decide (m % 8 = 0)), (2, decide (d = 0)), (2, decide (a = 0)), (2, decide (b = 0)), (2, decide (c = 0))] (.tdoneLong g)
  | 0x045 => if x then .error 4 else accept [(8, decide (m / 128 = 0)), (8, decide (m / 16 % 8 = 0)), (8, decide (m / 8 % 2 = 0)), (8, decide (m % 8 = 0)), (2, decide (d = 0)), (2, decide (a = 0)), (2, decide (b = 0)), (2, decide (c = 0))] (.nopLong g)
  | 0x046 => if x then .error 4 else accept [(8, decide (m / 128 = 0)), (8, decide (m / 16 % 8 = 0)), (8, decide (m / 8 % 2 = 0)), (8, decide (m % 8 = 0)), (2, decide (d = 0)), (2, decide (a = 0)), (2, decide (b = 0)), (2, decide (c = 0))] (.brk g)
  | 0x047 => if x then accept [(8, decide (m / 128 = 0)), (8, decide (m / 16 % 8 = 0)), (8, decide (m / 8 % 2 = 0)), (8, decide (m % 8 = 0)), (2, decide (d = 0)), (2, decide (a = 0)), (2, decide (b = 0)), (2, decide (c = 0))] (.trapExt g (sgn lit 2147483648))
      else accept [(8, decide (m / 128 = 0)), (8, decide (m / 16 % 8 = 0)), (8, decide (m / 8 % 2 = 0)), (8, decide (m % 8 = 0)), (2, decide (d = 0)), (3, decide (a < 64)), (2, decide (b = 0)), (2, decide (c = 0))] (.trap g a)
  | 0x048 => if x then .error 4 else accept [(8, decide (m / 128 = 0)), (8, decide (m / 16 % 8 = 0)), (8, decide (m / 8 % 2 = 0)), (8, decide (m % 8 = 0)), (2, decide (d = 0)), (2, decide (a = 0)), (2, decide (b = 0)), (2, decide (c = 0))] (.eret g)
  | 0x049 => if x then .error 4 else accept [(9, sysReadable m), (3, decide (d < 64)), (2, decide (a = 0)), (2, decide (b = 0)), (2, decide (c = 0))] (.sysrd g m d)
  | 0x04a => if x then .error 4 else accept [(9, sysWritable m), (2, decide (d = 0)), (3, decide (a < 64)), (2, decide (b = 0)), (2, decide (c = 0))] (.syswr g m a)
  | 0x04b => if x then .error 4 else accept [(8, decide (m / 128 = 0)), (8, decide (m / 16 % 8 = 0)), (8, decide (m / 8 % 2 = 0)), (8, decide (m % 8 = 0)), (3, decide (d < 64)), (2, decide (a = 0)), (2, decide (b = 0)), (2, decide (c = 0))] (.rdclk g d)
  | 0x04c => if x then .error 4 else accept [(9, decide (m < 8)), (3, decide (d < 64)), (2, decide (a = 0)), (2, decide (b = 0)), (2, decide (c = 0))] (.rdid g m d)
  | 0x04d => if x then .error 4 else accept [(8, decide (m / 128 = 0)), (8, decide (m / 16 % 8 = 0)), (8, decide (m / 8 % 2 = 0)), (8, decide (m % 8 = 0)), (2, decide (d = 0)), (2, decide (a = 0)), (2, decide (b = 0)), (2, decide (c = 0))] (.wfe g)
  | 0x04e => if x then .error 4 else accept [(8, decide (m / 128 = 0)), (8, decide (m / 16 % 8 = 0)), (8, decide (m / 8 % 2 = 0)), (8, decide (m % 8 = 0)), (2, decide (d = 0)), (2, decide (a = 0)), (2, decide (b = 0)), (2, decide (c = 0))] (.yield g)
  | _ => .error 1

/-- Group B of the L and X opcode map (R248, R287, R288). -/
def decodeB (x : Bool) (op : Nat) (g : Guard) (d a b c m lit : Nat) : Except Nat Instr :=
  match op with
  | 0x100 => if x then .error 4 else accept [(8, decide (m / 128 = 0)), (8, decide (m / 16 % 8 = 0)), (8, decide (m / 8 % 2 = 0)), (8, decide (m % 8 = 0)), (3, decide (d < 256)), (3, decide (a < 64)), (2, decide (b = 0)), (2, decide (c = 0))] (.hbind g d a)
  | 0x101 => if x then .error 4 else accept [(8, decide (m / 128 = 0)), (8, decide (m / 16 % 8 = 0)), (8, decide (m / 8 % 2 = 0)), (8, decide (m % 8 = 0)), (3, decide (d < 256)), (2, decide (a = 0)), (2, decide (b = 0)), (2, decide (c = 0))] (.hunbind g d)
  | 0x102 => if x then .error 4 else accept [(8, decide (m / 128 = 0)), (8, decide (m / 16 % 8 = 0)), (8, decide (m / 8 % 2 = 0)), (8, decide (m % 8 = 0)), (3, decide (d < 64)), (3, decide (a < 256)), (9, decide (b ≤ 7)), (2, decide (c = 0))] (.hinfo g d a b)
  | 0x103 => if x then .error 4 else accept [(8, decide (m / 128 = 0)), (8, decide (m / 16 % 8 = 0)), (8, decide (m / 8 % 2 = 0)), (8, decide (m % 8 = 0)), (2, decide (d = 0)), (3, decide (a < 256)), (2, decide (b = 0)), (2, decide (c = 0))] (.seal g a)
  | 0x104 => if x then accept [(8, ckTy tyMem (m / 128)), (8, ckOrd ordLd (m / 16 % 8)), (8, decide (m / 8 % 2 = 0)), (8, decide (m % 8 ≤ 5)), (3, decide (d < 64)), (3, decide (a < 256)), (3, decide (b < 64)), (3, decide (c < 64)), (2, decide (lit < 16777216))] (.ldExt g (tyOf (m / 128)) (ordOf (m / 16 % 8)) (scopeOf (m % 8)) d a b c (lit % 64) (lit / 64 % 64) (lit / 4096 % 64) (lit / 262144 % 64))
      else accept [(8, ckTy tyMem (m / 128)), (8, ckOrd ordLd (m / 16 % 8)), (8, decide (m / 8 % 2 = 0)), (8, decide (m % 8 ≤ 5)), (3, decide (d < 64)), (3, decide (a < 256)), (3, decide (b < 64)), (3, decide (c < 64))] (.ldLong g (tyOf (m / 128)) (ordOf (m / 16 % 8)) (scopeOf (m % 8)) d a b c)
  | 0x105 => if x then accept [(8, ckTy tyMem (m / 128)), (8, ckOrd ordSt (m / 16 % 8)), (8, decide (m / 8 % 2 = 0)), (8, decide (m % 8 ≤ 5)), (3, decide (d < 64)), (3, decide (a < 256)), (3, decide (b < 64)), (3, decide (c < 64)), (2, decide (lit < 16777216))] (.stExt g (tyOf (m / 128)) (ordOf (m / 16 % 8)) (scopeOf (m % 8)) d a b c (lit % 64) (lit / 64 % 64) (lit / 4096 % 64) (lit / 262144 % 64))
      else accept [(8, ckTy tyMem (m / 128)), (8, ckOrd ordSt (m / 16 % 8)), (8, decide (m / 8 % 2 = 0)), (8, decide (m % 8 ≤ 5)), (3, decide (d < 64)), (3, decide (a < 256)), (3, decide (b < 64)), (3, decide (c < 64))] (.stLong g (tyOf (m / 128)) (ordOf (m / 16 % 8)) (scopeOf (m % 8)) d a b c)
  | 0x106 => if x then accept [(8, ckTy tyMem (m / 128)), (8, ckOrd ordLd (m / 16 % 8)), (8, decide (m / 8 % 2 = 0)), (8, decide (m % 8 ≤ 5)), (3, decide (d < 64)), (3, decide (a < 256)), (3, decide (b < 64)), (3, decide (c < 4)), (2, decide (lit < 1073741824))] (.ldaExt g (tyOf (m / 128)) (ordOf (m / 16 % 8)) (scopeOf (m % 8)) d a b c (lit / 16777216 % 64) (lit % 64) (lit / 64 % 64) (lit / 4096 % 64) (lit / 262144 % 64))
      else accept [(8, ckTy tyMem (m / 128)), (8, ckOrd ordLd (m / 16 % 8)), (8, decide (m / 8 % 2 = 0)), (8, decide (m % 8 ≤ 5)), (3, decide (d < 64)), (3, decide (a < 256)), (3, decide (b < 64)), (3, decide (c < 4))] (.ldaLong g (tyOf (m / 128)) (ordOf (m / 16 % 8)) (scopeOf (m % 8)) d a b c)
  | 0x107 => if x then .error 4 else accept [(8, decide (m / 128 = 0)), (8, decide (m / 16 % 8 = 0)), (8, decide (m / 8 % 2 = 0)), (8, decide (m % 8 = 0)), (3, decide (d < 4)), (2, decide (a = 0)), (2, decide (c = 0))] (.waitcLong g d b)
  | 0x108 => if x then accept [(8, decide (m / 128 = 0)), (8, ckOrd ordLd (m / 16 % 8)), (8, decide (m / 8 % 2 = 0)), (8, decide (m % 8 ≤ 5)), (3, decide (d < 320)), (3, decide (a < 256)), (3, decide (b < 64)), (3, decide (c < 64)), (2, decide (lit < 16777216))] (.vldExt g (ordOf (m / 16 % 8)) (scopeOf (m % 8)) d a b c (lit % 64) (lit / 64 % 64) (lit / 4096 % 64) (lit / 262144 % 64))
      else accept [(8, decide (m / 128 = 0)), (8, ckOrd ordLd (m / 16 % 8)), (8, decide (m / 8 % 2 = 0)), (8, decide (m % 8 ≤ 5)), (3, decide (d < 320)), (3, decide (a < 256)), (3, decide (b < 64)), (3, decide (c < 64))] (.vldLong g (ordOf (m / 16 % 8)) (scopeOf (m % 8)) d a b c)
  | 0x109 => if x then accept [(8, decide (m / 128 = 0)), (8, ckOrd ordSt (m / 16 % 8)), (8, decide (m / 8 % 2 = 0)), (8, decide (m % 8 ≤ 5)), (3, decide (d < 320)), (3, decide (a < 256)), (3, decide (b < 64)), (3, decide (c < 64)), (2, decide (lit < 16777216))] (.vstExt g (ordOf (m / 16 % 8)) (scopeOf (m % 8)) d a b c (lit % 64) (lit / 64 % 64) (lit / 4096 % 64) (lit / 262144 % 64))
      else accept [(8, decide (m / 128 = 0)), (8, ckOrd ordSt (m / 16 % 8)), (8, decide (m / 8 % 2 = 0)), (8, decide (m % 8 ≤ 5)), (3, decide (d < 320)), (3, decide (a < 256)), (3, decide (b < 64)), (3, decide (c < 64))] (.vstLong g (ordOf (m / 16 % 8)) (scopeOf (m % 8)) d a b c)
  | 0x10a => if x then accept [(8, decide (m / 128 = 0)), (8, ckOrd ordLd (m / 16 % 8)), (8, decide (m / 8 % 2 = 0)), (8, decide (m % 8 ≤ 5)), (3, decide (d < 320)), (3, decide (a < 256)), (3, decide (b < 64)), (3, decide (c < 4)), (2, decide (lit < 1073741824))] (.vldaExt g (ordOf (m / 16 % 8)) (scopeOf (m % 8)) d a b c (lit / 16777216 % 64) (lit % 64) (lit / 64 % 64) (lit / 4096 % 64) (lit / 262144 % 64))
      else accept [(8, decide (m / 128 = 0)), (8, ckOrd ordLd (m / 16 % 8)), (8, decide (m / 8 % 2 = 0)), (8, decide (m % 8 ≤ 5)), (3, decide (d < 320)), (3, decide (a < 256)), (3, decide (b < 64)), (3, decide (c < 4))] (.vlda g (ordOf (m / 16 % 8)) (scopeOf (m % 8)) d a b c)
  | 0x10b => if x then accept [(8, ckTy (tyAtom (rmwOf (d / 64))) (m / 128)), (8, ckOrd ordAll (m / 16 % 8)), (8, decide (m / 8 % 2 = 0)), (8, decide (m % 8 ≤ 5)), (9, decide (d / 64 < 7)), (3, decide (a < 256)), (3, decide (b < 64)), (3, decide (c < 64)), (2, decide (lit < 16777216))] (.atomExt g (tyOf (m / 128)) (ordOf (m / 16 % 8)) (scopeOf (m % 8)) (rmwOf (d / 64)) (d % 64) a b c (lit % 64) (lit / 64 % 64) (lit / 4096 % 64) (lit / 262144 % 64))
      else accept [(8, ckTy (tyAtom (rmwOf (d / 64))) (m / 128)), (8, ckOrd ordAll (m / 16 % 8)), (8, decide (m / 8 % 2 = 0)), (8, decide (m % 8 ≤ 5)), (9, decide (d / 64 < 7)), (3, decide (a < 256)), (3, decide (b < 64)), (3, decide (c < 64))] (.atom g (tyOf (m / 128)) (ordOf (m / 16 % 8)) (scopeOf (m % 8)) (rmwOf (d / 64)) (d % 64) a b c)
  | 0x10c => if x then accept [(8, ckTy tyI4 (m / 128)), (8, ckOrd ordAll (m / 16 % 8)), (8, decide (m / 8 % 2 = 0)), (8, decide (m % 8 ≤ 5)), (3, decide (d < 64)), (9, decide (d % 2 = 0)), (3, decide (a < 256)), (3, decide (b < 64)), (3, decide (c < 64)), (2, decide (lit < 16777216))] (.casExt g (tyOf (m / 128)) (ordOf (m / 16 % 8)) (scopeOf (m % 8)) d a b c (lit % 64) (lit / 64 % 64) (lit / 4096 % 64) (lit / 262144 % 64))
      else accept [(8, ckTy tyI4 (m / 128)), (8, ckOrd ordAll (m / 16 % 8)), (8, decide (m / 8 % 2 = 0)), (8, decide (m % 8 ≤ 5)), (3, decide (d < 64)), (9, decide (d % 2 = 0)), (3, decide (a < 256)), (3, decide (b < 64)), (3, decide (c < 64))] (.cas g (tyOf (m / 128)) (ordOf (m / 16 % 8)) (scopeOf (m % 8)) d a b c)
  | 0x10d => if x then accept [(8, ckTy (tyAtom (rmwOf (d / 64))) (m / 128)), (8, ckOrd ordSt (m / 16 % 8)), (8, decide (m / 8 % 2 = 0)), (8, decide (m % 8 ≤ 5)), (9, decide (d / 64 < 7 ∧ d / 64 ≠ 0)), (3, decide (a < 256)), (3, decide (b < 64)), (3, decide (c < 64)), (2, decide (lit < 16777216))] (.redExt g (tyOf (m / 128)) (ordOf (m / 16 % 8)) (scopeOf (m % 8)) (rmwOf (d / 64)) (d % 64) a b c (lit % 64) (lit / 64 % 64) (lit / 4096 % 64) (lit / 262144 % 64))
      else accept [(8, ckTy (tyAtom (rmwOf (d / 64))) (m / 128)), (8, ckOrd ordSt (m / 16 % 8)), (8, decide (m / 8 % 2 = 0)), (8, decide (m % 8 ≤ 5)), (9, decide (d / 64 < 7 ∧ d / 64 ≠ 0)), (3, decide (a < 256)), (3, decide (b < 64)), (3, decide (c < 64))] (.red g (tyOf (m / 128)) (ordOf (m / 16 % 8)) (scopeOf (m % 8)) (rmwOf (d / 64)) (d % 64) a b c)
  | 0x10e => if x then .error 4 else accept [(8, decide (m / 128 = 0)), (8, ckOrd ordFence (m / 16 % 8)), (8, decide (m / 8 % 2 = 0)), (8, decide (m % 8 ≤ 5)), (8, fenceScope (ordOf (m / 16 % 8)) (scopeOf (m % 8))), (2, decide (d = 0)), (2, decide (a = 0)), (2, decide (b = 0)), (2, decide (c = 0))] (.fence g (ordOf (m / 16 % 8)) (scopeOf (m % 8)))
  | 0x10f => if x then .error 4 else accept [(8, decide (m / 128 = 0)), (8, decide (m / 16 % 8 = 0)), (8, decide (m / 8 % 2 = 0)), (8, decide (m % 8 = 0)), (9, decide (d < 17)), (3, decide (a < 64)), (3, decide (b < 64)), (2, decide (c = 0))] (.binit g d a b)
  | 0x110 => if x then .error 4 else accept [(8, decide (m / 128 = 0)), (8, decide (m / 16 % 8 = 0)), (8, decide (m / 8 % 2 = 0)), (8, decide (m % 8 = 0)), (3, decide (d < 64)), (9, decide (a < 17)), (2, decide (b = 0)), (2, decide (c = 0))] (.barvLong g d a)
  | 0x111 => if x then .error 4 else accept [(8, decide (m / 128 = 0)), (8, decide (m / 16 % 8 = 0)), (8, decide (m / 8 % 2 = 0)), (8, decide (m % 8 = 0)), (2, decide (d = 0)), (9, decide (a < 17)), (3, decide (b < 64)), (2, decide (c = 0))] (.bwaitLong g a b)
  | 0x112 => if x then .error 4 else accept [(8, decide (m / 128 = 0)), (8, decide (m / 16 % 8 = 0)), (8, decide (m / 8 % 2 = 0)), (8, decide (m % 8 = 0)), (2, decide (d = 0)), (9, decide (a < 16)), (3, decide (b < 64)), (2, decide (c = 0))] (.bsync g a b)
  | 0x113 => if x then .error 4 else accept [(8, decide (m / 128 = 0)), (8, decide (m / 16 % 8 = 0)), (8, decide (m / 8 % 2 = 0)), (8, decide (m % 8 = 0)), (2, decide (d < 256)), (9, wfPair (d % 16) (d / 16 % 16)), (9, decide (a < 17)), (3, decide (b < 64)), (2, decide (c = 0))] (.btest g (d % 16) (d / 16 % 16) a b)
  | 0x114 => if x then .error 4 else accept [(8, decide (m / 128 = 0)), (8, decide (m / 16 % 8 = 0)), (8, decide (m / 8 % 2 = 0)), (8, decide (m % 8 = 0)), (3, decide (d < 32)), (3, decide (a < 64)), (3, decide (b < 64)), (2, decide (c = 0))] (.rinit g d a b)
  | 0x115 => if x then .error 4 else accept [(8, decide (m / 128 = 0)), (8, decide (m / 16 % 8 = 0)), (8, decide (m / 8 % 2 = 0)), (8, decide (m % 8 = 0)), (3, decide (d < 64)), (3, decide (a < 32)), (2, decide (b = 0)), (2, decide (c = 0))] (.rfreew g d a)
  | 0x116 => if x then .error 4 else accept [(8, decide (m / 128 = 0)), (8, decide (m / 16 % 8 = 0)), (8, decide (m / 8 % 2 = 0)), (8, decide (m % 8 = 0)), (2, decide (d = 0)), (3, decide (a < 32)), (3, decide (b < 64)), (2, decide (c = 0))] (.rpub g a b)
  | 0x117 => if x then .error 4 else accept [(8, decide (m / 128 = 0)), (8, decide (m / 16 % 8 = 0)), (8, decide (m / 8 % 2 = 0)), (8, decide (m % 8 = 0)), (3, decide (d < 64)), (3, decide (a < 32)), (2, decide (b = 0)), (2, decide (c = 0))] (.rfillw g d a)
  | 0x118 => if x then .error 4 else accept [(8, decide (m / 128 = 0)), (8, decide (m / 16 % 8 = 0)), (8, decide (m / 8 % 2 = 0)), (8, decide (m % 8 = 0)), (2, decide (d = 0)), (3, decide (a < 32)), (3, decide (b < 64)), (2, decide (c = 0))] (.rret g a b)
  | 0x119 => if x then .error 4 else accept [(8, decide (m / 128 = 0)), (8, decide (m / 16 % 8 = 0)), (8, decide (m / 8 % 2 = 0)), (8, decide (m % 8 = 0)), (3, decide (d < 64)), (3, decide (a < 32)), (9, decide (b ≤ 4)), (2, decide (c = 0))] (.rqry g d a b)
  | 0x11a => if x then .error 4 else accept [(8, decide (m / 128 = 0)), (8, decide (m / 16 % 8 = 0)), (8, decide (m / 8 % 2 = 0)), (8, decide (m % 8 = 0)), (3, decide (d < 16)), (3, decide (a < if d < 8 then 64 else 320)), (2, decide (b = 0)), (2, decide (c = 0))] (.qpushLong g d a)
  | 0x11b => if x then .error 4 else accept [(8, decide (m / 128 = 0)), (8, decide (m / 16 % 8 = 0)), (8, decide (m / 8 % 2 = 0)), (8, decide (m % 8 = 0)), (3, decide (d < if a < 8 then 64 else 320)), (3, decide (a < 16)), (2, decide (b = 0)), (2, decide (c = 0))] (.qpopLong g d a)
  | 0x11c => if x then .error 4 else accept [(8, decide (m / 128 = 0)), (8, decide (m / 16 % 8 = 0)), (8, decide (m / 8 % 2 = 0)), (8, decide (m % 8 = 0)), (2, decide (d < 256)), (9, wfPair (d % 16) (d / 16 % 16)), (3, decide (a < 16)), (9, decide (b ≤ 1)), (2, decide (c = 0))] (.qtst g (d % 16) (d / 16 % 16) a b)
  | 0x11d => if x then .error 4 else accept [(8, decide (m / 128 = 0)), (8, decide (m / 16 % 8 = 0)), (8, decide (m / 8 % 2 = 0)), (8, decide (m % 8 = 0)), (2, decide (d = 0)), (9, decide (a < 5)), (3, decide (b < 64)), (2, decide (c = 0))] (.waittLong g a b)
  | 0x11e => if x then .error 4 else accept [(8, decide (m / 128 = 0)), (8, decide (m / 16 % 8 = 0)), (8, decide (m / 8 % 2 = 0)), (8, decide (m % 8 = 0)), (3, decide (d < 64)), (9, decide (a < 5)), (3, decide (b < 64)), (2, decide (c = 0))] (.rdtl g d a b)
  | 0x11f => if x then .error 4 else accept [(8, decide (m / 128 = 0)), (8, decide (m / 16 % 8 = 0)), (8, decide (m / 8 % 2 = 0)), (8, decide (m % 8 = 0)), (3, decide (d < 320)), (9, decide (288 ≤ d)), (3, decide (a < 32)), (9, decide (b ≤ 1)), (2, decide (c = 0))] (.sbind g d a b)
  | 0x120 => if x then .error 4 else accept [(8, decide (m / 128 = 0)), (8, decide (m / 16 % 8 = 0)), (8, decide (m / 8 % 2 = 0)), (8, decide (m % 8 = 0)), (3, decide (d < 320)), (2, decide (a = 0)), (2, decide (b = 0)), (2, decide (c = 0))] (.sunbind g d)
  | 0x121 => if x then .error 4 else accept [(8, decide (m / 128 = 0)), (8, decide (m / 16 % 8 = 0)), (8, decide (m / 8 % 2 = 0)), (8, decide (m % 8 = 0)), (3, decide (d < 64)), (3, decide (a < 64)), (3, decide (b < 64)), (2, decide (c = 0))] (.tspawn g d a b)
  | 0x122 => if x then .error 4 else accept [(8, decide (m / 128 = 0)), (8, decide (m / 16 % 8 = 0)), (8, decide (m / 8 % 2 = 0)), (8, decide (m % 8 = 0)), (2, decide (d = 0)), (3, decide (a < 64)), (3, decide (b < 64)), (2, decide (c = 0))] (.req g a b)
  | 0x123 => if x then .error 4 else accept [(9, decide (m < 128 ∧ m % 8 ≤ 4 ∧ m / 8 % 16 ≤ 8)), (3, decide (d < 64)), (2, decide (a = 0)), (2, decide (b = 0)), (2, decide (c = 0))] (.ectl g (m % 8) (m / 8 % 16) d)
  | 0x124 => if x then .error 4 else accept [(8, decide (m / 128 = 0)), (8, decide (m / 16 % 8 = 0)), (8, decide (m / 8 % 2 = 0)), (8, decide (m % 8 = 0)), (2, decide (d < 256)), (9, wfPair (d % 16) (d / 16 % 16)), (3, decide (a < 32)), (9, decide (b ≤ 15)), (2, decide (c = 0))] (.zstat g (d % 16) (d / 16 % 16) a b)
  | _ => .error 1

/-- Group C of the L and X opcode map (R248, R318, R319). -/
def decodeC (x : Bool) (op : Nat) (g : Guard) (d a b c m lit : Nat) : Except Nat Instr :=
  match op with
  | 0x180 => if x then accept [(8, decide (m / 128 = 0)), (8, decide (m / 16 % 8 = 0)), (8, decide (m / 8 % 2 = 0)), (8, decide (m % 8 = 0)), (2, decide (d = 0)), (2, decide (a = 0)), (2, decide (b = 0)), (2, decide (c = 0)), (9, wfShape lit)] (.vshapeExt g lit)
      else accept [(8, decide (m / 128 = 0)), (8, decide (m / 16 % 8 = 0)), (8, decide (m / 8 % 2 = 0)), (8, decide (m % 8 = 0)), (2, decide (d = 0)), (3, decide (a < 64)), (2, decide (b = 0)), (2, decide (c = 0))] (.vshape g a)
  | 0x181 => if x then .error 4 else accept [(8, decide (m / 128 = 0)), (8, decide (m / 16 % 8 = 0)), (8, decide (m / 8 % 2 = 0)), (8, decide (m % 8 = 0)), (3, decide (d < 320)), (3, decide (a < 320)), (2, decide (b = 0)), (2, decide (c = 0))] (.vmovLong g d a)
  | 0x182 => if x then accept [(8, decide (m / 128 = 0)), (8, decide (m / 16 % 8 = 0)), (8, decide (m / 8 % 2 = 0)), (8, decide (m % 8 = 0)), (3, decide (d < 320)), (2, decide (a = 0)), (2, decide (b = 0)), (2, decide (c = 0))] (.vbcastExt g d (sgn lit 2147483648))
      else accept [(8, decide (m / 128 = 0)), (8, decide (m / 16 % 8 = 0)), (8, decide (m / 8 % 2 = 0)), (8, decide (m % 8 = 0)), (3, decide (d < 320)), (3, decide (a < 64)), (2, decide (b = 0)), (2, decide (c = 0))] (.vbcast g d a)
  | 0x183 => if x then .error 4 else accept [(8, decide (m / 128 = 0)), (8, decide (m / 16 % 8 = 0)), (8, decide (m / 8 % 2 = 0)), (8, decide (m % 8 = 0)), (3, decide (d < 64)), (3, decide (a < 320)), (3, decide (b < 64)), (2, decide (c = 0))] (.vext g d a b)
  | 0x184 => if x then .error 4 else accept [(8, decide (m / 128 = 0)), (8, decide (m / 16 % 8 = 0)), (8, decide (m / 8 % 2 = 0)), (8, decide (m % 8 = 0)), (3, decide (d < 320)), (3, decide (a < 64)), (3, decide (b < 64)), (2, decide (c = 0))] (.vins g d a b)
  | 0x185 => if x then .error 4 else accept [(8, decide (m / 128 = 0)), (8, ckRnd rnd5 (m / 16 % 8)), (8, decide (m / 8 % 2 = 0)), (8, decide (m % 8 = 0)), (3, decide (d < 320)), (3, decide (a < 320)), (3, decide (b < 320)), (2, decide (c = 0))] (.vaddLong g (rndOf (m / 16 % 8)) d a b)
  | 0x186 => if x then .error 4 else accept [(8, decide (m / 128 = 0)), (8, ckRnd rnd5 (m / 16 % 8)), (8, decide (m / 8 % 2 = 0)), (8, decide (m % 8 = 0)), (3, decide (d < 320)), (3, decide (a < 320)), (3, decide (b < 320)), (2, decide (c = 0))] (.vsubLong g (rndOf (m / 16 % 8)) d a b)
  | 0x187 => if x then .error 4 else accept [(8, decide (m / 128 = 0)), (8, ckRnd rnd5 (m / 16 % 8)), (8, decide (m / 8 % 2 = 0)), (8, decide (m % 8 = 0)), (3, decide (d < 320)), (3, decide (a < 320)), (3, decide (b < 320)), (2, decide (c = 0))] (.vmulLong g (rndOf (m / 16 % 8)) d a b)
  | 0x188 => if x then .error 4 else accept [(8, decide (m / 128 = 0)), (8, ckRnd rnd5 (m / 16 % 8)), (8, decide (m / 8 % 2 = 0)), (8, decide (m % 8 = 0)), (3, decide (d < 320)), (3, decide (a < 320)), (3, decide (b < 320)), (3, decide (c < 320))] (.vfmaLong g (rndOf (m / 16 % 8)) d a b c)
  | 0x189 => if x then .error 4 else accept [(8, decide (m / 128 = 0)), (8, decide (m / 16 % 8 = 0)), (8, decide (m / 8 % 2 = 0)), (8, decide (m % 8 = 0)), (3, decide (d < 320)), (3, decide (a < 320)), (3, decide (b < 320)), (2, decide (c = 0))] (.vmin g d a b)
  | 0x18a => if x then .error 4 else accept [(8, decide (m / 128 = 0)), (8, decide (m / 16 % 8 = 0)), (8, decide (m / 8 % 2 = 0)), (8, decide (m % 8 = 0)), (3, decide (d < 320)), (3, decide (a < 320)), (3, decide (b < 320)), (2, decide (c = 0))] (.vmax g d a b)
  | 0x18b => if x then .error 4 else accept [(8, decide (m / 128 = 0)), (8, decide (m / 16 % 8 = 0)), (8, decide (m / 8 % 2 = 0)), (8, decide (m % 8 = 0)), (3, decide (d < 320)), (3, decide (a < 320)), (2, decide (b = 0)), (2, decide (c = 0))] (.vabs g d a)
  | 0x18c => if x then .error 4 else accept [(8, decide (m / 128 = 0)), (8, decide (m / 16 % 8 = 0)), (8, decide (m / 8 % 2 = 0)), (8, decide (m % 8 = 0)), (3, decide (d < 320)), (3, decide (a < 320)), (2, decide (b = 0)), (2, decide (c = 0))] (.vneg g d a)
  | 0x18d => if x then .error 4 else accept [(8, decide (m / 128 = 0)), (8, ckRnd rnd4 (m / 16 % 8)), (8, decide (m / 8 % 2 = 0)), (8, decide (m % 8 = 0)), (3, decide (d < 320)), (3, decide (a < 320)), (2, decide (b = 0)), (2, decide (c = 0))] (.vrcp g (rndOf (m / 16 % 8)) d a)
  | 0x18e => if x then .error 4 else accept [(8, decide (m / 128 = 0)), (8, ckRnd rnd4 (m / 16 % 8)), (8, decide (m / 8 % 2 = 0)), (8, decide (m % 8 = 0)), (3, decide (d < 320)), (3, decide (a < 320)), (2, decide (b = 0)), (2, decide (c = 0))] (.vrsq g (rndOf (m / 16 % 8)) d a)
  | 0x18f => if x then .error 4 else accept [(8, decide (m / 128 = 0)), (8, ckRnd rnd4 (m / 16 % 8)), (8, decide (m / 8 % 2 = 0)), (8, decide (m % 8 = 0)), (3, decide (d < 320)), (3, decide (a < 320)), (3, decide (b < 320)), (2, decide (c = 0))] (.vdiv g (rndOf (m / 16 % 8)) d a b)
  | 0x190 => if x then .error 4 else accept [(8, decide (m / 128 = 0)), (8, ckRnd rnd4 (m / 16 % 8)), (8, decide (m / 8 % 2 = 0)), (8, decide (m % 8 = 0)), (3, decide (d < 320)), (3, decide (a < 320)), (2, decide (b = 0)), (2, decide (c = 0))] (.vsqrt g (rndOf (m / 16 % 8)) d a)
  | 0x191 => if x then .error 4 else accept [(8, decide (m / 128 = 0)), (8, decide (m / 16 % 8 = 0)), (8, decide (m % 8 = 0)), (3, decide (d < 320)), (3, decide (a < 320)), (3, decide (b < 320)), (2, decide (c = 0))] (.viadd g (decide (m / 8 % 2 = 1)) d a b)
  | 0x192 => if x then .error 4 else accept [(8, decide (m / 128 = 0)), (8, decide (m / 16 % 8 = 0)), (8, decide (m % 8 = 0)), (3, decide (d < 320)), (3, decide (a < 320)), (3, decide (b < 320)), (2, decide (c = 0))] (.visub g (decide (m / 8 % 2 = 1)) d a b)
  | 0x193 => if x then .error 4 else accept [(8, decide (m / 128 = 0)), (8, decide (m / 16 % 8 = 0)), (8, decide (m % 8 = 0)), (3, decide (d < 320)), (3, decide (a < 320)), (3, decide (b < 320)), (2, decide (c = 0))] (.vimul g (decide (m / 8 % 2 = 1)) d a b)
  | 0x194 => if x then .error 4 else accept [(8, decide (m / 128 = 0)), (8, decide (m / 16 % 8 = 0)), (8, decide (m / 8 % 2 = 0)), (8, decide (m % 8 = 0)), (3, decide (d < 320)), (3, decide (a < 320)), (3, decide (b < 320)), (2, decide (c = 0))] (.vimin g d a b)
  | 0x195 => if x then .error 4 else accept [(8, decide (m / 128 = 0)), (8, decide (m / 16 % 8 = 0)), (8, decide (m / 8 % 2 = 0)), (8, decide (m % 8 = 0)), (3, decide (d < 320)), (3, decide (a < 320)), (3, decide (b < 320)), (2, decide (c = 0))] (.vimax g d a b)
  | 0x196 => if x then .error 4 else accept [(8, decide (m / 128 = 0)), (8, decide (m / 16 % 8 = 0)), (8, decide (m / 8 % 2 = 0)), (8, decide (m % 8 = 0)), (3, decide (d < 320)), (3, decide (a < 320)), (3, decide (b < 320)), (2, decide (c = 0))] (.vand g d a b)
  | 0x197 => if x then .error 4 else accept [(8, decide (m / 128 = 0)), (8, decide (m / 16 % 8 = 0)), (8, decide (m / 8 % 2 = 0)), (8, decide (m % 8 = 0)), (3, decide (d < 320)), (3, decide (a < 320)), (3, decide (b < 320)), (2, decide (c = 0))] (.vor g d a b)
  | 0x198 => if x then .error 4 else accept [(8, decide (m / 128 = 0)), (8, decide (m / 16 % 8 = 0)), (8, decide (m / 8 % 2 = 0)), (8, decide (m % 8 = 0)), (3, decide (d < 320)), (3, decide (a < 320)), (3, decide (b < 320)), (2, decide (c = 0))] (.vxor g d a b)
  | 0x199 => if x then .error 4 else accept [(8, decide (m / 128 = 0)), (8, decide (m / 16 % 8 = 0)), (8, decide (m / 8 % 2 = 0)), (8, decide (m % 8 = 0)), (3, decide (d < 320)), (3, decide (a < 320)), (3, decide (b < 320)), (2, decide (c = 0))] (.vshl g d a b)
  | 0x19a => if x then .error 4 else accept [(8, decide (m / 128 = 0)), (8, decide (m / 16 % 8 = 0)), (8, decide (m / 8 % 2 = 0)), (8, decide (m % 8 = 0)), (3, decide (d < 320)), (3, decide (a < 320)), (3, decide (b < 320)), (2, decide (c = 0))] (.vshr g d a b)
  | 0x19b => if x then .error 4 else accept [(8, decide (m / 128 = 0)), (8, decide (m / 16 % 8 = 0)), (8, decide (m / 8 % 2 = 0)), (8, decide (m % 8 = 0)), (3, decide (d < 320)), (3, decide (a < 320)), (3, decide (b < 320)), (2, decide (c = 0))] (.vsra g d a b)
  | 0x19c => if x then .error 4 else accept [(8, decide (m % 8 = 0)), (8, decide (m / 128 = 0)), (8, ckCond condAll (m / 8 % 16)), (2, decide (d < 256)), (9, wfPair (d % 16) (d / 16 % 16)), (3, decide (a < 320)), (3, decide (b < 320)), (3, decide (c < 320))] (.vcmp g (condOf (m / 8 % 16)) (d % 16) (d / 16 % 16) a b c)
  | 0x19d => if x then .error 4 else accept [(8, decide (m / 128 = 0)), (8, decide (m / 16 % 8 = 0)), (8, decide (m / 8 % 2 = 0)), (8, decide (m % 8 = 0)), (3, decide (d < 320)), (3, decide (a < 320)), (3, decide (b < 320)), (3, decide (c < 320))] (.vsel g d a b c)
  | 0x19e => if x then .error 4 else accept [(8, decide (m / 128 = 0)), (8, ckRnd rnd4 (m / 16 % 8)), (8, decide (m / 8 % 2 = 0)), (8, decide (m % 8 = 0)), (3, decide (d < 320)), (3, decide (a < 320)), (2, decide (b < 32)), (9, decide (b % 16 ≤ 5)), (2, decide (c = 0))] (.vred g (rndOf (m / 16 % 8)) d a (decide (b / 16 % 2 = 1)) (b % 16))
  | 0x19f => if x then .error 4 else accept [(8, decide (m / 128 = 0)), (8, ckRnd rnd4 (m / 16 % 8)), (8, decide (m / 8 % 2 = 0)), (8, decide (m % 8 = 0)), (3, decide (d < 320)), (3, decide (a < 320)), (2, decide (b < 32)), (9, decide (b % 16 ≤ 5)), (2, decide (c = 0))] (.vscan g (rndOf (m / 16 % 8)) d a (decide (b / 16 % 2 = 1)) (b % 16))
  | 0x1a0 => if x then .error 4 else accept [(8, decide (m / 128 = 0)), (8, decide (m / 16 % 8 = 0)), (8, decide (m / 8 % 2 = 0)), (8, decide (m % 8 = 0)), (3, decide (d < 320)), (3, decide (a < 320)), (2, decide (b = 0)), (2, decide (c = 0))] (.vtrn g d a)
  | 0x1a1 => if x then .error 4 else accept [(8, decide (m / 128 = 0)), (8, decide (m / 16 % 8 = 0)), (8, decide (m / 8 % 2 = 0)), (8, decide (m % 8 = 0)), (3, decide (d < 320)), (3, decide (a < 320)), (3, decide (b < 320)), (2, decide (c = 0))] (.vperm g d a b)
  | 0x1a2 => if x then .error 4 else accept [(8, decide (m / 128 = 0)), (8, decide (m / 16 % 8 = 0)), (8, decide (m / 8 % 2 = 0)), (8, decide (m % 8 = 0)), (3, decide (d < 320)), (3, decide (a < 320)), (3, decide (b < 64)), (2, decide (c = 0))] (.vrot g d a b)
  | 0x1a3 => if x then .error 4 else accept [(8, decide (m / 128 = 0)), (8, decide (m / 16 % 8 = 0)), (8, decide (m / 8 % 2 = 0)), (8, decide (m % 8 = 0)), (3, decide (d < 320)), (3, decide (a < 320)), (3, decide (b < 320)), (3, decide (c < 320))] (.vdot g d a b c)
  | 0x1a4 => if x then .error 4 else accept [(8, ckTy tyPlain (m / 128)), (8, ckRnd rnd4 (m / 16 % 8)), (8, decide (m % 8 = 0)), (3, decide (d < 320)), (3, decide (a < 320)), (2, decide (b = 0)), (2, decide (c = 0))] (.vcvt g (tyOf (m / 128)) (rndOf (m / 16 % 8)) (decide (m / 8 % 2 = 1)) d a)
  | 0x1a5 => if x then .error 4 else accept [(8, ckTy tyMx (m / 128)), (8, decide (m / 16 % 8 = 0)), (8, decide (m / 8 % 2 = 0)), (8, decide (m % 8 = 0)), (3, decide (d < 320)), (3, decide (a < 320)), (2, decide (b = 0)), (2, decide (c = 0))] (.vqmx g (tyOf (m / 128)) d a)
  | 0x1a6 => if x then .error 4 else accept [(8, ckTy tyDx (m / 128)), (8, decide (m / 16 % 8 = 0)), (8, decide (m / 8 % 2 = 0)), (8, decide (m % 8 = 0)), (3, decide (d < 320)), (3, decide (a < 320)), (2, decide (b = 0)), (2, decide (c = 0))] (.vqdx g (tyOf (m / 128)) d a)
  | 0x1a7 => if x then .error 4 else accept [(8, decide (m / 128 = 0)), (8, decide (m / 16 % 8 = 0)), (8, decide (m / 8 % 2 = 0)), (8, decide (m % 8 = 0)), (3, decide (d < 320)), (3, decide (a < 320)), (2, decide (c = 0))] (.vresc g d a (sgn b 256))
  | 0x1a8 => if x then .error 4 else accept [(8, decide (m / 128 = 0)), (8, decide (m / 16 % 8 = 0)), (8, decide (m / 8 % 2 = 0)), (8, decide (m % 8 = 0)), (3, decide (d < 320)), (3, decide (a < 32)), (3, decide (b < 64)), (2, decide (c = 0))] (.vzld g d a b)
  | 0x1a9 => if x then .error 4 else accept [(8, decide (m / 128 = 0)), (8, decide (m / 16 % 8 = 0)), (8, decide (m / 8 % 2 = 0)), (8, decide (m % 8 = 0)), (3, decide (d < 32)), (3, decide (a < 320)), (3, decide (b < 64)), (2, decide (c = 0))] (.vzst g d a b)
  | 0x1aa => if x then .error 4 else accept [(8, decide (m / 128 = 0)), (8, decide (m / 16 % 8 = 0)), (8, decide (m / 8 % 2 = 0)), (8, decide (m % 8 = 0)), (3, decide (d < 4)), (3, decide (a < 256)), (3, decide (b < 64)), (2, decide (c = 0))] (.pfload g d a b)
  | 0x1ab => if x then .error 4 else accept [(8, decide (m / 128 = 0)), (8, decide (m / 16 % 8 = 0)), (8, decide (m / 8 % 2 = 0)), (8, decide (m % 8 = 0)), (3, decide (d < 320)), (3, decide (a < 320)), (3, decide (b < 4)), (2, decide (c = 0))] (.pfeval g d a b)
  | _ => .error 1

/-- The L and X opcode map (R248). -/
def decodeLX (x : Bool) (op : Nat) (g : Guard) (d a b c m lit : Nat) : Except Nat Instr :=
  if op < 0x100 then decodeA x op g d a b c m lit
  else if op < 0x180 then decodeB x op g d a b c m lit
  else decodeC x op g d a b c m lit

/-- A wait or post spec word (R243). -/
def specOf (w : Nat) : Spec := ⟨bitsAt w 30 2, bitsAt w 24 6, bitsAt w 0 16⟩

/-- A capture entry byte (R244). -/
def captOf (e : Nat) : Option Nat := if bitsAt e 7 1 = 1 then some (bitsAt e 0 6) else none

/-- Reserved bits of a capture entry: bit 6, and all of it when V = 0 (R244). -/
def captReserved (e : Nat) : Bool := decide (bitsAt e 6 1 = 0) && (decide (bitsAt e 7 1 = 1) || decide (e = 0))

/-- The 16-byte header as a number (R242). -/
def hdrOf (w : Nat) : RecHdr :=
  { guard := ⟨bitsAt w 3 4, decide (bitsAt w 2 1 = 1)⟩
    qsel := bitsAt w 24 3
    wait := specOf (bitsAt w 32 32)
    post := specOf (bitsAt w 64 32)
    capt0 := captOf (bitsAt w 96 8)
    capt1 := captOf (bitsAt w 104 8)
    capt2 := captOf (bitsAt w 112 8)
    capt3 := captOf (bitsAt w 120 8) }

/-- The reserved bits of a header are zero (R242 to R244); `endBit` is the value the END bit must have. -/
def hdrReserved (w : Nat) (endBit : Nat) : Bool :=
  decide (bitsAt w 7 1 = 0) && decide (bitsAt w 16 1 = endBit) && decide (bitsAt w 17 7 = 0) &&
  decide (bitsAt w 27 5 = 0) && decide (bitsAt w 48 8 = 0) && decide (bitsAt w 80 8 = 0) &&
  (decide (bitsAt w 62 2 ≠ 0) || decide (bitsAt w 32 32 = 0)) &&
  decide (bitsAt w 64 16 = 0) && (decide (bitsAt w 94 2 ≠ 0) || decide (bitsAt w 64 32 = 0)) &&
  captReserved (bitsAt w 96 8) && captReserved (bitsAt w 104 8) &&
  captReserved (bitsAt w 112 8) && captReserved (bitsAt w 120 8)

/-- The constructor of an N record by ENG and OP (R249). -/
def recordOf (eng op : Nat) : Option (RecHdr → BitVec 384 → Instr) :=
  match eng, op with
  | 0, 0 => some .mma
  | 0, 1 => some .ocon
  | 0, 2 => some .mdrain
  | 0, 3 => some .mclr
  | 1, 0 => some .cpy
  | 1, 1 => some .cpys
  | 1, 2 => some .cfill
  | 2, 0 => some .gath
  | 2, 1 => some .scat
  | 2, 2 => some .merg
  | 2, 3 => some .topk
  | 2, 4 => some .cmpt
  | 3, 0 => some .nbin
  | 3, 1 => some .nstrm
  | 15, 0 => some .chain
  | 15, 1 => some .rnop
  | _, _ => none

/-- An N record of 64 bytes as a number, whose END bit must be `endBit` (R242, R249). -/
def decodeN (endBit : Nat) (w : Nat) : Except Nat Instr :=
  match recordOf (bitsAt w 8 4) (bitsAt w 12 4) with
  | none => .error 6
  | some mk =>
    let h := hdrOf w
    accept [(2, hdrReserved w endBit), (9, wfHdr (bitsAt w 8 4) h)] (mk h (BitVec.ofNat 384 (w / 2 ^ 128)))

/-- The instruction at byte offset `off` of a 64-byte line, whose bytes from there are the number `w` (R235, R236, R250). -/
def decodeAt (off : Nat) (w : Nat) : Except Nat Instr :=
  let g : Guard := ⟨bitsAt w 3 4, decide (bitsAt w 2 1 = 1)⟩
  match w % 4 with
  | 0 => if off + 4 > 64 then .error 7
         else decodeS (bitsAt w 7 7) g (bitsAt w 14 6) (bitsAt w 20 6) (bitsAt w 26 6)
  | 1 => if off + 8 > 64 then .error 7
         else decodeLX false (bitsAt w 7 9) g (bitsAt w 16 9) (bitsAt w 25 9) (bitsAt w 34 9) (bitsAt w 43 9)
                (bitsAt w 52 12) 0
  | 2 => if off + 12 > 64 then .error 7
         else decodeLX true (bitsAt w 7 9) g (bitsAt w 16 9) (bitsAt w 25 9) (bitsAt w 34 9) (bitsAt w 43 9)
                (bitsAt w 52 12) (bitsAt w 64 32)
  | _ => if off ≠ 0 then .error 5 else decodeN 0 (w % 2 ^ 512)

/-- Little-endian bytes as a number (R5). -/
def leNat : List Byte → Nat
  | [] => 0
  | b :: bs => b.toNat + 256 * leNat bs

/-- Decoding of any bytes at offset `off` of a line: an instruction or the ILLOP subcode (R250). -/
def decode (off : Nat) (bs : List Byte) : Except Nat Instr := decodeAt off (leNat bs)

/-- The length in bytes of the instruction whose first byte is `b` (R235). -/
def lengthOf (b : Nat) : Nat := match b % 4 with | 0 => 4 | 1 => 8 | 2 => 12 | _ => 64

/-- The `n` low bytes of a number, lowest first. -/
def leBytes : Nat → Nat → List Byte
  | 0, _ => []
  | n + 1, w => BitVec.ofNat 8 w :: leBytes n (w / 256)

/-- What the decoder reads from an instruction whose bits are `w`, at the start of a line: the bytes of `w`, low first,
with zeros above (64 bytes hold the longest instruction). -/
def decodeTableWord (nbits w : Nat) : Option Instr :=
  match decode 0 (leBytes 64 (w % 2 ^ nbits)) with
  | .ok i => some i
  | .error _ => none

/-- The low bits of an S, L or X word: length code, guard and opcode base. -/
def packGuard (len : Nat) (g : Guard) : Nat := len + 4 * g.n.toNat + 8 * g.g

/-- An S word (R237). -/
def packS (g : Guard) (op d a b : Nat) : Nat :=
  packGuard 0 g + 128 * op + 16384 * d + 1048576 * a + 67108864 * b

/-- The 64 low bits of an L or X word (R238). -/
def packL (len : Nat) (g : Guard) (op d a b c m : Nat) : Nat :=
  packGuard len g + 128 * op + 65536 * d + 33554432 * a + 17179869184 * b + 8796093022208 * c +
  4503599627370496 * m

/-- A spec word (R243). -/
def packSpec (s : Spec) : Nat := s.count + 16777216 * s.obj + 1073741824 * s.kind

/-- A capture entry byte (R244). -/
def packCapt : Option Nat → Nat | none => 0 | some r => 128 + r

/-- The 64 bytes of an N record (R242 to R244). -/
def encodeN (eng op : Nat) (h : RecHdr) (body : BitVec 384) : Nat :=
  packGuard 3 h.guard + 2 ^ 8 * eng + 2 ^ 12 * op + 2 ^ 24 * h.qsel + 2 ^ 32 * packSpec h.wait +
  2 ^ 64 * packSpec h.post + 2 ^ 96 * packCapt h.capt0 + 2 ^ 104 * packCapt h.capt1 +
  2 ^ 112 * packCapt h.capt2 + 2 ^ 120 * packCapt h.capt3 + 2 ^ 128 * body.toNat


/-- The encoding of an instruction (R235 to R249): its length in bits and its bits, the first byte lowest; an event has
no encoding. -/
def encode : Instr → Option (Nat × Nat)
  | .add g d a b => some (32, packS g 0x00 (d) (a) (b))
  | .addLong g ty sat d a b => some (64, packL 1 g 0x000 (d) (a) (b) (0) (128 * ty.code + 8 * sat.toNat))
  | .sub g d a b => some (32, packS g 0x01 (d) (a) (b))
  | .subLong g ty sat d a b => some (64, packL 1 g 0x001 (d) (a) (b) (0) (128 * ty.code + 8 * sat.toNat))
  | .addi g d a imm => some (32, packS g 0x02 (d) (a) (uns imm 64))
  | .addiLong g ty sat d a imm => some (64, packL 1 g 0x002 (d) (a) (uns imm 512) (0) (128 * ty.code + 8 * sat.toNat))
  | .addiExt g ty sat d a imm => some (96, packL 2 g 0x002 (d) (a) (0) (0) (128 * ty.code + 8 * sat.toNat) + 18446744073709551616 * (uns imm 4294967296))
  | .mul g ty sat d a b => some (64, packL 1 g 0x003 (d) (a) (b) (0) (128 * ty.code + 8 * sat.toNat))
  | .mulh g ty d a b => some (64, packL 1 g 0x004 (d) (a) (b) (0) (128 * ty.code))
  | .mulhu g ty d a b => some (64, packL 1 g 0x005 (d) (a) (b) (0) (128 * ty.code))
  | .div g ty d a b => some (64, packL 1 g 0x006 (d) (a) (b) (0) (128 * ty.code))
  | .divu g ty d a b => some (64, packL 1 g 0x007 (d) (a) (b) (0) (128 * ty.code))
  | .rem g ty d a b => some (64, packL 1 g 0x008 (d) (a) (b) (0) (128 * ty.code))
  | .remu g ty d a b => some (64, packL 1 g 0x009 (d) (a) (b) (0) (128 * ty.code))
  | .and g d a b => some (32, packS g 0x03 (d) (a) (b))
  | .andLong g ty d a b => some (64, packL 1 g 0x00a (d) (a) (b) (0) (128 * ty.code))
  | .or g d a b => some (32, packS g 0x04 (d) (a) (b))
  | .orLong g ty d a b => some (64, packL 1 g 0x00b (d) (a) (b) (0) (128 * ty.code))
  | .xor g d a b => some (32, packS g 0x05 (d) (a) (b))
  | .xorLong g ty d a b => some (64, packL 1 g 0x00c (d) (a) (b) (0) (128 * ty.code))
  | .andn g ty d a b => some (64, packL 1 g 0x00d (d) (a) (b) (0) (128 * ty.code))
  | .orn g ty d a b => some (64, packL 1 g 0x00e (d) (a) (b) (0) (128 * ty.code))
  | .shl g ty d a b => some (64, packL 1 g 0x00f (d) (a) (b) (0) (128 * ty.code))
  | .shli g d a n => some (32, packS g 0x06 (d) (a) (n))
  | .shliLong g ty d a n => some (64, packL 1 g 0x010 (d) (a) (n) (0) (128 * ty.code))
  | .shr g ty d a b => some (64, packL 1 g 0x011 (d) (a) (b) (0) (128 * ty.code))
  | .shri g d a n => some (32, packS g 0x07 (d) (a) (n))
  | .shriLong g ty d a n => some (64, packL 1 g 0x012 (d) (a) (n) (0) (128 * ty.code))
  | .sra g ty d a b => some (64, packL 1 g 0x013 (d) (a) (b) (0) (128 * ty.code))
  | .srai g d a n => some (32, packS g 0x08 (d) (a) (n))
  | .sraiLong g ty d a n => some (64, packL 1 g 0x014 (d) (a) (n) (0) (128 * ty.code))
  | .rotl g ty d a b => some (64, packL 1 g 0x015 (d) (a) (b) (0) (128 * ty.code))
  | .min g d a b => some (32, packS g 0x09 (d) (a) (b))
  | .minLong g ty d a b => some (64, packL 1 g 0x016 (d) (a) (b) (0) (128 * ty.code))
  | .max g d a b => some (32, packS g 0x0a (d) (a) (b))
  | .maxLong g ty d a b => some (64, packL 1 g 0x017 (d) (a) (b) (0) (128 * ty.code))
  | .minu g ty d a b => some (64, packL 1 g 0x018 (d) (a) (b) (0) (128 * ty.code))
  | .maxu g ty d a b => some (64, packL 1 g 0x019 (d) (a) (b) (0) (128 * ty.code))
  | .clz g ty d a => some (64, packL 1 g 0x01a (d) (a) (0) (0) (128 * ty.code))
  | .ctz g ty d a => some (64, packL 1 g 0x01b (d) (a) (0) (0) (128 * ty.code))
  | .popc g ty d a => some (64, packL 1 g 0x01c (d) (a) (0) (0) (128 * ty.code))
  | .brev g ty d a => some (64, packL 1 g 0x01d (d) (a) (0) (0) (128 * ty.code))
  | .bfx g pos len d a => some (64, packL 1 g 0x01e (d) (a) (0) (0) (pos + 64 * (len - 1)))
  | .bfxu g pos len d a => some (64, packL 1 g 0x01f (d) (a) (0) (0) (pos + 64 * (len - 1)))
  | .bfi g pos len d a => some (64, packL 1 g 0x020 (d) (a) (0) (0) (pos + 64 * (len - 1)))
  | .sext g k d a => some (64, packL 1 g 0x021 (d) (a) (0) (0) (k))
  | .zext g k d a => some (64, packL 1 g 0x022 (d) (a) (0) (0) (k))
  | .sel g d a b => some (32, packS g 0x0b (d) (a) (b))
  | .selLong g d a b c => some (64, packL 1 g 0x023 (d) (a) (b) (c) (0))
  | .mov g d a => some (32, packS g 0x0c (d) (a) (0))
  | .movLong g d a => some (64, packL 1 g 0x024 (d) (a) (0) (0) (0))
  | .movi g d imm => some (64, packL 1 g 0x025 (d) (0) (uns imm 512) (0) (0))
  | .moviExt g d imm => some (96, packL 2 g 0x025 (d) (0) (0) (0) (0) + 18446744073709551616 * (uns imm 4294967296))
  | .movhi g d imm => some (64, packL 1 g 0x026 (d) (0) (uns imm 512) (0) (0))
  | .movhiExt g d imm => some (96, packL 2 g 0x026 (d) (0) (0) (0) (0) + 18446744073709551616 * (uns imm 4294967296))
  | .cmp g ty cond pt pf a b => some (64, packL 1 g 0x027 (pt + 16 * pf) (a) (b) (0) (128 * ty.code + 8 * cond.code))
  | .cmpExt g ty cond pt pf a imm => some (96, packL 2 g 0x027 (pt + 16 * pf) (a) (0) (0) (128 * ty.code + 8 * cond.code) + 18446744073709551616 * (uns imm 4294967296))
  | .pand g d a b => some (64, packL 1 g 0x028 (d) (a) (b) (0) (0))
  | .por g d a b => some (64, packL 1 g 0x029 (d) (a) (b) (0) (0))
  | .pxor g d a b => some (64, packL 1 g 0x02a (d) (a) (b) (0) (0))
  | .pandn g d a b => some (64, packL 1 g 0x02b (d) (a) (b) (0) (0))
  | .pset g a b => some (64, packL 1 g 0x02c (0) (a) (b) (0) (0))
  | .pget g d => some (64, packL 1 g 0x02d (d) (0) (0) (0) (0))
  | .fadd g ty rnd d a b => some (64, packL 1 g 0x02e (d) (a) (b) (0) (128 * ty.code + 16 * rnd.code))
  | .fsub g ty rnd d a b => some (64, packL 1 g 0x02f (d) (a) (b) (0) (128 * ty.code + 16 * rnd.code))
  | .fmul g ty rnd d a b => some (64, packL 1 g 0x030 (d) (a) (b) (0) (128 * ty.code + 16 * rnd.code))
  | .ffma g ty rnd d a b c => some (64, packL 1 g 0x031 (d) (a) (b) (c) (128 * ty.code + 16 * rnd.code))
  | .fdiv g ty rnd d a b => some (64, packL 1 g 0x032 (d) (a) (b) (0) (128 * ty.code + 16 * rnd.code))
  | .fsqrt g ty rnd d a => some (64, packL 1 g 0x033 (d) (a) (0) (0) (128 * ty.code + 16 * rnd.code))
  | .fmin g ty d a b => some (64, packL 1 g 0x034 (d) (a) (b) (0) (128 * ty.code))
  | .fmax g ty d a b => some (64, packL 1 g 0x035 (d) (a) (b) (0) (128 * ty.code))
  | .fabs g ty d a => some (64, packL 1 g 0x036 (d) (a) (0) (0) (128 * ty.code))
  | .fneg g ty d a => some (64, packL 1 g 0x037 (d) (a) (0) (0) (128 * ty.code))
  | .fcmp g ty cond pt pf a b => some (64, packL 1 g 0x038 (pt + 16 * pf) (a) (b) (0) (128 * ty.code + 8 * cond.code))
  | .fcvt g ty rnd sat d a src => some (64, packL 1 g 0x039 (d) (a) (src.code) (0) (128 * ty.code + 16 * rnd.code + 8 * sat.toNat))
  | .icvt g ty rnd sat d a src => some (64, packL 1 g 0x03a (d) (a) (src.code) (0) (128 * ty.code + 16 * rnd.code + 8 * sat.toNat))
  | .fcvti g ty rnd d a src => some (64, packL 1 g 0x03b (d) (a) (src.code) (0) (128 * ty.code + 16 * rnd.code))
  | .pbr g x imm => some (64, packL 1 g 0x03c (x) (0) (uns imm 512) (0) (0))
  | .pbrExt g x imm => some (96, packL 2 g 0x03c (x) (0) (0) (0) (0) + 18446744073709551616 * (uns imm 4294967296))
  | .pbrs g x a => some (64, packL 1 g 0x03d (x) (a) (0) (0) (0))
  | .movb g x a => some (64, packL 1 g 0x041 (x) (a) (0) (0) (0))
  | .movsb g d x => some (64, packL 1 g 0x042 (d) (x) (0) (0) (0))
  | .br g x => some (32, packS g 0x0d (0) (x) (0))
  | .brLong g x => some (64, packL 1 g 0x03e (0) (x) (0) (0) (0))
  | .call g x => some (32, packS g 0x0e (0) (x) (0))
  | .callLong g x => some (64, packL 1 g 0x03f (0) (x) (0) (0) (0))
  | .loop g d x => some (64, packL 1 g 0x040 (d) (x) (0) (0) (0))
  | .knext g => some (32, packS g 0x0f (0) (0) (0))
  | .knextLong g => some (64, packL 1 g 0x043 (0) (0) (0) (0) (0))
  | .tdone g => some (32, packS g 0x10 (0) (0) (0))
  | .tdoneLong g => some (64, packL 1 g 0x044 (0) (0) (0) (0) (0))
  | .nop g => some (32, packS g 0x11 (0) (0) (0))
  | .nopLong g => some (64, packL 1 g 0x045 (0) (0) (0) (0) (0))
  | .brk g => some (64, packL 1 g 0x046 (0) (0) (0) (0) (0))
  | .trap g a => some (64, packL 1 g 0x047 (0) (a) (0) (0) (0))
  | .trapExt g imm => some (96, packL 2 g 0x047 (0) (0) (0) (0) (0) + 18446744073709551616 * (uns imm 4294967296))
  | .eret g => some (64, packL 1 g 0x048 (0) (0) (0) (0) (0))
  | .sysrd g n d => some (64, packL 1 g 0x049 (d) (0) (0) (0) (n))
  | .syswr g n a => some (64, packL 1 g 0x04a (0) (a) (0) (0) (n))
  | .rdclk g d => some (64, packL 1 g 0x04b (d) (0) (0) (0) (0))
  | .rdid g k d => some (64, packL 1 g 0x04c (d) (0) (0) (0) (k))
  | .wfe g => some (64, packL 1 g 0x04d (0) (0) (0) (0) (0))
  | .yield g => some (64, packL 1 g 0x04e (0) (0) (0) (0) (0))
  | .hbind g h a => some (64, packL 1 g 0x100 (h) (a) (0) (0) (0))
  | .hunbind g h => some (64, packL 1 g 0x101 (h) (0) (0) (0) (0))
  | .hinfo g d h k => some (64, packL 1 g 0x102 (d) (h) (k) (0) (0))
  | .seal g h => some (64, packL 1 g 0x103 (0) (h) (0) (0) (0))
  | .ld g d h x0 => some (32, packS g 0x40 (d) (h) (x0))
  | .ldLong g ty ord sc d h x0 x1 => some (64, packL 1 g 0x104 (d) (h) (x0) (x1) (128 * ty.code + 16 * ord.code + sc.code))
  | .ldExt g ty ord sc d h x0 x1 x2 x3 x4 x5 => some (96, packL 2 g 0x104 (d) (h) (x0) (x1) (128 * ty.code + 16 * ord.code + sc.code) + 18446744073709551616 * (x2 + 64 * x3 + 4096 * x4 + 262144 * x5))
  | .st g d h x0 => some (32, packS g 0x41 (d) (h) (x0))
  | .stLong g ty ord sc d h x0 x1 => some (64, packL 1 g 0x105 (d) (h) (x0) (x1) (128 * ty.code + 16 * ord.code + sc.code))
  | .stExt g ty ord sc d h x0 x1 x2 x3 x4 x5 => some (96, packL 2 g 0x105 (d) (h) (x0) (x1) (128 * ty.code + 16 * ord.code + sc.code) + 18446744073709551616 * (x2 + 64 * x3 + 4096 * x4 + 262144 * x5))
  | .lda g d h x0 => some (32, packS g 0x42 (d) (h) (x0))
  | .ldaLong g ty ord sc d h x0 lc => some (64, packL 1 g 0x106 (d) (h) (x0) (lc) (128 * ty.code + 16 * ord.code + sc.code))
  | .ldaExt g ty ord sc d h x0 lc x1 x2 x3 x4 x5 => some (96, packL 2 g 0x106 (d) (h) (x0) (lc) (128 * ty.code + 16 * ord.code + sc.code) + 18446744073709551616 * (x2 + 64 * x3 + 4096 * x4 + 262144 * x5 + 16777216 * x1))
  | .waitc g lc k => some (32, packS g 0x43 (lc) (0) (k))
  | .waitcLong g lc k => some (64, packL 1 g 0x107 (lc) (0) (k) (0) (0))
  | .vld g d h x0 => some (32, packS g 0x44 (d) (h) (x0))
  | .vldLong g ord sc d h x0 x1 => some (64, packL 1 g 0x108 (d) (h) (x0) (x1) (16 * ord.code + sc.code))
  | .vldExt g ord sc d h x0 x1 x2 x3 x4 x5 => some (96, packL 2 g 0x108 (d) (h) (x0) (x1) (16 * ord.code + sc.code) + 18446744073709551616 * (x2 + 64 * x3 + 4096 * x4 + 262144 * x5))
  | .vst g d h x0 => some (32, packS g 0x45 (d) (h) (x0))
  | .vstLong g ord sc d h x0 x1 => some (64, packL 1 g 0x109 (d) (h) (x0) (x1) (16 * ord.code + sc.code))
  | .vstExt g ord sc d h x0 x1 x2 x3 x4 x5 => some (96, packL 2 g 0x109 (d) (h) (x0) (x1) (16 * ord.code + sc.code) + 18446744073709551616 * (x2 + 64 * x3 + 4096 * x4 + 262144 * x5))
  | .vlda g ord sc d h x0 lc => some (64, packL 1 g 0x10a (d) (h) (x0) (lc) (16 * ord.code + sc.code))
  | .vldaExt g ord sc d h x0 lc x1 x2 x3 x4 x5 => some (96, packL 2 g 0x10a (d) (h) (x0) (lc) (16 * ord.code + sc.code) + 18446744073709551616 * (x2 + 64 * x3 + 4096 * x4 + 262144 * x5 + 16777216 * x1))
  | .atom g ty ord sc op d h x0 x1 => some (64, packL 1 g 0x10b (64 * op.code + d) (h) (x0) (x1) (128 * ty.code + 16 * ord.code + sc.code))
  | .atomExt g ty ord sc op d h x0 x1 x2 x3 x4 x5 => some (96, packL 2 g 0x10b (64 * op.code + d) (h) (x0) (x1) (128 * ty.code + 16 * ord.code + sc.code) + 18446744073709551616 * (x2 + 64 * x3 + 4096 * x4 + 262144 * x5))
  | .cas g ty ord sc d h x0 x1 => some (64, packL 1 g 0x10c (d) (h) (x0) (x1) (128 * ty.code + 16 * ord.code + sc.code))
  | .casExt g ty ord sc d h x0 x1 x2 x3 x4 x5 => some (96, packL 2 g 0x10c (d) (h) (x0) (x1) (128 * ty.code + 16 * ord.code + sc.code) + 18446744073709551616 * (x2 + 64 * x3 + 4096 * x4 + 262144 * x5))
  | .red g ty ord sc op d h x0 x1 => some (64, packL 1 g 0x10d (64 * op.code + d) (h) (x0) (x1) (128 * ty.code + 16 * ord.code + sc.code))
  | .redExt g ty ord sc op d h x0 x1 x2 x3 x4 x5 => some (96, packL 2 g 0x10d (64 * op.code + d) (h) (x0) (x1) (128 * ty.code + 16 * ord.code + sc.code) + 18446744073709551616 * (x2 + 64 * x3 + 4096 * x4 + 262144 * x5))
  | .fence g ord sc => some (64, packL 1 g 0x10e (0) (0) (0) (0) (16 * ord.code + sc.code))
  | .binit g x a b => some (64, packL 1 g 0x10f (x) (a) (b) (0) (0))
  | .barv g d x => some (32, packS g 0x46 (d) (x) (0))
  | .barvLong g d x => some (64, packL 1 g 0x110 (d) (x) (0) (0) (0))
  | .bwait g x b => some (32, packS g 0x47 (0) (x) (b))
  | .bwaitLong g x b => some (64, packL 1 g 0x111 (0) (x) (b) (0) (0))
  | .bsync g x b => some (64, packL 1 g 0x112 (0) (x) (b) (0) (0))
  | .btest g pt pf x b => some (64, packL 1 g 0x113 (pt + 16 * pf) (x) (b) (0) (0))
  | .rinit g x a b => some (64, packL 1 g 0x114 (x) (a) (b) (0) (0))
  | .rfreew g d x => some (64, packL 1 g 0x115 (d) (x) (0) (0) (0))
  | .rpub g x b => some (64, packL 1 g 0x116 (0) (x) (b) (0) (0))
  | .rfillw g d x => some (64, packL 1 g 0x117 (d) (x) (0) (0) (0))
  | .rret g x b => some (64, packL 1 g 0x118 (0) (x) (b) (0) (0))
  | .rqry g d x k => some (64, packL 1 g 0x119 (d) (x) (k) (0) (0))
  | .qpush g q a => some (32, packS g 0x48 (q) (a) (0))
  | .qpushLong g q a => some (64, packL 1 g 0x11a (q) (a) (0) (0) (0))
  | .qpop g d q => some (32, packS g 0x49 (d) (q) (0))
  | .qpopLong g d q => some (64, packL 1 g 0x11b (d) (q) (0) (0) (0))
  | .qtst g pt pf q k => some (64, packL 1 g 0x11c (pt + 16 * pf) (q) (k) (0) (0))
  | .waitt g t b => some (32, packS g 0x4a (0) (t) (b))
  | .waittLong g t b => some (64, packL 1 g 0x11d (0) (t) (b) (0) (0))
  | .rdtl g d t b => some (64, packL 1 g 0x11e (d) (t) (b) (0) (0))
  | .sbind g v x k => some (64, packL 1 g 0x11f (v) (x) (k) (0) (0))
  | .sunbind g v => some (64, packL 1 g 0x120 (v) (0) (0) (0) (0))
  | .tspawn g d a b => some (64, packL 1 g 0x121 (d) (a) (b) (0) (0))
  | .req g a b => some (64, packL 1 g 0x122 (0) (a) (b) (0) (0))
  | .ectl g eng item d => some (64, packL 1 g 0x123 (d) (0) (0) (0) (eng + 8 * item))
  | .zstat g pt pf z k => some (64, packL 1 g 0x124 (pt + 16 * pf) (z) (k) (0) (0))
  | .vshape g a => some (64, packL 1 g 0x180 (0) (a) (0) (0) (0))
  | .vshapeExt g imm => some (96, packL 2 g 0x180 (0) (0) (0) (0) (0) + 18446744073709551616 * (imm))
  | .vmov g d a => some (32, packS g 0x60 (d) (a) (0))
  | .vmovLong g d a => some (64, packL 1 g 0x181 (d) (a) (0) (0) (0))
  | .vbcast g d a => some (64, packL 1 g 0x182 (d) (a) (0) (0) (0))
  | .vbcastExt g d imm => some (96, packL 2 g 0x182 (d) (0) (0) (0) (0) + 18446744073709551616 * (uns imm 4294967296))
  | .vext g d a b => some (64, packL 1 g 0x183 (d) (a) (b) (0) (0))
  | .vins g d a b => some (64, packL 1 g 0x184 (d) (a) (b) (0) (0))
  | .vadd g d a b => some (32, packS g 0x61 (d) (a) (b))
  | .vaddLong g rnd d a b => some (64, packL 1 g 0x185 (d) (a) (b) (0) (16 * rnd.code))
  | .vsub g d a b => some (32, packS g 0x62 (d) (a) (b))
  | .vsubLong g rnd d a b => some (64, packL 1 g 0x186 (d) (a) (b) (0) (16 * rnd.code))
  | .vmul g d a b => some (32, packS g 0x63 (d) (a) (b))
  | .vmulLong g rnd d a b => some (64, packL 1 g 0x187 (d) (a) (b) (0) (16 * rnd.code))
  | .vfma g d a b => some (32, packS g 0x64 (d) (a) (b))
  | .vfmaLong g rnd d a b c => some (64, packL 1 g 0x188 (d) (a) (b) (c) (16 * rnd.code))
  | .vmin g d a b => some (64, packL 1 g 0x189 (d) (a) (b) (0) (0))
  | .vmax g d a b => some (64, packL 1 g 0x18a (d) (a) (b) (0) (0))
  | .vabs g d a => some (64, packL 1 g 0x18b (d) (a) (0) (0) (0))
  | .vneg g d a => some (64, packL 1 g 0x18c (d) (a) (0) (0) (0))
  | .vrcp g rnd d a => some (64, packL 1 g 0x18d (d) (a) (0) (0) (16 * rnd.code))
  | .vrsq g rnd d a => some (64, packL 1 g 0x18e (d) (a) (0) (0) (16 * rnd.code))
  | .vdiv g rnd d a b => some (64, packL 1 g 0x18f (d) (a) (b) (0) (16 * rnd.code))
  | .vsqrt g rnd d a => some (64, packL 1 g 0x190 (d) (a) (0) (0) (16 * rnd.code))
  | .viadd g sat d a b => some (64, packL 1 g 0x191 (d) (a) (b) (0) (8 * sat.toNat))
  | .visub g sat d a b => some (64, packL 1 g 0x192 (d) (a) (b) (0) (8 * sat.toNat))
  | .vimul g sat d a b => some (64, packL 1 g 0x193 (d) (a) (b) (0) (8 * sat.toNat))
  | .vimin g d a b => some (64, packL 1 g 0x194 (d) (a) (b) (0) (0))
  | .vimax g d a b => some (64, packL 1 g 0x195 (d) (a) (b) (0) (0))
  | .vand g d a b => some (64, packL 1 g 0x196 (d) (a) (b) (0) (0))
  | .vor g d a b => some (64, packL 1 g 0x197 (d) (a) (b) (0) (0))
  | .vxor g d a b => some (64, packL 1 g 0x198 (d) (a) (b) (0) (0))
  | .vshl g d a b => some (64, packL 1 g 0x199 (d) (a) (b) (0) (0))
  | .vshr g d a b => some (64, packL 1 g 0x19a (d) (a) (b) (0) (0))
  | .vsra g d a b => some (64, packL 1 g 0x19b (d) (a) (b) (0) (0))
  | .vcmp g cond pt pf a b c => some (64, packL 1 g 0x19c (pt + 16 * pf) (a) (b) (c) (8 * cond.code))
  | .vsel g d a b c => some (64, packL 1 g 0x19d (d) (a) (b) (c) (0))
  | .vred g rnd d a col op => some (64, packL 1 g 0x19e (d) (a) (16 * col.toNat + op) (0) (16 * rnd.code))
  | .vscan g rnd d a col op => some (64, packL 1 g 0x19f (d) (a) (16 * col.toNat + op) (0) (16 * rnd.code))
  | .vtrn g d a => some (64, packL 1 g 0x1a0 (d) (a) (0) (0) (0))
  | .vperm g d a b => some (64, packL 1 g 0x1a1 (d) (a) (b) (0) (0))
  | .vrot g d a b => some (64, packL 1 g 0x1a2 (d) (a) (b) (0) (0))
  | .vdot g d a b c => some (64, packL 1 g 0x1a3 (d) (a) (b) (c) (0))
  | .vcvt g ty rnd sat d a => some (64, packL 1 g 0x1a4 (d) (a) (0) (0) (128 * ty.code + 16 * rnd.code + 8 * sat.toNat))
  | .vqmx g ty d a => some (64, packL 1 g 0x1a5 (d) (a) (0) (0) (128 * ty.code))
  | .vqdx g ty d a => some (64, packL 1 g 0x1a6 (d) (a) (0) (0) (128 * ty.code))
  | .vresc g d a imm => some (64, packL 1 g 0x1a7 (d) (a) (uns imm 512) (0) (0))
  | .vzld g d z b => some (64, packL 1 g 0x1a8 (d) (z) (b) (0) (0))
  | .vzst g z a b => some (64, packL 1 g 0x1a9 (z) (a) (b) (0) (0))
  | .pfload g x h b => some (64, packL 1 g 0x1aa (x) (h) (b) (0) (0))
  | .pfeval g d a x => some (64, packL 1 g 0x1ab (d) (a) (x) (0) (0))
  | .mma h body => some (512, encodeN 0 0 h body)
  | .ocon h body => some (512, encodeN 0 1 h body)
  | .mdrain h body => some (512, encodeN 0 2 h body)
  | .mclr h body => some (512, encodeN 0 3 h body)
  | .cpy h body => some (512, encodeN 1 0 h body)
  | .cpys h body => some (512, encodeN 1 1 h body)
  | .cfill h body => some (512, encodeN 1 2 h body)
  | .gath h body => some (512, encodeN 2 0 h body)
  | .scat h body => some (512, encodeN 2 1 h body)
  | .merg h body => some (512, encodeN 2 2 h body)
  | .topk h body => some (512, encodeN 2 3 h body)
  | .cmpt h body => some (512, encodeN 2 4 h body)
  | .nbin h body => some (512, encodeN 3 0 h body)
  | .nstrm h body => some (512, encodeN 3 1 h body)
  | .chain h body => some (512, encodeN 15 0 h body)
  | .rnop h body => some (512, encodeN 15 1 h body)
  | .powerOn => none
  | .fundamentalReset => none
  | .powerRemoval => none
  | .startStepComplete _ => none
  | .functionLevelReset _ => none
  | .heartbeatTick => none
  | .powerEvaluation _ => none
  | .supplyCurrentAlarm _ => none
  | .junctionHot _ _ => none
  | .thermalTrip _ _ => none
  | .qpiWrite _ _ _ => none
  | .evqCtlWrite _ _ => none
  | .evqHeadWrite _ _ => none
  | .registerWrite _ _ _ _ _ => none
  | .getStatus _ => none
  | .getLog _ => none
  | .getAttest _ => none
  | .openTransport _ => none
  | .loadKey _ => none
  | .revokeKey _ => none
  | .assignFn _ => none
  | .warmStart _ => none
  | .coldStart _ => none
  | .mbxUnknownCommand _ _ => none
  | .mbxDone _ => none
  | .pkctlRetry _ _ => none
  | .pkctlDeliver _ _ => none
  | .pkctlAbort _ _ => none
  | .shootdown _ _ => none
  | .shootdownComplete => none
  | .savecfgWrite _ _ => none
  | .lpoolWrite _ _ _ => none
  | .lquotaWrite _ _ _ => none
  | .lwmapWrite _ _ _ => none
  | .qcfgWrite _ _ _ => none
  | .idle _ _ => none
  | .data _ _ => none
  | .credit _ _ => none
  | .nak _ _ => none
  | .train _ _ => none
  | .flitReservedType _ _ => none
  | .laneLockLoss _ => none
  | .retrain _ => none
  | .retrainDone _ _ _ => none
  | .pSpaceRequest _ _ _ => none
  | .pSpaceResponse _ _ _ => none
  | .podBarrierArrival _ _ => none
  | .reserve _ _ _ _ _ _ _ => none
  | .ack _ _ _ => none
  | .gangNak _ _ _ => none
  | .go _ _ _ => none
  | .abort _ _ _ => none
  | .late _ _ _ => none
  | .gangDone _ _ => none
  | .ackTimerExpiry _ => none
  | .reservationTimerExpiry _ => none
  | .task _ => none
  | .graph _ => none
  | .qfence _ => none
  | .signal _ => none
  | .placementPatienceExpiry _ => none
  | .coreClearDone _ => none
  | .coreDone _ => none
  | .preemptionComplete _ => none
  | .chunkRequest _ => none
  | .digestDone _ _ => none
  | .watchNotice _ => none
  | .hitCopyDone _ => none
  | .captureDone _ => none
  | .recordStart _ _ => none
  | .engineIteration _ _ => none
  | .recordCompletion _ _ => none
  | .ldaCompletion _ _ _ => none
  | .writePerformed _ _ => none
  | .strandHoldRelease _ _ => none
  | .watchdog _ _ => none
  | .softError _ _ => none
  | .patrolScrub _ _ => none
  | .atsInvalidation _ _ _ => none
  | .dieClkStatRead _ _ => none
  | .hostMemoryWrite _ _ _ => none
  | .retryDelayExpiry _ => none

end Sys2Proof
end

