-- ==== Sys2Proof/Machine/Map.lean ====
section
/-! DEFINITION. Sparse tables as plain data: a list of (key, value) pairs with strictly rising keys, and byte spaces in the one
canonical form (no byte equal to what an unlisted address reads as). -/

namespace Sys2Proof.Machine

/-- A sparse table by number; what an unlisted key holds is said where the table is read. -/
abbrev Map (α : Type) := List (Nat × α)

/-- The value listed at `k`. -/
def mapFind {α : Type} : Map α → Nat → Option α
  | [], _ => none
  | (j, v) :: m, k => if j = k then some v else mapFind m k

/-- The value at `k`, `d` where none is listed. -/
def mapGet {α : Type} (m : Map α) (k : Nat) (d : α) : α := (mapFind m k).getD d

/-- `m` with `v` at `k`. -/
def mapPut {α : Type} : Map α → Nat → α → Map α
  | [], k, v => [(k, v)]
  | (j, u) :: m, k, v =>
    if k < j then (k, v) :: (j, u) :: m
    else if k = j then (k, v) :: m
    else (j, u) :: mapPut m k v

/-- `m` without `k`. -/
def mapDel {α : Type} : Map α → Nat → Map α
  | [], _ => []
  | (j, u) :: m, k => if j = k then m else (j, u) :: mapDel m k

/-- Keys rise strictly from above `lo`. -/
def mapSorted {α : Type} : Option Nat → Map α → Bool
  | _, [] => true
  | lo, (j, _) :: m => (match lo with | none => true | some l => decide (l < j)) && mapSorted (some j) m

/-- A byte space; an unlisted address reads as zero (log 3). -/
abbrev Bytes := List Host.Cell

/-- What an address reads as where the space lists nothing (log 3). -/
def unlistedByte : Byte := 0

/-- One byte of a space. -/
def byteAt (m : Bytes) (a : Nat) : Byte := mapGet m a unlistedByte

/-- A space with one byte written, in canonical form. -/
def putByte (m : Bytes) (a : Nat) (b : Byte) : Bytes :=
  if b = unlistedByte then mapDel m a else mapPut m a b

/-- The `n` bytes from `a` on. -/
def bytesAt (m : Bytes) (a : Nat) : Nat → List Byte
  | 0 => []
  | n + 1 => byteAt m a :: bytesAt m (a + 1) n

/-- A space with bytes written from `a` on. -/
def putBytes (m : Bytes) (a : Nat) : List Byte → Bytes
  | [] => m
  | b :: bs => putBytes (putByte m a b) (a + 1) bs

/-- The canonical form: strictly rising addresses, no byte equal to the unlisted one. -/
def Bytes.wf (m : Bytes) : Bool := mapSorted none m && m.all fun c => c.2 != unlistedByte

/-- A space in which [lo, hi) holds nothing but the listed cells. -/
def spliceBytes (m : Bytes) (lo hi : Nat) (cells : Bytes) : Bytes :=
  let put := fun (c : Host.Cell) (m : Bytes) => putByte m c.1 c.2
  (m.filter fun c => decide (c.1 < lo)).foldr put (cells.foldr put (m.filter fun c => decide (hi ≤ c.1)))

/-! A table of steps: an entry's value holds from its key up to the next key, and zero below the first. -/

/-- The value at `a`, `v` below the first key. -/
def stepFrom (v : Nat) : Map Nat → Nat → Nat
  | [], _ => v
  | (k, u) :: m, a => if k ≤ a then stepFrom u m a else v

/-- The value at `a`. -/
def stepAt (m : Map Nat) (a : Nat) : Nat := stepFrom 0 m a

/-- Only the entries that change the value, `v` below the first. -/
def stepNorm (v : Nat) : Map Nat → Map Nat
  | [] => []
  | (k, u) :: m => if u = v then stepNorm v m else (k, u) :: stepNorm u m

/-- The value `g` over the `n` keys from `lo` on. -/
def stepPut (m : Map Nat) (lo n g : Nat) : Map Nat :=
  if n = 0 then m
  else stepNorm 0 ((m.filter fun p => decide (p.1 < lo)) ++
    (lo, g) :: (lo + n, stepAt m (lo + n)) :: m.filter fun p => decide (lo + n < p.1))

/-- A set of numbers as a strictly rising list: with `k` put in. -/
def setPut : List Nat → Nat → List Nat
  | [], k => [k]
  | j :: s, k => if k < j then k :: j :: s else if k = j then j :: s else j :: setPut s k

/-- A set without `k`. -/
def setDel (s : List Nat) (k : Nat) : List Nat := s.filter fun j => j != k

end Sys2Proof.Machine
end

