-- ==== Sys2Proof/Machine/Bits.lean ====
section
/-! DEFINITION. Bit fields, sign extension and byte order (R5, R131, R188), CRC-32C (R22, R150). -/

namespace Sys2Proof.Machine

/-- Bits `lo + n - 1` to `lo` of a bit vector, as a number. -/
def bvField {w : Nat} (v : BitVec w) (lo n : Nat) : Nat := bitsAt v.toNat lo n

/-- Bit `i` of a bit vector. -/
def bvBit {w : Nat} (v : BitVec w) (i : Nat) : Bool := v.toNat.testBit i

/-- `v` with the `n` bits from `lo` replaced by the low bits of `x`. -/
def bvSetField {w : Nat} (v : BitVec w) (lo n x : Nat) : BitVec w :=
  let mask := (2 ^ n - 1) * 2 ^ lo
  BitVec.ofNat w (v.toNat - (v.toNat &&& mask) + (x % 2 ^ n) * 2 ^ lo)

/-- The low `w` bits of a number read as two's complement. -/
def toSigned (w v : Nat) : Int :=
  let u := v % 2 ^ w
  if u < 2 ^ (w - 1) then (u : Int) else (u : Int) - (2 ^ w : Nat)

/-- The residue of an integer modulo 2^w. -/
def ofSigned (w : Nat) (i : Int) : Nat := (i % ((2 ^ w : Nat) : Int)).toNat

/-- The low `w` bits of `v`, sign-extended to 64 bits (R187). -/
def signExtend64 (w v : Nat) : Word := BitVec.ofInt 64 (toSigned w v)

/-- A number as a little-endian word of 64 bits from bytes (R5). -/
def word64OfBytes (bs : List Byte) : Word := BitVec.ofNat 64 (leNat bs)

/-- Ceiling of a quotient. -/
def ceilDiv (a b : Nat) : Nat := (a + b - 1) / b

/-- The numbers from 0 to n - 1. -/
def upTo (n : Nat) : List Nat := List.range n

/-- The first `n` bits from `pos` of a byte list, low bits of each byte first (R131, R316). -/
def bitsOfBytes (bs : List Byte) (pos n : Nat) : Nat := bitsAt (leNat bs) pos n

/-- CRC-32C (R22, R150): one byte into a running value, less the final inversion. -/
def crcBit (c : Nat) : Nat := if c % 2 = 1 then (c / 2) ^^^ 0x82F63B78 else c / 2
def crcByte (c : Nat) (b : Byte) : Nat := (List.replicate 8 ()).foldl (fun c _ => crcBit c) (c ^^^ b.toNat)
/-- CRC-32C of bytes, going on from an earlier value; 0 begins. -/
def crc32c (from_ : Nat) (bs : List Byte) : Nat := (bs.foldl crcByte (from_ ^^^ 0xFFFFFFFF)) ^^^ 0xFFFFFFFF

end Sys2Proof.Machine
end

