-- ==== Sys2Proof/Machine/Flags.lean ====
section
/-! DEFINITION. The status bits of FPST (R197) and of a patch (R351), as masks that are joined bit by bit. -/

namespace Sys2Proof.Machine

/-- Inexact: the delivered result differs from the exact one. -/
def flagNX : Nat := 1
/-- Tiny after rounding and inexact, or flushed. -/
def flagUF : Nat := 2
/-- The rounded result exceeded the largest finite value. -/
def flagOF : Nat := 4
/-- Finite non-zero divided by zero. -/
def flagDZ : Nat := 8
/-- Invalid. -/
def flagNV : Nat := 16
/-- A result was clamped. -/
def flagSAT : Nat := 32
/-- A CHECK store found a mismatch. -/
def flagSYM : Nat := 64

/-- A mask that is there only under a condition. -/
def flagIf (c : Bool) (f : Nat) : Nat := if c then f else 0

/-- FPST with bits set: they are sticky, and bits 31:7 stay reserved (R197). -/
def fpstSet (old : BitVec 32) (f : Nat) : BitVec 32 := old ||| BitVec.ofNat 32 (f % 128)

end Sys2Proof.Machine
end

