-- ==== Sys2Proof/Config.lean ====
section
/-! DEFINITION. What the manual fixes for every part as a number (01, 05: R2, R4, R103, R108), and the free values: functions
without a body for what the manual leaves open or takes from standards outside it. -/

namespace Sys2Proof.Config

/-- Compute dies (R2). -/
def dies : Nat := 4
/-- Cores of a die (R2). -/
def coresPerDie : Nat := 64
/-- Cores of the package (R2). -/
def cores : Nat := 256
/-- Bytes of a W or A store (R4, R108). -/
def waBytes : Nat := 3145728
/-- Bytes of an S store (R4, R108). -/
def sBytes : Nat := 1048576
/-- Bytes of package physical memory (R11). -/
def hbmBytes : Nat := 1099511627776
/-- Rows and columns of a Z patch (R4, R108). -/
def zRows : Nat := 96
def zCols : Nat := 128
/-- Events of a function's backlog (R33). -/
def eventBacklog : Nat := 1024
/-- Notices of the hub backlog (R78). -/
def noticeBacklog : Nat := 256
/-- Park entries of the package (R211). -/
def parkEntries : Nat := 256
/-- Replay buffer of a link port in flits (R24). -/
def replayFlits : Nat := 256
/-- Digest cache entries and result table entries (R87, R90). -/
def digestEntries : Nat := 16384
def resultEntries : Nat := 131072
/-- Bytes of a save slot and of its save-data area (R221, R222). -/
def saveSlotBytes : Nat := 0xC00000
def saveDataBytes : Nat := 8912896
/-- Cores' own clocks between a write of b[X] and the first transfer through it (R276). -/
def branchWindow : Nat := 6
/-- Core clocks from the completion of an MDRAIN to its patch status (R313). -/
def drainDelay : Nat := 64
/-- Heartbeat ticks between two power evaluations (R19). -/
def evaluationTicks : Nat := 1024
/-- Heartbeat ticks in 10 ms, the least time between two THERMAL notices of a die (R19; a tick is 25.6 ns, R15). -/
def thermalTicks : Nat := 390625

/-- Primitive polynomial of the FEC's GF(2^8): x^8 + x^4 + x^3 + x^2 + 1 (log 13). -/
def fecField : Nat := 0x11D
/-- Watts of a compute die's share at TDP (R17), and the greatest and least package limit (R19, R21). -/
def dieWatts : Nat := 480
def packageWatts : Nat := 3200
def packageWattsLeast : Nat := 1200

/-- A free value: any bits, drawn by the counter of State (log 2). -/
opaque freeBits (w : Nat) : Nat → BitVec w
/-- What a byte written under one memory key reads as under another (R41, R47, R48; log 5): the reader's key, its physical
address, and the writers' keys and the bytes of the 16-byte cipher block that holds it. -/
opaque undecipherable : Nat → Nat → List Nat → List Byte → Byte
/-- KMAC256 of NIST SP 800-185 with L = 256 (R83, R84, R39): key, message, customisation string (log 6). -/
opaque kmac256 : BitVec 256 → List Byte → List Byte → BitVec 256
/-- SHA-384 (R44 to R46; log 6). -/
opaque sha384 : List Byte → BitVec 384
/-- RSASSA-PSS verification: public modulus, signature, message (R43, R44; log 6). -/
opaque rsaVerify : List Byte → List Byte → List Byte → Bool
/-- SLH-DSA-SHA2-192s verification: public key, signature, message (R43, R44; log 6). -/
opaque slhVerify : List Byte → List Byte → List Byte → Bool
/-- The signatures of the identity keys over an attestation report (R45, R46; log 6). -/
opaque rsaSign : List Byte → BitVec 3072
opaque slhSign : List Byte → BitVec 129792
/-- The certificates of the identity keys (R46; log 6). -/
opaque cert1 : List Byte
opaque cert2 : List Byte
/-- ML-KEM-1024 (R39, R45): the encapsulation key of the transport key of a start, and the decapsulated secret (log 6). -/
opaque transportKey : Nat → BitVec 12544
opaque decapsulate : Nat → List Byte → BitVec 256
/-- AES-256 key unwrap (RFC 3394) of 104 bytes to 96, or none when its integrity check fails (R49; log 6). -/
opaque unwrapKeys : BitVec 256 → List Byte → Option (BitVec 768)
/-- The payload of a message on a virtual channel (R22, R23: the manual gives no layout; log 20), and how many flits the receive
buffer of a channel holds. -/
opaque payload : Nat → List Nat → BitVec 1856
opaque rxBuffers : Nat → Nat
/-- Fuse slots F0 and F1 (R44) and the Larder key of tenant 0 (R49; log 6). -/
opaque fuseF0 : BitVec 384
opaque fuseF1 : BitVec 384
opaque systemLarderKey : BitVec 256
/-- How many runs beyond the sixteen of a handle's slot the run table of a die's home memory holds (R135; log 53). -/
opaque runTableRuns : Nat
/-- A byte a peer package answers to a P-space read that is not a scalar load (log 10): peer, virtual address, counter. -/
opaque peerByte : Nat → Nat → Nat → Byte
/-- Whether such a byte comes poisoned. -/
opaque peerPoisoned : Nat → Nat → Nat → Bool

end Sys2Proof.Config
end

