-- ==== Sys2Proof/Machine/State.lean ====
section
/-! DEFINITION. The state of one GX4 package as plain data: everything the manual gives the machine (INVENTORY.md, State),
and the machine right after power is applied. -/

namespace Sys2Proof.Machine

/-! ## Handles -/

/-- One generator of a symmetry group (R140): KIND 1 PERM, 2 PAIRSWAP, 3 CIRC, 4 REFL; `neg` is σ = −. -/
structure Gen where
  kind : Nat
  neg  : Bool
  a    : Nat
  b    : Nat
  c    : Nat
  d    : Nat
  deriving DecidableEq, Repr

/-- The fields of a handle descriptor (R127).  SPACE 0 W, 1 A, 2 S, 3 Z, 4 G, 5 H, 6 P. -/
structure Desc where
  space  : Nat
  fmt    : Ty
  rank   : Nat
  codec  : Nat
  sealed : Bool
  policy : Nat
  trap   : Bool
  rd     : Bool
  wr     : Bool
  swz    : Nat
  ring   : Option Nat
  base   : Nat
  ext    : List Nat
  pitch  : List Nat
  slink  : Nat
  slv    : Bool
  tgt    : Nat
  peer   : Nat
  clen   : Nat
  sym    : List Gen
  deriving DecidableEq, Repr

/-- A run of a G handle's pages: virtual start, physical start, length and key id (R135). -/
structure Run where
  va  : Nat
  pa  : Nat
  len : Nat
  key : Nat
  deriving DecidableEq, Repr

/-- What a bound slot holds (R127): the descriptor, the resolved target core, the run list, the window box (extents and
LO corner), PWIN and the seal state; `func` is the host function through which an H handle is translated. -/
structure Handle where
  desc    : Desc
  target  : Nat
  runs    : List Run
  window  : Bool
  lo      : List Nat
  ext     : List Nat
  pwinIn  : Bool
  pwinOut : Bool
  sealed  : Bool
  func    : Nat
  /-- The slot is h0, the argument block (R111). -/
  isArgs  : Bool
  deriving DecidableEq, Repr

/-! ## Strands -/

/-- The condition that holds a strand (R101). -/
inductive Hold where
  /-- QPOP of an empty queue register. -/
  | queueEmpty (q : Nat)
  /-- QPUSH to a full queue register. -/
  | queueFull (q : Nat)
  /-- RFREEW, or a write of an OUT stream register: no free slot in turn. -/
  | ringFree (x : Nat)
  /-- RFILLW, or a read of an IN stream register: no filled slot in turn. -/
  | ringFull (x : Nat)
  /-- BWAIT of `len` bytes on barrier `x` (16 is bg) with a token. -/
  | barrier (x : Nat) (token : BitVec 32) (len : Nat)
  /-- WAITT for a value of a timeline. -/
  | timeline (t : Nat) (v : Nat)
  /-- WAITC on a load counter. -/
  | counter (lc k : Nat)
  /-- Dispatch, or REQ, to a full engine queue of a core. -/
  | engineQueue (core e : Nat)
  /-- WFE. -/
  | event
  /-- BR, CALL or LOOP before the clock at which its window ends. -/
  | branch (clk : Nat)
  /-- KNEXT before every strand has executed it. -/
  | iteration
  /-- ZSTAT, VZLD or VZST: the ME records up to number `n` that name patch `z`; `drain`: and the clocks after an MDRAIN. -/
  | patch (n : Nat) (drain : Bool) (z : Nat)
  /-- REQ to a queue of a core, until the dispatches of that core's clock are numbered (R104, R311). -/
  | request (core : Nat)
  /-- LDA or VLDA whose counter stands at 63. -/
  | counterFull (lc : Nat)
  /-- A register that is the destination of an outstanding load: the scalars and vectors of the instruction. -/
  | load (rs vs : List Nat)
  /-- RDTL of a record not yet completed. -/
  | word (t n : Nat)
  /-- HBIND parked on PAGE in a park entry. -/
  | parked (idx : Nat)
  /-- FENCE.SC in its wait for a tick after clock `clk` of the core, or the fences around an .SC access. -/
  | fence (clk : Nat)
  /-- A release at .pod whose P-space writes are not all acknowledged (R176). -/
  | acks
  /-- YIELD: strands that have still to issue, and the clock at which it ends anyway. -/
  | yielded (others : List Nat) (clk : Nat)
  /-- A scalar access of P space awaiting its response. -/
  | response (tag : Nat)
  deriving DecidableEq, Repr

/-- What an outstanding LDA or VLDA writes when it completes (R297). -/
inductive LoadDst where
  /-- A false-guarded load: nothing. -/
  | nothing
  | scalar (d : Nat) (v : Word)
  /-- A vector register: the low `bits` bits, and the low `side` bytes of the sidecar. -/
  | vector (d bits : Nat) (v : BitVec 16384) (side : Nat) (sv : BitVec 2048)
  /-- A P-space load whose response is awaited (R27): the tag of its request, the address, and the scalar with the formats and the
  sign of its value. -/
  | peerScalar (tag addr d : Nat) (fmt ty : Ty) (neg : Bool)
  /-- The same for a tile. -/
  | peerVector (tag addr d bits : Nat) (v : BitVec 16384) (side : Nat) (sv : BitVec 2048)
  deriving DecidableEq, Repr

/-- An outstanding load on a load counter. -/
structure OutLoad where
  lc  : Nat
  dst : LoadDst
  deriving DecidableEq, Repr

/-- The state of one strand (R98, R208, R281, R285). -/
structure Strand where
  pc       : Nat
  s        : Map Word
  /-- Bit k is p[k] for k ≥ 1; p0 reads true whatever bit 0 holds. -/
  p        : BitVec 16
  b        : Map Word
  vshape   : BitVec 32
  fpctl    : BitVec 32
  fpst     : BitVec 32
  trapvec  : Word
  trappc   : Word
  trapinfo : Word
  traparg  : Word
  tdone    : Bool
  latch    : Bool
  hold     : Option Hold
  heldTicks : Nat
  /-- Clock before which no transfer through b[X] issues (R276). -/
  window   : Map Nat
  /-- Outstanding loads in issue order; lc[N] is the number of them on counter N. -/
  loads    : List OutLoad
  knext    : Bool
  /-- How many fences of an .SC access have continued (R171, R177). -/
  scStage  : Nat
  /-- Scope of a FENCE.REL that the next write will carry (R172). -/
  relNext  : Option Scope
  /-- Patch and last ME record that a held ZSTAT, VZLD or VZST waits for, kept until it executes (R313, R335). -/
  waiting  : Option (Nat × Nat)
  /-- The response of a P-space access that has come back: value and poison. -/
  answer   : Option (Word × Bool)
  deriving DecidableEq, Repr

/-- A strand at task entry, before s1 to s3 and the pc are set (R113, R208). -/
def Strand.entry : Strand :=
  { pc := 0, s := [], p := 0, b := [], vshape := 0x00200204, fpctl := 0, fpst := 0, trapvec := 0, trappc := 0,
    trapinfo := 0, traparg := 0, tdone := false, latch := false, hold := none, heldTicks := 0, window := [],
    loads := [], knext := false, scStage := 0, relNext := none, waiting := none, answer := none }

/-! ## Barriers, rings, streams, engines -/

/-- A barrier object (R124), with the decrements it has received in the current clock. -/
structure Barrier where
  ea    : Nat
  eb    : Nat
  ca    : Int
  cb    : Int
  phase : BitVec 32
  arrivals : Nat
  bytes    : Nat
  deriving DecidableEq, Repr

/-- Who holds a ring slot (R120). -/
inductive Holder where
  | strand (k : Nat)
  | record (core e num : Nat)
  | stream (v : Nat)
  deriving DecidableEq, Repr

/-- The states of a ring slot (R119). -/
inductive SlotState where
  | free | filling | full | draining
  deriving DecidableEq, Repr

/-- A slot of a ring: its state and holder, and whether its release takes effect at the end of this clock (R305). -/
structure RingSlot where
  state  : SlotState
  holder : Option Holder
  next   : Option SlotState
  deriving DecidableEq, Repr

/-- A ring: the values of its RINIT, FH, CH, its slots and the stream register bound to it (R118, R116). -/
structure Ring where
  place : Word
  shape : Word
  fh    : BitVec 32
  ch    : BitVec 32
  slots : List RingSlot
  /-- Vector register bound by SBIND; `true` is OUT. -/
  bound : Option (Nat × Bool)
  deriving DecidableEq, Repr

/-- A chunk of a matrix operand stream (R122, R349): its tag, the channel, number and micro-PC that produced it, and its contents.
The first `rows` rows and `pos` positions of each are no padding; `data` holds its bytes as the source format lays them out
(element bits, 32 places a row, then the scale bytes of each row, then the weights); `scales` are the scale bytes of every place. -/
structure Chunk where
  slot    : Nat
  rdim    : Nat
  kdim    : Nat
  orbit   : Bool
  chan    : Nat
  num     : Nat
  upc     : List Nat
  fmt     : Ty
  rows    : Nat
  pos     : Nat
  data    : Nat
  scales  : List Nat
  weights : List Int
  deriving DecidableEq, Repr

/-- Where a pending write goes (R165). -/
inductive WriteTarget where
  | hbm (pa gen : Nat)
  /-- Byte offset in the W, A or S store (0, 1, 2) of a core. -/
  | store (core st off : Nat)
  | host (f iova : Nat)
  | peer (peer va : Nat)
  deriving DecidableEq, Repr

/-- The operations of engine records (R249). -/
inductive RecOp where
  | mma | ocon | mdrain | mclr | cpy | cpys | cfill | gath | scat | merg | topk | cmpt | nbin | nstrm | chain | rnop
  deriving DecidableEq, Repr

/-- A dispatched engine record (R104, R106, R222): as captured, with the bindings it was checked against, its micro-PC and
its running values. -/
structure Rec where
  num     : Nat
  /-- The engine of its queue: 0 ME, 1 CE0, 2 CE1, 3 IE, 4 NE. -/
  eng     : Nat
  op      : RecOp
  hdr     : RecHdr
  body    : BitVec 384
  binds   : Map Handle
  /-- Core in whose queue it stands, and core whose rings and barriers its specs name (R311). -/
  core    : Nat
  objCore : Nat
  /-- A record of a CHAIN's list: it fills no place of its own (R366). -/
  member  : Bool
  /-- Phase of the barrier of a KIND 3 wait at dispatch (R243). -/
  phase   : BitVec 32
  started : Bool
  /-- The nest is finished; the record awaits its completion (R220). -/
  ended   : Bool
  upc     : List Nat
  held    : List Nat
  count   : Nat
  flags   : BitVec 16
  /-- Distinct bytes written so far (R243): ranges of location numbers, start and length. -/
  wrote   : List (Nat × Nat)
  /-- Running values of the op: CRCs, counts, consumed inputs (R222). -/
  aux     : Map Nat
  mcheck  : Option Nat
  /-- A slot it names was unbound at a re-bind or a shootdown (R139, R224). -/
  hunbound : Bool
  deriving DecidableEq, Repr

/-- One engine of a core: its queue, its timeline, the number of the latest record dispatched, the words of the 64 most recent
completions in the order of completion, and the pending MCHECKs by record number (R103, R106, R212). -/
structure Engine where
  queue : List Rec
  tl    : Nat
  last  : Nat
  words : Map Word
  pend  : Map Nat
  deriving DecidableEq, Repr

/-- An engine with nothing dispatched (R106). -/
def Engine.idle : Engine := { queue := [], tl := 0, last := 0, words := [], pend := [] }

/-- Accumulator kinds of a patch (R343). -/
inductive PatchKind where
  | fp32 | int32 | fp64
  deriving DecidableEq, Repr

/-- The group tag of a patch (R146): every group, or the generators it holds. -/
inductive GroupTag where
  | every
  | gens (g : List Gen)
  deriving DecidableEq, Repr

/-- What a patch carries beside its words (R146, R313, R343, R351): `broken` is a SYMBREAK of R349 that its drains report,
`written` marks a patch the task has written (R223). -/
structure Patch where
  kind    : PatchKind
  tag     : GroupTag
  status  : BitVec 4
  broken  : Bool
  written : Bool
  /-- Core clock of the completion of the last ME record that named it, when that was an MDRAIN (R313). -/
  drained : Option Nat
  deriving DecidableEq, Repr

/-- A patch that nothing has cleared or written (log 4). -/
def Patch.initial : Patch := { kind := .fp32, tag := .every, status := 0, broken := false, written := false, drained := none }

/-- What a pending write does there: bytes, or a RED applied when it is performed (R179). -/
inductive WriteData where
  | bytes (bs : List Byte)
  | red (op : RmwOp) (ty : Ty) (width : Nat) (operand : Word)
  deriving DecidableEq, Repr

/-- A write not yet performed at its home port (R167). -/
structure PendingWrite where
  strand : Nat
  target : WriteTarget
  data   : WriteData
  deriving DecidableEq, Repr

/-- Where a core stands in a LOOP task (R278). -/
inductive LoopPlace where
  | prologue | kernel | awaiting | epilogue
  deriving DecidableEq, Repr

/-- The state of one core (05). -/
structure Core where
  task     : Option Nat
  rank     : Nat
  strands  : List Strand
  clk      : Nat
  ratio    : Nat
  ptr      : Nat
  /-- Strands picked in this clock and not yet issued; none before the choice of the clock is made (R99). -/
  picks    : Option (List Nat)
  /-- Clock from which the VE accepts instructions again (R99, R322). -/
  veFree   : Nat
  clean    : Bool
  lastTenant : Option Nat
  clearing : Bool
  place    : LoopPlace
  index    : Nat
  count    : Nat
  w        : Bytes
  a        : Bytes
  s        : Bytes
  /-- Rows of 128 words: row `r` of patch `z` at 96 · z + r. -/
  z        : Map (BitVec 4096)
  patches  : Map Patch
  v        : Map (BitVec 16384)
  side     : Map (BitVec 2048)
  qs       : Map (List Word)
  qv       : Map (List (BitVec 16384 × BitVec 2048))
  /-- Entries pushed in this clock, taken up at its end (R117). -/
  qsNew    : Map (List Word)
  qvNew    : Map (List (BitVec 16384 × BitVec 2048))
  rings    : Map Ring
  barriers : Map Barrier
  handles  : Map Handle
  /-- Binds and unbinds of this clock, effective from the next (R112). -/
  bindNew  : Map (Option Handle)
  unbindStream : List Nat
  pf       : Map (BitVec 32)
  streams  : Map (List Chunk)
  engines  : Map Engine
  writes   : List PendingWrite
  deriving DecidableEq, Repr

/-- A core after reset (R40 step 4): idle, clean, every store and register zero. -/
def Core.initial : Core :=
  { task := none, rank := 0, strands := [], clk := 0, ratio := 16, ptr := 0, picks := none, veFree := 0, clean := true,
    lastTenant := none, clearing := false, place := .prologue, index := 0, count := 0, w := [], a := [], s := [],
    z := [], patches := [], v := [], side := [], qs := [], qv := [], qsNew := [], qvNew := [], rings := [],
    barriers := [], handles := [], bindNew := [], unbindStream := [], pf := [], streams := [], engines := [],
    writes := [] }

/-! ## Dies and links -/

/-- A compute die: power and clocks (R19, R21), the queue of its neighbour engine (R103) and ECC_STAT (R218). -/
structure Die where
  limitK  : Nat
  minK    : Nat
  temp    : Nat
  causes  : BitVec 5
  /-- L_d that takes effect at the next heartbeat tick (R16, R19). -/
  nextK   : Option Nat
  lastThermal : Option Nat
  suppressed  : Nat
  /-- Core and record number, in arrival order. -/
  neQueue : List (Nat × Nat)
  lastUE  : BitVec 35
  lastSram : Bool
  ue      : BitVec 12
  ce      : BitVec 16
  deriving DecidableEq, Repr

/-- A die after reset. -/
def Die.initial : Die :=
  { limitK := 16, minK := 16, temp := 0, causes := 0, nextK := none, lastThermal := none, suppressed := 0,
    neQueue := [], lastUE := 0, lastSram := false, ue := 0, ce := 0 }

/-- A DATA or CREDIT flit still to be sent (R22): everything but its SEQ, ACK, CRC and parity. -/
structure Outgoing where
  typ     : Nat
  vc      : Nat
  dest    : Nat
  src     : Nat
  hops    : Nat
  payload : BitVec 1856
  deriving DecidableEq, Repr

/-- A Llynly Link port (R22 to R26). -/
structure Port where
  peer     : Nat
  retrains : Nat
  width    : Nat
  state    : Nat
  sendSeq  : Nat
  expect   : Nat
  /-- Flits sent and not acknowledged, oldest first, each with its SEQ. -/
  replay   : List (Nat × BitVec 2048)
  credits  : List Nat
  /-- Credits of each virtual channel that the receiver has to return (R23). -/
  owed     : List Nat
  /-- The receive buffers of the port have been granted to the far end (log 20). -/
  granted  : Bool
  discarding : Bool
  /-- Replays of the oldest flit of the buffer so far (R25). -/
  badReplays : Nat
  attempts : Nat
  /-- DATA payloads delivered to the hub, with their virtual channel and source. -/
  rx       : List (Nat × Nat × BitVec 1856)
  /-- Flits waiting to be sent. -/
  tx       : List Outgoing
  /-- Flits put on the lanes so far, in order. -/
  wire     : List (BitVec 2048)
  deriving DecidableEq, Repr

/-- A port after reset: down. -/
def Port.initial : Port :=
  { peer := 0, retrains := 0, width := 0, state := 0, sendSeq := 0, expect := 0, replay := [], credits := [0, 0, 0, 0],
    owed := [0, 0, 0, 0], granted := false, discarding := false, badReplays := 0, attempts := 0, rx := [], tx := [], wire := [] }

/-! ## Host functions and security -/

/-- An event ring entry less its PHASE (R32): class and index, TYPE, SEQ, TASKID and payload bytes 16 to 30. -/
structure Event where
  cls     : Nat
  index   : Nat
  typ     : Nat
  seq     : BitVec 32
  task    : Word
  payload : BitVec 120
  deriving DecidableEq, Repr

/-- A mailbox command in progress with the outcome it will report (R37). -/
structure MbxRun where
  cmd    : Nat
  result : Nat
  data   : BitVec 2048
  deriving DecidableEq, Repr

/-- One PCIe function (R29 to R39). -/
structure Fn where
  evqBase : Word
  en      : Bool
  vec     : Nat
  size    : Nat
  head    : BitVec 32
  tail    : Nat
  lost    : BitVec 16
  backlog : List Event
  /-- Next SEQ of each source, by class · 4096 + index. -/
  seqs    : Map (BitVec 32)
  armed   : Bool
  raised  : Nat
  cmd     : BitVec 8
  busy    : Option MbxRun
  errBusy : Bool
  result  : BitVec 8
  data    : BitVec 2048
  tenant  : Nat
  denied  : BitVec 16
  badacc  : BitVec 16
  /-- Ciphertext parts received so far, in order (R39). -/
  part    : List Byte
  /-- Open transport session: number and key-wrap key. -/
  session : Option (Nat × BitVec 256)
  /-- The value the last register read of the function returned, and the bytes its last read of package memory did. -/
  readData : Word
  readBytes : List Byte
  deriving DecidableEq, Repr

/-- A function after reset. -/
def Fn.initial : Fn :=
  { evqBase := 0, en := false, vec := 0, size := 6, head := 0, tail := 0, lost := 0, backlog := [], seqs := [],
    armed := true, raised := 0, cmd := 0, busy := none, errBusy := false, result := 0, data := 0, tenant := 0,
    denied := 0, badacc := 0, part := [], session := none, readData := 0, readBytes := [] }

/-- A tenant's key slot (R47): loaded or empty, the generation of its memory key, its Larder key. -/
structure KeySlot where
  loaded : Bool
  gen    : Nat
  memKey : BitVec 512
  larder : BitVec 256
  deriving DecidableEq, Repr

/-- An empty key slot. -/
def KeySlot.empty : KeySlot := { loaded := false, gen := 0, memKey := 0, larder := 0 }

/-- An access table of 160 bytes (R52). -/
abbrev AccessTable := BitVec 1280

/-- RANGE[r] of an HBM range controller, with its table (R52). -/
structure HbmRange where
  en    : Bool
  first : Nat
  last  : Nat
  table : AccessTable
  deriving DecidableEq, Repr

/-- A range not in use. -/
def HbmRange.off : HbmRange := { en := false, first := 0, last := 0, table := 0 }

/-! ## Tasks -/

/-- A window table entry (R65). -/
structure Window where
  desc : Nat
  mode : Nat
  lo   : List Nat
  ext  : List Nat
  /-- The descriptor as the record check, and at placement the bind, read it. -/
  form : Option Desc
  deriving DecidableEq, Repr

/-- Where a task stands in the scheduler (R61, R70, R88). -/
inductive TaskPhase where
  /-- In its queue's FIFO, not placed. -/
  | ready
  /-- On its cores. -/
  | running
  /-- A pre-emption is pending; its cores are stopping. -/
  | stopping
  /-- Pre-empted, back in its FIFO. -/
  | saved
  /-- PURE: a hit copy runs. -/
  | copying
  /-- PURE: its out windows are being captured. -/
  | capture
  /-- Pod gang: the round of R75. -/
  | reserving
  deriving DecidableEq, Repr

/-- Larder states of a PURE task (R88). -/
inductive LarderPlace where
  | off | keying | hit | miss | noKey
  /-- HIT, its hit abandoned by a bind that faulted. -/
  | abandoned
  deriving DecidableEq, Repr

/-- The saved context of one core of a pre-empted task (R222): the core's own state, with its stores cut down to the save windows
and the lists of its CHAINs, by space, offset and bytes, and the save slot that holds it in memory. -/
structure SavedCore where
  slot : Nat
  core : Core
  data : List (Nat × Nat × List Byte)
  deriving DecidableEq, Repr

/-- A started task (R54 to R57, R63). -/
structure Task where
  id       : Word
  queue    : Nat
  /-- Graph of which it is a node, by the graph's own TASKID, and its node index. -/
  node     : Option (Nat × Nat)
  tenant   : Nat
  prio     : Nat
  func     : Nat
  notify   : Bool
  pure     : Bool
  loop     : Bool
  strands  : Nat
  scope    : Nat
  width    : Nat
  entry    : Nat
  args     : Nat
  arglen   : Nat
  kernel   : Nat
  epilogue : Nat
  trip     : Nat
  minch    : Nat
  podmask  : BitVec 64
  windows  : List Window
  /-- The save windows: space, byte offset in the store, length (R65, R223). -/
  saveSet  : List (Nat × Nat × Nat)
  spawnDie : Option Nat
  /-- Successors of a graph node, in array order (R66). -/
  succ     : List Nat
  phase    : TaskPhase
  cores    : List Nat
  former   : List Nat
  doneCores : List Nat
  patience : Bool
  /-- The victim whose pre-emption is pending for this task (R70). -/
  waits    : Option Nat
  stamp    : Nat
  next     : Nat
  rem      : Nat
  returned : List (Nat × Nat)
  bg       : Barrier
  /-- Level of bg, and the quad (16 to a die) or die that holds its object (R123). -/
  bgLevel  : Nat
  bgAt     : Nat
  broken   : Bool
  larder   : LarderPlace
  void     : Bool
  tainted  : Bool
  /-- Digests done, by part: 0 the argument block, i + 1 window i (R84). -/
  digests  : Map (BitVec 256)
  key      : Option (BitVec 256)
  /-- 4 KiB granules of the argument block and the in windows, from the start of keying (R86). -/
  granules : List Nat
  saved    : Map SavedCore
  attempt  : Nat
  acks     : List Nat
  peersDone : List Nat
  /-- Members on another package ended with a pending MCHECK that no wait had taken (R212). -/
  peerCheck : Bool
  ackTimer : Bool
  delayed  : Bool
  /-- Abort with this cause byte and code byte (R77, R209). -/
  aborted  : Option (Nat × Nat)
  deriving DecidableEq, Repr

/-- A graph that has started (R66 to R69). -/
structure Graph where
  id       : Word
  queue    : Nat
  notify   : Bool
  nodes    : Nat
  succ     : Nat
  nnodes   : Nat
  counters : Map Nat
  entered  : List Nat
  /-- Nodes in the ready pool, placed or pre-empted. -/
  live     : List Nat
  /-- Die of the core that spawned its launch (R71). -/
  spawnDie : Option Nat
  /-- Cause byte, code byte and node index of its abort (R77). -/
  cause    : Option (Nat × Nat × Option Nat)
  deriving DecidableEq, Repr

/-- A launch started and not retired, in start order (R62). -/
structure Launch where
  id         : Word
  concurrent : Bool
  deriving DecidableEq, Repr

/-- A TGS queue (R58): registers, records consumed, FIFO of the ready pool and launches in flight. -/
structure Queue where
  base   : Nat
  en     : Bool
  space  : Bool
  prio   : Nat
  tenant : Nat
  func   : Nat
  spawn  : Bool
  size   : Nat
  pi     : BitVec 32
  ci     : BitVec 32
  halted : Bool
  ovr    : Bool
  badrec : Bool
  full   : Bool
  taken  : Nat
  fifo   : List Nat
  flight : List Launch
  /-- Die of the spawning core for each spawned record that waits, by record number (R71). -/
  spawnDie : Map Nat
  deriving DecidableEq, Repr

/-- A queue after reset. -/
def Queue.initial : Queue :=
  { base := 0, en := false, space := false, prio := 7, tenant := 0, func := 0, spawn := false, size := 6, pi := 0,
    ci := 0, halted := false, ovr := false, badrec := false, full := false, taken := 0, fifo := [], flight := [],
    spawnDie := [] }

/-- A reservation a peer holds for a launcher (R75): 0 pending, 1 reserved, 2 running, 3 broken, 4 pre-empted (R72). -/
structure PeerGang where
  launcher : Nat
  task     : Word
  attempt  : Nat
  state    : Nat
  timer    : Bool
  deriving DecidableEq, Repr

/-- Messages of a pod gang on virtual channel 0 (R23, R75).  ABORT carries the cause and the code of a launch that ends, DONE whether
the members leave a pending MCHECK, and `stop` is the launcher's pre-emption (R72, R209, R212; log 36). -/
inductive PodKind where
  | reserve | ack | nak | go | late | stop
  | abort (cause code : Nat)
  | done (check : Bool)
  | barrier (m : PodBarrierMsg)
  deriving DecidableEq, Repr

/-- A message sent to a package. -/
structure PodMsg where
  dest    : Nat
  kind    : PodKind
  task    : Word
  attempt : Nat
  deriving DecidableEq, Repr

/-- A park entry (R211): the parked strand and its failing address. -/
structure Park where
  core   : Nat
  strand : Nat
  slot   : Nat
  va     : Nat
  deriving DecidableEq, Repr

/-- A notice waiting for queue 0 (R78, R79): code, TASKID and cause bytes 16 to 63. -/
structure Notice where
  code  : Nat
  task  : Word
  cause : BitVec 384
  deriving DecidableEq, Repr

/-! ## Larder -/

/-- LPOOL, LQUOTA and LCNT of a tenant (R97), and the runs of its bound pool. -/
structure Pool where
  desc  : Nat
  bad   : Bool
  en    : Bool
  quota : Nat
  qerr  : Bool
  hits  : BitVec 24
  installs : BitVec 24
  drops : BitVec 16
  runs  : List Run
  bytes : Nat
  deriving DecidableEq, Repr

/-- A tenant without a pool. -/
def Pool.initial : Pool :=
  { desc := 0, bad := false, en := false, quota := 0, qerr := false, hits := 0, installs := 0, drops := 0, runs := [],
    bytes := 0 }

/-- A digest under computation, with what it reads and the granules of that (R83, R86): part 0 is the argument block, part
i + 1 window i. -/
structure Digest where
  task     : Word
  part     : Nat
  source   : Handle
  scales   : Option Handle
  /-- The descriptor of the window as it stands in memory; none for the argument block. -/
  form     : Option Desc
  granules : List Nat
  deriving DecidableEq, Repr

/-- The tag of a digest cache entry (R87): the descriptor with its base zero, and the physical runs, their virtual starts zero. -/
structure DigestTag where
  tenant : Nat
  desc   : Desc
  lo     : List Nat
  ext    : List Nat
  runs   : List Run
  deriving DecidableEq, Repr

/-- A digest cache entry. -/
structure DigestEntry where
  tag      : DigestTag
  digest   : BitVec 256
  granules : List Nat
  stamp    : Nat
  deriving DecidableEq, Repr

/-- A result table entry (R89, R90): its extent is a run of 64 KiB blocks of the tenant's pool. -/
structure Result where
  key    : BitVec 256
  tenant : Nat
  block  : Nat
  blocks : Nat
  bytes  : Nat
  stamp  : Nat
  /-- Tasks whose hit copy reads it. -/
  readers : List Nat
  deriving DecidableEq, Repr

/-- The watch region of a die (R97). -/
structure WatchRegion where
  base : Nat
  en   : Bool
  deriving DecidableEq, Repr

/-! ## The package -/

/-- What acts next: an event of the part or the outside, a core in its current clock, or what the opcode table gives no row: a read
by a host function, of a register of its window or of the hub register block (R29), or of package memory (R50) under the key id of
a page; and the pre-emption of a gang by its launcher, at a peer (R72). -/
inductive Act where
  | event (i : Instr)
  | core (c : Nat)
  | registerRead (f : Nat) (hub : Bool) (off size : Nat)
  | memoryRead (f key pa len : Nat)
  | gangStop (peer : Nat) (task : Word)
  deriving DecidableEq, Repr

/-- BOOT_STAT (R42). -/
structure Boot where
  failStep : Nat
  failCode : Nat
  retries  : Nat
  warm     : Bool
  step     : Nat
  deriving DecidableEq, Repr

/-- The package. -/
structure State where
  /-- Outside inputs and choices of agent, next first (log 1). -/
  agenda   : List Act
  /-- The core and strand whose instruction is being executed. -/
  cur      : Nat × Nat
  /-- Place of the default policy (log 1). -/
  lastCore : Nat
  /-- Free values drawn so far (log 2). -/
  free     : Nat
  power    : Bool
  -- memory
  hbm      : Bytes
  /-- Key generations of the bytes, as steps: an entry holds from its address up to the next entry's, 0 below the first (log 5). -/
  hbmGen   : Map Nat
  hostMem  : Bytes
  /-- Host pages of 4 KiB that ATS translates: function · 2^52 + page (R137). -/
  hostPages : List Nat
  /-- Poisoned units (R215). -/
  poison   : List ErrorUnit
  -- clocks and power
  tick     : Nat
  clkcnt   : Nat
  evalTick : Nat
  watts    : BitVec 16
  dies     : Map Die
  -- links
  ports    : Map Port
  routes   : Map (BitVec 8)
  podId    : BitVec 6
  hopDrops : Nat
  /-- P-space accesses without their response: tag, peer, and whether it is a write (R176). -/
  pOut     : List (Nat × Nat × Bool)
  pTag     : Nat
  -- host and security
  fns      : Map Fn
  mbxState : Nat
  boot     : Boot
  startLog : List (BitVec 128)
  rollback : Nat
  fwVersion : Nat
  fwDigest : BitVec 384
  sessions : Nat
  tkey     : Nat
  keyGen   : Nat
  keys     : Map KeySlot
  hubTable : AccessTable
  queueTables : Map AccessTable
  portTables  : Map AccessTable
  hbmTables   : Map AccessTable
  ranges   : Map HbmRange
  peerDenied : Nat
  -- scheduler
  queues   : Map Queue
  lastQueue : Map Nat
  tasks    : Map Task
  graphs   : Map Graph
  stamp    : Nat
  peerGangs : List PeerGang
  /-- Messages of pod gangs sent to other packages, in order (R75). -/
  podOut   : List PodMsg
  evtab    : Word
  evarg    : Word
  evlost   : BitVec 32
  notices  : List Notice
  saveSlots : Nat
  saveFree : Nat
  saveBase : Nat
  wdlimit  : BitVec 32
  pkAction : Nat
  pkIndex  : Nat
  parks    : Map Park
  sdBase   : Nat
  sdPages  : BitVec 32
  sdTenant : Nat
  sdBusy   : Bool
  /-- Records a shootdown waits for: core, engine, number (R139). -/
  sdWait   : List (Nat × Nat × Nat)
  ptroot   : Map Word
  -- Larder
  pools    : Map Pool
  watchRegions : Map WatchRegion
  watch    : List Nat
  digests  : List Digest
  digestCache : List DigestEntry
  results  : List Result
  -- cores
  coreTab  : Map Core
  deriving DecidableEq, Repr

/-- Why the machine stops with a fault. -/
inductive Fault where
  /-- Raised by `step` alone, when the agenda holds an event that names a unit the part does not have (a core above 255, a
  port above 11, ...): no such event exists.  Safe: the part has no behaviour there. -/
  | noSuchUnit
  deriving DecidableEq, Repr

/-- Why an instruction has no meaning. -/
inductive Refusal where
  /-- Raised by an arm of `exec` for an instruction not modelled yet, by its mnemonic.  Safe: nothing is claimed of it. -/
  | notModelled (mnemonic : String)
  deriving DecidableEq, Repr

/-- The default table of the hub register block and of queue 0: host function 0 has both rights (R52). -/
def tableHost0 : AccessTable := BitVec.ofNat 1280 (3 * 2 ^ 1024)

/-- The default table of an HBM range controller: tenant 0 has both rights (R52). -/
def tableTenant0 : AccessTable := 3

/-- The machine right after power is applied: every register at the reset value the manual gives (log 4 for the rest), and
the power-on itself the next event (R40). -/
def State.reset : State :=
  { agenda := [.event .powerOn], cur := (0, 0), lastCore := 0, free := 0, power := true, hbm := [], hbmGen := [],
    hostMem := [], hostPages := [], poison := [], tick := 0, clkcnt := 0, evalTick := 0, watts := 0x0C80, dies := [],
    ports := [], routes := [], podId := 0, hopDrops := 0, pOut := [], pTag := 0, fns := [], mbxState := 0,
    boot := { failStep := 0, failCode := 0, retries := 0, warm := false, step := 0 }, startLog := [], rollback := 0,
    fwVersion := 0, fwDigest := 0, sessions := 0, tkey := 0, keyGen := 0, keys := [], hubTable := tableHost0,
    queueTables := [(0, tableHost0)], portTables := [], hbmTables := [], ranges := [], peerDenied := 0, queues := [],
    lastQueue := [], tasks := [], graphs := [], stamp := 0, peerGangs := [], podOut := [], evtab := 0, evarg := 0, evlost := 0,
    notices := [], saveSlots := 0, saveFree := 0, saveBase := 0, wdlimit := 0, pkAction := 0, pkIndex := 0,
    parks := [], sdBase := 0, sdPages := 0, sdTenant := 0, sdBusy := false, sdWait := [], ptroot := [], pools := [],
    watchRegions := [], watch := [], digests := [], digestCache := [], results := [], coreTab := [] }

end Sys2Proof.Machine
end

