-- ==== Sys2Proof/Machine/Ops.lean ====
section
/-! DEFINITION. The named operations over cores, strands and their registers; taking an exception (R206 to R210), the abort of a
task (R209) and the return from a handler; event rings (R32 to R36). -/

namespace Sys2Proof.Machine

/-- The outcome of every meaning. -/
abbrev Outcome := Host.Outcome State Fault Refusal

/-! ## Parts of the state -/

/-- Core `c` (64 · die + core, R177). -/
def State.core (s : State) (c : Nat) : Core := mapGet s.coreTab c Core.initial
/-- The state with core `c` replaced. -/
def State.setCore (s : State) (c : Nat) (k : Core) : State := { s with coreTab := mapPut s.coreTab c k }
/-- Strand `k` of a core. -/
def Core.strand (q : Core) (k : Nat) : Strand := q.strands.getD k Strand.entry
/-- A core with strand `k` replaced. -/
def Core.setStrand (q : Core) (k : Nat) (t : Strand) : Core := { q with strands := q.strands.set k t }
/-- The core of the executing strand. -/
def State.here (s : State) : Core := s.core s.cur.1
/-- The state with the executing strand's core replaced. -/
def State.setHere (s : State) (q : Core) : State := s.setCore s.cur.1 q
/-- The executing strand. -/
def State.me (s : State) : Strand := s.here.strand s.cur.2
/-- The state with the executing strand replaced. -/
def State.setMe (s : State) (t : Strand) : State := s.setHere (s.here.setStrand s.cur.2 t)
/-- Die of a core. -/
def dieOf (c : Nat) : Nat := c / Config.coresPerDie
/-- Core number within its die. -/
def coreInDie (c : Nat) : Nat := c % Config.coresPerDie
/-- A die. -/
def State.die (s : State) (d : Nat) : Die := mapGet s.dies d Die.initial
/-- The state with a die replaced. -/
def State.setDie (s : State) (d : Nat) (x : Die) : State := { s with dies := mapPut s.dies d x }
/-- A host function. -/
def State.fn (s : State) (f : Nat) : Fn := mapGet s.fns f Fn.initial
/-- The state with a host function replaced. -/
def State.setFn (s : State) (f : Nat) (x : Fn) : State := { s with fns := mapPut s.fns f x }
/-- A TGS queue; the priority of queue 0 is fixed at 0 (R58). -/
def State.queue (s : State) (n : Nat) : Queue :=
  mapGet s.queues n (if n = 0 then { Queue.initial with prio := 0 } else Queue.initial)
/-- The state with a queue replaced. -/
def State.setQueue (s : State) (n : Nat) (q : Queue) : State := { s with queues := mapPut s.queues n q }
/-- A task by its TASKID. -/
def State.task? (s : State) (id : Nat) : Option Task := mapFind s.tasks id
/-- The state with a task replaced. -/
def State.setTask (s : State) (t : Task) : State := { s with tasks := mapPut s.tasks t.id.toNat t }
/-- The task of a core. -/
def State.taskOf (s : State) (c : Nat) : Option Task := match (s.core c).task with | some i => s.task? i | none => none
/-- The task of the executing strand. -/
def State.myTask (s : State) : Option Task := s.taskOf s.cur.1
/-- The executing strand's task is PURE. -/
def State.inPure (s : State) : Bool := match s.myTask with | some t => t.pure | none => false
/-- Tenant of the task of a core; 0 where there is none. -/
def State.tenantOf (s : State) (c : Nat) : Nat := match s.taskOf c with | some t => t.tenant | none => 0
/-- Tenant of a host function: 0 for function 0 (R47). -/
def State.tenantOfFn (s : State) (f : Nat) : Nat := if f = 0 then 0 else (s.fn f).tenant
/-- A key slot: slot 0 is loaded from step 6 on (R49). -/
def State.keySlot (s : State) (t : Nat) : KeySlot := mapGet s.keys t KeySlot.empty
/-- An engine of a core: 0 ME, 1 CE0, 2 CE1, 3 IE, 4 NE (R209). -/
def Core.engine (q : Core) (e : Nat) : Engine := mapGet q.engines e Engine.idle
/-- A core with an engine replaced. -/
def Core.setEngine (q : Core) (e : Nat) (x : Engine) : Core := { q with engines := mapPut q.engines e x }
/-- Records an engine queue holds at most (R103). -/
def queuePlaces (e : Nat) : Nat := match e with | 0 => 16 | 1 => 16 | 2 => 16 | 3 => 8 | _ => 4
/-- A patch's tag and status. -/
def Core.patch (q : Core) (z : Nat) : Patch := mapGet q.patches z Patch.initial
/-- Records of a queue that hold a place: the listed records of a CHAIN hold none of their own (R366). -/
def Engine.places (x : Engine) : Nat := (x.queue.filter fun r => !r.member).length
/-- A free number, advancing the counter. -/
def State.drawFree (s : State) : State := { s with free := s.free + 1 }

/-- The counter advances where a free value was drawn. -/
def State.drawIf (s : State) (c : Bool) : State := if c then s.drawFree else s

/-! ## Strand registers (R98) -/

/-- s[r]; s0 reads zero. -/
def Strand.reg (t : Strand) (r : Nat) : Word := if r = 0 then 0 else mapGet t.s r 0
/-- A write of s[r]; one of s0 is discarded. -/
def Strand.setReg (t : Strand) (r : Nat) (v : Word) : Strand := if r = 0 then t else { t with s := mapPut t.s r v }
/-- p[k]; p0 reads true. -/
def Strand.pred (t : Strand) (k : Nat) : Bool := if k = 0 then true else bvBit t.p k
/-- A write of p[k]; one of p0 is discarded. -/
def Strand.setPred (t : Strand) (k : Nat) (v : Bool) : Strand :=
  if k = 0 then t else { t with p := bvSetField t.p k 1 v.toNat }
/-- b[x]. -/
def Strand.target (t : Strand) (x : Nat) : Word := mapGet t.b x 0
/-- Outstanding loads on counter `lc` (R297). -/
def Strand.counter (t : Strand) (lc : Nat) : Nat := (t.loads.filter fun l => l.lc == lc).length
/-- FPST with bits set (R197). -/
def Strand.setFlags (t : Strand) (f : Nat) : Strand := { t with fpst := fpstSet t.fpst f }
/-- FPCTL.RM as a rounding (R196). -/
def Strand.rm (t : Strand) : Rnd := rndOf (bvField t.fpctl 0 2)
/-- FPCTL.FTZ. -/
def Strand.ftz (t : Strand) : Bool := bvBit t.fpctl 2

/-- s[r] of the executing strand. -/
def State.rS (s : State) (r : Nat) : Word := s.me.reg r
/-- Write s[r] of the executing strand. -/
def State.wS (s : State) (r : Nat) (v : Word) : State := s.setMe (s.me.setReg r v)
/-- p[k] of the executing strand. -/
def State.rP (s : State) (k : Nat) : Bool := s.me.pred k
/-- Write p[k] of the executing strand. -/
def State.wP (s : State) (k : Nat) (v : Bool) : State := s.setMe (s.me.setPred k v)
/-- Write b[x], which starts its window of six clocks (R276). -/
def State.wB (s : State) (x : Nat) (v : Word) : State :=
  s.setMe { s.me with b := mapPut s.me.b x v
                      window := mapPut s.me.window x (s.here.clk + Config.branchWindow) }
/-- Set FPST bits of the executing strand. -/
def State.setFlags (s : State) (f : Nat) : State := s.setMe (s.me.setFlags f)
/-- A result register pair: pT takes the value and pF its complement; pF is written last (R266). -/
def State.wPair (s : State) (pt pf : Nat) (v : Bool) : State := (s.wP pt v).wP pf (!v)
/-- A vector register of the core. -/
def Core.vec (q : Core) (v : Nat) : BitVec 16384 := mapGet q.v v 0
/-- A sidecar of the core. -/
def Core.sidecar (q : Core) (v : Nat) : BitVec 2048 := mapGet q.side v 0

/-! ## Poison of units other than HBM (R215) -/

/-- A unit is poisoned. -/
def State.isPoisoned (s : State) (u : ErrorUnit) : Bool := s.poison.contains u
/-- A write that covers the whole unit clears its poison. -/
def State.clearPoison (s : State) (u : ErrorUnit) : State := { s with poison := s.poison.filter fun x => x != u }
/-- A unit becomes poisoned. -/
def State.addPoison (s : State) (u : ErrorUnit) : State :=
  if s.poison.contains u then s else { s with poison := u :: s.poison }

/-! ## Exceptions (R206 to R210) -/

/-- An exception as it is raised: CODE, SUB, SRC, ENG, SLOT, TRAPARG, whether its kind is C, and whether a page
walk reports it (R206, R209). -/
structure Exc where
  code  : Nat
  sub   : Nat
  src   : Nat
  eng   : Nat
  slot  : Nat
  arg   : Word
  kindC : Bool
  walk  : Bool
  deriving DecidableEq, Repr

/-- Exception codes (R206). -/
def codeILLOP : Nat := 0x01
def codePRIV : Nat := 0x02
def codeHFAULT : Nat := 0x03
def codeBOUNDS : Nat := 0x04
def codePERM : Nat := 0x05
def codePAGE : Nat := 0x06
def codeALIGN : Nat := 0x07
def codeSEALED : Nat := 0x08
def codeCOMPRESSED : Nat := 0x09
def codeSYMGROUP : Nat := 0x0A
def codeRACE : Nat := 0x0B
def codePURITY : Nat := 0x0C
def codeBOXSMALL : Nat := 0x0D
def codeBRK : Nat := 0x0E
def codeTRAP : Nat := 0x0F
def codeMCHECK : Nat := 0x10
def codeGANGBROKEN : Nat := 0x11
def codeWATCHDOG : Nat := 0x12

/-- A fault of a strand instruction, kind F, that concerns no handle slot. -/
def Exc.of (code : Nat) (sub : Nat := 0) (arg : Word := 0) : Exc :=
  { code := code, sub := sub, src := 0, eng := 0xF, slot := 0xFF, arg := arg, kindC := false, walk := false }
/-- The same concerning a handle slot. -/
def Exc.atSlot (slot code : Nat) (sub : Nat := 0) (arg : Word := 0) : Exc :=
  { code := code, sub := sub, src := 0, eng := 0xF, slot := slot, arg := arg, kindC := false, walk := false }
/-- ILLOP with a subcode. -/
def Exc.illop (sub : Nat) : Exc := Exc.of codeILLOP sub

/-- The priority number of an exception (R206); the lowest is raised. -/
def Exc.priority (e : Exc) : Nat :=
  if e.walk then 11 else
  match e.code with
  | 0x01 => 2 | 0x02 => 3 | 0x0E => 4 | 0x0F => 4 | 0x03 => 5 | 0x05 => 7 | 0x09 => 8 | 0x08 => 9 | 0x04 => 10
  | 0x06 => 11 | 0x07 => 12 | 0x0A => 13 | 0x0B => 14 | 0x0D => 15
  | 0x0C => if e.src = 3 then 1 else 6
  | 0x10 => if e.src = 2 then 17 else 16
  | 0x11 => 18
  | _ => 19

/-- TRAPINFO at entry: the fields of the exception, with INH set (R208, R209). -/
def Exc.info (e : Exc) : Word :=
  BitVec.ofNat 64 (e.code % 256 + 256 * e.kindC.toNat + 512 + 1024 * (e.src % 4) + 4096 * (e.eng % 16) +
    65536 * (e.sub % 256) + 16777216 * (e.slot % 256))

/-- TRAPINFO.INH. -/
def Strand.inh (t : Strand) : Bool := bvBit t.trapinfo 9

/-- A strand that takes an exception in its handler (R208): `ret` is the address its kind gives. -/
def Strand.enterHandler (t : Strand) (e : Exc) (ret : Nat) : Strand :=
  { t with trappc := BitVec.ofNat 64 ret, trapinfo := e.info, traparg := e.arg, pc := t.trapvec.toNat, hold := none,
           heldTicks := 0, scStage := 0, waiting := none, answer := none }

/-- Whether the strand has a handler to take an exception (R208). -/
def Strand.hasHandler (t : Strand) : Bool := decide (t.trapvec ≠ 0) && !t.inh

/-- A core whose task has been aborted: its queued and stopped records are discarded and its streams emptied (R209). -/
def Core.discardRecords (q : Core) : Core :=
  { q with engines := q.engines.map fun p => (p.1, { p.2 with queue := [] }), streams := [], picks := none }

/-- Discard the records of several cores, from the die queues of the neighbour engines as well. -/
def State.stopCores (s : State) (cs : List Nat) : State :=
  let s := cs.foldl (fun s c => s.setCore c (s.core c).discardRecords) s
  { s with dies := s.dies.map fun p => (p.1, { p.2 with neQueue := p.2.neQueue.filter fun r => !(cs.contains r.1) })
           parks := s.parks.filter fun p => !(cs.contains p.2.core) }

/-- The abort of a task (R209): every strand and engine of it stops, its records are discarded, and it retires ABORTED with
this cause (row CORE_DONE).  A pending pre-emption gives way. -/
def State.abortTask (s : State) (id : Nat) (cause code : Nat) : State :=
  match s.task? id with
  | none => s
  | some t =>
    if t.aborted.isSome then s
    else
      let phase := match t.phase with | .stopping => .running | p => p
      (s.stopCores t.cores).setTask { t with aborted := some (cause, code), phase := phase }

/-- A task tainted by a PURITY fault (R93). -/
def State.taint (s : State) (c : Nat) : State :=
  match s.taskOf c with
  | some t => s.setTask { t with tainted := true }
  | none => s

/-- Taking an exception by strand `k` of core `c`, the one operation of R208 and R209: into its handler, or the abort of
the task.  `next` is the address of the next instruction in sequence. -/
def State.raiseAt (s : State) (c k : Nat) (e : Exc) (next : Nat) : State :=
  let t := (s.core c).strand k
  let s := if e.code = codePURITY then s.taint c else s
  if t.hasHandler then
    s.setCore c ((s.core c).setStrand k (t.enterHandler e (if e.kindC then next else t.pc)))
  else match (s.core c).task with
    | some id => s.abortTask id e.code 0
    | none => s

/-- The executing strand takes an exception of an instruction of `len` bytes. -/
def State.raise (s : State) (e : Exc) (len : Nat) : State := s.raiseAt s.cur.1 s.cur.2 e (s.me.pc + len)

/-- The return from a handler, beside its entry (R208, R280): the pc it goes to is TRAPPC, and INH is cleared. -/
def Strand.leaveHandler (t : Strand) : Strand :=
  { t with pc := t.trappc.toNat, trapinfo := bvSetField t.trapinfo 9 1 0 }

/-! ## One strand instruction -/

/-- What the body of a strand instruction does. -/
inductive Eff where
  /-- It completes: the pc goes to the next instruction in sequence. -/
  | done (s : State)
  /-- It completes, and the pc goes there. -/
  | jump (s : State) (pc : Nat)
  /-- It holds its strand (R101); the pc stays. -/
  | hold (s : State) (h : Hold)
  /-- It raises an exception; the state has what it did before, nothing for kind F. -/
  | trap (s : State) (e : Exc)
  deriving DecidableEq, Repr

/-- The registers an instruction names: scalars and vectors it reads, and those it writes (R297, R216). -/
structure Uses where
  rs : List Nat
  ws : List Nat
  rv : List Nat
  wv : List Nat
  deriving DecidableEq, Repr

/-- No register. -/
def Uses.none : Uses := ⟨[], [], [], []⟩
/-- Scalars only. -/
def Uses.scalar (rs ws : List Nat) : Uses := ⟨rs, ws, [], []⟩

/-- One of some scalars and vectors is the destination of one of some outstanding loads. -/
def loadsPending (loads : List OutLoad) (rs vs : List Nat) : Bool :=
  loads.any fun l =>
    match l.dst with
    | .nothing => false
    | .scalar d _ => decide (d ≠ 0) && rs.contains d
    | .vector d _ _ _ _ => vs.contains d
    | .peerScalar _ _ d _ _ _ => decide (d ≠ 0) && rs.contains d
    | .peerVector _ _ d _ _ _ _ => vs.contains d

/-- A register that the instruction reads or writes is the destination of an outstanding load of the strand (R297). -/
def Strand.loadPending (t : Strand) (u : Uses) : Bool := loadsPending t.loads (u.rs ++ u.ws) (u.rv ++ u.wv)

/-- The hold of such an instruction (R101). -/
def Uses.hold (u : Uses) : Hold := .load (u.rs ++ u.ws) (u.rv ++ u.wv)

/-- Width of an element by its TYPE code (R239, R315). -/
def shapeBits (code : Nat) : Nat :=
  match tyOf code with
  | .i64 => 64 | .u64 => 64 | .f64 => 64 | .i32 => 32 | .uint32 => 32 | .f32 => 32
  | .f16 => 16 | .bf16 => 16 | .int16 => 16 | .uint16 => 16
  | .e3m2 => 6 | .e2m3 => 6 | .mx6e3 => 6 | .mx6e2 => 6 | .dx6 => 6
  | .int4 => 4 | .e2m1 => 4 | .mx4 => 4 | .dx4 => 4
  | _ => 8

/-- Words of a vector register that the strand's shape covers (R315). -/
def State.shapeWords (s : State) : Nat :=
  let v := s.me.vshape
  (bvField v 5 9 * bvField v 16 13 * shapeBits (bvField v 0 5) + 63) / 64

/-- One of the first `n` words of a vector register of a core holds an uncorrectable error; a register bound to a ring is not
read itself (R116, R216). -/
def State.vregPoisoned (s : State) (c v n : Nat) : Bool :=
  (s.poison.any fun u => match u with | .vreg c' v' w => c == c' && v == v' && decide (w < n) | _ => false) &&
  !((s.core c).rings.any fun p => match p.2.bound with | some (u, _) => u == v | none => false)

/-- The first register read that holds an uncorrectable error, as its machine check (R210, R216, R257). -/
def State.registerCheck (s : State) (u : Uses) : Option Exc :=
  match u.rs.find? fun r => decide (r ≠ 0) && s.isPoisoned (.sreg s.cur.1 s.cur.2 r) with
  | some r => some (Exc.of codeMCHECK 5 (BitVec.ofNat 64 (2 ^ 63 + r)))
  | none =>
    match u.rv.find? fun v => s.vregPoisoned s.cur.1 v s.shapeWords with
    | some v => some (Exc.of codeMCHECK 3 (BitVec.ofNat 64 (2 ^ 63 + v)))
    | none => none

/-- Scalar registers written lose their poison (R215); writes of vector registers clear their own. -/
def State.registersWritten (s : State) (u : Uses) : State :=
  if s.poison.isEmpty then s else u.ws.foldl (fun s r => s.clearPoison (.sreg s.cur.1 s.cur.2 r)) s

/-- The pc moves on. -/
def State.setPc (s : State) (pc : Nat) : State := s.setMe { s.me with pc := pc }

/-- What an effect makes of the state, for an instruction of `len` bytes. -/
def finish (len : Nat) (u : Uses) (s : State) : Eff → State
  | .done t => (t.registersWritten u).setPc (s.me.pc + len)
  | .jump t pc => (t.registersWritten u).setPc pc
  | .hold t h => t.setMe { t.me with hold := some h }
  | .trap t e => t.raise e len

/-- A strand instruction of `len` bytes (R207, R235, R256): under a false guard only the pc moves; a register that an
outstanding load will write holds the strand, unless it has done its access and is in its last fence (R177); a fault of the body, and
a PAGE that parks the strand (R211), come before a machine check of a register read. -/
def runStrand (len : Nat) (g : Guard) (u : Uses) (s : State) (body : State → Eff) : Outcome :=
  if (s.rP g.g != g.n) = false then .next (s.setPc (s.me.pc + len))
  else if s.me.loadPending u && decide (s.me.scStage < 3) then .next (s.setMe { s.me with hold := some u.hold })
  else
    let e := body s
    match s.registerCheck u with
    | none => .next (finish len u s e)
    | some m =>
      match e with
      | .trap t x => if x.priority ≤ 16 then .next (t.raise x len) else .next (s.raise m len)
      | .hold _ (.parked _) => .next (finish len u s e)
      | _ => .next (s.raise m len)

/-! ## Event rings of the host functions (R32 to R36) -/

/-- The 32 bytes of an entry on a pass with this PHASE. -/
def Event.bytes (e : Event) (phase : Nat) : List Byte :=
  leBytes 2 (e.cls * 4096 + e.index % 4096) ++ leBytes 2 e.typ ++ leBytes 4 e.seq.toNat ++ leBytes 8 e.task.toNat ++
  leBytes 15 e.payload.toNat ++ leBytes 1 phase

/-- Key of a host memory byte: the function whose IOVA it is. -/
def hostKey (f iova : Nat) : Nat := f * 2 ^ 64 + iova

/-- Posted write of the part to host memory (R184). -/
def State.hostWrite (s : State) (f iova : Nat) (bs : List Byte) : State :=
  { s with hostMem := putBytes s.hostMem (hostKey f iova) bs }
/-- Read of host memory. -/
def State.hostRead (s : State) (f iova n : Nat) : List Byte := bytesAt s.hostMem (hostKey f iova) n

/-- Entries of a function's ring: SIZE below 6 is used as 6 and above 16 as 16 (R34). -/
def Fn.entries (x : Fn) : Nat := 2 ^ Nat.min (Nat.max x.size 6) 16
/-- The ring is full (R33). -/
def Fn.ringFull (x : Fn) : Bool :=
  decide (x.entries - 1 ≤ (x.tail + (x.entries - x.head.toNat % x.entries)) % x.entries)

/-- Write one entry into the ring of a function, with its interrupt (R33, R34). -/
def State.writeEntry (s : State) (f : Nat) (e : Event) : State :=
  let x := s.fn f
  let phase := 1 - x.tail / x.entries % 2
  let s := s.hostWrite f (x.evqBase.toNat + 32 * (x.tail % x.entries)) (e.bytes phase)
  s.setFn f { x with tail := x.tail + 1, raised := if x.armed then x.raised + 1 else x.raised, armed := false }

/-- Write waiting events while the ring is enabled and not full; `n` bounds them. -/
def State.drainEvents (s : State) (f : Nat) : Nat → State
  | 0 => s
  | n + 1 =>
    let x := s.fn f
    match x.backlog with
    | [] => s
    | e :: rest =>
      if x.en && !x.ringFull then ((s.setFn f { x with backlog := rest }).writeEntry f e).drainEvents f n else s

/-- Post an event to a function's ring: SEQ counts it whether it is written, waits, or is lost (R33, R34). -/
def State.postEvent (s : State) (f cls index typ : Nat) (task : Word) (payload : BitVec 120) : State :=
  let x := s.fn f
  let key := cls * 4096 + index
  let seq := mapGet x.seqs key 0
  let e : Event := { cls := cls, index := index, typ := typ, seq := seq, task := task, payload := payload }
  let x := { x with seqs := mapPut x.seqs key (seq + 1) }
  if x.backlog.isEmpty && x.en && !x.ringFull then (s.setFn f x).writeEntry f e
  else if x.backlog.length < Config.eventBacklog then s.setFn f { x with backlog := x.backlog ++ [e] }
  else s.setFn f { x with lost := if x.lost = 0xFFFF then x.lost else x.lost + 1 }

/-- A payload from its bytes 16 to 30, lowest first. -/
def payloadOf (bs : List Byte) : BitVec 120 := BitVec.ofNat 120 (leNat bs)

end Sys2Proof.Machine
end

