-- ==== Sys2Proof/Machine/Control.lean ====
section
/-! DEFINITION. Branches, the end of iterations, traps, system registers, clocks, identities, WFE and YIELD
(12 R274 to R286). -/

namespace Sys2Proof.Machine

/-- An address a branch-target register takes: a multiple of 4 below 2^57 (R274). -/
def targetOk (v : Word) : Bool := decide (v.toNat % 4 = 0) && decide (v.toNat < 2 ^ 57)

/-- PBR: the address of the PBR plus the displacement (R274). -/
def branchLoad (x : Nat) (imm : Int) (s : State) : Eff := .done (s.wB x (BitVec.ofInt 64 ((s.me.pc : Int) + imm)))

/-- PBRS and MOVB (R274). -/
def branchMove (x a : Nat) (s : State) : Eff :=
  if targetOk (s.rS a) then .done (s.wB x (s.rS a)) else .trap s (Exc.illop 9)

/-- A transfer through b[x] is held while the register is in its window (R276). -/
def State.inWindow (s : State) (x : Nat) : Option Nat :=
  let w := mapGet s.me.window x 0
  if s.here.clk < w then some w else none

/-- BR (R275, R276). -/
def branch (x : Nat) (s : State) : Eff :=
  match s.inWindow x with
  | some w => .hold s (.branch w)
  | none => .jump s (s.me.target x).toNat

/-- CALL from an instruction of `len` bytes: b[x] is read before b7 takes the link (R275). -/
def callThrough (len x : Nat) (s : State) : Eff :=
  match s.inWindow x with
  | some w => .hold s (.branch w)
  | none => .jump (s.wB 7 (BitVec.ofNat 64 (s.me.pc + len))) (s.me.target x).toNat

/-- LOOP (R277). -/
def loopBack (d x : Nat) (s : State) : Eff :=
  match s.inWindow x with
  | some w => .hold s (.branch w)
  | none =>
    let v := s.rS d - 1
    if v = 0 then .done (s.wS d v) else .jump (s.wS d v) (s.me.target x).toNat

/-- Change every strand of a core, by its index. -/
def Core.mapStrands (q : Core) (f : Nat → Strand → Strand) : Core :=
  { q with strands := q.strands.zipIdx.map fun p => f p.2 p.1 }

/-- Gang size: for pod scope WIDTH times the packages of PODMASK (R113). -/
def Task.gangSize (t : Task) : Nat :=
  if t.scope = 2 then t.width * ((upTo 64).filter fun p => bvBit t.podmask p).length else t.width

/-- The registers of R113 that strand `k` holds at the first instruction of a task, of a kernel iteration and of the epilogue:
s1 to s5, VSHAPE and FPCTL. -/
def Strand.entryValues (k rank size index count : Nat) (t : Strand) : Strand :=
  let t := ((((t.setReg 1 (BitVec.ofNat 64 k)).setReg 2 (BitVec.ofNat 64 rank)).setReg 3 (BitVec.ofNat 64 size)).setReg 4
    (BitVec.ofNat 64 index)).setReg 5 (BitVec.ofNat 64 count)
  { t with vshape := Strand.entry.vshape, fpctl := 0 }

/-- A strand that leaves a KNEXT for the kernel or the epilogue (R113, R278). -/
def Strand.leaveKnext (rank size index count pc k : Nat) (t : Strand) : Strand :=
  { t.entryValues k rank size index count with knext := false, hold := none, heldTicks := 0, pc := pc }

/-- A strand whose core asks for a chunk: s4 and s5 of the step, still held (R278). -/
def Strand.awaitChunk (index count : Nat) (t : Strand) : Strand :=
  (t.setReg 4 (BitVec.ofNat 64 index)).setReg 5 (BitVec.ofNat 64 count)

/-- The step of a core when every strand has executed KNEXT (R278): its new state, and whether the kernel runs on. -/
def Core.step (q : Core) (t : Task) : Core × Bool :=
  match q.place with
  | .kernel =>
    let index := q.index + 1
    if 1 < q.count then
      ({ q.mapStrands (Strand.leaveKnext q.rank t.gangSize index (q.count - 1) t.kernel) with
         index := index, count := q.count - 1 }, true)
    else ({ q.mapStrands (fun _ => Strand.awaitChunk index 0) with index := index, count := 0, place := .awaiting }, false)
  | _ => ({ q with place := .awaiting }, false)

/-- KNEXT (R278): an iteration may end only in a LOOP prologue or kernel.  While the task stops for a pre-emption the core
takes no step (R225). -/
def iterationEnd (s : State) : Eff :=
  match s.myTask with
  | none => .trap s (Exc.illop 9)
  | some t =>
    if !t.loop || s.here.place == .epilogue then .trap s (Exc.illop 9)
    else
      let s1 := s.setMe { s.me with knext := true }
      if s1.here.strands.all (fun x => x.knext) && t.phase == .running then
        let r := s1.here.step t
        if r.2 then .jump (s1.setHere r.1) t.kernel else .hold (s1.setHere r.1) .iteration
      else .hold s1 .iteration

/-- TRAP: kind C, its operand in TRAPARG (R206, R210, R280). -/
def softwareTrap (v : Word) (s : State) : Eff := .trap s { Exc.of codeTRAP 0 v with kindC := true }

/-- ERET (R208, R280): PRIV outside a handler. -/
def exceptionReturn (s : State) : Eff :=
  if s.me.inh then .jump (s.setMe s.me.leaveHandler) s.me.trappc.toNat else .trap s (Exc.of codePRIV)

/-- CLKCNT now: 32 periods to a tick, never falling (R15, R282); where in the tick the read falls is free (log 9). -/
def State.clkNow (s : State) : Nat :=
  Nat.max s.clkcnt (32 * s.tick + (Config.freeBits 5 s.free).toNat)

/-- The low 32 bits of a register, zero-extended. -/
def zext32 (v : BitVec 32) : Word := BitVec.ofNat 64 v.toNat

/-- SYSRD (R281, R282). -/
def readSystem (n d : Nat) (s : State) : Eff :=
  let t := s.me
  match n with
  | 0x000 => .done (s.wS d (zext32 t.fpctl))
  | 0x001 => .done (s.wS d (zext32 t.fpst))
  | 0x002 => .done (s.wS d (zext32 t.vshape))
  | 0x010 => .done (s.wS d t.trapvec)
  | 0x011 => .done (s.wS d t.trappc)
  | 0x012 => .done (s.wS d t.trapinfo)
  | 0x013 => .done (s.wS d t.traparg)
  | 0x020 =>
    if s.inPure then .trap s (Exc.of codePURITY)
    else .done (({ s with clkcnt := s.clkNow, free := s.free + 1 }).wS d (BitVec.ofNat 64 s.clkNow))
  | 0x021 => if s.inPure then .trap s (Exc.of codePURITY) else .done (s.wS d (BitVec.ofNat 64 s.here.clk))
  | 0x030 => .done (s.wS d (s.taskOf s.cur.1 |>.elim 0 (fun x => x.id)))
  | 0x031 => .done (s.wS d (BitVec.ofNat 64 (s.tenantOf s.cur.1)))
  | _ => .trap s (Exc.illop 9)

/-- Bits of TRAPINFO that SYSWR writes: all fields but INH (R209, R281). -/
def trapinfoMask : Word := 0xFFFFFDFF
/-- Bits 56:2 (R209). -/
def addressMask : Word := 0x01FFFFFFFFFFFFFC

/-- SYSWR: reserved bits ignore the write (R7, R281). -/
def writeSystem (n a : Nat) (s : State) : Eff :=
  let t := s.me
  let v := s.rS a
  match n with
  | 0x000 => .done (s.setMe { t with fpctl := BitVec.ofNat 32 (v.toNat % 8) })
  | 0x001 => .done (s.setMe { t with fpst := BitVec.ofNat 32 (v.toNat % 128) })
  | 0x010 => .done (s.setMe { t with trapvec := v &&& addressMask })
  | 0x011 => .done (s.setMe { t with trappc := v &&& addressMask })
  | 0x012 => .done (s.setMe { t with trapinfo := (v &&& trapinfoMask) ||| (t.trapinfo &&& 0x200) })
  | 0x013 => .done (s.setMe { t with traparg := v })
  | _ => .trap s (Exc.illop 9)

/-- RDID (R284); codes 4 to 7 raise PURITY in a PURE task. -/
def readIdentity (k d : Nat) (s : State) : Eff :=
  let c := s.cur.1
  let put := fun (n : Nat) => Eff.done (s.wS d (BitVec.ofNat 64 n))
  match k with
  | 0 => put s.cur.2
  | 1 => put s.here.rank
  | 2 => put (s.myTask |>.elim 0 Task.gangSize)
  | 3 => put s.here.strands.length
  | 4 => if s.inPure then .trap s (Exc.of codePURITY) else put (coreInDie c)
  | 5 => if s.inPure then .trap s (Exc.of codePURITY) else put (coreInDie c / 4)
  | 6 => if s.inPure then .trap s (Exc.of codePURITY) else put (dieOf c)
  | 7 => if s.inPure then .trap s (Exc.of codePURITY) else put s.podId.toNat
  | _ => .trap s (Exc.illop 9)

/-- RDCLK (R283). -/
def readCoreClock (d : Nat) (s : State) : Eff :=
  if s.inPure then .trap s (Exc.of codePURITY) else .done (s.wS d (BitVec.ofNat 64 s.here.clk))

/-- WFE (R285). -/
def waitForEvent (s : State) : Eff :=
  if s.me.latch then .done (s.setMe { s.me with latch := false }) else .hold s .event

/-- A strand may issue when nothing holds it and it has not ended (R99, R279). -/
def Strand.ready (t : Strand) : Bool := t.hold.isNone && !t.tdone

/-- YIELD (R286): not ready until each other ready strand has issued once, or 16 clocks have passed. -/
def yieldTurn (s : State) : Eff :=
  let others := (upTo s.here.strands.length).filter fun k => k != s.cur.2 && (s.here.strand k).ready
  if others.isEmpty then .done s
  else .done (s.setMe { s.me with hold := some (.yielded others (s.here.clk + 16)) })

/-- PBR, L form (R274); its fetch is a hint. -/
def execPbr (g : Guard) (x : Nat) (imm : Int) (s : State) : Outcome :=
  runStrand 8 g (Uses.none) s fun s => branchLoad x imm s

/-- PBR, X form (R274). -/
def execPbrExt (g : Guard) (x : Nat) (imm : Int) (s : State) : Outcome :=
  runStrand 12 g (Uses.none) s fun s => branchLoad x imm s

/-- PBRS (R274). -/
def execPbrs (g : Guard) (x : Nat) (a : Nat) (s : State) : Outcome :=
  runStrand 8 g (Uses.scalar [a] []) s fun s => branchMove x a s

/-- MOVB (R274). -/
def execMovb (g : Guard) (x : Nat) (a : Nat) (s : State) : Outcome :=
  runStrand 8 g (Uses.scalar [a] []) s fun s => branchMove x a s

/-- MOVSB (R274). -/
def execMovsb (g : Guard) (d : Nat) (x : Nat) (s : State) : Outcome :=
  runStrand 8 g (Uses.scalar [] [d]) s fun s => .done (s.wS d (s.me.target x))

/-- BR, S form (R275). -/
def execBr (g : Guard) (x : Nat) (s : State) : Outcome :=
  runStrand 4 g (Uses.none) s fun s => branch x s

/-- BR, L form (R275). -/
def execBrLong (g : Guard) (x : Nat) (s : State) : Outcome :=
  runStrand 8 g (Uses.none) s fun s => branch x s

/-- CALL, S form (R275). -/
def execCall (g : Guard) (x : Nat) (s : State) : Outcome :=
  runStrand 4 g (Uses.none) s fun s => callThrough 4 x s

/-- CALL, L form (R275). -/
def execCallLong (g : Guard) (x : Nat) (s : State) : Outcome :=
  runStrand 8 g (Uses.none) s fun s => callThrough 8 x s

/-- LOOP (R277). -/
def execLoop (g : Guard) (d : Nat) (x : Nat) (s : State) : Outcome :=
  runStrand 8 g (Uses.scalar [d] [d]) s fun s => loopBack d x s

/-- KNEXT, S form (R278). -/
def execKnext (g : Guard) (s : State) : Outcome :=
  runStrand 4 g (Uses.none) s fun s => iterationEnd s

/-- KNEXT, L form (R278). -/
def execKnextLong (g : Guard) (s : State) : Outcome :=
  runStrand 8 g (Uses.none) s fun s => iterationEnd s

/-- NOP, S form (R280). -/
def execNop (g : Guard) (s : State) : Outcome :=
  runStrand 4 g (Uses.none) s fun s => .done s

/-- NOP, L form (R280). -/
def execNopLong (g : Guard) (s : State) : Outcome :=
  runStrand 8 g (Uses.none) s fun s => .done s

/-- BRK: kind F, TRAPARG 0 (R280). -/
def execBrk (g : Guard) (s : State) : Outcome :=
  runStrand 8 g (Uses.none) s fun s => .trap s (Exc.of codeBRK)

/-- TRAP, L form (R280). -/
def execTrap (g : Guard) (a : Nat) (s : State) : Outcome :=
  runStrand 8 g (Uses.scalar [a] []) s fun s => softwareTrap (s.rS a) s

/-- TRAP, X form (R280). -/
def execTrapExt (g : Guard) (imm : Int) (s : State) : Outcome :=
  runStrand 12 g (Uses.none) s fun s => softwareTrap (BitVec.ofInt 64 imm) s

/-- ERET (R280). -/
def execEret (g : Guard) (s : State) : Outcome :=
  runStrand 8 g (Uses.none) s fun s => exceptionReturn s

/-- SYSRD (R281). -/
def execSysrd (g : Guard) (n : Nat) (d : Nat) (s : State) : Outcome :=
  runStrand 8 g (Uses.scalar [] [d]) s fun s => readSystem n d s

/-- SYSWR (R281). -/
def execSyswr (g : Guard) (n : Nat) (a : Nat) (s : State) : Outcome :=
  runStrand 8 g (Uses.scalar [a] []) s fun s => writeSystem n a s

/-- RDCLK (R283). -/
def execRdclk (g : Guard) (d : Nat) (s : State) : Outcome :=
  runStrand 8 g (Uses.scalar [] [d]) s fun s => readCoreClock d s

/-- RDID (R284). -/
def execRdid (g : Guard) (k : Nat) (d : Nat) (s : State) : Outcome :=
  runStrand 8 g (Uses.scalar [] [d]) s fun s => readIdentity k d s

/-- WFE (R285). -/
def execWfe (g : Guard) (s : State) : Outcome :=
  runStrand 8 g (Uses.none) s fun s => waitForEvent s

/-- YIELD (R286). -/
def execYield (g : Guard) (s : State) : Outcome :=
  runStrand 8 g (Uses.none) s fun s => yieldTurn s

end Sys2Proof.Machine
end

