-- ==== Sys2Proof/Machine/Ports.lean ====
section
/-! DEFINITION. What a Llynly Link port sends and takes (R22 to R25, R27): the FEC and the CRC of a flit, the replay buffer, credits,
the route table, and the messages that this package originates or takes from its receive buffers. -/

namespace Sys2Proof.Machine

/-! ## The FEC (R22; field and generator: log 13) -/

/-- Twice an element of GF(2^8). -/
def gfDouble (a : Nat) : Nat := if a < 128 then 2 * a else (2 * a) ^^^ Config.fecField

/-- Product in GF(2^8): the bits of `b` from the highest. -/
def gfMul (a b : Nat) : Nat :=
  (upTo 8).foldl (fun x i => if b.testBit (7 - i) then gfDouble x ^^^ a else gfDouble x) 0

/-- The power α^n of the primitive element 2. -/
def gfExp : Nat → Nat
  | 0 => 1
  | n + 1 => gfDouble (gfExp n)

/-- `a` to the power `n`. -/
def gfPow (a : Nat) : Nat → Nat
  | 0 => 1
  | n + 1 => gfMul (gfPow a n) a

/-- The inverse of an element that is not zero. -/
def gfInv (a : Nat) : Nat := gfPow a 254

/-- Value at `x` of a polynomial, constant term first. -/
def polyAt (p : List Nat) (x : Nat) : Nat := p.foldr (fun c v => gfMul v x ^^^ c) 0

/-- The first `n` coefficients of a product. -/
def polyMul (n : Nat) (p q : List Nat) : List Nat :=
  (upTo n).map fun k => (upTo (k + 1)).foldl (fun v i => v ^^^ gfMul (p.getD i 0) (q.getD (k - i) 0)) 0

/-- The generator of RS(128,122), constant term first: roots α^0 to α^5. -/
def fecGenerator : List Nat := (upTo 6).foldl (fun g j => polyMul (g.length + 1) g [gfExp j, 1]) [1]

/-- The six parity bytes of 122 data bytes: the first byte is the coefficient of x^127. -/
def fecParity (data : List Nat) : List Nat :=
  let low := (fecGenerator.take 6).reverse
  data.foldl (fun r b =>
    let f := r.headD 0 ^^^ b
    List.zipWith (fun x g => x ^^^ gfMul f g) (r.drop 1 ++ [0]) low) [0, 0, 0, 0, 0, 0]

/-- Syndrome `j` of a word. -/
def fecSyndrome (word : List Nat) (j : Nat) : Nat :=
  let r := gfExp j
  word.foldl (fun v b => gfMul v r ^^^ b) 0

/-- The six syndromes of a word; all are zero for a codeword. -/
def fecSyndromes (word : List Nat) : List Nat := (upTo 6).map (fecSyndrome word)

/-- The search for the error locator: the locator, the one before its last change of length, its length, the steps since, and the
discrepancy then. -/
structure Locator where
  poly  : List Nat
  prev  : List Nat
  len   : Nat
  shift : Nat
  disc  : Nat
  deriving DecidableEq, Repr

/-- One step of the search, over syndrome `n`. -/
def locatorStep (synd : List Nat) (l : Locator) (n : Nat) : Locator :=
  let d := (upTo (l.len + 1)).foldl (fun v i => if i ≤ n then v ^^^ gfMul (l.poly.getD i 0) (synd.getD (n - i) 0) else v) 0
  if d = 0 then { l with shift := l.shift + 1 }
  else
    let q := gfMul d (gfInv l.disc)
    let next := (upTo 7).map fun i =>
      l.poly.getD i 0 ^^^ (if l.shift ≤ i then gfMul q (l.prev.getD (i - l.shift) 0) else 0)
    if 2 * l.len ≤ n then { poly := next, prev := l.poly, len := n + 1 - l.len, shift := 1, disc := d }
    else { l with poly := next, shift := l.shift + 1 }

/-- The error locator of six syndromes. -/
def errorLocator (synd : List Nat) : Locator := (upTo 6).foldl (locatorStep synd) ⟨[1], [1], 0, 1, 1⟩

/-- A word with up to 3 byte errors corrected; any other is left as it is. -/
def fecCorrect (word : List Nat) : List Nat :=
  let synd := fecSyndromes word
  if synd.all (· == 0) then word
  else
    let l := errorLocator synd
    let slope := (upTo 6).map fun k => if k % 2 = 0 then l.poly.getD (k + 1) 0 else 0
    let value := polyMul 6 synd l.poly
    let at_ := fun (i : Nat) => gfExp (128 + i)
    let fixed := word.zipIdx.map fun p =>
      let x := at_ p.2
      if polyAt l.poly x = 0 then p.1 ^^^ gfMul (gfMul (gfInv x) (polyAt value x)) (gfInv (polyAt slope x)) else p.1
    let hits := (upTo 128).countP fun i => polyAt l.poly (at_ i) == 0
    if l.len ≤ 3 ∧ hits = l.len ∧ (fecSyndromes fixed).all (· == 0) then fixed else word

/-! ## Flits (R22) -/

/-- A flit of 256 bytes: byte k at bits 8k to 8k + 7. -/
abbrev Flit := BitVec 2048

/-- Header fields. -/
def Flit.typ (x : Flit) : Nat := bvField x 0 4
def Flit.seq (x : Flit) : Nat := bvField x 4 12
def Flit.ack (x : Flit) : Nat := bvField x 16 12
def Flit.vc (x : Flit) : Nat := bvField x 28 2
def Flit.dest (x : Flit) : Nat := bvField x 32 6
def Flit.src (x : Flit) : Nat := bvField x 38 6
def Flit.hops (x : Flit) : Nat := bvField x 44 3
def Flit.payload (x : Flit) : BitVec 1856 := BitVec.ofNat 1856 (bvField x 64 1856)

/-- Every second item, from the first. -/
def alternate {α : Type} : List α → List α
  | a :: _ :: rest => a :: alternate rest
  | rest => rest

/-- Items of two lists in turn. -/
def interleave {α : Type} : List α → List α → List α
  | a :: as, b :: bs => a :: b :: interleave as bs
  | _, _ => []

/-- The bytes of a number as numbers. -/
def byteNumbers (n v : Nat) : List Nat := (leBytes n v).map BitVec.toNat
/-- A number from its bytes as numbers. -/
def numberOf (bs : List Nat) : Nat := bs.foldr (fun b v => b % 256 + 256 * v) 0

/-- The CRC holds over bytes 0 to 239. -/
def Flit.crcOk (x : Flit) : Bool := crc32c 0 (leBytes 240 x.toNat) == bvField x 1920 32

/-- The flit after the FEC: its even bytes and its odd bytes are a codeword each (R22, R24). -/
def Flit.corrected (x : Flit) : Flit :=
  let bs := byteNumbers 256 x.toNat
  BitVec.ofNat 2048 (numberOf (interleave (fecCorrect (alternate bs)) (fecCorrect (alternate (bs.drop 1)))))

/-- A flit of the bytes 0 to 239 given, with its CRC and its parity. -/
def Flit.sealed (body : Nat) : Flit :=
  let body := body % 2 ^ 1920
  let head := body + crc32c 0 (leBytes 240 body) * 2 ^ 1920
  let bs := byteNumbers 244 head
  BitVec.ofNat 2048 (head + numberOf (interleave (fecParity (alternate bs)) (fecParity (alternate (bs.drop 1)))) * 2 ^ 1952)

/-- Sequence numbers (R22) from `b` up to `a`, modulo 4,096. -/
def seqAhead (a b : Nat) : Nat := (a + 4096 - b % 4096) % 4096

/-- The flit of something to send, with SEQ and ACK. -/
def Outgoing.flit (o : Outgoing) (seq ack : Nat) : Flit :=
  Flit.sealed (o.typ + seq * 2 ^ 4 + ack * 2 ^ 16 + o.vc * 2 ^ 28 + o.dest * 2 ^ 32 + o.src * 2 ^ 38 + o.hops * 2 ^ 44 +
    o.payload.toNat * 2 ^ 64)

/-- A flit without payload and route: IDLE, NAK or TRAIN. -/
def Outgoing.control (typ : Nat) : Outgoing := { typ := typ, vc := 0, dest := 0, src := 0, hops := 0, payload := 0 }

/-- A CREDIT with four returns in bytes 8 to 15, the first of the payload (R22). -/
def Outgoing.credit (cs : List Nat) : Outgoing :=
  { Outgoing.control 2 with payload := BitVec.ofNat 1856 (((upTo 4).map fun v => cs.getD v 0 % 2 ^ 16 * 2 ^ (16 * v)).sum) }

/-! ## Sending (R22 to R25) -/

/-- A port. -/
def State.port (s : State) (p : Nat) : Port := mapGet s.ports p Port.initial
/-- The state with a port replaced. -/
def State.setPort (s : State) (p : Nat) (x : Port) : State := { s with ports := mapPut s.ports p x }

/-- A flit goes out on the lanes. -/
def Port.put (x : Port) (w : Flit) : Port := { x with wire := x.wire ++ [w] }

/-- The ACK of a port: the flit taken last. -/
def Port.ackNow (x : Port) : Nat := (x.expect + 4095) % 4096

/-- IDLE, with its ACK. -/
def Port.idle (x : Port) : Port := x.put ((Outgoing.control 0).flit x.sendSeq x.ackNow)
/-- NAK: its ACK is the sequence number expected (R22, R24). -/
def Port.nak (x : Port) : Port := x.put ((Outgoing.control 3).flit x.sendSeq x.expect)

/-- A waiting flit may go: there is room in the replay buffer and, for DATA, a credit of its channel (R23, R24). -/
def Port.maySend (x : Port) (o : Outgoing) : Bool :=
  decide (x.replay.length < Config.replayFlits) && (o.typ == 2 || decide (1 ≤ x.credits.getD o.vc 0))

/-- A DATA or CREDIT flit leaves the port: it takes the next SEQ, carries ACK, and stays in the replay buffer until it is
acknowledged. -/
def Port.send (x : Port) (o : Outgoing) : Port :=
  let w := o.flit x.sendSeq x.ackNow
  { x with sendSeq := (x.sendSeq + 1) % 4096, replay := x.replay ++ [(x.sendSeq, w)], wire := x.wire ++ [w]
           credits := if o.typ = 2 then x.credits else x.credits.set o.vc (x.credits.getD o.vc 0 - 1) }

/-- The returns a port owes go first, as one CREDIT (R22, R23). -/
def Port.oweCredit (x : Port) : Port :=
  if x.owed.any (· != 0) then { x with tx := Outgoing.credit x.owed :: x.tx, owed := [0, 0, 0, 0] } else x

/-- Every waiting flit of a list that may go leaves, in order within its virtual channel; `held` are the channels that wait. -/
def Port.sendAll (x : Port) (held : List Nat) : List Outgoing → Port × List Outgoing
  | [] => (x, [])
  | o :: rest =>
    if x.maySend o && !(held.contains o.vc && o.typ != 2) then (x.send o).sendAll held rest
    else
      let r := x.sendAll (if o.typ = 2 then held else o.vc :: held) rest
      (r.1, o :: r.2)

/-- What a port that is up can send leaves it. -/
def Port.flush (x : Port) : Port :=
  if x.state ≠ 2 then x
  else
    let y := x.oweCredit
    let r := y.sendAll [] y.tx
    { x with sendSeq := r.1.sendSeq, replay := r.1.replay, wire := r.1.wire, credits := r.1.credits, owed := y.owed, tx := r.2 }

/-- Something put on a port to be sent. -/
def State.sendOn (s : State) (p : Nat) (o : Outgoing) : State :=
  let x := s.port p
  s.setPort p ({ x with tx := x.tx ++ [o] } : Port).flush

/-! ## Routes (R26, R27) -/

/-- A port that exists and is neither down nor failed: one in training keeps what it has to send (R26, R27; log 44). -/
def State.portUsable (s : State) (port : Nat) : Bool :=
  let st := (mapGet s.ports port Port.initial).state
  decide (port < 12) && (st == 1 || st == 2)

/-- The port towards a pod identity: PRI, or ALT where PRI is down or failed; none where PRI names no port or neither serves
(R27). -/
def State.routePort (s : State) (p : Nat) : Option Nat :=
  let r := (mapGet s.routes p 0xFF).toNat
  if 12 ≤ bitsAt r 0 4 then none
  else if s.portUsable (bitsAt r 0 4) then some (bitsAt r 0 4)
  else if s.portUsable (bitsAt r 4 4) then some (bitsAt r 4 4) else none

/-- A peer of the pod is reachable: some port leads to it (R27). -/
def State.podReachable (s : State) (p : Nat) : Bool := p == s.podId.toNat || (s.routePort p).isSome

/-! ## Messages (R23, R27) -/

/-- A DATA flit of this package: DEST, SRC, and HOPS 0 (R22, R27).  One to a package that no port leads to is not sent; the
manual gives no layout of a payload (log 20). -/
def State.sendTo (s : State) (vc dest : Nat) (words : List Nat) : State :=
  match s.routePort dest with
  | some q => s.sendOn q { typ := 1, vc := vc, dest := dest, src := s.podId.toNat, hops := 0, payload := Config.payload vc words }
  | none => s

/-- A port that has come up at a width (R25, R26): the far end is granted the receive buffers once (R23; log 20), and a replay that
was asked for is asked for again. -/
def Port.comeUp (x : Port) (width peer : Nat) : Port :=
  let y : Port := { x with state := 2, width := width, peer := peer, attempts := 0, badReplays := 0, granted := true
                           owed := if x.granted then x.owed else (upTo 4).map fun v => x.owed.getD v 0 + Config.rxBuffers v }
  (if x.discarding then y.nak else y).flush

/-- A credit of a virtual channel to be returned: its flit has left the receive buffer (R23). -/
def Port.owe (x : Port) (vc : Nat) : Port := { x with owed := x.owed.set vc (x.owed.getD vc 0 + 1) }

/-- The hub takes the first payload of a virtual channel from the receive buffer of port `p`, if it came from `src`: payloads of one
channel are taken in the order sent (R23). -/
def State.takeFrom (s : State) (p vc src : Nat) : Option State :=
  let x := s.port p
  match x.rx.findIdx? fun e => e.1 == vc with
  | none => none
  | some i =>
    match x.rx[i]? with
    | some e => if e.2.1 = src then some (s.setPort p (({ x with rx := x.rx.eraseIdx i } : Port).owe vc).flush) else none
    | none => none

/-- The same from the first port that has one. -/
def State.take (s : State) (vc src : Nat) : Option State := (upTo 12).findSome? fun p => s.takeFrom p vc src

/-- The number by which a message is told apart in a payload, and its argument. -/
def PodKind.words : PodKind → List Nat
  | .reserve => [0, 0] | .ack => [1, 0] | .nak => [2, 0] | .go => [3, 0] | .late => [5, 0]
  | .abort c k => [4, c + 256 * k] | .done m => [6, if m then 1 else 0] | .stop => [9, 0]
  | .barrier (.arrivals n) => [7, n] | .barrier (.phase p) => [8, p.toNat]

/-- A message to a package of the pod, on virtual channel 0 (R23, R75). -/
def State.sendPod (s : State) (dest : Nat) (kind : PodKind) (task : Word) (attempt : Nat) : State :=
  State.sendTo { s with podOut := s.podOut ++ [⟨dest, kind, task, attempt⟩] } 0 dest (kind.words ++ [task.toNat, attempt])

/-- A P-space access leaves on virtual channel 1 (R23, R27): it is outstanding until its response. -/
def State.request (s : State) (peer : Nat) (write : Bool) (words : List Nat) : State :=
  State.sendTo { s with pOut := s.pOut ++ [(s.pTag, peer, write)], pTag := s.pTag + 1 } 1 peer (s.pTag :: words)

end Sys2Proof.Machine
end

