-- ==== Sys2Proof/Machine/Memory.lean ====
section
/-! DEFINITION. Package physical memory (R11, R12), its encryption by key generation (R47, R48), the access tables of the HBM
range controllers (R50 to R52), watch notices (R86), page tables (R136) and G-space by virtual address. -/

namespace Sys2Proof.Machine

/-! ## Access tables -/

/-- A master of an access table (R50). -/
inductive Master where
  | tenant (t : Nat)
  | func (f : Nat)
  | peer (p : Nat)
  deriving DecidableEq, Repr

/-- Bit number of a master's pair of rights (R52). -/
def Master.bit : Master → Nat
  | .tenant t => 2 * (t % 512)
  | .func f => 1024 + 2 * (f % 64)
  | .peer p => 1152 + 2 * (p % 64)

/-- Whether a table grants a master read, or write (R52). -/
def tableAllows (t : AccessTable) (m : Master) (write : Bool) : Bool := bvBit t (m.bit + write.toNat)

/-- HBM stack, and range controller, of a physical address (R11). -/
def stackOf (pa : Nat) : Nat :=
  let pc := bitsAt pa 8 8 ^^^ bitsAt pa 16 8
  4 * bitsAt pa 38 2 + pc / 64

/-- Home die of a physical address (R11). -/
def homeDie (pa : Nat) : Nat := bitsAt pa 38 2

/-- A range of controller `c`. -/
def State.range (s : State) (c r : Nat) : HbmRange := mapGet s.ranges (c * 8 + r) HbmRange.off

/-- The access table that applies to a physical address: the lowest-numbered enabled range that holds it, else the
controller's default table (R52). -/
def State.hbmTable (s : State) (pa : Nat) : AccessTable :=
  let c := stackOf pa
  match (upTo 8).find? fun r =>
      let x := s.range c r
      x.en && decide (x.first ≤ bitsAt pa 16 24) && decide (bitsAt pa 16 24 ≤ x.last) with
  | some r => (s.range c r).table
  | none => mapGet s.hbmTables c tableTenant0

/-- The first of the 256-byte granules of [pa, pa + n) that the tables refuse to a master, if any. -/
def State.refusedGranule (s : State) (m : Master) (write : Bool) (pa n : Nat) : Option Nat :=
  ((upTo ((pa + n - 1) / 256 + 1 - pa / 256)).map fun i => (pa / 256 + i) * 256).find? fun g =>
    !(tableAllows (s.hbmTable g) m write)

/-- A master acting for tenant `t` may reach a page of key id `k` (R48). -/
def State.keyAllowed (s : State) (t k : Nat) : Bool := (decide (k = t) || decide (t = 0)) && (s.keySlot k).loaded

/-! ## Watch notices (R85, R86) -/

/-- The physical granule that holds byte `off` of a pool laid out as a run list. -/
def runByte : List Run → Nat → Option (Nat × Nat)
  | [], _ => none
  | r :: rs, off => if off < r.len then some (r.pa + off, r.key) else runByte rs (off - r.len)

/-- The part of a run list from byte `off` on, `n` bytes. -/
def sliceRuns : List Run → Nat → Nat → List Run
  | [], _, _ => []
  | r :: rs, off, n =>
    if n = 0 then []
    else if r.len ≤ off then sliceRuns rs (off - r.len) n
    else
      let k := Nat.min n (r.len - off)
      ⟨r.va + off, r.pa + off, k, r.key⟩ :: sliceRuns rs 0 (n - k)

/-- 4 KiB granules of a run list. -/
def granulesOf (rs : List Run) : List Nat :=
  rs.flatMap fun r => (upTo ((r.pa + r.len + 4095) / 4096 - r.pa / 4096)).map fun i => r.pa / 4096 + i

/-- A tenant's pool. -/
def State.pool (s : State) (t : Nat) : Pool := mapGet s.pools t Pool.initial

/-- The granules of a pool extent of 64 KiB blocks (R89). -/
def State.extentGranules (s : State) (t block blocks : Nat) : List Nat :=
  granulesOf (sliceRuns (s.pool t).runs (block * 65536) (blocks * 65536))

/-- Whether something still covers a granule (R86). -/
def State.covered (s : State) (g : Nat) : Bool :=
  s.digests.any (fun d => d.granules.contains g) || s.digestCache.any (fun d => d.granules.contains g) ||
  s.tasks.any (fun p => p.2.granules.contains g) ||
  s.results.any (fun r => (s.extentGranules r.tenant r.block r.blocks).contains g)

/-! ## Physical reads and writes -/

/-- Poisoned 32-byte units of [pa, pa + n), by unit number (R215). -/
def State.hbmPoison (s : State) (pa n : Nat) : List Nat :=
  s.poison.filterMap fun u =>
    match u with
    | .hbm x => if x * 32 < pa + n ∧ pa < x * 32 + 32 then some x else none
    | _ => none

/-- One byte as a reader with memory key `gen` decrypts it (R47; log 5). -/
def State.hbmByte (s : State) (gen pa : Nat) : Byte :=
  if stepAt s.hbmGen pa = gen then byteAt s.hbm pa
  else
    let block := pa / 16 * 16
    Config.undecipherable gen pa ((upTo 16).map fun i => stepAt s.hbmGen (block + i)) (bytesAt s.hbm block 16)

/-- Bytes of physical memory under a key generation; a poisoned unit reads as zeros (R216). -/
def State.hbmRead (s : State) (gen pa n : Nat) : List Byte :=
  let bad := s.hbmPoison pa n
  (upTo n).map fun i => if bad.contains ((pa + i) / 32) then 0 else s.hbmByte gen (pa + i)

/-- Clear the poison of units that a write of [pa, pa + n) covers whole (R215). -/
def State.hbmCured (s : State) (pa n : Nat) : State :=
  if s.poison.isEmpty then s
  else { s with poison := s.poison.filter fun u =>
      match u with
      | .hbm x => !(decide (pa ≤ x * 32) && decide (x * 32 + 32 ≤ pa + n))
      | _ => true }

/-- A write performed at its home port, without the watch check: the Larder's own writes into a pool (R85). -/
def State.hbmPut (s : State) (gen pa : Nat) (bs : List Byte) : State :=
  { s.hbmCured pa bs.length with
    hbm := putBytes s.hbm pa bs
    hbmGen := stepPut s.hbmGen pa bs.length gen }

/-- Place of a granule's bit in the watch region of its die, while that is enabled (R85, R97; the order of the bits: log 46): byte
address and bit. -/
def State.watchPlace (s : State) (g : Nat) : Option (Nat × Nat) :=
  let w := mapGet s.watchRegions (homeDie (g * 4096)) ⟨0, false⟩
  if w.en then some (w.base + g % 2 ^ 26 / 8, g % 8) else none

/-- A write to a granule needs a notice: its bit is set, in the watch cache or in its region (R85). -/
def State.watched (s : State) (g : Nat) : Bool :=
  s.watch.contains g ||
  (match s.watchPlace g with | some (a, i) => (byteAt s.hbm a).getLsbD i | none => false)

/-- A granule's bit in the watch region of its die is written. -/
def State.markGranule (on : Bool) (s : State) (g : Nat) : State :=
  match s.watchPlace g with
  | some (a, i) => s.hbmPut 0 a [bvSetField (byteAt s.hbm a) i 1 on.toNat]
  | none => s

/-- The granules watched from here on, with their bits. -/
def State.rewatch (s : State) (gs : List Nat) : State :=
  let off := s.watch.filter fun g => !(gs.contains g)
  let on := gs.filter fun g => !(s.watch.contains g)
  { on.foldl (State.markGranule true) (off.foldl (State.markGranule false) s) with watch := gs }

/-- A bit is cleared when nothing covers its granule (R86). -/
def State.unwatch (s : State) : State := s.rewatch (s.watch.filter fun g => s.covered g)

/-- What the hub does in one cycle when it accepts a watch notice (R86). -/
def State.acceptNotice (s : State) (g : Nat) : State :=
  let s1 : State := { s with
    digests := s.digests.filter fun d => !(d.granules.contains g)
    digestCache := s.digestCache.filter fun d => !(d.granules.contains g)
    tasks := s.tasks.map fun p =>
      if p.2.granules.contains g && p.2.phase != TaskPhase.copying then (p.1, { p.2 with void := true }) else p
    results := s.results.filter fun r => !((s.extentGranules r.tenant r.block r.blocks).contains g) }
  s1.unwatch

/-- The notices of a write to [pa, pa + n), accepted before the write is performed (R85). -/
def State.watchWrite (s : State) (pa n : Nat) : State :=
  if n == 0 then s
  else (upTo ((pa + n - 1) / 4096 + 1 - pa / 4096)).foldl
    (fun s i => if s.watched (pa / 4096 + i) then s.acceptNotice (pa / 4096 + i) else s) s

/-- A write performed at its home port (R12, R85, R167). -/
def State.hbmWrite (s : State) (gen pa : Nat) (bs : List Byte) : State := (s.watchWrite pa bs.length).hbmPut gen pa bs

/-- The hub writes [pa, pa + n), all zero but for the listed cells (R12, R85). -/
def State.hbmFill (s : State) (gen pa n : Nat) (cells : Bytes) : State :=
  let s := (s.watchWrite pa n).hbmCured pa n
  { s with hbm := spliceBytes s.hbm pa (pa + n) cells, hbmGen := stepPut s.hbmGen pa n gen }

/-! ## Page tables (R136) -/

/-- How a walk ends. -/
inductive Walk where
  | page (pa size key : Nat) (rd wr : Bool)
  | absent
  | poisoned (unit : Nat)
  deriving DecidableEq, Repr

/-- The four levels: shift and bits of the index, size of the page a leaf maps (0 where none may), size of the next
table (0 at the last). -/
def walkLevels : List (Nat × Nat × Nat × Nat) :=
  [(43, 14, 0, 0x10000), (30, 13, 0x40000000, 0x1000), (21, 9, 0x200000, 0x100), (16, 5, 0x10000, 0)]

/-- Zero bits that every entry keeps. -/
def entryZeros (e : Nat) : Bool :=
  decide (bitsAt e 57 7 = 0) && decide (bitsAt e 40 8 = 0) && decide (bitsAt e 5 7 = 0)

/-- A walk from a table through the levels left. -/
def State.walkFrom (s : State) (va : Nat) : List (Nat × Nat × Nat × Nat) → Nat → Walk
  | [], _ => .absent
  | (shift, bits, leaf, table) :: rest, base =>
    let at8 := base + 8 * bitsAt va shift bits
    match s.hbmPoison at8 8 with
    | u :: _ => .poisoned u
    | [] =>
      let e := leNat (s.hbmRead (s.keySlot 0).gen at8 8)
      let addr := bitsAt e 12 28 * 4096
      if e % 2 = 0 || !(entryZeros e) then .absent
      else if bitsAt e 1 1 = 1 then
        if leaf = 0 || addr % leaf != 0 then .absent
        else .page addr leaf (bitsAt e 48 9) (bitsAt e 2 1 == 1) (bitsAt e 3 1 == 1 && bitsAt e 4 1 == 0)
      else if table = 0 || addr % table != 0 || bitsAt e 2 3 != 0 || bitsAt e 48 9 != 0 then .absent
      else s.walkFrom va rest addr

/-- A walk of a tenant's tables for a virtual address. -/
def State.walk (s : State) (tenant va : Nat) : Walk :=
  let r := mapGet s.ptroot tenant 0
  if bvBit r 0 then s.walkFrom va walkLevels (bvField r 17 23 * 2 ^ 17) else .absent

/-- Why an access by virtual address fails: code, SUB and TRAPARG (R206, R210). -/
structure PageErr where
  code : Nat
  sub  : Nat
  arg  : Word
  deriving DecidableEq, Repr

/-- One page of a range for a master acting for a tenant: the physical place of `va` and what is left of the page, or the
fault (R100, R135). -/
def State.pageFor (s : State) (tenant va n : Nat) (m : Master) (rd wr : Bool) : Except PageErr (Nat × Nat × Nat) :=
  match s.walk tenant va with
  | .absent => .error ⟨codePAGE, 0, BitVec.ofNat 64 va⟩
  | .poisoned u => .error ⟨codeMCHECK, 1, BitVec.ofNat 64 (u * 32)⟩
  | .page base size key prd pwr =>
    if (rd && !prd) || (wr && !pwr) then .error ⟨codePERM, 2, BitVec.ofNat 64 va⟩
    else if !(s.keyAllowed tenant key) then .error ⟨codePERM, 3, BitVec.ofNat 64 va⟩
    else
      let pa := base + va % size
      let len := Nat.min n (65536 - va % 65536)
      let bad := match (if rd then s.refusedGranule m false pa len else none) with
        | some g => some g
        | none => if wr then s.refusedGranule m true pa len else none
      match bad with
      | some g => .error ⟨codePERM, 4, BitVec.ofNat 64 (va + (g - pa))⟩
      | none => .ok (pa, len, key)

/-- Join a run to the run before it where they are physically contiguous. -/
def joinRun (r : Run) : List Run → List Run
  | [] => [r]
  | x :: xs =>
    if r.pa + r.len = x.pa ∧ r.key = x.key then { r with len := r.len + x.len } :: xs else r :: x :: xs

/-- Translate [va, va + n) page by page, lowest first; `fuel` bounds the number of pages. -/
def State.walkRange (s : State) (tenant : Nat) (m : Master) (rd wr : Bool) : Nat → Nat → Nat → Except PageErr (List Run)
  | 0, _, _ => .ok []
  | fuel + 1, va, n =>
    if n = 0 then .ok []
    else match s.pageFor tenant va n m rd wr with
      | .error e => .error e
      | .ok (pa, len, key) =>
        match s.walkRange tenant m rd wr fuel (va + len) (n - len) with
        | .error e => .error e
        | .ok rs => .ok (joinRun ⟨va, pa, len, key⟩ rs)

/-- The runs of a range of virtual addresses. -/
def State.translate (s : State) (tenant : Nat) (m : Master) (rd wr : Bool) (va n : Nat) : Except PageErr (List Run) :=
  s.walkRange tenant m rd wr (n / 65536 + 2) va n

/-- Physical address and key of a virtual address in a run list. -/
def findRun : List Run → Nat → Option (Nat × Nat × Nat)
  | [], _ => none
  | r :: rs, va => if r.va ≤ va ∧ va < r.va + r.len then some (r.pa + (va - r.va), r.key, r.va + r.len - va) else findRun rs va

/-- Read a whole run list. -/
def State.readRuns (s : State) (rs : List Run) : List Byte :=
  rs.flatMap fun r => s.hbmRead (s.keySlot r.key).gen r.pa r.len

/-- The first poisoned unit of a run list. -/
def State.runsPoison (s : State) (rs : List Run) : Option Nat := rs.findSome? fun r => (s.hbmPoison r.pa r.len).head?

/-- Write bytes through a run list. -/
def State.writeRuns (s : State) : List Run → List Byte → State
  | [], _ => s
  | r :: rs, bs => (s.hbmWrite (s.keySlot r.key).gen r.pa (bs.take r.len)).writeRuns rs (bs.drop r.len)

/-- Read G-space of a tenant by virtual address. -/
def State.gRead (s : State) (tenant va n : Nat) : Except PageErr (List Byte) :=
  match s.translate tenant (.tenant tenant) true false va n with
  | .error e => .error e
  | .ok rs =>
    match s.runsPoison rs with
    | some u => .error ⟨codeMCHECK, 1, BitVec.ofNat 64 (u * 32)⟩
    | none => .ok (s.readRuns rs)

/-- Write G-space of a tenant by virtual address. -/
def State.gWrite (s : State) (tenant va : Nat) (bs : List Byte) : Except PageErr State :=
  match s.translate tenant (.tenant tenant) false true va bs.length with
  | .error e => .error e
  | .ok rs => .ok (s.writeRuns rs bs)

/-- Whether every page of a host range is one the host translates (R137). -/
def State.hostGranted (s : State) (f iova n : Nat) : Option Nat :=
  ((upTo ((iova + n + 4095) / 4096 - iova / 4096)).map fun i => iova / 4096 + i).find? fun p =>
    !(s.hostPages.contains (f * 2 ^ 52 + p))

end Sys2Proof.Machine
end

