-- ==== Sys2Proof/Machine/Numbers.lean ====
section
/-! DEFINITION. Numbers (chapter 09): the formats bit by bit, exact values, rounding and its status bits, comparison,
quantisation to MX and DX blocks. -/

namespace Sys2Proof.Machine

/-- A value: NaN, an infinity, or (−1)^neg · (m + δ) · 2^e, where δ is 0, or, when `sticky`, some number strictly between 0
and 1 (the tail of a quotient or a root).  A zero keeps its sign. -/
inductive Num where
  | nan
  | inf (neg : Bool)
  | fin (neg : Bool) (m : Nat) (e : Int) (sticky : Bool)
  deriving DecidableEq, Repr

/-- A zero of a sign. -/
def Num.zero (neg : Bool) : Num := .fin neg 0 0 false

/-- An integer as a value; zero is +0. -/
def Num.ofInt (i : Int) : Num := .fin (decide (i < 0)) i.natAbs 0 false

/-- How a floating format spends its codes at the top (R188). -/
inductive TopCodes where
  /-- The top exponent holds infinities and NaNs. -/
  | ieee
  /-- Only S.1111.111 is NaN, and there is no infinity. -/
  | e4m3
  /-- Every code is a finite number. -/
  | finite
  deriving DecidableEq, Repr

/-- A floating format of R188. -/
structure FloatFmt where
  exp  : Nat
  man  : Nat
  bias : Nat
  top  : TopCodes
  deriving DecidableEq, Repr

/-- The table of R188: the floating format of a type. -/
def floatFmt? : Ty → Option FloatFmt
  | .f64  => some ⟨11, 52, 1023, .ieee⟩
  | .f32  => some ⟨8, 23, 127, .ieee⟩
  | .f16  => some ⟨5, 10, 15, .ieee⟩
  | .bf16 => some ⟨8, 7, 127, .ieee⟩
  | .e4m3 => some ⟨4, 3, 7, .e4m3⟩
  | .e5m2 => some ⟨5, 2, 15, .ieee⟩
  | .e3m2 => some ⟨3, 2, 3, .finite⟩
  | .e2m3 => some ⟨2, 3, 1, .finite⟩
  | .e2m1 => some ⟨2, 1, 1, .finite⟩
  | _ => none

/-- Width in bits of a floating format. -/
def FloatFmt.bits (f : FloatFmt) : Nat := 1 + f.exp + f.man

/-- Exponent of the last mantissa place of the subnormals. -/
def FloatFmt.minQ (f : FloatFmt) : Int := 1 - (f.bias : Int) - (f.man : Int)

/-- Magnitude code of the largest finite value. -/
def FloatFmt.maxCode (f : FloatFmt) : Nat :=
  match f.top with
  | .ieee => (2 ^ f.exp - 1) * 2 ^ f.man - 1
  | .e4m3 => 2 ^ (f.exp + f.man) - 2
  | .finite => 2 ^ (f.exp + f.man) - 1

/-- The code of an infinity, less its sign, where there is one. -/
def FloatFmt.infCode? (f : FloatFmt) : Option Nat :=
  match f.top with | .ieee => some ((2 ^ f.exp - 1) * 2 ^ f.man) | _ => none

/-- The canonical NaN, where there is one (R188). -/
def FloatFmt.nanCode? (f : FloatFmt) : Option Nat :=
  match f.top with
  | .ieee => some ((2 ^ f.exp - 1) * 2 ^ f.man + 2 ^ (f.man - 1))
  | .e4m3 => some (2 ^ (f.exp + f.man) - 1)
  | .finite => none

/-- A magnitude code with a sign. -/
def FloatFmt.withSign (f : FloatFmt) (neg : Bool) (code : Nat) : Nat :=
  if neg then code + 2 ^ (f.exp + f.man) else code

/-- The value of the low bits of `v` in a floating format (R188). -/
def FloatFmt.value (f : FloatFmt) (v : Nat) : Num :=
  let mag := v % 2 ^ (f.exp + f.man)
  let neg := v.testBit (f.exp + f.man)
  let e := mag / 2 ^ f.man
  let m := mag % 2 ^ f.man
  let isTop := match f.top with
    | .ieee => decide (e = 2 ^ f.exp - 1)
    | .e4m3 => decide (mag = 2 ^ (f.exp + f.man) - 1)
    | .finite => false
  if isTop then (if f.infCode? = some mag then .inf neg else .nan)
  else if e = 0 then .fin neg m f.minQ false
  else .fin neg (2 ^ f.man + m) (f.minQ + (e : Int) - 1) false

/-- The E8M0 value of R190. -/
def e8m0Value (e : Nat) : Num := if e % 256 = 255 then .nan else .fin false 1 ((e % 256 : Nat) - 127) false

/-! ## Rounding -/

/-- Whether a magnitude with remainder `r` of `2^sh` rounds away from zero (R195). -/
def roundsUp (rm : Rnd) (neg odd : Bool) (r half : Nat) (sticky : Bool) : Bool :=
  match rm with
  | .rtz => false
  | .rup => !neg && (decide (r ≠ 0) || sticky)
  | .rdn => neg && (decide (r ≠ 0) || sticky)
  | _ => decide (half < r) || (decide (r = half) && (sticky || odd))

/-- Round (m + δ)·2^e to a multiple of 2^q: the multiple and whether it is inexact. -/
def roundAt (rm : Rnd) (neg : Bool) (m : Nat) (e : Int) (sticky : Bool) (q : Int) : Nat × Bool :=
  if q ≤ e then (m * 2 ^ (e - q).toNat, sticky)
  else
    let sh := (q - e).toNat
    let n := m / 2 ^ sh
    let r := m % 2 ^ sh
    (if roundsUp rm neg (n % 2 == 1) r (2 ^ (sh - 1)) sticky then n + 1 else n, decide (r ≠ 0) || sticky)

/-- Exponent of the last place of a value at a precision of `p` bits. -/
def lastPlace (p m : Nat) (e : Int) : Int := e + (Nat.log2 m : Int) + 1 - (p : Int)

/-- An overflow in a floating format (R198): code and status. -/
def FloatFmt.overflow (f : FloatFmt) (rm : Rnd) (sat neg : Bool) : Nat × Nat :=
  let towards := match rm with | .rtz => true | .rup => neg | .rdn => !neg | _ => false
  match f.top with
  | .finite => (f.withSign neg f.maxCode, flagOF ||| flagNX ||| flagSAT)
  | .ieee =>
    if sat then (f.withSign neg f.maxCode, flagOF ||| flagNX ||| flagSAT)
    else if towards then (f.withSign neg f.maxCode, flagOF ||| flagNX)
    else (f.withSign neg (f.infCode?.getD 0), flagOF ||| flagNX)
  | .e4m3 =>
    if sat then (f.withSign neg f.maxCode, flagOF ||| flagNX ||| flagSAT)
    else if towards then (f.withSign neg f.maxCode, flagOF ||| flagNX)
    else (f.nanCode?.getD 0, flagOF ||| flagNV)

/-- A value in a floating format, rounded once (R198): its code and the status bits of R197. -/
def FloatFmt.convert (f : FloatFmt) (rm : Rnd) (sat : Bool) : Num → Nat × Nat
  | .nan => match f.nanCode? with | some c => (c, 0) | none => (0, flagNV)
  | .inf neg => match f.infCode? with | some c => (f.withSign neg c, 0) | none => f.overflow rm sat neg
  | .fin neg m e sticky =>
    if m = 0 ∧ sticky = false then (f.withSign neg 0, 0)
    else
      let q := max (lastPlace (f.man + 1) m e) f.minQ
      let r := roundAt rm neg m e sticky q
      let code := (q - f.minQ).toNat * 2 ^ f.man + r.1
      if r.1 ≠ 0 ∧ f.maxCode < code then f.overflow rm sat neg
      else (f.withSign neg code, flagIf r.2 flagNX ||| flagIf (r.2 && decide (code < 2 ^ f.man)) flagUF)

/-- A value rounded to the precision of FP32 with an unbounded exponent (R204), and whether it is inexact. -/
def roundWide (rm : Rnd) : Num → Num × Bool
  | .fin neg m e sticky =>
    if m = 0 then (.fin neg 0 0 false, sticky)
    else
      let q := lastPlace 24 m e
      if q ≤ e then (.fin neg m e false, sticky)
      else let r := roundAt rm neg m e sticky q; (.fin neg r.1 q false, r.2)
  | x => (x, false)

/-- A value rounded to an integer in the mode, and whether it is inexact. -/
def roundInt (rm : Rnd) (neg : Bool) (m : Nat) (e : Int) (sticky : Bool) : Int × Bool :=
  let r := roundAt rm neg m e sticky 0
  (if neg then -(r.1 : Int) else (r.1 : Int), r.2)

/-! ## Integers -/

/-- Width and sign of an integer type (R186). -/
def intFmt? : Ty → Option (Nat × Bool)
  | .i64 => some (64, true) | .i32 => some (32, true) | .u64 => some (64, false)
  | .int4 => some (4, true) | .int8 => some (8, true) | .uint8 => some (8, false)
  | .int16 => some (16, true) | .uint16 => some (16, false) | .uint32 => some (32, false)
  | _ => none

/-- Least and greatest value of an integer type. -/
def intRange (w : Nat) (signed : Bool) : Int × Int :=
  if signed then (-(2 ^ (w - 1) : Nat), (2 ^ (w - 1) : Nat) - 1) else (0, (2 ^ w : Nat) - 1)

/-- The low `w` bits of `v` as an integer of the type. -/
def intValue (w : Nat) (signed : Bool) (v : Nat) : Int :=
  if signed then toSigned w v else ((v % 2 ^ w : Nat) : Int)

/-- An integer clamped to the range of the type, and whether it was clamped. -/
def clampInt (w : Nat) (signed : Bool) (i : Int) : Int × Bool :=
  let r := intRange w signed
  if i < r.1 then (r.1, true) else if r.2 < i then (r.2, true) else (i, false)

/-- A value converted to an integer type (R199): the integer and the status bits; a clamped result differs from the exact one, so
it sets NX with NV (R197; log 24). -/
def numToInt (w : Nat) (signed : Bool) (rm : Rnd) : Num → Int × Nat
  | .nan => (0, flagNV)
  | .inf neg => (if neg then (intRange w signed).1 else (intRange w signed).2, flagNV ||| flagNX)
  | .fin neg m e sticky =>
    let r := roundInt rm neg m e sticky
    let c := clampInt w signed r.1
    (c.1, flagIf c.2 flagNV ||| flagIf (c.2 || r.2) flagNX)

/-! ## Arithmetic on exact values -/

/-- The sign flipped. -/
def Num.neg : Num → Num
  | .nan => .nan
  | .inf n => .inf (!n)
  | .fin n m e s => .fin (!n) m e s

/-- The sign cleared. -/
def Num.abs : Num → Num
  | .nan => .nan
  | .inf _ => .inf false
  | .fin _ m e s => .fin false m e s

/-- Whether the value is a zero. -/
def Num.isZero : Num → Bool
  | .fin _ 0 _ false => true
  | _ => false

/-- Whether the value is a NaN or an infinity. -/
def Num.isSpecial : Num → Bool
  | .fin .. => false
  | _ => true

/-- The sign of a value. -/
def Num.sign : Num → Bool
  | .nan => false
  | .inf n => n
  | .fin n _ _ _ => n

/-- A signed mantissa. -/
def signedMan (neg : Bool) (m : Nat) : Int := if neg then -(m : Int) else (m : Int)

/-- The exact sum and whether it is invalid (∞ − ∞).  A zero sum is − under RDN and + otherwise, but that of two −0 is −0
(R270). -/
def addNum (rm : Rnd) : Num → Num → Num × Bool
  | .nan, _ => (.nan, false)
  | _, .nan => (.nan, false)
  | .inf a, .inf b => if a = b then (.inf a, false) else (.nan, true)
  | .inf a, _ => (.inf a, false)
  | _, .inf b => (.inf b, false)
  | .fin na ma ea _, .fin nb mb eb _ =>
    let e := min ea eb
    let i := signedMan na (ma * 2 ^ (ea - e).toNat) + signedMan nb (mb * 2 ^ (eb - e).toNat)
    if i = 0 then
      (.fin (decide (rm = .rdn) || (na && nb && ma == 0 && mb == 0)) 0 0 false, false)
    else (.fin (decide (i < 0)) i.natAbs e false, false)

/-- The exact product and whether it is invalid (0 × ∞). -/
def mulNum : Num → Num → Num × Bool
  | .nan, _ => (.nan, false)
  | _, .nan => (.nan, false)
  | .inf a, .inf b => (.inf (a != b), false)
  | .inf a, .fin nb mb _ _ => if mb = 0 then (.nan, true) else (.inf (a != nb), false)
  | .fin na ma _ _, .inf b => if ma = 0 then (.nan, true) else (.inf (na != b), false)
  | .fin na ma ea _, .fin nb mb eb _ => (.fin (na != nb) (ma * mb) (ea + eb) false, false)

/-- The quotient, to 128 bits and a sticky tail, and NV or DZ; a divisor of zero sets DZ for an infinite dividend too (R270; log 54). -/
def divNum : Num → Num → Num × Nat
  | .nan, _ => (.nan, 0)
  | _, .nan => (.nan, 0)
  | .inf _, .inf _ => (.nan, flagNV)
  | .inf a, .fin nb mb _ _ => (.inf (a != nb), flagIf (mb == 0) flagDZ)
  | .fin na _ _ _, .inf b => (.zero (na != b), 0)
  | .fin na ma ea _, .fin nb mb eb _ =>
    if mb = 0 then (if ma = 0 then (.nan, flagNV) else (.inf (na != nb), flagDZ))
    else if ma = 0 then (.zero (na != nb), 0)
    else
      let k := 129 + Nat.log2 mb
      let n := ma * 2 ^ k
      (.fin (na != nb) (n / mb) (ea - eb - (k : Int)) (decide (n % mb ≠ 0)), 0)

/-- The integer square root of `n`, built from bit `i - 1` down. -/
def isqrtFrom (n : Nat) : Nat → Nat → Nat
  | 0, acc => acc
  | i + 1, acc => isqrtFrom n i (if (acc + 2 ^ i) * (acc + 2 ^ i) ≤ n then acc + 2 ^ i else acc)

/-- The integer square root. -/
def isqrt (n : Nat) : Nat := isqrtFrom n (Nat.log2 n / 2 + 1) 0

/-- The square root, to over 128 bits and a sticky tail, and NV for a value below −0. -/
def sqrtNum : Num → Num × Nat
  | .nan => (.nan, 0)
  | .inf neg => if neg then (.nan, flagNV) else (.inf false, 0)
  | .fin neg m e _ =>
    if m = 0 then (.fin neg 0 0 false, 0)
    else if neg then (.nan, flagNV)
    else
      let odd := e % 2 = 1
      let n := (if odd then 2 * m else m) * 2 ^ 260
      let r := isqrt n
      (.fin false r ((if odd then e - 1 else e) / 2 - 130) (decide (r * r ≠ n)), 0)

/-- The reciprocal of the square root, to over 128 bits and a sticky tail: ±∞ with DZ for a zero, NV below −0. -/
def rsqrtNum : Num → Num × Nat
  | .nan => (.nan, 0)
  | .inf neg => if neg then (.nan, flagNV) else (.zero false, 0)
  | .fin neg m e _ =>
    if m = 0 then (.inf neg, flagDZ)
    else if neg then (.nan, flagNV)
    else
      let odd := e % 2 = 1
      let d := if odd then 2 * m else m
      let k := 2 * (Nat.log2 d + 130)
      let r := isqrt (2 ^ k / d)
      (.fin false r (-((if odd then e - 1 else e) / 2) - (k : Int) / 2) (decide (r * r * d ≠ 2 ^ k)), 0)

/-- Order of two exact values, none when a NaN makes them unordered; −0 equals +0 (R202). -/
def cmpNum : Num → Num → Option Ordering
  | .nan, _ => none
  | _, .nan => none
  | .inf a, .inf b => some (if a = b then .eq else if a then .lt else .gt)
  | .inf a, _ => some (if a then .lt else .gt)
  | _, .inf b => some (if b then .gt else .lt)
  | .fin na ma ea _, .fin nb mb eb _ =>
    let e := min ea eb
    some (compare (signedMan na (ma * 2 ^ (ea - e).toNat)) (signedMan nb (mb * 2 ^ (eb - e).toNat)))

/-- A floating comparison (R202). -/
def floatCond (c : Cond) (x y : Num) : Bool :=
  match cmpNum x y with
  | none => (match c with | .ne => true | .uno => true | _ => false)
  | some o =>
    match c with
    | .eq => o == .eq
    | .ne => o != .eq
    | .lt => o == .lt
    | .le => o != .gt
    | .gt => o == .gt
    | .ge => o != .lt
    | .ord => true
    | _ => false

/-- Whether `x` comes before `y` with −0 below +0 (R202); NaN operands are excluded before. -/
def numLess (x y : Num) : Bool :=
  match cmpNum x y with
  | some .lt => true
  | some .eq => x.isZero && y.isZero && x.sign && !y.sign
  | _ => false

/-- Which operand a minimum or maximum takes: none for the canonical NaN, `true` for the first (R202). -/
def pickMinMax (isMax : Bool) (x y : Num) : Option Bool :=
  if x = .nan then (if y = .nan then none else some false)
  else if y = .nan then some true
  else if isMax then some (!(numLess x y)) else some (!(numLess y x))

/-! ## Flushing (R201) -/

/-- The formats that FTZ flushes. -/
def flushes : Ty → Bool
  | .f32 => true | .f16 => true | .bf16 => true | _ => false

/-- A code of the format is a subnormal. -/
def FloatFmt.subnormal (f : FloatFmt) (v : Nat) : Bool :=
  let mag := v % 2 ^ (f.exp + f.man)
  decide (mag ≠ 0) && decide (mag < 2 ^ f.man)

/-- An operand, read as a zero of its sign when it is flushed. -/
def flushOperand (ftz : Bool) (ty : Ty) (f : FloatFmt) (v : Nat) : Num :=
  if ftz && flushes ty && f.subnormal v then .zero (v.testBit (f.exp + f.man)) else f.value v

/-- A rounded result, replaced by a zero of its sign, with UF and NX, when it is flushed. -/
def flushResult (ftz : Bool) (ty : Ty) (f : FloatFmt) (r : Nat × Nat) : Nat × Nat :=
  if ftz && flushes ty && f.subnormal r.1 then
    (f.withSign (r.1.testBit (f.exp + f.man)) 0, r.2 ||| flagUF ||| flagNX)
  else r

/-! ## Block formats -/

/-- The element format of an MX format (R191). -/
def mxElem? : Ty → Option Ty
  | .mx8e4 => some .e4m3 | .mx8e5 => some .e5m2 | .mx6e3 => some .e3m2 | .mx6e2 => some .e2m3 | .mx4 => some .e2m1
  | _ => none

/-- The width of a DX format (R193). -/
def dxWidth? : Ty → Option Nat
  | .dx8 => some 8 | .dx6 => some 6 | .dx4 => some 4 | _ => none

/-- Emax of an MX element format (R192). -/
def mxEmax : Ty → Int
  | .e4m3 => 8 | .e5m2 => 15 | .e3m2 => 4 | .e2m3 => 2 | _ => 2

/-- A value times a power of two, exactly (R200). -/
def Num.scale (k : Int) : Num → Num
  | .fin n m e s => .fin n m (e + k) s
  | x => x

/-- An MX element under its scale (R191). -/
def mxValue (elem : Ty) (x : Nat) (v : Nat) : Num :=
  if x % 256 = 255 then .nan
  else match floatFmt? elem with
    | some f => (f.value v).scale ((x % 256 : Nat) - 127)
    | none => .nan

/-- A DX element under its two exponents (R193). -/
def dxValue (w : Nat) (eh el : Nat) (v : Nat) : Num :=
  let ex := (if v.testBit (w - 1) then eh else el) % 256
  if ex = 255 then .nan
  else .fin (v.testBit (w - 2)) (v % 2 ^ (w - 2)) ((ex : Int) - 127 - ((w : Int) - 3)) false

/-- The greater magnitude of two finite values. -/
def maxAbs (x y : Num) : Num := if numLess x.abs y.abs then y.abs else x.abs

/-- Floor of the base-2 logarithm of a non-zero finite value. -/
def floorLog2 : Num → Int
  | .fin _ m e _ => (Nat.log2 m : Int) + e
  | _ => 0

/-- An integer clamped between two others. -/
def clampTo (lo hi i : Int) : Int := if i < lo then lo else if hi < i then hi else i

/-- A quantised block: its scale bytes, the codes of its elements and the status bits. -/
structure Block where
  scales : List Nat
  elems  : List Nat
  flags  : Nat
  deriving DecidableEq, Repr

/-- QuantMX (R192); positions beyond the list are padding (R200); it reports NX and SAT alone (R204, R332). -/
def quantMX (elem : Ty) (vs : List Num) : Block :=
  match floatFmt? elem with
  | none => ⟨[0], [], 0⟩
  | some f =>
    if vs.any Num.isSpecial then ⟨[0xFF], vs.map fun _ => 0, 0⟩
    else
      let amax := vs.foldl maxAbs (.zero false)
      if amax.isZero then ⟨[0], vs.map fun v => f.withSign v.sign 0, 0⟩
      else
        let x := clampTo 0 254 (floorLog2 amax - mxEmax elem + 127)
        let rs := vs.map fun v => f.convert .rne true (v.scale (127 - x))
        ⟨[x.toNat], rs.map fun r => r.1, (rs.foldl (fun a r => a ||| r.2) 0) &&& (flagNX ||| flagSAT)⟩

/-- RoundRNE(|v| · 2^(w−3) / 2^(E−127)) of a finite value (R194). -/
def dxSteps (w : Nat) (ex : Nat) : Num → Nat × Bool
  | .fin _ m e s => roundAt .rne false m (e + ((w : Int) - 3) - ((ex : Int) - 127)) s 0
  | _ => (0, false)

/-- The code of a DX element: selector, sign, magnitude (R193). -/
def dxCode (w : Nat) (sel neg : Bool) (m : Nat) : Nat := sel.toNat * 2 ^ (w - 1) + neg.toNat * 2 ^ (w - 2) + m

/-- QuantDX (R194). -/
def quantDX (w : Nat) (vs : List Num) : Block :=
  let top := 2 ^ (w - 2) - 1
  if vs.any Num.isSpecial then
    ⟨[0xFF, 0xFF], vs.map fun _ => dxCode w true false 0, 0⟩
  else
    let amax := vs.foldl maxAbs (.zero false)
    let eh := ((List.range 255).find? fun ex => decide ((dxSteps w ex amax).1 ≤ top)).getD 254
    let el := eh - (w - 2)
    let one := fun (v : Num) =>
      let l := dxSteps w el v
      if l.1 ≤ top then (dxCode w false v.sign l.1, flagIf l.2 flagNX)
      else
        let h := dxSteps w eh v
        (dxCode w true v.sign (min h.1 top),
          flagIf (h.2 || decide (top < h.1)) flagNX ||| flagIf (decide (top < h.1)) flagSAT)
    let rs := vs.map one
    ⟨[eh, el], rs.map fun r => r.1, rs.foldl (fun a r => a ||| r.2) 0⟩

/-- A block format's quantisation. -/
def quantBlock (ty : Ty) (vs : List Num) : Block :=
  match mxElem? ty, dxWidth? ty with
  | some e, _ => quantMX e vs
  | none, some w => quantDX w vs
  | none, none => ⟨[], [], 0⟩

/-! ## Types -/

/-- Width of an element in bits (R128, R239). -/
def tyBits : Ty → Nat
  | .i64 => 64 | .i32 => 32 | .u64 => 64 | .f64 => 64 | .f32 => 32 | .f16 => 16 | .bf16 => 16
  | .int4 => 4 | .int8 => 8 | .uint8 => 8 | .int16 => 16 | .uint16 => 16 | .uint32 => 32
  | .e4m3 => 8 | .e5m2 => 8 | .e3m2 => 6 | .e2m3 => 6 | .e2m1 => 4
  | .mx8e4 => 8 | .mx8e5 => 8 | .mx6e3 => 6 | .mx6e2 => 6 | .mx4 => 4
  | .dx8 => 8 | .dx6 => 6 | .dx4 => 4
  | .e8m0 => 8

/-- Scale bytes of each block of 32 elements: one for MX, two for DX, none otherwise (R130). -/
def scalesPerBlock (ty : Ty) : Nat :=
  if (mxElem? ty).isSome then 1 else if (dxWidth? ty).isSome then 2 else 0

/-- Whether the type is a block format. -/
def isBlockTy (ty : Ty) : Bool := decide (scalesPerBlock ty ≠ 0)

/-- The value of an element's bits under the scale bytes of its block. -/
def elemValue (ty : Ty) (scales : List Nat) (v : Nat) : Num :=
  match intFmt? ty, floatFmt? ty, mxElem? ty, dxWidth? ty with
  | some (w, sg), _, _, _ => .ofInt (intValue w sg v)
  | none, some f, _, _ => f.value v
  | none, none, some e, _ => mxValue e (scales.getD 0 0) v
  | none, none, none, some w => dxValue w (scales.getD 0 0) (scales.getD 1 0) v
  | none, none, none, none => e8m0Value v

/-! ## One group of accumulation (R203) -/

/-- Whether an infinity of the sign occurs. -/
def hasInf (neg : Bool) (xs : List Num) : Bool := xs.any fun x => x == .inf neg

/-- The exact sum of finite values; its sign as a zero is not used. -/
def sumNums (xs : List Num) : Num := xs.foldl (fun a x => (addNum .rne a x).1) (.zero false)

/-- Group of R203 in FP32, and the fused step in FP64: the accumulator's new code; its old one is `c`. -/
def groupAcc (f : FloatFmt) (c : Nat) (ts : List Num) : Nat :=
  let cv := f.value c
  let all := cv :: ts
  let nan := f.nanCode?.getD 0
  if all.any (fun x => x == .nan) then nan
  else if hasInf false all && hasInf true all then nan
  else if hasInf false all then f.withSign false (f.infCode?.getD 0)
  else if hasInf true all then f.withSign true (f.infCode?.getD 0)
  else
    let x := sumNums all
    if x.isZero then
      (if cv.isZero && cv.sign && ts.all (fun t => t.isZero && t.sign) then f.withSign true 0 else 0)
    else (f.convert .rne false x).1

end Sys2Proof.Machine
end

