-- ==== Sys2Proof/Machine/Operands.lean ====
section
/-! DEFINITION. Memory operands as data (chapter 06): the 128-byte descriptor, the layout of elements, swizzles, symmetry groups,
ranks and multiplicities. -/

namespace Sys2Proof.Machine

/-! ## Format codes (R128) -/

/-- The element format of a FMT code. -/
def fmtOf? : Nat → Option Ty
  | 0x00 => some .uint8 | 0x01 => some .int8 | 0x02 => some .uint16 | 0x03 => some .int16
  | 0x04 => some .uint32 | 0x05 => some .i32 | 0x06 => some .u64 | 0x07 => some .i64 | 0x08 => some .int4
  | 0x10 => some .f64 | 0x11 => some .f32 | 0x12 => some .f16 | 0x13 => some .bf16
  | 0x14 => some .e4m3 | 0x15 => some .e5m2 | 0x16 => some .e3m2 | 0x17 => some .e2m3 | 0x18 => some .e2m1
  | 0x20 => some .mx8e4 | 0x21 => some .mx8e5 | 0x22 => some .mx6e3 | 0x23 => some .mx6e2 | 0x24 => some .mx4
  | 0x28 => some .dx8 | 0x29 => some .dx6 | 0x2A => some .dx4 | 0x30 => some .e8m0
  | _ => none

/-- The FMT code of an element format. -/
def fmtCode : Ty → Nat
  | .uint8 => 0x00 | .int8 => 0x01 | .uint16 => 0x02 | .int16 => 0x03 | .uint32 => 0x04 | .i32 => 0x05
  | .u64 => 0x06 | .i64 => 0x07 | .int4 => 0x08 | .f64 => 0x10 | .f32 => 0x11 | .f16 => 0x12 | .bf16 => 0x13
  | .e4m3 => 0x14 | .e5m2 => 0x15 | .e3m2 => 0x16 | .e2m3 => 0x17 | .e2m1 => 0x18
  | .mx8e4 => 0x20 | .mx8e5 => 0x21 | .mx6e3 => 0x22 | .mx6e2 => 0x23 | .mx4 => 0x24
  | .dx8 => 0x28 | .dx6 => 0x29 | .dx4 => 0x2A | .e8m0 => 0x30

/-- Formats with a sign: signed integers, floats, MX and DX. -/
def isSignedTy (ty : Ty) : Bool :=
  match intFmt? ty with
  | some (_, sg) => sg
  | none => (match ty with | .e8m0 => false | _ => true)

/-- Bytes an element takes for the alignment rules: 1 below 8 bits (R129). -/
def elemBytes (ty : Ty) : Nat := if tyBits ty < 8 then 1 else tyBits ty / 8

/-! ## Descriptors (R127) -/

/-- A little-endian field of a byte list. -/
def bytesField (bs : List Byte) (off n : Nat) : Nat := leNat ((bs.drop off).take n)

/-- One generator entry of 8 bytes: a KIND 0 entry is all zero (R140). -/
def genOf? (e : List Byte) : Option (Option Gen) :=
  let kind := bytesField e 0 1
  let sign := bytesField e 1 1
  let a := bytesField e 2 1
  let b := bytesField e 3 1
  let c := bytesField e 4 1
  let d := bytesField e 5 1
  if kind = 0 then (if leNat (e.take 8) = 0 then some none else none)
  else if kind > 4 || sign > 1 || bytesField e 6 2 != 0 then none
  else if kind != 2 && (c != 0 || d != 0) then none
  else if kind == 1 && !(decide (2 ≤ b) && decide (b ≤ 4)) then none
  else if kind == 3 && sign != 0 then none
  else if kind == 4 && b != 0 then none
  else some (some ⟨kind, sign == 1, a, b, c, d⟩)

/-- Entries of KIND 0 stand last and kinds do not fall (R140). -/
def gensOf? : List (Option (Option Gen)) → Nat → Bool → Option (List Gen)
  | [], _, _ => some []
  | none :: _, _, _ => none
  | some none :: rest, k, _ => gensOf? rest k true
  | some (some g) :: rest, k, ended =>
    if ended || g.kind < k then none
    else match gensOf? rest g.kind false with
      | some gs => some (g :: gs)
      | none => none

/-- Slots a generator covers (R140). -/
def Gen.slots (g : Gen) : List Nat :=
  match g.kind with
  | 1 => (upTo g.b).map fun i => g.a + i
  | 2 => [g.a, g.b, g.c, g.d]
  | 3 => [g.a, g.b]
  | _ => [g.a]

/-- A PERM of two slots on the pair (a, b). -/
def pairPerm (gs : List Gen) (a b : Nat) : Option Gen :=
  gs.find? fun g => g.kind == 1 && g.b == 2 && g.a == a && b == a + 1

/-- The PERM lies on a pair of some PAIRSWAP. -/
def onPair (gs : List Gen) (p : Gen) : Bool :=
  p.kind == 1 && p.b == 2 && gs.any fun g =>
    g.kind == 2 && ((g.a == p.a && g.b == p.a + 1) || (g.c == p.a && g.d == p.a + 1))

/-- The numbers of a list are distinct. -/
def distinct : List Nat → Bool
  | [] => true
  | x :: xs => !(xs.contains x) && distinct xs

/-- The rules of R140 for one generator. -/
def Gen.ok (gs : List Gen) (rank : Nat) (ext : List Nat) (signed block : Bool) (g : Gen) : Bool :=
  let e := fun i => ext.getD i 0
  g.slots.all (fun i => decide (i < rank)) && !(block && g.slots.contains 0) && !(g.neg && !signed) &&
  (match g.kind with
   | 1 => g.slots.all (fun i => e i == e g.a) && !(g.neg && decide (e g.a < g.b))
   | 2 => distinct g.slots && decide (g.a ≤ g.b) && decide (g.c ≤ g.d) && decide (g.a ≤ g.c) &&
          e g.a == e g.c && e g.b == e g.d &&
          (match pairPerm gs g.a g.b, pairPerm gs g.c g.d with
           | none, none => true
           | some p, some q => p.neg == q.neg
           | _, _ => false)
   | 3 => g.a != g.b && e g.a == e g.b
   | _ => decide (2 ≤ e g.a))

/-- A slot lies in two generators only where a PERM of two slots lies on a pair of a PAIRSWAP (R140). -/
def gensDisjoint : List Gen → List Gen → Bool
  | _, [] => true
  | all, g :: rest =>
    rest.all (fun h =>
      g.slots.all (fun i => !(h.slots.contains i)) ||
      (g.kind == 1 && h.kind == 2 && onPair [h] g)) && gensDisjoint all rest

/-- A group that R140 admits. -/
def groupOk (gs : List Gen) (rank : Nat) (ext : List Nat) (ty : Ty) : Bool :=
  gs.all (fun g => g.ok gs rank ext (isSignedTy ty) (isBlockTy ty)) && gensDisjoint gs gs

/-- Bank width of a store (R108). -/
def bankWidth (space : Nat) : Nat := if space = 2 then 32 else 64

/-- Bytes of a store: W and A, and S; the Z store is 32 patches of 48 KiB (R108). -/
def storeBytes (space : Nat) : Nat :=
  match space with | 0 => Config.waBytes | 1 => Config.waBytes | 2 => Config.sBytes | _ => 1572864

/-- Six extents, and five pitches. -/
def extsOf (bs : List Byte) (off : Nat) : List Nat := (upTo 6).map fun i => bytesField bs (off + 4 * i) 4
def pitchesOf (bs : List Byte) : List Nat := 0 :: (upTo 5).map fun i => bytesField bs (40 + 8 * i) 8

/-- The descriptor of 128 bytes, none where a field is malformed or a combination is refused whatever the slots hold (R127,
R129, R132, R133, R140, R147): HFAULT.  `save` admits SPACE 3 for a save window (R65). -/
def descOf? (save : Bool) (bs : List Byte) : Option Desc :=
  let f := fun off n => bytesField bs off n
  let bit := fun off i => (f off 1).testBit i
  let space := f 0 1
  let rank := f 2 1
  let codec := bitsAt (f 3 1) 0 2
  match fmtOf? (f 1 1), gensOf? ((upTo 4).map fun i => genOf? ((bs.drop (96 + 8 * i)).take 8)) 1 false with
  | some ty, some gs =>
    let d : Desc :=
      { space := space, fmt := ty, rank := rank, codec := codec, sealed := bit 3 2, policy := bitsAt (f 4 1) 0 2,
        trap := bit 4 2, rd := bit 4 3, wr := bit 4 4, swz := bitsAt (f 5 1) 0 4,
        ring := if bit 6 7 then some (bitsAt (f 6 1) 0 5) else none,
        base := f 8 8, ext := extsOf bs 16, pitch := pitchesOf bs, slink := f 80 1, slv := bit 81 0, tgt := f 82 2,
        peer := bitsAt (f 84 1) 0 6, clen := f 88 8, sym := gs }
    let ok :=
      decide (space ≤ 6) && (save || decide (space ≠ 3)) && decide (1 ≤ rank) && decide (rank ≤ 6) &&
      decide (f 3 1 < 8) && decide (d.policy ≠ 3) && decide (f 4 1 < 32) && decide (f 5 1 < 16) &&
      decide (bitsAt (f 6 1) 5 2 = 0) && decide (f 7 1 = 0) &&
      (upTo 6).all (fun i => if i < rank then decide (1 ≤ d.ext.getD i 0) else decide (d.ext.getD i 0 = 1)) &&
      (upTo 6).all (fun i => decide (i < rank) || decide (d.pitch.getD i 0 = 0)) &&
      decide (f 81 1 < 2) && decide (f 84 1 < 64) && decide (f 85 3 = 0) &&
      (decide (space < 4) || decide (d.tgt = 0)) && (decide (space < 4) || decide (d.base < 2 ^ 57)) &&
      (decide (codec ≠ 0) || decide (d.clen = 0)) &&
      (d.slv == isBlockTy ty) &&
      (decide (d.swz = 0) || (decide (space < 3) && decide (d.base % (32 * bankWidth space) = 0))) &&
      (d.ring.isNone || decide (space = 1) || decide (space = 2)) &&
      groupOk gs rank d.ext ty &&
      (decide (codec = 0) ||
        (gs.isEmpty && (decide (space = 4) || decide (space = 5)) && decide (d.swz = 0) &&
         d.pitch.all (fun p => p == 0) &&
         (decide (codec ≠ 2) || (decide (rank = 1) && (ty == .i64 || ty == .u64))) &&
         (decide (codec ≠ 3) || decide (tyBits ty = 8) || decide (tyBits ty = 16) || decide (tyBits ty = 32) ||
          decide (tyBits ty = 64))))
    if ok then some d else none
  | _, _ => none

/-- BASE and the pitches are multiples of the element size (R129): ALIGN otherwise. -/
def Desc.aligned (d : Desc) : Bool :=
  decide (d.base % elemBytes d.fmt = 0) && d.pitch.all fun p => decide (p % elemBytes d.fmt = 0)

/-! ## Symmetry (R141 to R143) -/

/-- Insert into a sorted list. -/
def insertSorted (x : Nat) : List Nat → List Nat
  | [] => [x]
  | y :: ys => if x ≤ y then x :: y :: ys else y :: insertSorted x ys

/-- Ascending order. -/
def sortNat : List Nat → List Nat
  | [] => []
  | x :: xs => insertSorted x (sortNat xs)

/-- Number of pairs out of order. -/
def inversions : List Nat → Nat
  | [] => 0
  | x :: xs => (xs.filter fun y => decide (y < x)).length + inversions xs

/-- A list with a slice replaced from position `a`. -/
def setSlice (x : List Nat) (a : Nat) (y : List Nat) : List Nat := x.take a ++ y ++ x.drop (a + y.length)

/-- Binomial coefficient. -/
def binom (n k : Nat) : Nat := (upTo k).foldl (fun acc i => acc * (n - i) / (i + 1)) 1

/-- Rank of sorted entries under a PERM (R142); `m` counts from 1. -/
def permRank (neg : Bool) : Nat → List Nat → Nat
  | _, [] => 0
  | m, i :: is => (if neg then binom i m else binom (i + m - 1) m) + permRank neg (m + 1) is

/-- Representatives of a PERM over extent n (R142). -/
def permCount (neg : Bool) (n k : Nat) : Nat := if neg then binom n k else binom (n + k - 1) k

/-- Key(x, a, b) of R141. -/
def pairKey (gs : List Gen) (ext x : List Nat) (a b : Nat) : Nat :=
  match pairPerm gs a b with
  | some p => permRank p.neg 1 [x.getD a 0, x.getD b 0]
  | none => x.getD b 0 * ext.getD a 0 + x.getD a 0

/-- Number of distinct keys of the pair (a, b) (R142). -/
def pairKeys (gs : List Gen) (ext : List Nat) (a b : Nat) : Nat :=
  match pairPerm gs a b with
  | some p => permCount p.neg (ext.getD a 0) 2
  | none => ext.getD a 0 * ext.getD b 0

/-- One generator applied to a tuple and a sign; none for a forced zero (R141). -/
def repGen (gs : List Gen) (ext : List Nat) (g : Gen) (x : List Nat) (neg : Bool) : Option (List Nat × Bool) :=
  match g.kind with
  | 1 =>
    let xs := (x.drop g.a).take g.b
    let ys := sortNat xs
    if g.neg && !(distinct ys) then none
    else some (setSlice x g.a ys, neg != (g.neg && inversions xs % 2 == 1))
  | 2 =>
    let p := pairKey gs ext x g.a g.b
    let q := pairKey gs ext x g.c g.d
    if g.neg && p == q then none
    else if q < p then
      some ((((x.set g.a (x.getD g.c 0)).set g.b (x.getD g.d 0)).set g.c (x.getD g.a 0)).set g.d (x.getD g.b 0), neg != g.neg)
    else some (x, neg)
  | 3 =>
    let n := ext.getD g.a 0
    some ((x.set g.b ((x.getD g.b 0 + (n - x.getD g.a 0 % n)) % n)).set g.a 0, neg)
  | _ =>
    let n := ext.getD g.a 0
    let v := x.getD g.a 0
    if g.neg && 2 * v == n - 1 then none
    else if n - 1 - v < v then some (x.set g.a (n - 1 - v), neg != g.neg)
    else some (x, neg)

/-- Generators in turn. -/
def repAll (gs : List Gen) (ext : List Nat) : List Gen → List Nat → Bool → Option (List Nat × Bool)
  | [], x, neg => some (x, neg)
  | g :: rest, x, neg =>
    match repGen gs ext g x neg with
    | none => none
    | some (y, n) => repAll gs ext rest y n

/-- Rep(x): the representative and whether its sign is −; none for a forced zero (R141). -/
def Desc.rep (d : Desc) (x : List Nat) : Option (List Nat × Bool) := repAll d.sym d.ext d.sym x false

/-- A tuple is canonical (R141). -/
def Desc.canonical (d : Desc) (x : List Nat) : Bool := d.rep x == some (x, false)

/-- The generators that stand for components: all but the PERMs on a PAIRSWAP's pairs (R140). -/
def components (gs : List Gen) : List Gen := gs.filter fun g => !(onPair gs g)

/-- The lowest slot of a component. -/
def Gen.low (g : Gen) : Nat := g.slots.foldl Nat.min g.a

/-- Rank of a component of a canonical tuple (R142). -/
def compRank (gs : List Gen) (ext x : List Nat) (g : Gen) : Nat :=
  match g.kind with
  | 1 => permRank g.neg 1 ((x.drop g.a).take g.b)
  | 2 =>
    let p := pairKey gs ext x g.a g.b
    let q := pairKey gs ext x g.c g.d
    if g.neg then q * (q - 1) / 2 + p else q * (q + 1) / 2 + p
  | 3 => x.getD g.b 0
  | _ => x.getD g.a 0

/-- Representatives of a component (R142). -/
def compCount (gs : List Gen) (ext : List Nat) (g : Gen) : Nat :=
  match g.kind with
  | 1 => permCount g.neg (ext.getD g.a 0) g.b
  | 2 =>
    let k := pairKeys gs ext g.a g.b
    if g.neg then k * (k - 1) / 2 else k * (k + 1) / 2
  | 3 => ext.getD g.a 0
  | _ => if g.neg then ext.getD g.a 0 / 2 else (ext.getD g.a 0 + 1) / 2

/-- Slots in no generator. -/
def freeSlots (gs : List Gen) (rank : Nat) : List Nat := (upTo rank).filter fun i => gs.all fun g => !(g.slots.contains i)

/-- Units of a handle in ascending order of slot: slot and the component there, if it is one (R142). -/
def Desc.units (d : Desc) : List (Nat × Option Gen) :=
  (upTo d.rank).filterMap fun i =>
    match (components d.sym).find? fun g => g.low == i with
    | some g => some (i, some g)
    | none => if (freeSlots d.sym d.rank).contains i then some (i, none) else none

/-- Rank of a unit in a canonical tuple. -/
def Desc.unitRank (d : Desc) (x : List Nat) : Nat × Option Gen → Nat
  | (_, some g) => compRank d.sym d.ext x g
  | (i, none) => x.getD i 0

/-- Count of a unit. -/
def Desc.unitCount (d : Desc) : Nat × Option Gen → Nat
  | (_, some g) => compCount d.sym d.ext g
  | (i, none) => d.ext.getD i 0

/-- Step of a unit at a slot, in bits (R131, R142). -/
def Desc.stride (d : Desc) (i : Nat) : Nat := if i = 0 then tyBits d.fmt else 8 * d.pitch.getD i 0

/-- Bit position of a canonical tuple from BASE (R131, R142). -/
def Desc.bitPos (d : Desc) (x : List Nat) : Nat := d.units.foldl (fun a u => a + d.unitRank x u * d.stride u.1) 0

/-- Linear rank of a canonical tuple over the units (R142). -/
def linearRankFrom (d : Desc) (x : List Nat) : List (Nat × Option Gen) → Nat → Nat
  | [], _ => 0
  | u :: us, m => d.unitRank x u * m + linearRankFrom d x us (m * d.unitCount u)
def Desc.linearRank (d : Desc) (x : List Nat) : Nat := linearRankFrom d x d.units 1

/-- Stored elements of a handle: representatives of the whole tuple. -/
def Desc.stored (d : Desc) : Nat := d.units.foldl (fun a u => a * d.unitCount u) 1

/-- Multiplicity of the orbit of a canonical tuple (R143). -/
def factorial : Nat → Nat
  | 0 => 1
  | n + 1 => (n + 1) * factorial n

/-- Product of c! over each value repeated c times, on a sorted list; `c` counts the run so far. -/
def repeats : List Nat → Nat → Nat
  | [], c => factorial c
  | [_], c => factorial (c + 1)
  | x :: y :: rest, c => if x = y then repeats (y :: rest) (c + 1) else factorial (c + 1) * repeats (y :: rest) 0

/-- The factor of one generator (R143). -/
def multFactor (gs : List Gen) (ext x : List Nat) (g : Gen) : Nat :=
  match g.kind with
  | 1 => factorial g.b / repeats (sortNat ((x.drop g.a).take g.b)) 0
  | 2 => if pairKey gs ext x g.a g.b = pairKey gs ext x g.c g.d then 1 else 2
  | 3 => ext.getD g.a 0
  | _ => if 2 * x.getD g.a 0 = ext.getD g.a 0 - 1 then 1 else 2

/-- The multiplicity of an orbit, on its canonical tuple (R143). -/
def multiplicity (gs : List Gen) (ext x : List Nat) : Nat := gs.foldl (fun a g => a * multFactor gs ext x g) 1

/-- An element's bits negated in its format (R143). -/
def negBits (ty : Ty) (v : Nat) : Nat :=
  let w := tyBits ty
  match intFmt? ty, dxWidth? ty with
  | some _, _ => (2 ^ w - v % 2 ^ w) % 2 ^ w
  | none, some _ => v % 2 ^ w ^^^ 2 ^ (w - 2)
  | none, none => v % 2 ^ w ^^^ 2 ^ (w - 1)

/-! ## Places of elements -/

/-- Extra factor of a swizzle (R132). -/
def swizzle (space swz x1 o : Nat) : Nat :=
  if swz = 0 then o
  else
    let t := (x1 / 2 ^ ((swz - 1) / 4) * (2 * ((swz - 1) % 4) + 1)) % 32
    o ^^^ (t * bankWidth space)

/-- Byte offset from BASE of byte `i` of the element at a canonical tuple, after the swizzle (R131, R132). -/
def Desc.byteOff (d : Desc) (x : List Nat) (i : Nat) : Nat :=
  swizzle d.space d.swz (if d.rank = 1 then 0 else x.getD 1 0) (d.bitPos x / 8 + i)

/-- Stored footprint of the box [lo, lo + ext) in bits from BASE: the whole packed footprint under a group (R135, R142). -/
def Desc.span (d : Desc) (lo ext : List Nat) : Nat × Nat :=
  if d.sym.isEmpty then
    (d.bitPos lo, d.bitPos ((upTo 6).map fun i => lo.getD i 0 + ext.getD i 1 - 1) + tyBits d.fmt)
  else if d.stored = 0 then (0, 0)
  else (0, d.units.foldl (fun a u => a + (d.unitCount u - 1) * d.stride u.1) 0 + tyBits d.fmt)

/-- Expanded bytes of a tensor with a codec: dense in coordinate order (R147, R148). -/
def Desc.expandedBits (d : Desc) : Nat := d.ext.foldl (fun a e => a * e) 1 * tyBits d.fmt

/-- The first byte of the footprint, from BASE, and its length in bytes. -/
def Desc.footprint (d : Desc) (lo ext : List Nat) : Nat × Nat :=
  if d.codec ≠ 0 then (0, d.clen)
  else
    let s := d.span lo ext
    (s.1 / 8, (s.2 + 7) / 8 - s.1 / 8)

/-- Six zero coordinates, and six extents of 1. -/
def coord0 : List Nat := [0, 0, 0, 0, 0, 0]

/-- The first coordinate outside the extents: dimension and value (R131). -/
def outside (ext x : List Nat) : Option (Nat × Nat) :=
  ((upTo 6).map fun i => (i, x.getD i 0)).find? fun p => !(decide (p.2 < ext.getD p.1 1))

/-- TRAPARG of BOUNDS (R210). -/
def boundsArg (dim coord : Nat) : Word := BitVec.ofNat 64 (dim + (coord % 2 ^ 32) * 2 ^ 32)

end Sys2Proof.Machine
end

