-- ==== Sys2Proof/Machine/Launch.lean ====
section
/-! DEFINITION. Launch records (R57, R63 to R66, R80), the rings of the TGS queues (R58 to R60), queue halts (R64, R77), and the
notices of the part with their EVENT tasks (R78, R79). -/

namespace Sys2Proof.Machine

/-- The TASKID of a record (R57): `taken` records of the queue were consumed before it. -/
def State.taskId (s : State) (n taken node : Nat) : Word :=
  BitVec.ofNat 64 (s.podId.toNat * 2 ^ 58 + n * 2 ^ 51 + (taken % 2 ^ 31) * 2 ^ 20 + node)

/-- The master and tenant by which a queue's ring and records are read. -/
def Queue.master (q : Queue) : Master := .tenant q.tenant

/-- A byte of G-space may be read, or written, by the queue's tenant (R64). -/
def State.reachable (s : State) (tenant va n : Nat) (rd wr : Bool) : Bool :=
  decide (va + n ≤ 2 ^ 57) &&
  (match s.translate tenant (.tenant tenant) rd wr va n with | .ok _ => true | .error _ => false)

/-- Slots of a queue's ring: SIZE below 4 is used as 4 and above 16 as 16 (R58). -/
def Queue.slots (q : Queue) : Nat := 2 ^ Nat.min (Nat.max q.size 4) 16

/-- Address of the slot of record number `i` (R58). -/
def Queue.slotAt (q : Queue) (i : BitVec 32) : Nat := q.base + 64 * (i.toNat % q.slots)

/-- The 64 bytes of a ring slot, none where it cannot be read (R60, R64). -/
def State.readSlot (s : State) (n : Nat) (i : BitVec 32) : Option (List Byte) :=
  let q := s.queue n
  if q.space then
    if (s.hostGranted q.func (q.slotAt i) 64).isSome then none else some (s.hostRead q.func (q.slotAt i) 64)
  else match s.gRead q.tenant (q.slotAt i) 64 with
    | .ok bs => some bs
    | .error _ => none

/-- Write a ring slot, none where it cannot be written (R60). -/
def State.writeSlot (s : State) (n : Nat) (i : BitVec 32) (bs : List Byte) : Option State :=
  let q := s.queue n
  if q.space then
    if (s.hostGranted q.func (q.slotAt i) 64).isSome then none else some (s.hostWrite q.func (q.slotAt i) bs)
  else match s.gWrite q.tenant (q.slotAt i) bs with
    | .ok t => some t
    | .error _ => none

/-- Halt a queue: cause 1 OVR, 2 BADREC; QHALT is always posted, with CI (R59, R64, R77). -/
def State.haltQueue (s : State) (n cause : Nat) : State :=
  let q := s.queue n
  let q := { q with halted := true, ovr := q.ovr || cause == 1, badrec := q.badrec || cause == 2 }
  (s.setQueue n q).postEvent q.func 0 n 5 0
    (payloadOf (leBytes 1 cause ++ leBytes 3 0 ++ leBytes 4 q.ci.toNat))

/-! ## Windows (R65, R80) -/

/-- The descriptor that a window names, as far as it can be read and is well formed. -/
def State.windowDesc (s : State) (tenant : Nat) (w : Window) : Option Desc :=
  if w.desc % 128 = 0 then
    match s.gRead tenant w.desc 128 with
    | .ok bs => descOf? (w.mode == 4) bs
    | .error _ => none
  else none

/-- A window entry of 64 bytes, none where it breaks the table of R65. -/
def windowOf? (bs : List Byte) : Option Window :=
  let w : Window := { desc := bytesField bs 0 8, mode := bytesField bs 8 1, lo := extsOf bs 16, ext := extsOf bs 40,
                      form := none }
  if decide (1 ≤ w.mode) && decide (w.mode ≤ 4) && bytesField bs 9 7 == 0 then some w else none

/-- The box of a window lies within the extents of its descriptor; dimensions at or above the rank have LO 0 and EXT 1. -/
def boxOk (d : Desc) (w : Window) : Bool :=
  (upTo 6).all fun i =>
    if i < d.rank then decide (1 ≤ w.ext.getD i 0) && decide (w.lo.getD i 0 + w.ext.getD i 0 ≤ d.ext.getD i 0)
    else decide (w.lo.getD i 0 = 0) && decide (w.ext.getD i 0 = 1)

/-- Virtual bytes [first, end) of the footprint of a window's box. -/
def Desc.boxBytes (d : Desc) (w : Window) : Nat × Nat :=
  let f := d.footprint w.lo w.ext
  (d.base + f.1, d.base + f.1 + f.2)

/-- Slot to which each window binds at placement: modes 1 to 3 in order from h2 (R65). -/
def windowSlots : List Window → Nat → List (Nat × Window)
  | [], _ => []
  | w :: ws, k => if w.mode = 4 then windowSlots ws k else (k, w) :: windowSlots ws (k + 1)

/-- The box covers the whole tensor. -/
def boxWhole (d : Desc) (w : Window) : Bool := (upTo 6).all fun i => w.lo.getD i 0 == 0 && w.ext.getD i 1 == d.ext.getD i 1

/-- The conditions that PURE adds to a window (R80); one whose descriptor cannot be read or is malformed as the record is checked makes
the launch malformed (log 46). -/
def State.pureWindowOk (s : State) (tenant : Nat) (slots : List (Nat × Window)) (w : Window) : Bool :=
  w.mode == 4 ||
  (w.mode != 3 &&
   (match s.windowDesc tenant w with
    | none => false
    | some d =>
      d.space == 4 && (d.codec == 0 || w.mode != 1 || boxWhole d w) &&
      (!(isBlockTy d.fmt) ||
        (match slots.find? fun p => p.1 == d.slink with
         | some (_, x) => x.mode == w.mode && x != w
         | none => false))))

/-- The code window of a PURE task: mode 1, rank-1 UINT8 in G, with every entry inside its box (R80). -/
def State.codeWindowOk (s : State) (tenant : Nat) (ws : List Window) (entries : List Nat) : Bool :=
  match ws with
  | [] => false
  | w :: _ =>
    match s.windowDesc tenant w with
    | none => false
    | some d =>
      let b := d.boxBytes w
      w.mode == 1 && d.space == 4 && d.rank == 1 && d.fmt == .uint8 &&
      entries.all fun e => e == 0 || (decide (b.1 ≤ e) && decide (e < b.2))

/-- One save window: space, store offset and length; none where it is malformed (R65, R223). -/
def State.saveOf? (s : State) (tenant : Nat) (w : Window) : Option (Nat × Nat × Nat) :=
  match s.windowDesc tenant w with
  | none => none
  | some d =>
    let b := d.boxBytes w
    if d.space ≤ 3 ∧ d.tgt = 0 ∧ boxOk d w ∧ b.2 ≤ storeBytes d.space then some (d.space, b.1, b.2 - b.1) else none

/-- Save windows together, each rounded up to 64 bytes (R223). -/
def saveTotal (xs : List (Nat × Nat × Nat)) : Nat := xs.foldl (fun a x => a + (x.2.2 + 63) / 64 * 64) 0

/-- The window table, with its save set; none where the launch is malformed. -/
def State.windowsOf? (s : State) (tenant wtab n : Nat) (pure : Bool) (entries : List Nat) :
    Option (List Window × List (Nat × Nat × Nat)) :=
  match s.gRead tenant wtab (64 * n) with
  | .error _ => none
  | .ok bs =>
    match (upTo n).mapM fun i => windowOf? ((bs.drop (64 * i)).take 64) with
    | none => none
    | some ws =>
      let boxes := ws.all fun w => match s.windowDesc tenant w with | some d => boxOk d w | none => true
      match (ws.filter fun w => w.mode == 4).mapM (s.saveOf? tenant) with
      | none => none
      | some saves =>
        if boxes && decide (saveTotal saves ≤ Config.saveDataBytes) &&
           (!pure || (s.codeWindowOk tenant ws entries && ws.all (s.pureWindowOk tenant (windowSlots ws 2))))
        then some (ws.map fun w => { w with form := s.windowDesc tenant w }, saves) else none

/-! ## TASK records and graph nodes (R63, R64, R66) -/

/-- The task of a TASK record, or of a node record when `node`; none where it is malformed (R63, R64, R66, R80).  `id` is its
TASKID and `n` its queue. -/
def State.taskOfRecord (s : State) (n : Nat) (id : Word) (node : Option (Nat × Nat)) (bs : List Byte) : Option Task :=
  let q := s.queue n
  let f := fun off k => bytesField bs off k
  let flags := f 1 1
  let pure := flags.testBit 2
  let loop := flags.testBit 3
  let shape := f 2 1
  let strands := shape % 16
  let scope := shape / 16
  let width := f 4 2
  let nwin := f 6 2
  let entry := f 8 8
  let args := f 16 8
  let wtab := f 24 8
  let kernel := f 32 8
  let epi := f 40 8
  let arglen := f 54 2
  let mask := f 56 8
  let isNode := node.isSome
  let t := q.tenant
  let fields :=
    f 0 1 == 0 && decide (flags < 16) && (!isNode || flags % 2 == 0) &&
    decide (1 ≤ strands) && decide (strands ≤ 8) && decide (scope < 3) && (!isNode || scope != 2) && f 3 1 == 0 &&
    decide (1 ≤ width) && decide (width ≤ (if scope = 0 then 64 else 256)) && decide (nwin ≤ 64) && entry % 4 == 0 &&
    (arglen == 0 || args % 64 == 0) && (nwin == 0 || wtab % 64 == 0) &&
    (if loop then kernel % 4 == 0 && epi % 4 == 0 else kernel == 0 && epi == 0 && f 48 4 == 0 && f 52 2 == 0) &&
    !(pure && scope == 2) &&
    (isNode ||
      (if scope = 2 then mask.testBit s.podId.toNat && (upTo 64).all fun p => !(mask.testBit p) || s.podReachable p
       else mask == 0))
  if fields && s.reachable t entry 4 true false && (arglen == 0 || s.reachable t args 1 true false) &&
     (nwin == 0 || s.reachable t wtab 1 true false) then
    let wins := if nwin = 0 then (if pure then none else some ([], [])) else s.windowsOf? t wtab nwin pure [entry, kernel, epi]
    match wins with
    | none => none
    | some (ws, saves) => some
      { id := id, queue := n, node := node, tenant := t, prio := q.prio, func := q.func, notify := flags.testBit 1,
        pure := pure, loop := loop, strands := strands, scope := scope, width := width, entry := entry,
        args := if arglen = 0 then 0 else args, arglen := arglen, kernel := kernel, epilogue := epi, trip := f 48 4,
        minch := f 52 2, podmask := if isNode then 0 else BitVec.ofNat 64 mask, windows := ws, saveSet := saves,
        spawnDie := none, succ := [], phase := .ready, cores := [], former := [], doneCores := [], patience := false, waits := none, stamp := 0,
        next := 0, rem := f 48 4, returned := [], bg := ⟨0, 0, 0, 0, 0, 0, 0⟩, bgLevel := 0, bgAt := 0, broken := false,
        larder := .off, void := false, tainted := false, digests := [], key := none, granules := [], saved := [],
        attempt := 0, acks := [], peersDone := [], peerCheck := false, ackTimer := false, delayed := false, aborted := none }
  else none

/-! ## Notices (R78, R79) -/

/-- Count a notice as lost, with its NOTICE_LOST event (R35, R78). -/
def State.loseNotice (s : State) : State :=
  let n := if s.evlost = 0xFFFFFFFF then s.evlost else s.evlost + 1
  ({ s with evlost := n }).postEvent 0 1 0 2 0 (payloadOf (leBytes 4 n.toNat))

/-- Records that wait in queue 0's ring. -/
def Queue.waiting (q : Queue) : Nat := (q.pi - q.ci).toNat

/-- The record of the EVENT task of a notice: the template with ARGS and ARGLEN put in. -/
def eventRecord (template : List Byte) (args : Nat) : List Byte :=
  template.take 16 ++ leBytes 8 args ++ (template.drop 24).take 30 ++ leBytes 2 64 ++ template.drop 56

/-- Build the EVENT task of a notice in queue 0, which is not full (R78); where its block at EVARG or its ring slot cannot be written,
the notice counts in EVLOST and posts no task, as where its template is malformed (log 46). -/
def State.deliverNotice (s : State) (x : Notice) : State :=
  let q := s.queue 0
  let arg := s.evarg.toNat + 64 * (q.pi.toNat % q.slots)
  let id := s.taskId 0 (q.taken + q.waiting) 0
  if s.evtab = 0 then s.loseNotice
  else match s.gRead 0 (s.evtab.toNat + 64 * x.code) 64 with
    | .error _ => s.loseNotice
    | .ok tpl =>
      let block := leBytes 1 x.code ++ leBytes 7 0 ++ leBytes 8 x.task.toNat ++ leBytes 48 x.cause.toNat
      match s.gWrite 0 arg block with
      | .error _ => s.loseNotice
      | .ok s1 =>
        let rec0 := eventRecord tpl arg
        if (s1.taskOfRecord 0 id none rec0).isNone then s.loseNotice
        else match s1.writeSlot 0 q.pi rec0 with
          | none => s.loseNotice
          | some s2 =>
            (s2.setQueue 0 { s2.queue 0 with pi := q.pi + 1 }).postEvent 0 1 x.code 1 id
              (BitVec.ofNat 120 x.cause.toNat)

/-- Post a notice: at once, or into the hub backlog when queue 0 is full, or lost (R78). -/
def State.postNotice (s : State) (x : Notice) : State :=
  let q := s.queue 0
  if s.notices.isEmpty && decide (q.waiting < q.slots) then s.deliverNotice x
  else if s.notices.length < Config.noticeBacklog then { s with notices := s.notices ++ [x] }
  else s.loseNotice

/-- Notices of the backlog enter queue 0 in order while it has room; `n` bounds them. -/
def State.drainNotices (s : State) : Nat → State
  | 0 => s
  | n + 1 =>
    match s.notices with
    | [] => s
    | x :: rest =>
      let q := s.queue 0
      if q.waiting < q.slots then (({ s with notices := rest }).deliverNotice x).drainNotices n else s

/-- A cause field from its bytes 16 on. -/
def causeOf (bs : List Byte) : BitVec 384 := BitVec.ofNat 384 (leNat bs)

/-- POISON_REPORT (R79): location word, poisoned bytes, source, reader's TASKID; its block concerns no TASKID (log 46). -/
def State.reportPoison (s : State) (loc bytes src : Nat) (reader : Word) : State :=
  s.postNotice ⟨5, 0, causeOf (leBytes 8 loc ++ leBytes 4 bytes ++ leBytes 1 src ++ leBytes 3 0 ++ leBytes 8 reader.toNat)⟩

/-- The location of a poisoned unit of HBM, or of a word of a store (R79, R210). -/
def unitLocation : ErrorUnit → Nat
  | .hbm u => u * 32
  | .store c st w => 2 ^ 63 + dieOf c * 2 ^ 56 + coreInDie c * 2 ^ 48 + st * 2 ^ 44 + w * 8
  | .vreg _ r _ => 2 ^ 63 + r
  | .queue _ r _ => 2 ^ 63 + r
  | .pfu _ r _ => 2 ^ 63 + r
  | .peer _ va => va
  | .patch _ z _ => 2 ^ 63 + z
  | .sreg _ _ r => 2 ^ 63 + r
  | _ => 0

/-- SUB of a machine check on a unit (R210). -/
def unitSub : ErrorUnit → Nat
  | .hbm _ => 1 | .store .. => 2 | .vreg .. => 3 | .queue .. => 3 | .pfu .. => 3 | .patch .. => 4 | .sreg .. => 5 | _ => 0

/-- Bytes of a poisoned unit. -/
def unitBytes : ErrorUnit → Nat
  | .hbm _ => 32 | .store .. => 8 | _ => 0

end Sys2Proof.Machine
end

