-- ==== Sys2Proof/Machine/Access.lean ====
section
/-! DEFINITION. Locations and their home ports (chapter 08): reads, pending writes and their performing, releases; elements
through handles (R131 to R134, R143 to R145, R147); ring holdings (R120), seals (R134) and purity (R92). -/

namespace Sys2Proof.Machine

/-! ## Locations -/

/-- The bytes of a local store of a core: 0 W, 1 A, 2 S. -/
def Core.store (q : Core) (st : Nat) : Bytes := match st with | 0 => q.w | 1 => q.a | _ => q.s
/-- A core with a local store replaced. -/
def Core.setStore (q : Core) (st : Nat) (m : Bytes) : Core :=
  match st with | 0 => { q with w := m } | 1 => { q with a := m } | _ => { q with s := m }

/-- The address of a target within its space. -/
def WriteTarget.addr : WriteTarget → Nat
  | .hbm pa _ => pa | .store _ _ off => off | .host _ iova => iova | .peer _ va => va
/-- The target `n` bytes further on. -/
def WriteTarget.plus (t : WriteTarget) (n : Nat) : WriteTarget :=
  match t with
  | .hbm pa g => .hbm (pa + n) g | .store c st off => .store c st (off + n)
  | .host f iova => .host f (iova + n) | .peer p va => .peer p (va + n)
/-- Two targets lie in one space. -/
def WriteTarget.sameSpace : WriteTarget → WriteTarget → Bool
  | .hbm _ _, .hbm _ _ => true
  | .store c st _, .store d su _ => c == d && st == su
  | .host f _, .host g _ => f == g
  | .peer p _, .peer q _ => p == q
  | _, _ => false
/-- [t, t + n) and [u, u + m) meet. -/
def overlaps (t : WriteTarget) (n : Nat) (u : WriteTarget) (m : Nat) : Bool :=
  t.sameSpace u && decide (t.addr < u.addr + m) && decide (u.addr < t.addr + n)

/-- Poisoned units of `n` bytes at a target (R215); bytes of a package that no port leads to are poisoned (R27). -/
def State.poisonAt (s : State) (t : WriteTarget) (n : Nat) : List ErrorUnit :=
  match t with
  | .peer p va =>
    ((upTo n).find? fun i => !(s.podReachable p) || Config.peerPoisoned p (va + i) s.free).toList.map fun i => .peer p (va + i)
  | t =>
  if s.poison.isEmpty then []
  else match t with
  | .hbm pa _ => (s.hbmPoison pa n).map .hbm
  | .store c st off => s.poison.filter fun u =>
      match u with
      | .store c' st' w => c == c' && st == st' && decide (w * 8 < off + n) && decide (off < w * 8 + 8)
      | _ => false
  | _ => []

/-- The bytes at a target as performed so far; poisoned units read as zeros, and a peer answers with free values
(R216, log 10). -/
def State.readAt (s : State) (t : WriteTarget) (n : Nat) : List Byte :=
  match t with
  | .hbm pa gen => s.hbmRead gen pa n
  | .store c st off =>
    let bad := s.poisonAt t n
    let bs := bytesAt ((s.core c).store st) off n
    if bad.isEmpty then bs
    else (upTo n).map fun i => if bad.contains (.store c st ((off + i) / 8)) then 0 else bs.getD i 0
  | .host f iova => s.hostRead f iova n
  | .peer p va => (upTo n).map fun i => if s.podReachable p then Config.peerByte p (va + i) s.free else 0

/-- A write performed at its home port (R165, R167); one to a peer leaves the package and awaits its
answer (R176), or is lost where no port leads there (R27). -/
def State.writeAt (s : State) (t : WriteTarget) (bs : List Byte) : State :=
  match t with
  | .hbm pa gen => s.hbmWrite gen pa bs
  | .store c st off =>
    let q := s.core c
    let s := s.setCore c (q.setStore st (putBytes (q.store st) off bs))
    if s.poison.isEmpty then s
    else { s with poison := s.poison.filter fun u =>
        match u with
        | .store c' st' w =>
          !(c == c' && st == st' && decide (off ≤ w * 8) && decide (w * 8 + 8 ≤ off + bs.length))
        | _ => true }
  | .host f iova => s.hostWrite f iova bs
  | .peer p va =>
    if s.podReachable p then s.request p true (va :: bs.map BitVec.toNat) else s.reportPoison 0 bs.length 4 0

/-! ## Read-modify-writes (R178, R299) -/

/-- The new bits of a location of type `ty` (R299): integer ADD wraps; a floating ADD rounds with RNE and sets no status. -/
def rmwResult (op : RmwOp) (ty : Ty) (old operand : Nat) : Nat :=
  let w := tyBits ty
  let x := old % 2 ^ w
  let y := operand % 2 ^ w
  let less := fun (a b : Nat) => match intFmt? ty with
    | some (w, sg) => decide (intValue w sg a < intValue w sg b)
    | none => false
  match op with
  | .swap => y
  | .add =>
    match floatFmt? ty with
    | some f => (f.convert .rne false (addNum .rne (f.value x) (f.value y)).1).1
    | none => (x + y) % 2 ^ w
  | .and => x &&& y
  | .or => x ||| y
  | .xor => x ^^^ y
  | .min => if less y x then y else x
  | .max => if less x y then y else x

/-- Bytes a pending write covers. -/
def PendingWrite.size (w : PendingWrite) : Nat := match w.data with | .bytes bs => bs.length | .red _ _ n _ => n

/-- The poison reports of units met under the ZERO policy (R216): source 1 strand, 2 record. -/
def State.reportUnits (s : State) (us : List ErrorUnit) (src : Nat) (reader : Word) : State :=
  us.foldl (fun s u => s.reportPoison (unitLocation u) (unitBytes u) src reader) s

/-- A pending write is performed (R167, R179); a RED meeting poison takes the old value as zero (R216, R300). -/
def State.performOne (s : State) (reader : Word) (w : PendingWrite) : State :=
  match w.data with
  | .bytes bs => s.writeAt w.target bs
  | .red op ty n operand =>
    let s := s.reportUnits (s.poisonAt w.target n) 1 reader
    s.writeAt w.target (leBytes n (rmwResult op ty (leNat (s.readAt w.target n)) operand.toNat))

/-- TASKID of a core's task, or zero. -/
def State.taskIdOf (s : State) (c : Nat) : Word := match s.taskOf c with | some t => t.id | none => 0

/-- Perform the write of core `c` at place `i` of its list. -/
def State.performNth (s : State) (c i : Nat) : State :=
  match (s.core c).writes[i]? with
  | none => s
  | some w => (s.setCore c { s.core c with writes := (s.core c).writes.eraseIdx i }).performOne (s.taskIdOf c) w

/-- The first `n` pending writes of core `c` are performed, in order. -/
def State.drainFrom (s : State) (c : Nat) : Nat → State
  | 0 => s
  | n + 1 => (s.performNth c 0).drainFrom c n

/-- How many pending writes of a core there are up to the last that meets a range. -/
def Core.writesUpTo (q : Core) (t : WriteTarget) (n : Nat) : Nat :=
  q.writes.length - q.writes.reverse.findIdx fun w => overlaps t n w.target w.size

/-- Every pending write of core `c` that meets a range is performed, after the writes before it, so that writes of one location keep
their order (R168). -/
def State.settleRange (s : State) (c : Nat) (t : WriteTarget) (n : Nat) : State := s.drainFrom c ((s.core c).writesUpTo t n)

/-- Every pending write of core `c` is performed, in order. -/
def State.drainCore (s : State) (c : Nat) : State := s.drainFrom c (s.core c).writes.length

/-- The state as the agents of core `c` see it: their own writes before they are performed (R167; log 8). -/
def State.seenBy (s : State) (c : Nat) : State := if (s.core c).writes.isEmpty then s else s.drainCore c

/-- A release at a scope by an agent of core `c` (R170): within the core its writes are visible already. -/
def State.releaseAt (s : State) (c : Nat) : Scope → State
  | .core => s
  | .st => s
  | _ => s.drainCore c

/-- P-space writes still unacknowledged (R176). -/
def State.awaitingAcks (s : State) : Bool := s.pOut.any fun p => p.2.2

/-- BOUNDS of bytes of a store from `off` on: the first beyond its `size`, as a coordinate of the store taken as bytes (R210; log 52). -/
def beyondStore (off size : Nat) : Exc := Exc.of codeBOUNDS 0 (boundsArg 0 (Nat.max off size))

/-! ## Bytes and elements through a handle -/

/-- The slot of a core, if it is bound. -/
def Core.handle (q : Core) (h : Nat) : Option Handle := mapFind q.handles h

/-- Coordinates of the handle's window made absolute (R131). -/
def Handle.abs (h : Handle) (x : List Nat) : List Nat := (upTo 6).map fun i => x.getD i 0 + h.lo.getD i 0

/-- The target of a byte offset from BASE (R127, R137); `gen` of a page is that of its key slot. -/
def State.locate (s : State) (h : Handle) (off : Nat) : WriteTarget :=
  let a := h.desc.base + off
  match h.desc.space with
  | 4 =>
    match findRun h.runs a with
    | some (pa, key, _) => .hbm pa (s.keySlot key).gen
    | none => .hbm a 0
  | 5 => .host h.func a
  | 6 => .peer h.desc.peer a
  | sp => .store h.target sp a

/-- Where an element is stored: forced zero, or its bytes, the bit within the first, its sign, and whether the tuple is
canonical (R141, R143). -/
inductive Place where
  | zero
  | at (offs : List Nat) (bit : Nat) (neg canonical : Bool)
  deriving DecidableEq, Repr

/-- The place of the element at window coordinates `x`. -/
def Handle.place (h : Handle) (x : List Nat) : Place :=
  match h.desc.rep (h.abs x) with
  | none => .zero
  | some (y, neg) =>
    let p := h.desc.bitPos y
    .at ((upTo ((p % 8 + tyBits h.desc.fmt + 7) / 8)).map (h.desc.byteOff y)) (p % 8) neg (y == h.abs x && !neg)

/-- Targets of an element's bytes. -/
def State.placeTargets (s : State) (h : Handle) : Place → List WriteTarget
  | .zero => []
  | .at offs _ _ _ => offs.map (s.locate h)

/-- Bits of the element at `x`, its sign applied; a forced zero reads as zero (R143). -/
def State.readElem (s : State) (h : Handle) (x : List Nat) : Nat :=
  match h.place x with
  | .zero => 0
  | .at offs bit neg _ =>
    let bs := offs.flatMap fun o => s.readAt (s.locate h o) 1
    let v := bitsAt (leNat bs) bit (tyBits h.desc.fmt)
    if neg then negBits h.desc.fmt v else v

/-- Poisoned units that the element at `x` meets. -/
def State.elemPoison (s : State) (h : Handle) (x : List Nat) : List ErrorUnit :=
  if s.poison.isEmpty && h.desc.space != 6 then [] else (s.placeTargets h (h.place x)).flatMap fun t => s.poisonAt t 1

/-! ## Writes of elements, gathered byte by byte -/

/-- Bytes to write: offset from BASE to a mask and the bits under it. -/
abbrev Gathered := Map (Nat × Nat)

/-- Put `n` bits of `v` at bit `bit` of the byte at `off`, the rest into the bytes after it in `offs`. -/
def gatherBits (m : Gathered) : List Nat → Nat → Nat → Nat → Gathered
  | [], _, _, _ => m
  | o :: os, bit, n, v =>
    let k := Nat.min n (8 - bit)
    let mask := (2 ^ k - 1) * 2 ^ bit
    let old := mapGet m o (0, 0)
    let val := (old.2 &&& (255 - mask)) + (v % 2 ^ k) * 2 ^ bit
    gatherBits (mapPut m o (old.1 ||| mask, val)) os 0 (n - k) (v / 2 ^ k)

/-- Whole bytes of a gathering, the unwritten bits of each taken from `s`. -/
def State.gatheredBytes (s : State) (h : Handle) (m : Gathered) : List (WriteTarget × Byte) :=
  m.map fun p =>
    let t := s.locate h p.1
    let old := if p.2.1 = 255 then 0 else (leNat (s.readAt t 1)) &&& (255 - p.2.1)
    (t, BitVec.ofNat 8 (old ||| p.2.2))

/-- Join neighbouring bytes that lie in one naturally aligned 32-byte granule (R166). -/
def joinBytes : List (WriteTarget × Byte) → List (WriteTarget × List Byte)
  | [] => []
  | (t, b) :: rest =>
    match joinBytes rest with
    | [] => [(t, [b])]
    | (u, bs) :: more =>
      if t.plus 1 = u ∧ u.addr % 32 ≠ 0 then (t, b :: bs) :: more else (t, [b]) :: (u, bs) :: more

/-- Writes of a strand become pending (R167). -/
def State.pend (s : State) (c k : Nat) (ws : List (WriteTarget × List Byte)) : State :=
  s.setCore c { s.core c with writes := (s.core c).writes ++ ws.map fun w => ⟨k, w.1, .bytes w.2⟩ }

/-- Writes of an engine are performed at once, after the core's own earlier writes there (log 8). -/
def State.engineWrite (s : State) (c : Nat) (ws : List (WriteTarget × List Byte)) : State :=
  ws.foldl (fun s w => (s.settleRange c w.1 w.2.length).writeAt w.1 w.2) s

/-- Two element values match under CHECK: bit for bit, but any NaN matches any NaN and zeros of either sign match (R144). -/
def sameValue (ty : Ty) (a b : Nat) : Bool :=
  let f? := match floatFmt? ty, mxElem? ty with
    | some f, _ => some f
    | none, some e => floatFmt? e
    | none, none => none
  let w := tyBits ty
  a == b ||
  (match f? with
   | some f => (f.value a == .nan && f.value b == .nan) || ((f.value a).isZero && (f.value b).isZero)
   | none => (dxWidth? ty).isSome && a % 2 ^ (w - 2) == 0 && b % 2 ^ (w - 2) == 0)

/-- What a store of elements through a handle does (R144): the bytes gathered and whether CHECK met a mismatch.  `xs` are
window coordinates with their bits, in the operation's order; `s` is the memory as its agent sees it; `value` is what the same
operation delivers for a canonical tuple, if anything. -/
def State.storeWith (s : State) (h : Handle) (xs : List (List Nat × Nat)) (value : List Nat → Option Nat) :
    Gathered × Bool :=
  let w := tyBits h.desc.fmt
  let put := fun (m : Gathered) (x : List Nat × Nat) =>
    match h.place x.1 with
    | .at offs bit _ true => gatherBits m offs bit w x.2
    | _ => m
  let m := xs.foldl put []
  if h.desc.sym.isEmpty || h.desc.policy ≠ 2 then (m, false)
  else
    let broken := xs.any fun x =>
      match h.desc.rep (h.abs x.1) with
      | none => !(sameValue h.desc.fmt x.2 0)
      | some (y, neg) =>
        if y == h.abs x.1 && !neg then false
        else
          let base := match value y with
            | some z => z
            | none => s.readElem { h with lo := [] } y
          !(sameValue h.desc.fmt x.2 (if neg then negBits h.desc.fmt base else base))
    (m, broken)

/-- The last value delivered for a canonical tuple among elements. -/
def deliveredIn (h : Handle) (xs : List (List Nat × Nat)) (y : List Nat) : Option Nat :=
  ((xs.filter fun x => h.abs x.1 == y).getLast?).map fun x => x.2

/-- A store of elements that are all its operation delivers. -/
def State.storeElems (s : State) (h : Handle) (xs : List (List Nat × Nat)) : Gathered × Bool :=
  s.storeWith h xs (deliveredIn h xs)

/-! ## Scales (R130) -/

/-- Why the scale link of a block handle fails, or the scale handle; of too few scales BOUNDS names the first that lacks (R130, R210; log
52). -/
def Core.scaleHandle (q : Core) (h : Handle) : Except Exc Handle :=
  match q.handle h.desc.slink with
  | none => .error (Exc.atSlot h.desc.slink codeHFAULT)
  | some x =>
    let need := scalesPerBlock h.desc.fmt * ceilDiv (h.ext.getD 0 1) 32
    if x.desc.fmt ≠ .e8m0 ∨ x.desc.rank ≠ h.desc.rank ∨
       (upTo 6).any (fun i => i != 0 && x.ext.getD i 1 != h.ext.getD i 1) then
      .error (Exc.atSlot h.desc.slink codeHFAULT)
    else if x.ext.getD 0 1 < need then
      .error (Exc.atSlot h.desc.slink codeBOUNDS 0 (boundsArg 0 (x.ext.getD 0 1)))
    else .ok x

/-- Scale coordinates of the block of an element. -/
def scaleCoords (ty : Ty) (x : List Nat) : List (List Nat) :=
  let n := scalesPerBlock ty
  (upTo n).map fun j => x.set 0 (x.getD 0 0 / 32 * n + j)

/-- The scale bytes of the block of the element at `x`; none for other formats. -/
def State.scalesFor (s : State) (q : Core) (h : Handle) (x : List Nat) : List Nat :=
  if isBlockTy h.desc.fmt then
    match q.scaleHandle h with
    | .ok sh => (scaleCoords h.desc.fmt x).map (s.readElem sh)
    | .error _ => []
  else []

/-! ## Ring holdings (R118 to R120) -/

/-- An agent that touches ring slots. -/
inductive Agent where
  | strand (c k : Nat)
  | record (c e n : Nat)
  deriving DecidableEq, Repr

/-- Byte offset of slot 0, store (2 S, 1 A), log2 N and slot size of a ring (R304). -/
def Ring.base (r : Ring) : Nat := bvField r.place 0 22
def Ring.inStore (r : Ring) : Nat := if bvBit r.place 32 then 1 else 2
def Ring.log2N (r : Ring) : Nat := bvField r.shape 0 4
def Ring.size (r : Ring) : Nat := if bvField r.shape 16 10 = 0 then 65536 else bvField r.shape 16 10 * 64
def Ring.count (r : Ring) : Nat := 2 ^ r.log2N

/-- A free slot. -/
def RingSlot.idle : RingSlot := { state := .free, holder := none, next := none }
/-- Slot `i` of a ring. -/
def Ring.slot (r : Ring) (i : Nat) : RingSlot := r.slots.getD i RingSlot.idle

/-- The agent holds a slot of a ring of core `c`. -/
def RingSlot.heldBy (x : RingSlot) (c : Nat) (a : Agent) : Bool :=
  match x.holder, a with
  | some (.strand k), .strand c' k' => c == c' && k == k'
  | some (.record cr e n), .record c' e' n' => cr == c' && e == e' && n == n'
  | _, _ => false

/-- The first ring slot of a core's store that a byte lies in: ring and slot. -/
def Core.ringAt (q : Core) (st off : Nat) : Option (Nat × Ring × Nat) :=
  (q.rings.find? fun p => p.2.inStore == st && decide (p.2.base ≤ off) && decide (off < p.2.base + p.2.count * p.2.size)).map
    fun p => (p.1, p.2, (off - p.2.base) / p.2.size)

/-- The ring slot a byte lies in, when the agent may not touch it: ring and slot (R120). -/
def State.ringRace (s : State) (a : Agent) : WriteTarget → Option (Nat × Nat)
  | .store c st off =>
    match (s.core c).ringAt st off with
    | none => none
    | some (x, r, i) => if (r.slot i).heldBy c a then none else some (x, i)
  | _ => none

/-- TRAPARG of RACE (R210). -/
def raceArg (ring slot : Nat) : Word := BitVec.ofNat 64 (ring % 32 + 256 * (slot % 256))

/-! ## Seals (R134) -/

/-- The list bytes of a dispatched CHAIN of core `c` (R366): offset in S and length, kept with the record. -/
def Rec.chainBytes (r : Rec) : Option (Nat × Nat) :=
  match r.op with | .chain => some (bitsAt r.body.toNat 0 32, 64 * mapGet r.aux 0 0) | _ => none

/-- Some of the `n` bytes at `off` of the S store of core `c` belong to the list of an incomplete CHAIN. -/
def State.chainSealed (s : State) (c off n : Nat) : Bool :=
  (s.core c).engines.any fun e => e.2.queue.any fun r =>
    match r.chainBytes with | some (b, m) => decide (b < off + n) && decide (off < b + m) | none => false

/-- The bytes that a handle covers meet the `n` at `a` of its space. -/
def Handle.covers (x : Handle) (a n : Nat) : Bool :=
  let f := x.desc.footprint x.lo x.ext
  decide (x.desc.base + f.1 < a + n) && decide (a < x.desc.base + f.1 + f.2)

/-- Some of the `n` bytes at `off` of store `st` of core `target` lie in a sealed region: no core of its die may write them. -/
def State.storeSealed (s : State) (target st off n : Nat) : Bool :=
  (st == 2 && s.chainSealed target off n) ||
  s.coreTab.any fun p => dieOf p.1 == dieOf target && p.2.handles.any fun x =>
    x.2.sealed && x.2.desc.space == st && x.2.target == target && x.2.covers off n

/-- Whether the byte at offset `off` of a handle's space lies in a sealed region that a write by core `c` must not touch. -/
def State.sealedAt (s : State) (c : Nat) (h : Handle) (off : Nat) : Bool :=
  let a := h.desc.base + off
  if h.desc.space < 3 then s.storeSealed h.target h.desc.space a 1
  else if h.desc.space = 4 then
    s.coreTab.any fun p => p.2.task.isSome && p.2.task == (s.core c).task && p.2.handles.any fun x =>
      x.2.sealed && x.2.desc.space == 4 && x.2.covers a 1
  else false

/-- The slots of a ring of core `c` lie in a sealed region, all of them or slot `i` (R134). -/
def State.ringSealed (s : State) (c : Nat) (r : Ring) : Bool := s.storeSealed c r.inStore r.base (r.count * r.size)
def State.slotSealed (s : State) (c : Nat) (r : Ring) (i : Nat) : Bool := s.storeSealed c r.inStore (r.base + i * r.size) r.size

/-! ## Purity (R92) -/

/-- Every tuple of a box, dimension 0 fastest. -/
def tuplesOf : List Nat → List (List Nat)
  | [] => [[]]
  | e :: es => (tuplesOf es).flatMap fun t => (upTo e).map fun i => i :: t

/-- Byte intervals [first, end) that the elements of a window's box occupy (R92): its rows, or its stored representatives. -/
def windowBytes (d : Desc) (w : Window) : List (Nat × Nat) :=
  let interval := fun (b n : Nat) => (d.base + b / 8, d.base + (b + n + 7) / 8)
  if d.codec ≠ 0 then [(d.base, d.base + d.clen)]
  else if d.sym.isEmpty then
    (tuplesOf (1 :: w.ext.drop 1)).map fun t =>
      let x := (upTo 6).map fun i => t.getD i 0 + w.lo.getD i 0
      interval (d.bitPos x) (w.ext.getD 0 1 * tyBits d.fmt)
  else
    (tuplesOf w.ext).filterMap fun t =>
      let x := (upTo 6).map fun i => t.getD i 0 + w.lo.getD i 0
      if d.canonical x then some (interval (d.bitPos x) (tyBits d.fmt)) else none

/-- A byte of G lies inside a window of a task of one of the modes. -/
def Task.inWindow (t : Task) (modes : List Nat) (va : Nat) : Bool :=
  t.windows.any fun w => modes.contains w.mode &&
    (match w.form with
     | some d => (windowBytes d w).any fun b => decide (b.1 ≤ va) && decide (va < b.2)
     | none => false)

/-- A read of a byte through a handle in G; of a compressed tensor the stored bytes are read (R92, R148). -/
def Task.mayRead (t : Task) (h : Handle) (off : Nat) : Bool :=
  let d := h.desc
  h.isArgs ||
  (if d.codec ≠ 0 then t.inWindow [1, 2] d.base && t.inWindow [1, 2] (d.base + d.clen - 1) else t.inWindow [1, 2] (d.base + off))

/-- An access to a byte through a handle breaks the purity rules of the core's task (R92). -/
def State.impure (s : State) (c : Nat) (h : Handle) (off : Nat) (write : Bool) : Bool :=
  match s.taskOf c with
  | none => false
  | some t =>
    t.pure &&
    (match h.desc.space with
     | 4 =>
       if write then !(t.inWindow [2] (h.desc.base + off))
       else !(t.mayRead h off)
     | 5 => true
     | 6 => true
     | _ => !(t.cores.contains h.target))

end Sys2Proof.Machine
end

