-- ==== Sys2Proof/Machine/Fetch.lean ====
section
/-! DEFINITION. The fetch of instructions (R92, R100, R207, R216, R235, R250). -/

namespace Sys2Proof.Machine

/-- A fault of fetch. -/
def fetchExc (code sub : Nat) (arg : Word) : Exc :=
  { code := code, sub := sub, src := 3, eng := 0xF, slot := 0xFF, arg := arg, kindC := false, walk := false }

/-- `n` bytes of code lie in the code window of a PURE task (R80, R92). -/
def Task.inCode (t : Task) (pc n : Nat) : Bool :=
  !t.pure ||
  (match t.windows with
   | [] => false
   | w :: _ =>
     match w.form with
     | some d => decide ((d.boxBytes w).1 ≤ pc) && decide (pc + n ≤ (d.boxBytes w).2)
     | none => false)

/-- Bytes of an instruction at `pc`, `n` of them, or the fault of their fetch. -/
def State.codeBytes (s : State) (t : Task) (pc n : Nat) : Except Exc (List Byte) :=
  if !(t.inCode pc n) then .error (fetchExc codePURITY 0 0)
  else match s.pageFor t.tenant pc n (.tenant t.tenant) true false with
    | .error e => .error (fetchExc e.code e.sub (if e.code = codeMCHECK then e.arg else BitVec.ofNat 64 pc))
    | .ok (pa, _, key) =>
      match s.hbmPoison pa n with
      | u :: _ => .error (fetchExc codeMCHECK 1 (BitVec.ofNat 64 (u * 32)))
      | [] => .ok (s.hbmRead (s.keySlot key).gen pa n)

/-- The engine that the first word of an N record names, 0xF where it names none (R242). -/
def targetEngine (w : Nat) : Nat :=
  let q := bitsAt w 24 3
  match bitsAt w 8 4 with
  | 0 => 0
  | 1 => if q ≤ 1 then 1 + q else 0xF
  | 2 => 3
  | 3 => 4
  | 15 => if q ≤ 4 then q else 0xF
  | _ => 0xF

/-- ILLOP of a pattern whose first word is `w`; the header of an N record is part of its check at dispatch (R250, R340; log 47). -/
def encodingExc (w sub : Nat) : Exc :=
  if w % 4 = 3 then { Exc.illop sub with src := 1, eng := targetEngine w } else Exc.illop sub

/-- The instruction at `pc`: its first word gives its length; what crosses its line is found by the decoder (R235, R250). -/
def State.fetch (s : State) (t : Task) (pc : Nat) : Except Exc Instr :=
  match s.codeBytes t pc 4 with
  | .error e => .error e
  | .ok w =>
    let len := lengthOf (leNat w)
    match s.codeBytes t pc (Nat.min len (64 - pc % 64)) with
    | .error e => .error e
    | .ok bs =>
      match decode (pc % 64) bs with
      | .error sub => .error (encodingExc (leNat w) sub)
      | .ok i => .ok i

/-- The instruction that strand `k` issues next, where its fetch does not fault. -/
def State.nextOf (s : State) (c k : Nat) : Option Instr :=
  match s.taskOf c with
  | none => none
  | some t => match s.fetch t ((s.core c).strand k).pc with | .ok i => some i | .error _ => none

end Sys2Proof.Machine
end

