-- ==== Sys2Proof/Machine/Streams.lean ====
section
/-! DEFINITION. Vector registers as operands (R115, R316), the claims and releases of rings (R118 to R121, R305) and stream
registers (R116, R322). -/

namespace Sys2Proof.Machine

/-! ## Writes of the vector file -/

/-- The low `bits` bits of v[d] of core `c`; words written whole lose their poison (R215, R321). -/
def State.putVec (s : State) (c d bits v : Nat) : State :=
  let q := s.core c
  let s := s.setCore c { q with v := mapPut q.v d (bvSetField (q.vec d) 0 bits v) }
  if s.poison.isEmpty then s
  else { s with poison := s.poison.filter fun u =>
      match u with | .vreg c' d' w => !(c == c' && d == d' && decide (w * 64 + 64 ≤ bits)) | _ => true }

/-- The low `n` bytes of the sidecar of v[d] of core `c`. -/
def State.putSide (s : State) (c d n v : Nat) : State :=
  let q := s.core c
  let s := s.setCore c { q with side := mapPut q.side d (bvSetField (q.sidecar d) 0 (8 * n) v) }
  if s.poison.isEmpty then s
  else { s with poison := s.poison.filter fun u =>
      match u with
      | .vreg c' d' w => !(c == c' && d == d' && decide (256 ≤ w) && decide ((w - 256) * 8 + 8 ≤ n))
      | _ => true }

/-- A vector register of the executing core written whole, with its sidecar. -/
def State.putWhole (s : State) (d : Nat) (v : BitVec 16384) (x : BitVec 2048) : State :=
  (s.putVec s.cur.1 d 16384 v.toNat).putSide s.cur.1 d 256 x.toNat

/-- The machine check of reading a register whole, with its sidecar (R216). -/
def State.wholeCheck (s : State) (a : Nat) : Option Exc :=
  if s.vregPoisoned s.cur.1 a 288 then some (Exc.of codeMCHECK 3 (BitVec.ofNat 64 (2 ^ 63 + a))) else none

/-! ## Rings -/

/-- Every strand of a core gets its event latch set (R285). -/
def Core.wake (q : Core) : Core := { q with strands := q.strands.map fun t => { t with latch := true } }

/-- RACE on a ring slot (R210). -/
def raceExc (ring slot : Nat) : Exc := Exc.of codeRACE 0 (raceArg ring slot)

/-- The state a claim needs: FREE to fill, FULL to consume (R119). -/
def neededState (fill : Bool) : SlotState := if fill then .free else .full

/-- The `n` slots in turn for a claim. -/
def Ring.turn (r : Ring) (fill : Bool) (n : Nat) : List Nat :=
  (upTo n).map fun i => ((if fill then r.fh else r.ch).toNat + i) % r.count

/-- A claim of `n` slots in ring order, when each stands in the needed state (R119, R243): the ring and the slots. -/
def Ring.claim (r : Ring) (fill : Bool) (n : Nat) (h : Holder) : Option (Ring × List Nat) :=
  let idx := r.turn fill n
  if decide (n ≤ r.count) && idx.all (fun i => (r.slot i).state == neededState fill) then
    let st := if fill then SlotState.filling else .draining
    some ({ r with slots := idx.foldl (fun l i => l.set i ⟨st, some h, none⟩) r.slots
                   fh := if fill then r.fh + BitVec.ofNat 32 n else r.fh
                   ch := if fill then r.ch else r.ch + BitVec.ofNat 32 n }, idx)
  else none

/-- A held slot released: FULL or FREE at the end of the clock (R305). -/
def Ring.release (r : Ring) (fill : Bool) (i : Nat) : Ring :=
  { r with slots := r.slots.set i { r.slot i with next := some (if fill then .full else .free) } }

/-- The releases of a clock take effect (R305). -/
def Ring.settle (r : Ring) : Ring :=
  { r with slots := r.slots.map fun x => match x.next with | some st => ⟨st, none, none⟩ | none => x }

/-- The bytes of a ring slot as a target. -/
def Ring.target (r : Ring) (c i : Nat) : WriteTarget := .store c r.inStore (r.base + i * r.size)

/-- A core with a ring replaced. -/
def Core.setRing (q : Core) (x : Nat) (r : Ring) : Core := { q with rings := mapPut q.rings x r }

/-! ## Stream registers (R116, R322) -/

/-- The ring a vector register is bound to, and whether it is bound OUT. -/
def Core.streamOf (q : Core) (v : Nat) : Option (Nat × Ring × Bool) :=
  q.rings.findSome? fun p => match p.2.bound with
    | some (u, out) => if u = v then some (p.1, p.2, out) else none
    | none => none

/-- The ring of the first register bound in the direction that its use refuses. -/
def Core.streamClash (q : Core) (srcs dsts : List Nat) : Option Nat :=
  let wrong := fun (out : Bool) v => match q.streamOf v with | some (x, _, o) => if o = out then some x else none | none => none
  match srcs.findSome? (wrong true) with
  | some x => some x
  | none => dsts.findSome? (wrong false)

/-- The first stream whose ring has no slot in turn: its hold. -/
def Core.streamHold (q : Core) (vs : List Nat) : Option Hold :=
  vs.findSome? fun v => match q.streamOf v with
    | some (x, r, out) =>
      if (r.claim out 1 (.stream v)).isNone then some (if out then Hold.ringFree x else Hold.ringFull x) else none
    | none => none

/-- One claim, copy and return of an IN stream: the register then shows the slot's bytes and a zero sidecar. -/
def State.streamIn (s : State) (v : Nat) : State :=
  let c := s.cur.1
  match s.here.streamOf v with
  | none => s
  | some (x, r, _) =>
    match r.claim false 1 (.stream v) with
    | none => s
    | some (r1, idx) =>
      let i := idx.getD 0 0
      let t := r.target c i
      let s := s.drainCore c
      let bs := s.readAt t 2048
      let s := s.reportUnits (s.poisonAt t 2048) 1 (s.taskIdOf c)
      let q := s.here
      s.setHere ({ q.setRing x (r1.release false i) with
        v := mapPut q.v v (BitVec.ofNat 16384 (leNat bs)), side := mapPut q.side v 0 }).wake

/-- The OUT streams among registers write a sealed slot in turn (R134). -/
def State.streamSealed (s : State) (vs : List Nat) : Bool :=
  vs.any fun v => match s.here.streamOf v with
    | some (_, r, true) => (r.turn true 1).any (s.slotSealed s.cur.1 r)
    | _ => false

/-- One claim and publish of an OUT stream: the value goes to the slot. -/
def State.streamOut (s : State) (v : Nat) : State :=
  let c := s.cur.1
  match s.here.streamOf v with
  | none => s
  | some (x, r, _) =>
    match r.claim true 1 (.stream v) with
    | none => s
    | some (r1, idx) =>
      let i := idx.getD 0 0
      let s := (s.drainCore c).engineWrite c [(r.target c i, leBytes 2048 (s.here.vec v).toNat)]
      s.setHere ((s.here.setRing x (r1.release true i)).wake)

/-- Bound registers' own bytes are untouched while they are bound (R309). -/
def State.restoreVecs (s : State) (from_ : Core) (vs : List Nat) : State :=
  vs.foldl (fun s v => s.setHere { s.here with v := mapPut s.here.v v (from_.vec v), side := mapPut s.here.side v (from_.sidecar v) }) s

/-- Run the body of an instruction that reads `srcs` and writes `dsts` of the vector file (R116, R322).  Its own faults come
first by priority; then SEALED, then RACE for a register bound the other way; an empty IN or a full OUT ring holds the strand. -/
def withStreams (srcs dsts : List Nat) (s : State) (body : State → Eff) : Eff :=
  let q := s.here
  if q.rings.all fun p => p.2.bound.isNone then body s
  else match q.streamClash srcs dsts with
  | some x =>
    (match body s with
     | .trap t e => if e.priority ≤ 14 then .trap t e else .trap s (raceExc x 0)
     | _ => .trap s (raceExc x 0))
  | none =>
    let ins := srcs.eraseDups.filter fun v => (q.streamOf v).isSome
    let outs := dsts.eraseDups.filter fun v => (q.streamOf v).isSome
    match q.streamHold (ins ++ outs) with
    | some h => (match body s with | .trap t e => .trap t e | .hold t g => .hold t g | _ => .hold s h)
    | none =>
      if s.streamSealed outs then
        (match body s with
         | .trap t e => if e.priority ≤ 9 then .trap t e else .trap s (Exc.of codeSEALED)
         | _ => .trap s (Exc.of codeSEALED))
      else match body (ins.foldl State.streamIn s) with
      | .done t => .done ((outs.foldl State.streamOut t).restoreVecs q (ins ++ outs))
      | .jump t pc => .jump ((outs.foldl State.streamOut t).restoreVecs q (ins ++ outs)) pc
      | .hold _ h => (match body s with | .hold t g => .hold t g | _ => .hold s h)
      | .trap _ e => .trap s e

end Sys2Proof.Machine
end

