-- ==== Sys2Proof/Machine/LoadStore.lean ====
section
/-! DEFINITION. Loads, stores, asynchronous loads, atomics, reductions and fences (13 R287 to R301). -/

namespace Sys2Proof.Machine

/-! ## The checks of a memory operand (R289, R206) -/

/-- The exception of lowest priority number; of equal ones, the first. -/
def pickExc : List Exc → Option Exc
  | [] => none
  | e :: es => match pickExc es with
    | none => some e
    | some x => if e.priority ≤ x.priority then some e else some x

/-- An exception under a condition. -/
def excIf (c : Bool) (e : Exc) : List Exc := if c then [e] else []

/-- The machine check of a unit (R210), concerning a slot. -/
def machineCheck (slot : Nat) (u : ErrorUnit) : Exc :=
  Exc.atSlot slot codeMCHECK (unitSub u) (BitVec.ofNat 64 (unitLocation u))

/-- What one element of an access meets once its coordinates are inside the extents: purity, a seal, a ring slot, and for a
strand a STRICT refusal and poison under the TRAP policy, which for P space comes with the response.  A record reaches a ring's slots through the attached handle, in the
slots it claims (R133). -/
def State.elemFaults (s : State) (a : Agent) (c slot : Nat) (h : Handle) (wr rd : Bool) (x : List Nat) : List Exc :=
  let byStrand := match a with | .strand _ _ => true | .record _ _ _ => false
  let strict := byStrand && wr && !h.desc.sym.isEmpty && h.desc.policy == 0
  match h.place x with
  | .zero => excIf strict (Exc.atSlot slot codeSYMGROUP)
  | .at offs _ _ canon =>
    let stores := wr && canon
    let ts := offs.map (s.locate h)
    excIf ((!wr || canon) && offs.any fun o => s.impure c h o wr) (Exc.atSlot slot codePURITY) ++
    excIf (stores && offs.any (s.sealedAt c h)) (Exc.atSlot slot codeSEALED) ++
    excIf (strict && !canon) (Exc.atSlot slot codeSYMGROUP) ++
    (if !byStrand && h.desc.ring.isSome then []
     else match ts.findSome? (s.ringRace a) with
     | some (ring, i) => [Exc.atSlot slot codeRACE 0 (raceArg ring i)]
     | none => []) ++
    (if byStrand && rd && h.desc.trap && h.desc.space != 6 then
      (match (ts.flatMap fun t => s.poisonAt t 1) with | u :: _ => [machineCheck slot u] | [] => [])
     else [])

/-- Every fault of an access to elements through a bound slot, whatever its type (R109, R111, R131, R134, R145, R147, R289). -/
def State.accessFaults (s : State) (a : Agent) (c slot : Nat) (h : Handle) (wr rd : Bool) (spaces : List Nat)
    (xs : List (List Nat)) : List Exc :=
  excIf (wr && h.isArgs) (Exc.atSlot slot codePERM 6) ++
  excIf (!(spaces.contains h.desc.space)) (Exc.atSlot slot codePERM 1) ++
  excIf ((wr && !h.desc.wr) || (rd && !h.desc.rd)) (Exc.atSlot slot codePERM 2) ++
  excIf (h.desc.codec != 0) (Exc.atSlot slot codeCOMPRESSED) ++
  excIf (wr && h.sealed) (Exc.atSlot slot codeSEALED) ++
  xs.flatMap fun x =>
    match outside h.ext x with
    | some (dim, v) => [Exc.atSlot slot codeBOUNDS 0 (boundsArg dim v)]
    | none => s.elemFaults a c slot h wr rd x

/-! ## Scalar accesses (R290) -/

/-- Bytes of a scalar type (R290). -/
def memBytes (ty : Ty) : Nat := tyBits ty / 8

/-- How a load fills a register (R290). -/
def fillReg (ty : Ty) (v : Nat) : Word :=
  match ty with
  | .i32 => signExtend64 32 v
  | .int16 => signExtend64 16 v
  | .int8 => signExtend64 8 v
  | _ => BitVec.ofNat 64 (v % 2 ^ tyBits ty)

/-- A byte handle (R290). -/
def isByteHandle (h : Handle) : Bool := h.desc.fmt == .uint8 || h.desc.fmt == .int8

/-- The TYPE suits the handle's format (R290); an RMW takes no symmetry group (R300). -/
def typeFits (h : Handle) (ty : Ty) : Bool :=
  let w := tyBits h.desc.fmt
  if isByteHandle h then h.desc.sym.isEmpty || decide (tyBits ty = 8)
  else !(isBlockTy h.desc.fmt) && decide (8 ≤ w) && decide (w = tyBits ty)

/-- The elements a scalar access covers: TYPE's bytes of a byte handle, else one element. -/
def scalarElems (h : Handle) (ty : Ty) (x : List Nat) : List (List Nat) :=
  if isByteHandle h then (upTo (memBytes ty)).map fun i => x.set 0 (x.getD 0 0 + i) else [x]

/-- The address of an access through a byte handle, after the swizzle. -/
def Handle.address (h : Handle) (x : List Nat) : Nat :=
  match h.place x with
  | .at (o :: _) _ _ _ => h.desc.base + o
  | _ => h.desc.base

/-- All faults of a scalar access, `more` those of its instruction; where its last bytes leave the extent of dimension 0, BOUNDS
names its own coordinate there (R210, R290; log 41). -/
def State.scalarFaults (s : State) (c k slot : Nat) (h : Handle) (ty : Ty) (wr rd : Bool) (x : List Nat) (more : List Exc) :
    Option Exc :=
  let xs := scalarElems h ty x
  let inside := xs.filter fun y => (outside h.ext y).isNone
  let start := (outside h.ext x).isNone
  pickExc (more ++ excIf (!(typeFits h ty)) (Exc.atSlot slot codeILLOP 9) ++
    s.accessFaults (.strand c k) c slot h wr rd [2, 4, 5, 6] (if start then inside else [x]) ++
    excIf (start && decide (inside.length < xs.length)) (Exc.atSlot slot codeBOUNDS 0 (boundsArg 0 (x.getD 0 0))) ++
    excIf (isByteHandle h && (outside h.ext x).isNone && h.address x % memBytes ty != 0)
      (Exc.atSlot slot codeALIGN 0 (BitVec.ofNat 64 (h.address x))))

/-- The bits a scalar access reads. -/
def State.scalarRead (s : State) (h : Handle) (ty : Ty) (x : List Nat) : Nat :=
  if isByteHandle h then leNat ((scalarElems h ty x).map fun y => BitVec.ofNat 8 (s.readElem h y)) else s.readElem h x

/-- The element at `x` is read from another package; a forced zero makes no access (R291). -/
def Handle.crosses (h : Handle) (x : List Nat) : Bool := h.desc.space == 6 && h.place x != .zero

/-- The element at `x` is the negative of its stored representative (R143). -/
def Handle.negated (h : Handle) (x : List Nat) : Bool := match h.place x with | .at _ _ n _ => n | .zero => false

/-- A loaded representative as a register takes it: its sign applied in the handle's format, then filled out (R143, R290, R291). -/
def fillSigned (fmt ty : Ty) (neg : Bool) (v : Nat) : Word :=
  fillReg ty (if neg then negBits fmt (v % 2 ^ tyBits ty) else v)

/-- Poisoned units a scalar access meets. -/
def State.scalarPoison (s : State) (h : Handle) (ty : Ty) (x : List Nat) : List ErrorUnit :=
  ((scalarElems h ty x).flatMap (s.elemPoison h)).eraseDups

/-- The elements that a scalar store delivers, with their bits. -/
def scalarDelivers (h : Handle) (ty : Ty) (x : List Nat) (v : Nat) : List (List Nat × Nat) :=
  if isByteHandle h then (upTo (memBytes ty)).map fun i => (x.set 0 (x.getD 0 0 + i), bitsAt v (8 * i) 8)
  else [(x, v % 2 ^ tyBits ty)]

/-- Values of the coordinate registers, padded to six with zeros (R241, R289). -/
def State.coords (s : State) (xs : List Nat) : List Nat :=
  let v := xs.map fun r => (s.rS r).toNat
  v ++ List.replicate (6 - v.length) 0

/-! ## Order (R170 to R172, R176, R177) -/

/-- An access with .SC runs between two FENCE.SC (R171, R177): stages 0 and 2 are before and after the first, 4 after the
second. -/
def withOrder (o : Ord) (s : State) (act : State → Eff) : Eff :=
  match o with
  | .sc =>
    match s.me.scStage with
    | 0 => let t := s.drainCore s.cur.1; .hold (t.setMe { t.me with scStage := 1 }) (.fence t.here.clk)
    | 2 =>
      (match act s with
       | .done t => let t := t.drainCore t.cur.1; .hold (t.setMe { t.me with scStage := 3 }) (.fence t.here.clk)
       | e => e)
    | 4 => .done (s.setMe { s.me with scStage := 0 })
    | _ => .hold s (.fence s.here.clk)
  | _ => act s

/-- The scope at which an access releases, if it does: its own, or that of an earlier FENCE.REL (R171, R172). -/
def releaseScope (s : State) (o : Ord) (sc : Scope) : Option Scope :=
  let own := match o with | .rel => some sc | .ar => some sc | .sc => some Scope.pkg | _ => none
  match own, s.me.relNext with
  | none, r => r
  | some a, none => some a
  | some a, some b => if a.code ≤ b.code then some b else some a

/-- Run a write or RMW after the release it carries (R170, R172, R176). -/
def withRelease (o : Ord) (sc : Scope) (s : State) (act : State → Eff) : Eff :=
  match releaseScope s o sc with
  | none => act s
  | some r =>
    let t := s.releaseAt s.cur.1 r
    if r == .pod && t.awaitingAcks then .hold t .acks
    else act (if t.me.relNext.isNone then t else t.setMe { t.me with relNext := none })

/-! ## LD and ST (R295) -/

/-- The P-space part of a scalar read of `words` in `peer`: the request goes out, and the strand waits for its response (R101, log 10).
One whose package no port leads to is answered with poisoned data at once (R27). -/
def peerRead (h : Handle) (write : Bool) (words : List Nat) (s : State) (got : Word → Bool → State → Eff) : Eff :=
  match s.me.answer with
  | some (v, bad) => got v bad (s.setMe { s.me with answer := none })
  | none =>
    if s.podReachable h.desc.peer then .hold (s.request h.desc.peer write words) (.response s.pTag)
    else got 0 true s

/-- The poison of a peer's answer under the handle's policy (R50, R216). -/
def peerPoison (slot : Nat) (h : Handle) (x : List Nat) (s : State) (act : State → Eff) : Eff :=
  if h.desc.trap then .trap s (Exc.atSlot slot codeMCHECK 1 (BitVec.ofNat 64 (h.address x)))
  else act (s.reportPoison (h.address x) 0 1 (s.taskIdOf s.cur.1))

/-- LD (R290, R291, R295). -/
def loadScalar (ty : Ty) (o : Ord) (d slot : Nat) (xr : List Nat) (s : State) : Eff :=
  withOrder o s fun s =>
  match s.here.handle slot with
  | none => .trap s (Exc.atSlot slot codeHFAULT)
  | some h =>
    let x := s.coords xr
    let v := s.seenBy s.cur.1
    match v.scalarFaults s.cur.1 s.cur.2 slot h ty false true x [] with
    | some e => .trap s e
    | none =>
        if h.crosses x then
          peerRead h false [h.address x, memBytes ty] s fun w bad s =>
            if bad then peerPoison slot h x s fun s => .done (s.wS d 0)
            else .done (s.wS d (fillSigned h.desc.fmt ty (h.negated x) w.toNat))
        else
          let w := fillReg ty (v.scalarRead h ty x)
          .done ((s.reportUnits (v.scalarPoison h ty x) 1 (s.taskIdOf s.cur.1)).wS d w)

/-- ST (R144, R290, R295). -/
def storeScalar (ty : Ty) (o : Ord) (sc : Scope) (d slot : Nat) (xr : List Nat) (s : State) : Eff :=
  withOrder o s fun s =>
  match s.here.handle slot with
  | none => .trap s (Exc.atSlot slot codeHFAULT)
  | some h =>
    let x := s.coords xr
    match s.scalarFaults s.cur.1 s.cur.2 slot h ty true false x [] with
    | some e => .trap s e
    | none =>
      withRelease o sc s fun s =>
        let v := s.seenBy s.cur.1
        let r := v.storeElems h (scalarDelivers h ty x (s.rS d).toNat)
        .done ((s.pend s.cur.1 s.cur.2 (joinBytes (v.gatheredBytes h r.1))).setFlags (flagIf r.2 flagSYM))

/-! ## Vector tiles (R296, R315) -/

/-- The fields of VSHAPE (R315): element type code, rows and columns. -/
def shapeTy (v : BitVec 32) : Ty := tyOf (bvField v 0 5)
def shapeRows (v : BitVec 32) : Nat := bvField v 5 9
def shapeCols (v : BitVec 32) : Nat := bvField v 16 13

/-- Elements packed from the low bits up. -/
def packElems (w : Nat) : List Nat → Nat
  | [] => 0
  | v :: vs => v % 2 ^ w + 2 ^ w * packElems w vs

/-- The first `n` elements of a packed register. -/
def unpackElems (w n v : Nat) : List Nat := (upTo n).map fun i => bitsAt v (w * i) w

/-- Window coordinates of the tile's elements, row by row (R296). -/
def tileElems (rows cols : Nat) (x : List Nat) : List (List Nat) :=
  (upTo rows).flatMap fun r => (upTo cols).map fun c => (x.set 0 (x.getD 0 0 + c)).set 1 (x.getD 1 0 + r)

/-- The handle's format is that of VSHAPE: equal width from 8 bits up, else the same code (R296). -/
def tileFits (h : Handle) (ty : Ty) : Bool :=
  let plain := fun t => !(isBlockTy t) && decide (8 ≤ tyBits t)
  if plain h.desc.fmt && plain ty then tyBits h.desc.fmt == tyBits ty else h.desc.fmt == ty

/-- Scale coordinates of a tile's blocks in register order. -/
def tileScales (ty : Ty) (xs : List (List Nat)) : List (List Nat) :=
  (xs.filter fun x => x.getD 0 0 % 32 == 0).flatMap (scaleCoords ty)

/-- All faults of a tile access (R130, R296). -/
def State.tileFaults (s : State) (c k slot : Nat) (h : Handle) (ty : Ty) (rows cols : Nat) (wr : Bool) (x : List Nat) :
    Option Exc :=
  let xs := tileElems rows cols x
  let a := Agent.strand c k
  let scales :=
    if isBlockTy h.desc.fmt && h.desc.fmt == ty then
      match (s.core c).scaleHandle h with
      | .error e => [{ e with slot := slot }]
      | .ok sh =>
        if x.getD 0 0 % 32 = 0 then
          s.accessFaults a c h.desc.slink sh wr (!wr) [1, 2, 4, 5, 6] (tileScales ty (xs.filter fun y => (outside h.ext y).isNone))
        else []
    else []
  pickExc (
    excIf (!(tileFits h ty) || (isBlockTy ty && (x.getD 0 0 % 32 != 0 || cols % 32 != 0))) (Exc.atSlot slot codeILLOP 9) ++
    s.accessFaults a c slot h wr (!wr) [1, 2, 4, 5, 6] xs ++ scales)

/-- A tile as it is read: its element bits, its scale bytes, and the poisoned units met. -/
def State.readTile (s : State) (q : Core) (h : Handle) (ty : Ty) (rows cols : Nat) (x : List Nat) :
    List Nat × List Nat × List ErrorUnit :=
  let xs := tileElems rows cols x
  let sc := if isBlockTy ty then (match q.scaleHandle h with | .ok sh => some sh | .error _ => none) else none
  let sx := tileScales ty xs
  (xs.map (s.readElem h),
   (match sc with | some sh => sx.map (s.readElem sh) | none => []),
   (xs.flatMap (s.elemPoison h) ++ (match sc with | some sh => sx.flatMap (s.elemPoison sh) | none => [])).eraseDups)

/-- What a tile load writes: the low bits of the register and of the sidecar, which is zero for other formats. -/
def tileDst (d : Nat) (ty : Ty) (t : List Nat × List Nat × List ErrorUnit) : LoadDst :=
  .vector d (tyBits ty * t.1.length) (BitVec.ofNat 16384 (packElems (tyBits ty) t.1))
    (if isBlockTy ty then t.2.1.length else 256) (BitVec.ofNat 2048 (packElems 8 t.2.1))

/-- A load's destination is written (R297, R321): bytes beyond the tile stay. -/
def State.writeDst (s : State) (c k : Nat) (dst : LoadDst) : State :=
  let q := s.core c
  match dst with
  | .nothing => s
  | .scalar d v => s.setCore c (q.setStrand k ((q.strand k).setReg d v))
  | .vector d bits v side sv => (s.putVec c d bits v.toNat).putSide c d side sv.toNat
  | _ => s

/-- The destination of a tile load whose response is awaited under request `tag`, and of one answered with poison (R216). -/
def LoadDst.awaits (tag addr : Nat) : LoadDst → LoadDst
  | .vector d bits v side sv => .peerVector tag addr d bits v side sv
  | x => x
def LoadDst.zeroed : LoadDst → LoadDst
  | .vector d bits _ side _ => .vector d bits 0 side 0
  | x => x

/-- VLD and VLDA up to the value: its destination, and the state with its reports (R296).  A tile of P space is one request, whose bytes
are free values (log 10); with `go` the instruction does not wait for the response, unless the TRAP policy could still refuse it. -/
def tileLoad (o : Ord) (d slot : Nat) (xr : List Nat) (go : Bool) (s : State) (fin : LoadDst → State → Eff) : Eff :=
  withOrder o s fun s =>
  match s.here.handle slot with
  | none => .trap s (Exc.atSlot slot codeHFAULT)
  | some h =>
    let x := s.coords xr
    let ty := shapeTy s.me.vshape
    let rows := shapeRows s.me.vshape
    let cols := shapeCols s.me.vshape
    match (s.seenBy s.cur.1).tileFaults s.cur.1 s.cur.2 slot h ty rows cols false x with
    | some e => .trap s e
    | none =>
        let t := (s.seenBy s.cur.1).readTile s.here h ty rows cols x
        let dst := tileDst d ty t
        if (tileElems rows cols x).any h.crosses then
          let ask := [h.address x, tyBits ty * t.1.length / 8]
          if go && !h.desc.trap && s.podReachable h.desc.peer then
            fin (dst.awaits s.pTag (h.address x)) ((s.request h.desc.peer false ask).drawIf true)
          else peerRead h false ask s fun _ bad s =>
            if bad then peerPoison slot h x s (fin dst.zeroed) else fin dst (s.drawIf true)
        else fin dst (s.reportUnits t.2.2 1 (s.taskIdOf s.cur.1))

/-- VLD (R296). -/
def loadTile (o : Ord) (d slot : Nat) (xr : List Nat) (s : State) : Eff :=
  withOrder o s fun s => withStreams [] [d] s fun s =>
    tileLoad .rlx d slot xr false s fun dst s => .done (s.writeDst s.cur.1 s.cur.2 dst)

/-- VST (R144, R296). -/
def storeTile (o : Ord) (sc : Scope) (d slot : Nat) (xr : List Nat) (s : State) : Eff :=
  withOrder o s fun s => withStreams [d] [] s fun s =>
  match s.here.handle slot with
  | none => .trap s (Exc.atSlot slot codeHFAULT)
  | some h =>
    let x := s.coords xr
    let ty := shapeTy s.me.vshape
    let rows := shapeRows s.me.vshape
    let cols := shapeCols s.me.vshape
    match s.tileFaults s.cur.1 s.cur.2 slot h ty rows cols true x with
    | some e => .trap s e
    | none =>
      withRelease o sc s fun s =>
        let c := s.cur.1
        let v := s.seenBy c
        let xs := tileElems rows cols x
        let els := unpackElems (tyBits ty) xs.length (s.here.vec d).toNat
        let r := v.storeElems h (xs.zip els)
        let s := s.pend c s.cur.2 (joinBytes (v.gatheredBytes h r.1))
        let s := match (if isBlockTy ty then (match s.here.scaleHandle h with | .ok sh => some sh | .error _ => none) else none) with
          | some sh =>
            let sx := tileScales ty xs
            let m := v.storeElems sh (sx.zip (unpackElems 8 sx.length (s.here.sidecar d).toNat))
            s.pend c s.cur.2 (joinBytes (v.gatheredBytes sh m.1))
          | none => s
        .done (s.setFlags (flagIf r.2 flagSYM))

/-! ## Asynchronous loads (R297, R298) -/

/-- An outstanding load of the executing strand. -/
def State.addLoad (s : State) (lc : Nat) (dst : LoadDst) : State := s.setMe { s.me with loads := s.me.loads ++ [⟨lc, dst⟩] }

/-- LDA and VLDA: held at 63; counted under a false guard too (R297). -/
def runAsync (len : Nat) (g : Guard) (u : Uses) (lc : Nat) (s : State) (body : State → Eff) : Outcome :=
  if 63 ≤ s.me.counter lc ∧ s.me.scStage < 3 then .next (s.setMe { s.me with hold := some (.counterFull lc) })
  else if (s.rP g.g != g.n) = false then .next ((s.addLoad lc .nothing).setPc (s.me.pc + len))
  else runStrand len ⟨0, false⟩ u s body

/-- LDA (R297): its read is performed at issue (log 7).  One of P space sends its request and goes on; under the TRAP policy it waits for
the response, which a precise MCHECK needs (log 10). -/
def loadAsync (ty : Ty) (o : Ord) (d slot : Nat) (xr : List Nat) (lc : Nat) (s : State) : Eff :=
  withOrder o s fun s =>
  match s.here.handle slot with
  | none => .trap s (Exc.atSlot slot codeHFAULT)
  | some h =>
    let x := s.coords xr
    match (s.seenBy s.cur.1).scalarFaults s.cur.1 s.cur.2 slot h ty false true x [] with
    | some e => .trap s e
    | none =>
        let ask := [h.address x, memBytes ty]
        if h.crosses x && !h.desc.trap && s.podReachable h.desc.peer then
          .done ((s.request h.desc.peer false ask).addLoad lc (.peerScalar s.pTag (h.address x) d h.desc.fmt ty (h.negated x)))
        else if h.crosses x then
          peerRead h false ask s fun w bad s =>
            if bad then peerPoison slot h x s fun s => .done (s.addLoad lc (.scalar d 0))
            else .done (s.addLoad lc (.scalar d (fillSigned h.desc.fmt ty (h.negated x) w.toNat)))
        else
          let v := s.seenBy s.cur.1
          let w := fillReg ty (v.scalarRead h ty x)
          .done ((s.reportUnits (v.scalarPoison h ty x) 1 (s.taskIdOf s.cur.1)).addLoad lc (.scalar d w))

/-- VLDA (R297): a destination bound OUT is claimed and published at completion, one bound IN raises RACE (R116). -/
def loadTileAsync (o : Ord) (d slot : Nat) (xr : List Nat) (lc : Nat) (s : State) : Eff :=
  match s.here.streamOf d with
  | some (x, _, false) =>
    (match tileLoad o d slot xr true s fun _ s => .done s with
     | .trap t e => if e.priority ≤ 14 then .trap t e else .trap s (raceExc x 0)
     | .hold t h => .hold t h
     | _ => .trap s (raceExc x 0))
  | _ => tileLoad o d slot xr true s fun dst s => .done (s.addLoad lc dst)

/-- The oldest outstanding load of a counter, and the rest (R297). -/
def takeLoad (lc : Nat) : List OutLoad → Option (OutLoad × List OutLoad)
  | [] => none
  | l :: ls => if l.lc = lc then some (l, ls) else (takeLoad lc ls).map fun p => (p.1, l :: p.2)

/-- WAITC (R298). -/
def waitCounter (lc k : Nat) (s : State) : Eff := if s.me.counter lc ≤ k then .done s else .hold s (.counter lc k)

/-! ## ATOM, CAS and RED (R299, R300) -/

/-- What the RMWs check beside an access (R300). -/
def rmwChecks (s : State) (slot : Nat) (h : Handle) (hostOk : Bool) : List Exc :=
  excIf (!h.desc.sym.isEmpty) (Exc.atSlot slot codeILLOP 9) ++
  excIf s.inPure (Exc.atSlot slot codePURITY) ++
  excIf (h.desc.space == 5 && !hostOk) (Exc.atSlot slot codePERM 1)

/-- PCIe AtomicOps: FetchAdd and Swap of an integer type (R178). -/
def hostAtomic (op : RmwOp) (ty : Ty) : Bool :=
  (floatFmt? ty).isNone && (match op with | .add => true | .swap => true | _ => false)

/-- The target of a scalar access. -/
def State.scalarTarget (s : State) (h : Handle) (x : List Nat) : WriteTarget := s.locate h (h.address x - h.desc.base)

/-- ATOM and CAS at the home port: `upd` gives the new bits of the old ones, none where nothing is written. -/
def rmwAt (ty : Ty) (o : Ord) (sc : Scope) (d slot : Nat) (xr : List Nat) (hostOk : Bool) (upd : State → Nat → Option Nat)
    (s : State) : Eff :=
  withOrder o s fun s =>
  match s.here.handle slot with
  | none => .trap s (Exc.atSlot slot codeHFAULT)
  | some h =>
    let x := s.coords xr
    let c := s.cur.1
    match (s.seenBy c).scalarFaults c s.cur.2 slot h ty true true x (rmwChecks s slot h hostOk) with
    | some e => .trap s e
    | none =>
      withRelease o sc s fun s =>
        if h.desc.space = 6 then
          peerRead h true [h.address x, memBytes ty, (s.rS d).toNat] s fun w bad s =>
            if bad then peerPoison slot h x s fun s => .done (s.wS d 0) else .done (s.wS d (fillReg ty w.toNat))
        else
          let n := memBytes ty
          let t := s.scalarTarget h x
          let s := s.settleRange c t n
          let bad := s.poisonAt t n
          let old := leNat (s.readAt t n)
          let s := s.reportUnits bad.eraseDups 1 (s.taskIdOf c)
          let s := match upd s old with | some v => s.writeAt t (leBytes n v) | none => s
          .done (s.wS d (fillReg ty old))

/-- ATOM (R300). -/
def atomic (op : RmwOp) (ty : Ty) (o : Ord) (sc : Scope) (d slot : Nat) (xr : List Nat) (s : State) : Eff :=
  rmwAt ty o sc d slot xr (hostAtomic op ty) (fun t old => some (rmwResult op ty old (t.rS d).toNat)) s

/-- CAS (R300): bit for bit. -/
def compareSwap (ty : Ty) (o : Ord) (sc : Scope) (d slot : Nat) (xr : List Nat) (s : State) : Eff :=
  rmwAt ty o sc d slot xr true (fun t old =>
    let w := tyBits ty
    if old % 2 ^ w = (t.rS d).toNat % 2 ^ w then some ((t.rS (d + 1)).toNat % 2 ^ w) else none) s

/-- RED (R300): it becomes pending, and is applied where it is performed (R179). -/
def reduce (op : RmwOp) (ty : Ty) (o : Ord) (sc : Scope) (d slot : Nat) (xr : List Nat) (s : State) : Eff :=
  withOrder o s fun s =>
  match s.here.handle slot with
  | none => .trap s (Exc.atSlot slot codeHFAULT)
  | some h =>
    let x := s.coords xr
    match s.scalarFaults s.cur.1 s.cur.2 slot h ty true false x (rmwChecks s slot h (hostAtomic op ty)) with
    | some e => .trap s e
    | none =>
      withRelease o sc s fun s =>
        let w : PendingWrite := ⟨s.cur.2, s.scalarTarget h x, .red op ty (memBytes ty) (s.rS d)⟩
        .done (s.setHere { s.here with writes := s.here.writes ++ [w] })

/-! ## FENCE (R172, R177, R301) -/

/-- The wider of two scopes. -/
def widerScope (a b : Scope) : Scope := if a.code ≤ b.code then b else a

/-- FENCE: .REL and .AR make the next write a release; reads have taken their values, so .ACQ waits for nothing (log 7). -/
def fenceAt (o : Ord) (sc : Scope) (s : State) : Eff :=
  match o with
  | .sc =>
    match s.me.scStage with
    | 0 => let t := s.drainCore s.cur.1; .hold (t.setMe { t.me with scStage := 1 }) (.fence t.here.clk)
    | 2 => .done (s.setMe { s.me with scStage := 0 })
    | _ => .hold s (.fence s.here.clk)
  | .acq => .done s
  | _ =>
    .done (s.setMe { s.me with relNext := some (match s.me.relNext with | none => sc | some r => widerScope r sc) })

/-- LD, S form (R295). -/
def execLd (g : Guard) (d : Nat) (h : Nat) (x0 : Nat) (s : State) : Outcome :=
  runStrand 4 g ⟨[x0], [d], [], []⟩ s fun s => loadScalar .i64 .rlx d h [x0] s

/-- LD, L form (R295). -/
def execLdLong (g : Guard) (ty : Ty) (ord : Ord) (_sc : Scope) (d : Nat) (h : Nat) (x0 : Nat) (x1 : Nat) (s : State) : Outcome :=
  runStrand 8 g ⟨[x0, x1], [d], [], []⟩ s fun s => loadScalar ty ord d h [x0, x1] s

/-- LD, X form (R295). -/
def execLdExt (g : Guard) (ty : Ty) (ord : Ord) (_sc : Scope) (d : Nat) (h : Nat) (x0 : Nat) (x1 : Nat) (x2 : Nat) (x3 : Nat) (x4 : Nat) (x5 : Nat) (s : State) : Outcome :=
  runStrand 12 g ⟨[x0, x1, x2, x3, x4, x5], [d], [], []⟩ s fun s => loadScalar ty ord d h [x0, x1, x2, x3, x4, x5] s

/-- ST, S form (R295). -/
def execSt (g : Guard) (d : Nat) (h : Nat) (x0 : Nat) (s : State) : Outcome :=
  runStrand 4 g ⟨[d, x0], [], [], []⟩ s fun s => storeScalar .i64 .rlx .core d h [x0] s

/-- ST, L form (R295). -/
def execStLong (g : Guard) (ty : Ty) (ord : Ord) (sc : Scope) (d : Nat) (h : Nat) (x0 : Nat) (x1 : Nat) (s : State) : Outcome :=
  runStrand 8 g ⟨[d, x0, x1], [], [], []⟩ s fun s => storeScalar ty ord sc d h [x0, x1] s

/-- ST, X form (R295). -/
def execStExt (g : Guard) (ty : Ty) (ord : Ord) (sc : Scope) (d : Nat) (h : Nat) (x0 : Nat) (x1 : Nat) (x2 : Nat) (x3 : Nat) (x4 : Nat) (x5 : Nat) (s : State) : Outcome :=
  runStrand 12 g ⟨[d, x0, x1, x2, x3, x4, x5], [], [], []⟩ s fun s => storeScalar ty ord sc d h [x0, x1, x2, x3, x4, x5] s

/-- LDA, S form (R297). -/
def execLda (g : Guard) (d : Nat) (h : Nat) (x0 : Nat) (s : State) : Outcome :=
  runAsync 4 g ⟨[x0], [d], [], []⟩ 0 s fun s => loadAsync .i64 .rlx d h [x0] 0 s

/-- LDA, L form (R297). -/
def execLdaLong (g : Guard) (ty : Ty) (ord : Ord) (_sc : Scope) (d : Nat) (h : Nat) (x0 : Nat) (lc : Nat) (s : State) : Outcome :=
  runAsync 8 g ⟨[x0], [d], [], []⟩ lc s fun s => loadAsync ty ord d h [x0] lc s

/-- LDA, X form (R297). -/
def execLdaExt (g : Guard) (ty : Ty) (ord : Ord) (_sc : Scope) (d : Nat) (h : Nat) (x0 : Nat) (lc : Nat) (x1 : Nat) (x2 : Nat) (x3 : Nat) (x4 : Nat) (x5 : Nat) (s : State) : Outcome :=
  runAsync 12 g ⟨[x0, x1, x2, x3, x4, x5], [d], [], []⟩ lc s fun s => loadAsync ty ord d h [x0, x1, x2, x3, x4, x5] lc s

/-- WAITC, S form (R298). -/
def execWaitc (g : Guard) (lc : Nat) (k : Nat) (s : State) : Outcome :=
  runStrand 4 g (Uses.none) s fun s => waitCounter lc k s

/-- WAITC, L form (R298). -/
def execWaitcLong (g : Guard) (lc : Nat) (k : Nat) (s : State) : Outcome :=
  runStrand 8 g (Uses.none) s fun s => waitCounter lc k s

/-- VLD, S form (R296). -/
def execVld (g : Guard) (d : Nat) (h : Nat) (x0 : Nat) (s : State) : Outcome :=
  runStrand 4 g ⟨[x0], [], [], [d]⟩ s fun s => loadTile .rlx d h [x0] s

/-- VLD, L form (R296). -/
def execVldLong (g : Guard) (ord : Ord) (_sc : Scope) (d : Nat) (h : Nat) (x0 : Nat) (x1 : Nat) (s : State) : Outcome :=
  runStrand 8 g ⟨[x0, x1], [], [], [d]⟩ s fun s => loadTile ord d h [x0, x1] s

/-- VLD, X form (R296). -/
def execVldExt (g : Guard) (ord : Ord) (_sc : Scope) (d : Nat) (h : Nat) (x0 : Nat) (x1 : Nat) (x2 : Nat) (x3 : Nat) (x4 : Nat) (x5 : Nat) (s : State) : Outcome :=
  runStrand 12 g ⟨[x0, x1, x2, x3, x4, x5], [], [], [d]⟩ s fun s => loadTile ord d h [x0, x1, x2, x3, x4, x5] s

/-- VST, S form (R296). -/
def execVst (g : Guard) (d : Nat) (h : Nat) (x0 : Nat) (s : State) : Outcome :=
  runStrand 4 g ⟨[x0], [], [d], []⟩ s fun s => storeTile .rlx .core d h [x0] s

/-- VST, L form (R296). -/
def execVstLong (g : Guard) (ord : Ord) (sc : Scope) (d : Nat) (h : Nat) (x0 : Nat) (x1 : Nat) (s : State) : Outcome :=
  runStrand 8 g ⟨[x0, x1], [], [d], []⟩ s fun s => storeTile ord sc d h [x0, x1] s

/-- VST, X form (R296). -/
def execVstExt (g : Guard) (ord : Ord) (sc : Scope) (d : Nat) (h : Nat) (x0 : Nat) (x1 : Nat) (x2 : Nat) (x3 : Nat) (x4 : Nat) (x5 : Nat) (s : State) : Outcome :=
  runStrand 12 g ⟨[x0, x1, x2, x3, x4, x5], [], [d], []⟩ s fun s => storeTile ord sc d h [x0, x1, x2, x3, x4, x5] s

/-- VLDA, L form (R297). -/
def execVlda (g : Guard) (ord : Ord) (_sc : Scope) (d : Nat) (h : Nat) (x0 : Nat) (lc : Nat) (s : State) : Outcome :=
  runAsync 8 g ⟨[x0], [], [], [d]⟩ lc s fun s => loadTileAsync ord d h [x0] lc s

/-- VLDA, X form (R297). -/
def execVldaExt (g : Guard) (ord : Ord) (_sc : Scope) (d : Nat) (h : Nat) (x0 : Nat) (lc : Nat) (x1 : Nat) (x2 : Nat) (x3 : Nat) (x4 : Nat) (x5 : Nat) (s : State) : Outcome :=
  runAsync 12 g ⟨[x0, x1, x2, x3, x4, x5], [], [], [d]⟩ lc s fun s => loadTileAsync ord d h [x0, x1, x2, x3, x4, x5] lc s

/-- ATOM, L form (R299, R300). -/
def execAtom (g : Guard) (ty : Ty) (ord : Ord) (sc : Scope) (op : RmwOp) (d : Nat) (h : Nat) (x0 : Nat) (x1 : Nat) (s : State) : Outcome :=
  runStrand 8 g ⟨[d, x0, x1], [d], [], []⟩ s fun s => atomic op ty ord sc d h [x0, x1] s

/-- CAS, L form (R300). -/
def execCas (g : Guard) (ty : Ty) (ord : Ord) (sc : Scope) (d : Nat) (h : Nat) (x0 : Nat) (x1 : Nat) (s : State) : Outcome :=
  runStrand 8 g ⟨[d, d + 1, x0, x1], [d], [], []⟩ s fun s => compareSwap ty ord sc d h [x0, x1] s

/-- RED, L form (R299, R300). -/
def execRed (g : Guard) (ty : Ty) (ord : Ord) (sc : Scope) (op : RmwOp) (d : Nat) (h : Nat) (x0 : Nat) (x1 : Nat) (s : State) : Outcome :=
  runStrand 8 g ⟨[d, x0, x1], [], [], []⟩ s fun s => reduce op ty ord sc d h [x0, x1] s

/-- ATOM, X form (R299, R300). -/
def execAtomExt (g : Guard) (ty : Ty) (ord : Ord) (sc : Scope) (op : RmwOp) (d : Nat) (h : Nat) (x0 : Nat) (x1 : Nat) (x2 : Nat) (x3 : Nat) (x4 : Nat) (x5 : Nat) (s : State) : Outcome :=
  runStrand 12 g ⟨[d, x0, x1, x2, x3, x4, x5], [d], [], []⟩ s fun s => atomic op ty ord sc d h [x0, x1, x2, x3, x4, x5] s

/-- CAS, X form (R300). -/
def execCasExt (g : Guard) (ty : Ty) (ord : Ord) (sc : Scope) (d : Nat) (h : Nat) (x0 : Nat) (x1 : Nat) (x2 : Nat) (x3 : Nat) (x4 : Nat) (x5 : Nat) (s : State) : Outcome :=
  runStrand 12 g ⟨[d, d + 1, x0, x1, x2, x3, x4, x5], [d], [], []⟩ s fun s => compareSwap ty ord sc d h [x0, x1, x2, x3, x4, x5] s

/-- RED, X form (R299, R300). -/
def execRedExt (g : Guard) (ty : Ty) (ord : Ord) (sc : Scope) (op : RmwOp) (d : Nat) (h : Nat) (x0 : Nat) (x1 : Nat) (x2 : Nat) (x3 : Nat) (x4 : Nat) (x5 : Nat) (s : State) : Outcome :=
  runStrand 12 g ⟨[d, x0, x1, x2, x3, x4, x5], [], [], []⟩ s fun s => reduce op ty ord sc d h [x0, x1, x2, x3, x4, x5] s

/-- FENCE (R301). -/
def execFence (g : Guard) (ord : Ord) (sc : Scope) (s : State) : Outcome :=
  runStrand 8 g (Uses.none) s fun s => fenceAt ord sc s

end Sys2Proof.Machine
end

