-- ==== Sys2Proof/Machine/Sync.lean ====
section
/-! DEFINITION. Barriers, rings, queue registers, timelines, stream binding, task spawn and engine status (13 R302 to R310, R312;
R116 to R125). -/

namespace Sys2Proof.Machine

/-! ## Barriers (R124, R125, R302, R303) -/

/-- A phase has passed a token. -/
def phasePassed (phase token : BitVec 32) : Bool :=
  decide (1 ≤ (phase - token).toNat) && decide ((phase - token).toNat < 2 ^ 31)

/-- GANGBROKEN as an access to bg after the break raises it; a BWAIT released by the break completes (R214). -/
def gangBroken (completes : Bool) : Exc := { Exc.of codeGANGBROKEN with kindC := completes }

/-- The barrier that a field names, or why it cannot be used (R302, R303). -/
def State.barrierAt (s : State) (x : Nat) : Except Exc Barrier :=
  if x = 16 then
    match s.myTask with
    | none => .error (Exc.of codePERM 1)
    | some t =>
      if t.gangSize ≤ 1 then .error (Exc.of codePERM 1)
      else if t.broken then .error (gangBroken false)
      else .ok t.bg
  else match mapFind s.here.barriers x with
    | none => .error (Exc.of codeHFAULT)
    | some b => .ok b

/-- The barrier that a field names replaced. -/
def State.putBarrier (s : State) (x : Nat) (b : Barrier) : State :=
  if x = 16 then
    match s.myTask with
    | none => s
    | some t => s.setTask { t with bg := b }
  else s.setHere { s.here with barriers := mapPut s.here.barriers x b }

/-- The scope of a barrier: bg by its level, 1 quad, 2 die, 3 package, 4 pod (R56, R123). -/
def State.barrierScope (s : State) (x : Nat) : Scope :=
  if x = 16 then
    match s.myTask with
    | none => .core
    | some t => (match t.bgLevel with | 1 => .quad | 2 => .die | 3 => .pkg | _ => .pod)
  else .core

/-- One clock of a barrier object (R124). -/
def Barrier.settle (b : Barrier) : Barrier :=
  let a := b.ca - (b.arrivals : Int)
  let c := b.cb - (b.bytes : Int)
  if a ≤ 0 ∧ c ≤ 0 then
    { b with phase := b.phase + 1, ca := (b.ea : Int) + a, cb := (b.eb : Int) + c, arrivals := 0, bytes := 0 }
  else { b with ca := a, cb := c, arrivals := 0, bytes := 0 }

/-- The object has something to settle at the end of the clock. -/
def Barrier.due (b : Barrier) : Bool :=
  decide (b.arrivals ≠ 0) || decide (b.bytes ≠ 0) || (decide (b.ca ≤ 0) && decide (b.cb ≤ 0))

/-- A record spec names an object of core `c` by one of the KINDs (R243, R311). -/
def Rec.names (r : Rec) (c : Nat) (kinds : List Nat) (x : Nat) : Bool :=
  r.objCore == c &&
  ((kinds.contains r.hdr.wait.kind && r.hdr.wait.obj == x) || (kinds.contains r.hdr.post.kind && r.hdr.post.obj == x))

/-- Some dispatched record of any core names an object of core `c`. -/
def State.namedByRecord (s : State) (c : Nat) (kinds : List Nat) (x : Nat) : Bool :=
  s.coreTab.any fun p => p.2.engines.any fun e => e.2.queue.any fun r => r.names c kinds x

/-- The consumer rings that a dispatched NSTRM took from its ring table (R158, R365): core and ring, by the running values. -/
def auxRing (e : Nat) : Nat := 128 + e
def Rec.consumers (r : Rec) : List (Nat × Nat) :=
  match r.op with
  | .nstrm => (upTo 8).filterMap fun e => (mapFind r.aux (auxRing e)).map fun v => (v / 32, v % 32)
  | _ => []

/-- Some dispatched record of any core names a ring of core `c`: in its specs, or as a consumer ring (R118). -/
def State.ringNamed (s : State) (c x : Nat) : Bool :=
  s.namedByRecord c [1, 2] x ||
  s.coreTab.any fun p => p.2.engines.any fun e => e.2.queue.any fun r => r.consumers.contains (c, x)

/-- The executing strand's clock holds a decrement of core barrier `x` still to come: an instruction picked after it (R302, R314). -/
def State.decrementComes (s : State) (x : Nat) : Bool :=
  let c := s.cur.1
  (s.here.picks.getD []).any fun k =>
    let on := fun (g : Guard) (y : Nat) => y == x && (s.here.strand k).pred g.g == !g.n
    match s.nextOf c k with
    | some (.barv g _ y) => on g y
    | some (.barvLong g _ y) => on g y
    | some (.bsync g y _) => on g y
    | _ => false

/-- A strand of a core waits on its barrier `x`. -/
def Core.waitsOn (q : Core) (x : Nat) : Bool :=
  q.strands.any fun t => match t.hold with | some (.barrier y _ _) => x == y | _ => false

/-- BINIT (R302). -/
def barrierInit (x a b : Nat) (s : State) : Eff :=
  let ea := (s.rS a).toNat
  let eb := (s.rS b).toNat
  let busy := match mapFind s.here.barriers x with
    | some o => decide (o.arrivals ≠ 0) || decide (o.bytes ≠ 0)
    | none => false
  let busy := busy || s.decrementComes x
  match pickExc (
    excIf (x == 16) (Exc.of codePERM 1) ++
    excIf (decide (65535 < ea) || decide (2 ^ 32 ≤ eb) || (ea == 0 && eb == 0)) (Exc.illop 9) ++
    excIf (x != 16 && (busy || s.here.waitsOn x || s.namedByRecord s.cur.1 [3] x)) (Exc.of codeRACE)) with
  | some e => .trap s e
  | none => .done (s.putBarrier x
      { ea := ea, eb := eb, ca := ea, cb := eb, phase := 0, arrivals := 0, bytes := 0 })

/-- BARV (R302): a release at the barrier's scope.  An arrival beyond EA, which counts in the next phase, still returns the phase of
its clock (log 46). -/
def barrierArrive (d x : Nat) (s : State) : Eff :=
  match s.barrierAt x with
  | .error e => .trap s e
  | .ok b =>
    let s := s.releaseAt s.cur.1 (s.barrierScope x)
    if s.barrierScope x == .pod && s.awaitingAcks then .hold s .acks
    else .done ((s.putBarrier x { b with arrivals := b.arrivals + 1 }).wS d (BitVec.ofNat 64 b.phase.toNat))

/-- The token in a register: its low 32 bits. -/
def State.token (s : State) (a : Nat) : BitVec 32 := BitVec.ofNat 32 (s.rS a).toNat

/-- BWAIT of `len` bytes (R302). -/
def barrierWait (len x a : Nat) (s : State) : Eff :=
  match s.barrierAt x with
  | .error e => .trap s e
  | .ok b => if phasePassed b.phase (s.token a) then .done s else .hold s (.barrier x (s.token a) len)

/-- BSYNC (R302): bytes without an arrival. -/
def barrierPost (x a : Nat) (s : State) : Eff :=
  if x = 16 then .trap s (Exc.illop 9)
  else match s.barrierAt x with
    | .error e => .trap s e
    | .ok b => .done (s.putBarrier x { b with bytes := b.bytes + (s.token a).toNat })

/-- BTEST (R302). -/
def barrierTest (pt pf x a : Nat) (s : State) : Eff :=
  match s.barrierAt x with
  | .error e => .trap s e
  | .ok b => .done (s.wPair pt pf (phasePassed b.phase (s.token a)))

/-! ## Rings (R118, R304 to R306) -/

/-- RINIT: bits of s[a] and s[b] that must be zero (R304). -/
def ringBitsOk (place shape : Word) : Bool :=
  decide (place.toNat / 2 ^ 33 = 0) && decide (bvField place 22 10 = 0) && decide (bvField shape 4 12 = 0) &&
  decide (shape.toNat / 2 ^ 26 = 0)

/-- RINIT (R118, R133, R304). -/
def ringInit (x a b : Nat) (s : State) : Eff :=
  let r : Ring := { place := s.rS a, shape := s.rS b, fh := 0, ch := 0, slots := [], bound := none }
  let q := s.here
  let bytes := r.count * r.size
  let inUse := match mapFind q.rings x with
    | none => false
    | some o =>
      o.slots.any (fun t => t.holder.isSome) || o.bound.isSome || s.ringNamed s.cur.1 x ||
      q.handles.any fun h => h.2.desc.ring == some x
  let overlap := q.rings.any fun p =>
    p.1 != x && p.2.inStore == r.inStore && decide (r.base < p.2.base + p.2.count * p.2.size) &&
    decide (p.2.base < r.base + bytes)
  match pickExc (
    excIf (!(ringBitsOk r.place r.shape) || decide (8 < r.log2N) || decide (2 ^ 20 < bytes)) (Exc.illop 9) ++
    excIf (r.base % 64 != 0) (Exc.of codeALIGN 0 (BitVec.ofNat 64 r.base)) ++
    excIf (decide (storeBytes r.inStore < r.base + bytes)) (beyondStore r.base (storeBytes r.inStore)) ++
    excIf (inUse || overlap) (raceExc x 0)) with
  | some e => .trap s e
  | none => .done (s.setHere (q.setRing x { r with slots := List.replicate r.count RingSlot.idle }))

/-- RFREEW and RFILLW (R305). -/
def ringClaim (fill : Bool) (d x : Nat) (s : State) : Eff :=
  match mapFind s.here.rings x with
  | none => .trap s (Exc.of codeHFAULT)
  | some r =>
    if r.bound.any fun u => u.2 == fill then .trap s (raceExc x 0)
    else match r.claim fill 1 (.strand s.cur.2) with
      | none => .hold s (if fill then .ringFree x else .ringFull x)
      | some (r1, idx) => .done ((s.setHere (s.here.setRing x r1)).wS d (BitVec.ofNat 64 (idx.getD 0 0)))

/-- RPUB and RRET (R305): a release at .die. -/
def ringRelease (fill : Bool) (x a : Nat) (s : State) : Eff :=
  match mapFind s.here.rings x with
  | none => .trap s (Exc.of codeHFAULT)
  | some r =>
    let i := (s.token a).toNat
    if r.count ≤ i then .trap s (Exc.illop 9)
    else
      let t := r.slot i
      let ok := t.holder == some (.strand s.cur.2) && t.next.isNone && t.state == (if fill then .filling else .draining)
      if ok then
        let s := s.releaseAt s.cur.1 .die
        .done (s.setHere ((s.here.setRing x (r.release fill i)).wake))
      else .trap s (raceExc x i)

/-- RQRY (R306). -/
def ringQuery (d x k : Nat) (s : State) : Eff :=
  match mapFind s.here.rings x with
  | none => .trap s (Exc.of codeHFAULT)
  | some r =>
    let number := fun (st : SlotState) => (r.slots.filter fun t => t.state == st).length
    let v := match k with
      | 0 => r.fh.toNat
      | 1 => r.ch.toNat
      | 2 => number .full
      | 3 => number .free
      | _ => bvField r.place 0 33 + 2 ^ 40 * r.log2N + 2 ^ 48 * bvField r.shape 16 10
    .done (s.wS d (BitVec.ofNat 64 v))

/-! ## Queue registers (R117, R307) -/

/-- Entries a queue register holds. -/
def queueCapacity (n : Nat) : Nat := if n < 8 then 16 else 4

/-- 64-bit words of one entry: a vector entry has its sidecar (R117). -/
def queueWords (n : Nat) : Nat := if n < 8 then 1 else 288

/-- Entries in a queue register: all, and those a pop may take now. -/
def Core.queueLength (q : Core) (n : Nat) : Nat :=
  if n < 8 then (mapGet q.qs n []).length + (mapGet q.qsNew n []).length
  else (mapGet q.qv n []).length + (mapGet q.qvNew n []).length

/-- QPUSH (R307): the entry is taken up at the end of the clock. -/
def queuePush (n a : Nat) (s : State) : Eff :=
  if queueCapacity n ≤ s.here.queueLength n then .hold s (.queueFull n)
  else if n < 8 then
    let q := s.here
    .done (s.setHere { q with qsNew := mapPut q.qsNew n (mapGet q.qsNew n [] ++ [s.rS a]) }.wake)
  else
    withStreams [a] [] s fun s =>
      match s.wholeCheck a with
      | some e => .trap s e
      | none =>
        let q := s.here
        .done (s.setHere { q with qvNew := mapPut q.qvNew n (mapGet q.qvNew n [] ++ [(q.vec a, q.sidecar a)]) }.wake)

/-- Poison of the words of a queue register of the core moves with its entries when the first of them leaves. -/
def State.popPoison (s : State) (n : Nat) : State :=
  if s.poison.isEmpty then s
  else { s with poison := s.poison.map fun u =>
      match u with
      | .queue c m w => if c = s.cur.1 ∧ m = n then .queue c m (w - queueWords n) else u
      | _ => u }

/-- QPOP (R307, R216): an entry that holds poison is not taken. -/
def queuePop (d n : Nat) (s : State) : Eff :=
  let q := s.here
  let bad := s.poison.any fun u => match u with | .queue c m w => c == s.cur.1 && m == n && decide (w < queueWords n) | _ => false
  let mcheck := Exc.of codeMCHECK 3 (BitVec.ofNat 64 (2 ^ 63 + n))
  if n < 8 then
    match mapGet q.qs n [] with
    | [] => .hold s (.queueEmpty n)
    | v :: rest => if bad then .trap s mcheck else .done (((s.setHere { q with qs := mapPut q.qs n rest }.wake).popPoison n).wS d v)
  else
    withStreams [] [d] s fun s =>
      match mapGet s.here.qv n [] with
      | [] => .hold s (.queueEmpty n)
      | v :: rest =>
        if bad then .trap s mcheck
        else .done (((s.setHere { s.here with qv := mapPut s.here.qv n rest }.wake).popPoison n).putWhole d v.1 v.2)

/-- QTST (R307). -/
def queueTest (pt pf n k : Nat) (s : State) : Eff :=
  let len := s.here.queueLength n
  .done (s.wPair pt pf (if k = 0 then decide (0 < len) else decide (len < queueCapacity n)))

/-- Scalars that a queue instruction reads, or writes, in `a`. -/
def queueUses (n a : Nat) (reads : Bool) : Uses :=
  if n < 8 then (if reads then ⟨[a], [], [], []⟩ else ⟨[], [a], [], []⟩)
  else (if reads then ⟨[], [], [a], []⟩ else ⟨[], [], [], [a]⟩)

/-! ## Timelines (R106, R175, R212, R308) -/

/-- The lowest record with a pending MCHECK up to `v`, and its SUB. -/
def Engine.pendingUpTo (x : Engine) (v : Nat) : Option (Nat × Nat) := x.pend.find? fun p => decide (p.1 ≤ v)

/-- WAITT (R308): a pending MCHECK is taken once, and the wait then acquires nothing. -/
def timelineWait (t a : Nat) (s : State) : Eff :=
  let v := (s.rS a).toNat
  let x := s.here.engine t
  if x.tl < v then .hold s (.timeline t v)
  else match x.pendingUpTo v with
    | none => .done s
    | some (n, sub) =>
      .trap (s.setHere (s.here.setEngine t { x with pend := mapDel x.pend n }))
        { Exc.of codeMCHECK sub (BitVec.ofNat 64 n) with src := 2, eng := t }

/-- Record `n` of an engine has completed: its number is at or below the timeline, or it has left the queue (R106, R308). -/
def Engine.completed (x : Engine) (n : Nat) : Bool :=
  decide (n ≤ x.tl) || (decide (n ≤ x.last) && !(x.queue.any fun r => r.num == n))

/-- RDTL (R308). -/
def completionWord (d t a : Nat) (s : State) : Eff :=
  let n := (s.rS a).toNat
  let x := s.here.engine t
  if n = 0 then .trap s (Exc.illop 9)
  else if !(x.completed n) then .hold s (.word t n)
  else match mapFind x.words n with
    | some w => .done (s.wS d w)
    | none => .trap s (Exc.illop 9)

/-! ## Stream binding (R116, R309) -/

/-- SBIND. -/
def streamBind (v x dir : Nat) (s : State) : Eff :=
  let q := s.here
  let held := fun (r : Ring) => r.slots.any fun t =>
    t.holder.isSome && t.state == (if dir = 1 then SlotState.filling else .draining)
  match mapFind q.rings x with
  | none => .trap s (Exc.of codeHFAULT)
  | some r =>
    if r.size ≠ 2048 then .trap s (Exc.of codeHFAULT)
    else if (q.streamOf v).isSome || r.bound.isSome || held r then .trap s (raceExc x 0)
    else .done (s.setHere (q.setRing x { r with bound := some (v, dir == 1) }))

/-- SUNBIND: from the next clock; without effect on a register that is not bound. -/
def streamUnbind (v : Nat) (s : State) : Eff :=
  match s.here.streamOf v with
  | some _ => .done (s.setHere { s.here with unbindStream := setPut s.here.unbindStream v })
  | none => .done s

/-! ## TSPAWN (R60, R310) -/

/-- The TGS's answer to a TSPAWN of a record to queue `n` (R60). -/
def State.offer (s : State) (n : Nat) (bs : List Byte) : State × Nat :=
  let q := s.queue n
  if !q.en || q.halted then (s, 2)
  else if (q.pi - q.ci).toNat = q.slots then (s.setQueue n { q with full := true }, 1)
  else match s.writeSlot n q.pi bs with
    | none => (s.haltQueue n 2, 2)
    | some t => (t.setQueue n { q with pi := q.pi + 1
                                       spawnDie := mapPut q.spawnDie q.pi.toNat (dieOf s.cur.1) }, 0)

/-- TSPAWN (R310): a release at .pkg, refused or not. -/
def spawn (d a b : Nat) (s : State) : Eff :=
  let n := (s.rS a).toNat
  let off := (s.rS b).toNat
  let c := s.cur.1
  let t := WriteTarget.store c 2 off
  match pickExc (
    excIf (decide (127 < n)) (Exc.illop 9) ++
    excIf s.inPure (Exc.of codePURITY) ++
    excIf (decide (n ≤ 127) &&
      !(tableAllows (mapGet s.queueTables n 0) (.tenant (s.tenantOf c)) true && (s.queue n).spawn)) (Exc.of codePERM 4) ++
    excIf (decide (Config.sBytes < off + 64)) (beyondStore off Config.sBytes) ++
    excIf (off % 64 != 0) (Exc.of codeALIGN 0 (BitVec.ofNat 64 off)) ++
    (match s.ringRace (.strand c s.cur.2) t with | some (x, i) => [raceExc x i] | none => [])) with
  | some e => .trap s e
  | none =>
    let s := s.drainCore c
    let bs := s.readAt t 64
    let s := s.reportUnits (s.poisonAt t 64) 1 (s.taskIdOf c)
    let r := s.offer n bs
    .done (r.1.wS d (BitVec.ofNat 64 r.2))

/-! ## ECTL (R312) -/

/-- The record an engine runs. -/
def Engine.running (x : Engine) : Option Rec := x.queue.find? fun r => r.started && !r.ended

/-- What ECTL reads. -/
def engineItem (x : Engine) (item : Nat) : Nat :=
  match item with
  | 0 => x.places
  | 1 => (match x.running with | some r => r.num | none => 0)
  | 8 => x.last
  | k => (match x.running with | some r => r.upc.getD (k - 2) 0 | none => 0)

/-- BINIT (R302). -/
def execBinit (g : Guard) (x : Nat) (a : Nat) (b : Nat) (s : State) : Outcome :=
  runStrand 8 g (Uses.scalar [a, b] []) s fun s => barrierInit x a b s

/-- BARV, S form (R302). -/
def execBarv (g : Guard) (d : Nat) (x : Nat) (s : State) : Outcome :=
  runStrand 4 g (Uses.scalar [] [d]) s fun s => barrierArrive d x s

/-- BARV, L form (R302). -/
def execBarvLong (g : Guard) (d : Nat) (x : Nat) (s : State) : Outcome :=
  runStrand 8 g (Uses.scalar [] [d]) s fun s => barrierArrive d x s

/-- BWAIT, S form (R302). -/
def execBwait (g : Guard) (x : Nat) (b : Nat) (s : State) : Outcome :=
  runStrand 4 g (Uses.scalar [b] []) s fun s => barrierWait 4 x b s

/-- BWAIT, L form (R302). -/
def execBwaitLong (g : Guard) (x : Nat) (b : Nat) (s : State) : Outcome :=
  runStrand 8 g (Uses.scalar [b] []) s fun s => barrierWait 8 x b s

/-- BSYNC (R302). -/
def execBsync (g : Guard) (x : Nat) (b : Nat) (s : State) : Outcome :=
  runStrand 8 g (Uses.scalar [b] []) s fun s => barrierPost x b s

/-- BTEST (R302). -/
def execBtest (g : Guard) (pt : Nat) (pf : Nat) (x : Nat) (b : Nat) (s : State) : Outcome :=
  runStrand 8 g (Uses.scalar [b] []) s fun s => barrierTest pt pf x b s

/-- RINIT (R304). -/
def execRinit (g : Guard) (x : Nat) (a : Nat) (b : Nat) (s : State) : Outcome :=
  runStrand 8 g (Uses.scalar [a, b] []) s fun s => ringInit x a b s

/-- RFREEW (R305). -/
def execRfreew (g : Guard) (d : Nat) (x : Nat) (s : State) : Outcome :=
  runStrand 8 g (Uses.scalar [] [d]) s fun s => ringClaim true d x s

/-- RPUB (R305). -/
def execRpub (g : Guard) (x : Nat) (b : Nat) (s : State) : Outcome :=
  runStrand 8 g (Uses.scalar [b] []) s fun s => ringRelease true x b s

/-- RFILLW (R305). -/
def execRfillw (g : Guard) (d : Nat) (x : Nat) (s : State) : Outcome :=
  runStrand 8 g (Uses.scalar [] [d]) s fun s => ringClaim false d x s

/-- RRET (R305). -/
def execRret (g : Guard) (x : Nat) (b : Nat) (s : State) : Outcome :=
  runStrand 8 g (Uses.scalar [b] []) s fun s => ringRelease false x b s

/-- RQRY (R306). -/
def execRqry (g : Guard) (d : Nat) (x : Nat) (k : Nat) (s : State) : Outcome :=
  runStrand 8 g (Uses.scalar [] [d]) s fun s => ringQuery d x k s

/-- QPUSH, S form (R307). -/
def execQpush (g : Guard) (q : Nat) (a : Nat) (s : State) : Outcome :=
  runStrand 4 g (queueUses q a true) s fun s => queuePush q a s

/-- QPUSH, L form (R307). -/
def execQpushLong (g : Guard) (q : Nat) (a : Nat) (s : State) : Outcome :=
  runStrand 8 g (queueUses q a true) s fun s => queuePush q a s

/-- QPOP, S form (R307). -/
def execQpop (g : Guard) (d : Nat) (q : Nat) (s : State) : Outcome :=
  runStrand 4 g (queueUses q d false) s fun s => queuePop d q s

/-- QPOP, L form (R307). -/
def execQpopLong (g : Guard) (d : Nat) (q : Nat) (s : State) : Outcome :=
  runStrand 8 g (queueUses q d false) s fun s => queuePop d q s

/-- QTST (R307). -/
def execQtst (g : Guard) (pt : Nat) (pf : Nat) (q : Nat) (k : Nat) (s : State) : Outcome :=
  runStrand 8 g (Uses.none) s fun s => queueTest pt pf q k s

/-- WAITT, S form (R308). -/
def execWaitt (g : Guard) (t : Nat) (b : Nat) (s : State) : Outcome :=
  runStrand 4 g (Uses.scalar [b] []) s fun s => timelineWait t b s

/-- WAITT, L form (R308). -/
def execWaittLong (g : Guard) (t : Nat) (b : Nat) (s : State) : Outcome :=
  runStrand 8 g (Uses.scalar [b] []) s fun s => timelineWait t b s

/-- RDTL (R308). -/
def execRdtl (g : Guard) (d : Nat) (t : Nat) (b : Nat) (s : State) : Outcome :=
  runStrand 8 g (Uses.scalar [b] [d]) s fun s => completionWord d t b s

/-- SBIND (R309). -/
def execSbind (g : Guard) (v : Nat) (x : Nat) (k : Nat) (s : State) : Outcome :=
  runStrand 8 g (Uses.none) s fun s => streamBind v x k s

/-- SUNBIND (R309). -/
def execSunbind (g : Guard) (v : Nat) (s : State) : Outcome :=
  runStrand 8 g (Uses.none) s fun s => streamUnbind v s

/-- TSPAWN (R310). -/
def execTspawn (g : Guard) (d : Nat) (a : Nat) (b : Nat) (s : State) : Outcome :=
  runStrand 8 g (Uses.scalar [a, b] [d]) s fun s => spawn d a b s

/-- ECTL (R312). -/
def execEctl (g : Guard) (eng : Nat) (item : Nat) (d : Nat) (s : State) : Outcome :=
  runStrand 8 g (Uses.scalar [] [d]) s fun s => .done (s.wS d (BitVec.ofNat 64 (engineItem (s.here.engine eng) item)))

end Sys2Proof.Machine
end

