-- ==== Sys2Proof/Machine/Floats.lean ====
section
/-! DEFINITION. Scalar floating-point instructions (12 R258, R269 to R273). -/

namespace Sys2Proof.Machine

/-- The format of a type; .F64 stands in where the type has none. -/
def fmtOf (ty : Ty) : FloatFmt := (floatFmt? ty).getD ⟨11, 52, 1023, .ieee⟩

/-- The value of a scalar register at a type, flushed under FTZ (R201, R258). -/
def State.rF (s : State) (ty : Ty) (r : Nat) : Num := flushOperand s.me.ftz ty (fmtOf ty) (s.rS r).toNat

/-- A rounded result: its code and status bits, `inv` those of the operation itself (R198, R201). -/
def floatResult (ty : Ty) (rm : Rnd) (sat ftz : Bool) (x : Num) (inv : Nat) : Nat × Nat :=
  let r := flushResult ftz ty (fmtOf ty) ((fmtOf ty).convert rm sat x)
  (r.1, r.2 ||| inv)

/-- Deliver a rounded result to s[d], zero-extended, with its status (R258, R270). -/
def floatDone (ty : Ty) (rm : Rnd) (sat : Bool) (d : Nat) (x : Num) (inv : Nat) (s : State) : Eff :=
  let r := floatResult ty rm sat s.me.ftz x inv
  .done ((s.wS d (BitVec.ofNat 64 r.1)).setFlags r.2)

/-- FADD and FSUB (R270). -/
def floatAdd (negate : Bool) (ty : Ty) (rm : Rnd) (d a b : Nat) (s : State) : Eff :=
  let y := s.rF ty b
  let r := addNum rm (s.rF ty a) (if negate then y.neg else y)
  floatDone ty rm false d r.1 (flagIf r.2 flagNV) s

/-- x × y + z, rounded once, and its NV (R270). -/
def fmaNum (rm : Rnd) (x y z : Num) : Num × Bool :=
  let p := mulNum x y
  let r := addNum rm p.1 z
  (r.1, p.2 || r.2)

/-- FMIN and FMAX (R202, R271): the operand's bits, flushed when it is. -/
def floatMinMax (isMax : Bool) (ty : Ty) (d a b : Nat) (s : State) : Eff :=
  let f := fmtOf ty
  let bits := fun r =>
    let v := (s.rS r).toNat % 2 ^ f.bits
    if s.me.ftz && flushes ty && f.subnormal v then f.withSign (v.testBit (f.exp + f.man)) 0 else v
  let v := match pickMinMax isMax (s.rF ty a) (s.rF ty b) with
    | none => f.nanCode?.getD 0
    | some true => bits a
    | some false => bits b
  .done (s.wS d (BitVec.ofNat 64 v))

/-- FABS and FNEG: the sign bit alone (R271). -/
def floatSign (flip : Bool) (ty : Ty) (d a : Nat) (s : State) : Eff :=
  let w := tyBits ty
  let v := (s.rS a).toNat % 2 ^ w
  .done (s.wS d (BitVec.ofNat 64 (if flip then v ^^^ 2 ^ (w - 1) else v % 2 ^ (w - 1))))

/-- Whether an integer type is signed (R186). -/
def isSignedInt (ty : Ty) : Bool := match intFmt? ty with | some (_, sg) => sg | none => false

/-- FCVTI's register form of an integer result: .I32 sign-extended, .UINT32 zero-extended (R273). -/
def intToReg (ty : Ty) (i : Int) : Word :=
  match ty with
  | .i32 => signExtend64 32 (ofSigned 32 i)
  | .uint32 => BitVec.ofNat 64 (ofSigned 32 i)
  | _ => BitVec.ofNat 64 (ofSigned 64 i)

/-- FADD (R270). -/
def execFadd (g : Guard) (ty : Ty) (rnd : Rnd) (d : Nat) (a : Nat) (b : Nat) (s : State) : Outcome :=
  runStrand 8 g (Uses.scalar [a, b] [d]) s fun s => floatAdd false ty rnd d a b s

/-- FSUB (R270). -/
def execFsub (g : Guard) (ty : Ty) (rnd : Rnd) (d : Nat) (a : Nat) (b : Nat) (s : State) : Outcome :=
  runStrand 8 g (Uses.scalar [a, b] [d]) s fun s => floatAdd true ty rnd d a b s

/-- FMUL (R270). -/
def execFmul (g : Guard) (ty : Ty) (rnd : Rnd) (d : Nat) (a : Nat) (b : Nat) (s : State) : Outcome :=
  runStrand 8 g (Uses.scalar [a, b] [d]) s fun s => floatDone ty rnd false d (mulNum (s.rF ty a) (s.rF ty b)).1 (flagIf (mulNum (s.rF ty a) (s.rF ty b)).2 flagNV) s

/-- FFMA: one rounding (R270). -/
def execFfma (g : Guard) (ty : Ty) (rnd : Rnd) (d : Nat) (a : Nat) (b : Nat) (c : Nat) (s : State) : Outcome :=
  runStrand 8 g (Uses.scalar [a, b, c] [d]) s fun s => floatDone ty rnd false d (fmaNum rnd (s.rF ty a) (s.rF ty b) (s.rF ty c)).1 (flagIf (fmaNum rnd (s.rF ty a) (s.rF ty b) (s.rF ty c)).2 flagNV) s

/-- FDIV (R270). -/
def execFdiv (g : Guard) (ty : Ty) (rnd : Rnd) (d : Nat) (a : Nat) (b : Nat) (s : State) : Outcome :=
  runStrand 8 g (Uses.scalar [a, b] [d]) s fun s => floatDone ty rnd false d (divNum (s.rF ty a) (s.rF ty b)).1 (divNum (s.rF ty a) (s.rF ty b)).2 s

/-- FSQRT (R270). -/
def execFsqrt (g : Guard) (ty : Ty) (rnd : Rnd) (d : Nat) (a : Nat) (s : State) : Outcome :=
  runStrand 8 g (Uses.scalar [a] [d]) s fun s => floatDone ty rnd false d (sqrtNum (s.rF ty a)).1 (sqrtNum (s.rF ty a)).2 s

/-- FMIN (R271). -/
def execFmin (g : Guard) (ty : Ty) (d : Nat) (a : Nat) (b : Nat) (s : State) : Outcome :=
  runStrand 8 g (Uses.scalar [a, b] [d]) s fun s => floatMinMax false ty d a b s

/-- FMAX (R271). -/
def execFmax (g : Guard) (ty : Ty) (d : Nat) (a : Nat) (b : Nat) (s : State) : Outcome :=
  runStrand 8 g (Uses.scalar [a, b] [d]) s fun s => floatMinMax true ty d a b s

/-- FABS (R271). -/
def execFabs (g : Guard) (ty : Ty) (d : Nat) (a : Nat) (s : State) : Outcome :=
  runStrand 8 g (Uses.scalar [a] [d]) s fun s => floatSign false ty d a s

/-- FNEG (R271). -/
def execFneg (g : Guard) (ty : Ty) (d : Nat) (a : Nat) (s : State) : Outcome :=
  runStrand 8 g (Uses.scalar [a] [d]) s fun s => floatSign true ty d a s

/-- FCMP (R272). -/
def execFcmp (g : Guard) (ty : Ty) (cond : Cond) (pt : Nat) (pf : Nat) (a : Nat) (b : Nat) (s : State) : Outcome :=
  runStrand 8 g (Uses.scalar [a, b] []) s fun s => .done (s.wPair pt pf (floatCond cond (s.rF ty a) (s.rF ty b)))

/-- FCVT (R198, R273). -/
def execFcvt (g : Guard) (ty : Ty) (rnd : Rnd) (sat : Bool) (d : Nat) (a : Nat) (src : Ty) (s : State) : Outcome :=
  runStrand 8 g (Uses.scalar [a] [d]) s fun s => floatDone ty rnd sat d (s.rF src a) 0 s

/-- ICVT: one rounding from the integer (R199, R273). -/
def execIcvt (g : Guard) (ty : Ty) (rnd : Rnd) (sat : Bool) (d : Nat) (a : Nat) (src : Ty) (s : State) : Outcome :=
  runStrand 8 g (Uses.scalar [a] [d]) s fun s => floatDone ty rnd sat d (elemValue src [] (s.rS a).toNat) 0 s

/-- FCVTI (R199, R273). -/
def execFcvti (g : Guard) (ty : Ty) (rnd : Rnd) (d : Nat) (a : Nat) (src : Ty) (s : State) : Outcome :=
  runStrand 8 g (Uses.scalar [a] [d]) s fun s => .done ((s.wS d (intToReg ty (numToInt (tyBits ty) (isSignedInt ty) rnd (s.rF src a)).1)).setFlags (numToInt (tyBits ty) (isSignedInt ty) rnd (s.rF src a)).2)

end Sys2Proof.Machine
end

