-- ==== Sys2Proof/Machine/Integer.lean ====
section
/-! DEFINITION. Integer, bit-field, move, select, compare and predicate instructions (12 R256 to R268). -/

namespace Sys2Proof.Machine

/-- The members of the integer family (R259). -/
inductive IntOp where
  | add | sub | mul | mulh | mulhu | div | divu | rem | remu | and | or | xor | andn | orn
  | shl | shr | sra | rotl | min | max | minu | maxu
  deriving DecidableEq, Repr

/-- Width of an integer operation (R259). -/
def intWidth (ty : Ty) : Nat := match ty with | .i32 => 32 | _ => 64

/-- Op(x, y) of R259, exact, with the cases of R260 for a zero divisor and the most negative quotient; with .SAT the
operands enter as the type reads them. -/
def intExact (op : IntOp) (w : Nat) (asSigned : Bool) (x y : Nat) : Int :=
  let sx := toSigned w x
  let sy := toSigned w y
  let ex : Int := if asSigned then sx else (x : Int)
  let ey : Int := if asSigned then sy else (y : Int)
  let n := y % w
  match op with
  | .add => ex + ey
  | .sub => ex - ey
  | .mul => ex * ey
  | .mulh => sx * sy / ((2 ^ w : Nat) : Int)
  | .mulhu => ((x * y / 2 ^ w : Nat) : Int)
  | .div => if y = 0 then ((2 ^ w - 1 : Nat) : Int) else Int.tdiv sx sy
  | .divu => if y = 0 then ((2 ^ w - 1 : Nat) : Int) else ((x / y : Nat) : Int)
  | .rem => if y = 0 then (x : Int) else sx - sy * Int.tdiv sx sy
  | .remu => if y = 0 then (x : Int) else ((x % y : Nat) : Int)
  | .and => ((x &&& y : Nat) : Int)
  | .or => ((x ||| y : Nat) : Int)
  | .xor => ((x ^^^ y : Nat) : Int)
  | .andn => ((x &&& (2 ^ w - 1 - y) : Nat) : Int)
  | .orn => ((x ||| (2 ^ w - 1 - y) : Nat) : Int)
  | .shl => ((x * 2 ^ n : Nat) : Int)
  | .shr => ((x / 2 ^ n : Nat) : Int)
  | .sra => sx / ((2 ^ n : Nat) : Int)
  | .rotl => ((x * 2 ^ n % 2 ^ w + x / 2 ^ (w - n) : Nat) : Int)
  | .min => if sx ≤ sy then sx else sy
  | .max => if sx ≤ sy then sy else sx
  | .minu => if x ≤ y then (x : Int) else (y : Int)
  | .maxu => if x ≤ y then (y : Int) else (x : Int)

/-- The result of a member over its low bits, sign-extended, and whether .SAT clamped it (R260). -/
def intResult (op : IntOp) (ty : Ty) (sat : Bool) (x y : Nat) : Word × Bool :=
  let w := intWidth ty
  let sg := match ty with | .u64 => false | _ => true
  let e := intExact op w (sat && sg) (x % 2 ^ w) (y % 2 ^ w)
  let c := if sat then clampInt w sg e else (e, false)
  (signExtend64 w (ofSigned w c.1), c.2)

/-- A member on two registers. -/
def intReg (op : IntOp) (ty : Ty) (sat : Bool) (d a b : Nat) (s : State) : Eff :=
  let r := intResult op ty sat (s.rS a).toNat (s.rS b).toNat
  .done ((s.wS d r.1).setFlags (flagIf r.2 flagSAT))

/-- An I form: register and immediate. -/
def intImm (op : IntOp) (ty : Ty) (sat : Bool) (d a : Nat) (imm : Int) (s : State) : Eff :=
  let r := intResult op ty sat (s.rS a).toNat (ofSigned 64 imm)
  .done ((s.wS d r.1).setFlags (flagIf r.2 flagSAT))

/-- Leading zero bits of the low `w` bits (R262). -/
def countLeading (w v : Nat) : Nat := if v % 2 ^ w = 0 then w else w - 1 - Nat.log2 (v % 2 ^ w)
/-- Trailing zero bits. -/
def countTrailing (w v : Nat) : Nat := ((upTo w).find? fun i => v.testBit i).getD w
/-- Bits that are 1. -/
def countOnes (w v : Nat) : Nat := ((upTo w).filter fun i => v.testBit i).length
/-- The bits in reverse order. -/
def reverseBits (w v : Nat) : Nat := (upTo w).foldl (fun acc i => if v.testBit i then acc + 2 ^ (w - 1 - i) else acc) 0

/-- A count, zero-extended. -/
def bitCount (f : Nat → Nat → Nat) (ty : Ty) (d a : Nat) (s : State) : Eff :=
  .done (s.wS d (BitVec.ofNat 64 (f (intWidth ty) (s.rS a).toNat)))

/-- An integer condition at a type (R266). -/
def intCond (c : Cond) (ty : Ty) (x y : Word) : Bool :=
  let w := intWidth ty
  let ux := x.toNat % 2 ^ w
  let uy := y.toNat % 2 ^ w
  let sx := toSigned w ux
  let sy := toSigned w uy
  match c with
  | .eq => ux == uy
  | .ne => ux != uy
  | .lt => decide (sx < sy)
  | .le => decide (sx ≤ sy)
  | .gt => decide (sy < sx)
  | .ge => decide (sy ≤ sx)
  | .ltu => decide (ux < uy)
  | .leu => decide (ux ≤ uy)
  | .gtu => decide (uy < ux)
  | .geu => decide (uy ≤ ux)
  | _ => false

/-- Predicates k = 1 to 15 from bits of a value under a mask (R268). -/
def setPredicates (p : BitVec 16) (v m : Word) : BitVec 16 :=
  let keep := 65535 - (m.toNat % 65536) / 2 * 2
  BitVec.ofNat 16 ((p.toNat &&& keep) + ((v.toNat &&& m.toNat) % 65536) / 2 * 2)

/-- ADD, S form (R259, R260). -/
def execAdd (g : Guard) (d : Nat) (a : Nat) (b : Nat) (s : State) : Outcome :=
  runStrand 4 g (Uses.scalar [a, b] [d]) s fun s => intReg .add .i64 false d a b s

/-- ADD, L form (R259, R260). -/
def execAddLong (g : Guard) (ty : Ty) (sat : Bool) (d : Nat) (a : Nat) (b : Nat) (s : State) : Outcome :=
  runStrand 8 g (Uses.scalar [a, b] [d]) s fun s => intReg .add ty sat d a b s

/-- SUB, S form (R259, R260). -/
def execSub (g : Guard) (d : Nat) (a : Nat) (b : Nat) (s : State) : Outcome :=
  runStrand 4 g (Uses.scalar [a, b] [d]) s fun s => intReg .sub .i64 false d a b s

/-- SUB, L form (R259, R260). -/
def execSubLong (g : Guard) (ty : Ty) (sat : Bool) (d : Nat) (a : Nat) (b : Nat) (s : State) : Outcome :=
  runStrand 8 g (Uses.scalar [a, b] [d]) s fun s => intReg .sub ty sat d a b s

/-- MUL, L form (R259, R260). -/
def execMul (g : Guard) (ty : Ty) (sat : Bool) (d : Nat) (a : Nat) (b : Nat) (s : State) : Outcome :=
  runStrand 8 g (Uses.scalar [a, b] [d]) s fun s => intReg .mul ty sat d a b s

/-- MULH, L form (R259, R260). -/
def execMulh (g : Guard) (ty : Ty) (d : Nat) (a : Nat) (b : Nat) (s : State) : Outcome :=
  runStrand 8 g (Uses.scalar [a, b] [d]) s fun s => intReg .mulh ty false d a b s

/-- MULHU, L form (R259, R260). -/
def execMulhu (g : Guard) (ty : Ty) (d : Nat) (a : Nat) (b : Nat) (s : State) : Outcome :=
  runStrand 8 g (Uses.scalar [a, b] [d]) s fun s => intReg .mulhu ty false d a b s

/-- DIV, L form (R259, R260). -/
def execDiv (g : Guard) (ty : Ty) (d : Nat) (a : Nat) (b : Nat) (s : State) : Outcome :=
  runStrand 8 g (Uses.scalar [a, b] [d]) s fun s => intReg .div ty false d a b s

/-- DIVU, L form (R259, R260). -/
def execDivu (g : Guard) (ty : Ty) (d : Nat) (a : Nat) (b : Nat) (s : State) : Outcome :=
  runStrand 8 g (Uses.scalar [a, b] [d]) s fun s => intReg .divu ty false d a b s

/-- REM, L form (R259, R260). -/
def execRem (g : Guard) (ty : Ty) (d : Nat) (a : Nat) (b : Nat) (s : State) : Outcome :=
  runStrand 8 g (Uses.scalar [a, b] [d]) s fun s => intReg .rem ty false d a b s

/-- REMU, L form (R259, R260). -/
def execRemu (g : Guard) (ty : Ty) (d : Nat) (a : Nat) (b : Nat) (s : State) : Outcome :=
  runStrand 8 g (Uses.scalar [a, b] [d]) s fun s => intReg .remu ty false d a b s

/-- AND, S form (R259, R260). -/
def execAnd (g : Guard) (d : Nat) (a : Nat) (b : Nat) (s : State) : Outcome :=
  runStrand 4 g (Uses.scalar [a, b] [d]) s fun s => intReg .and .i64 false d a b s

/-- AND, L form (R259, R260). -/
def execAndLong (g : Guard) (ty : Ty) (d : Nat) (a : Nat) (b : Nat) (s : State) : Outcome :=
  runStrand 8 g (Uses.scalar [a, b] [d]) s fun s => intReg .and ty false d a b s

/-- OR, S form (R259, R260). -/
def execOr (g : Guard) (d : Nat) (a : Nat) (b : Nat) (s : State) : Outcome :=
  runStrand 4 g (Uses.scalar [a, b] [d]) s fun s => intReg .or .i64 false d a b s

/-- OR, L form (R259, R260). -/
def execOrLong (g : Guard) (ty : Ty) (d : Nat) (a : Nat) (b : Nat) (s : State) : Outcome :=
  runStrand 8 g (Uses.scalar [a, b] [d]) s fun s => intReg .or ty false d a b s

/-- XOR, S form (R259, R260). -/
def execXor (g : Guard) (d : Nat) (a : Nat) (b : Nat) (s : State) : Outcome :=
  runStrand 4 g (Uses.scalar [a, b] [d]) s fun s => intReg .xor .i64 false d a b s

/-- XOR, L form (R259, R260). -/
def execXorLong (g : Guard) (ty : Ty) (d : Nat) (a : Nat) (b : Nat) (s : State) : Outcome :=
  runStrand 8 g (Uses.scalar [a, b] [d]) s fun s => intReg .xor ty false d a b s

/-- ANDN, L form (R259, R260). -/
def execAndn (g : Guard) (ty : Ty) (d : Nat) (a : Nat) (b : Nat) (s : State) : Outcome :=
  runStrand 8 g (Uses.scalar [a, b] [d]) s fun s => intReg .andn ty false d a b s

/-- ORN, L form (R259, R260). -/
def execOrn (g : Guard) (ty : Ty) (d : Nat) (a : Nat) (b : Nat) (s : State) : Outcome :=
  runStrand 8 g (Uses.scalar [a, b] [d]) s fun s => intReg .orn ty false d a b s

/-- SHL, L form (R259, R260). -/
def execShl (g : Guard) (ty : Ty) (d : Nat) (a : Nat) (b : Nat) (s : State) : Outcome :=
  runStrand 8 g (Uses.scalar [a, b] [d]) s fun s => intReg .shl ty false d a b s

/-- SHR, L form (R259, R260). -/
def execShr (g : Guard) (ty : Ty) (d : Nat) (a : Nat) (b : Nat) (s : State) : Outcome :=
  runStrand 8 g (Uses.scalar [a, b] [d]) s fun s => intReg .shr ty false d a b s

/-- SRA, L form (R259, R260). -/
def execSra (g : Guard) (ty : Ty) (d : Nat) (a : Nat) (b : Nat) (s : State) : Outcome :=
  runStrand 8 g (Uses.scalar [a, b] [d]) s fun s => intReg .sra ty false d a b s

/-- ROTL, L form (R259, R260). -/
def execRotl (g : Guard) (ty : Ty) (d : Nat) (a : Nat) (b : Nat) (s : State) : Outcome :=
  runStrand 8 g (Uses.scalar [a, b] [d]) s fun s => intReg .rotl ty false d a b s

/-- MIN, S form (R259, R260). -/
def execMin (g : Guard) (d : Nat) (a : Nat) (b : Nat) (s : State) : Outcome :=
  runStrand 4 g (Uses.scalar [a, b] [d]) s fun s => intReg .min .i64 false d a b s

/-- MIN, L form (R259, R260). -/
def execMinLong (g : Guard) (ty : Ty) (d : Nat) (a : Nat) (b : Nat) (s : State) : Outcome :=
  runStrand 8 g (Uses.scalar [a, b] [d]) s fun s => intReg .min ty false d a b s

/-- MAX, S form (R259, R260). -/
def execMax (g : Guard) (d : Nat) (a : Nat) (b : Nat) (s : State) : Outcome :=
  runStrand 4 g (Uses.scalar [a, b] [d]) s fun s => intReg .max .i64 false d a b s

/-- MAX, L form (R259, R260). -/
def execMaxLong (g : Guard) (ty : Ty) (d : Nat) (a : Nat) (b : Nat) (s : State) : Outcome :=
  runStrand 8 g (Uses.scalar [a, b] [d]) s fun s => intReg .max ty false d a b s

/-- MINU, L form (R259, R260). -/
def execMinu (g : Guard) (ty : Ty) (d : Nat) (a : Nat) (b : Nat) (s : State) : Outcome :=
  runStrand 8 g (Uses.scalar [a, b] [d]) s fun s => intReg .minu ty false d a b s

/-- MAXU, L form (R259, R260). -/
def execMaxu (g : Guard) (ty : Ty) (d : Nat) (a : Nat) (b : Nat) (s : State) : Outcome :=
  runStrand 8 g (Uses.scalar [a, b] [d]) s fun s => intReg .maxu ty false d a b s

/-- ADDI, S form (R259, R261). -/
def execAddi (g : Guard) (d : Nat) (a : Nat) (imm : Int) (s : State) : Outcome :=
  runStrand 4 g (Uses.scalar [a] [d]) s fun s => intImm .add .i64 false d a imm s

/-- ADDI, L form (R259, R261). -/
def execAddiLong (g : Guard) (ty : Ty) (sat : Bool) (d : Nat) (a : Nat) (imm : Int) (s : State) : Outcome :=
  runStrand 8 g (Uses.scalar [a] [d]) s fun s => intImm .add ty sat d a imm s

/-- ADDI, X form (R259, R261). -/
def execAddiExt (g : Guard) (ty : Ty) (sat : Bool) (d : Nat) (a : Nat) (imm : Int) (s : State) : Outcome :=
  runStrand 12 g (Uses.scalar [a] [d]) s fun s => intImm .add ty sat d a imm s

/-- SHLI, S form (R259, R261). -/
def execShli (g : Guard) (d : Nat) (a : Nat) (n : Nat) (s : State) : Outcome :=
  runStrand 4 g (Uses.scalar [a] [d]) s fun s => intImm .shl .i64 false d a n s

/-- SHLI, L form (R259, R261). -/
def execShliLong (g : Guard) (ty : Ty) (d : Nat) (a : Nat) (n : Nat) (s : State) : Outcome :=
  runStrand 8 g (Uses.scalar [a] [d]) s fun s => intImm .shl ty false d a n s

/-- SHRI, S form (R259, R261). -/
def execShri (g : Guard) (d : Nat) (a : Nat) (n : Nat) (s : State) : Outcome :=
  runStrand 4 g (Uses.scalar [a] [d]) s fun s => intImm .shr .i64 false d a n s

/-- SHRI, L form (R259, R261). -/
def execShriLong (g : Guard) (ty : Ty) (d : Nat) (a : Nat) (n : Nat) (s : State) : Outcome :=
  runStrand 8 g (Uses.scalar [a] [d]) s fun s => intImm .shr ty false d a n s

/-- SRAI, S form (R259, R261). -/
def execSrai (g : Guard) (d : Nat) (a : Nat) (n : Nat) (s : State) : Outcome :=
  runStrand 4 g (Uses.scalar [a] [d]) s fun s => intImm .sra .i64 false d a n s

/-- SRAI, L form (R259, R261). -/
def execSraiLong (g : Guard) (ty : Ty) (d : Nat) (a : Nat) (n : Nat) (s : State) : Outcome :=
  runStrand 8 g (Uses.scalar [a] [d]) s fun s => intImm .sra ty false d a n s

/-- CLZ (R262). -/
def execClz (g : Guard) (ty : Ty) (d : Nat) (a : Nat) (s : State) : Outcome :=
  runStrand 8 g (Uses.scalar [a] [d]) s fun s => bitCount countLeading ty d a s

/-- CTZ (R262). -/
def execCtz (g : Guard) (ty : Ty) (d : Nat) (a : Nat) (s : State) : Outcome :=
  runStrand 8 g (Uses.scalar [a] [d]) s fun s => bitCount countTrailing ty d a s

/-- POPC (R262). -/
def execPopc (g : Guard) (ty : Ty) (d : Nat) (a : Nat) (s : State) : Outcome :=
  runStrand 8 g (Uses.scalar [a] [d]) s fun s => bitCount countOnes ty d a s

/-- BREV, sign-extended from w bits (R262). -/
def execBrev (g : Guard) (ty : Ty) (d : Nat) (a : Nat) (s : State) : Outcome :=
  runStrand 8 g (Uses.scalar [a] [d]) s fun s => .done (s.wS d (signExtend64 (intWidth ty) (reverseBits (intWidth ty) (s.rS a).toNat)))

/-- BFX (R263). -/
def execBfx (g : Guard) (pos : Nat) (len : Nat) (d : Nat) (a : Nat) (s : State) : Outcome :=
  runStrand 8 g (Uses.scalar [a] [d]) s fun s => .done (s.wS d (signExtend64 len (bvField (s.rS a) pos len)))

/-- BFXU (R263). -/
def execBfxu (g : Guard) (pos : Nat) (len : Nat) (d : Nat) (a : Nat) (s : State) : Outcome :=
  runStrand 8 g (Uses.scalar [a] [d]) s fun s => .done (s.wS d (BitVec.ofNat 64 (bvField (s.rS a) pos len)))

/-- BFI: s[d] is a source too (R263). -/
def execBfi (g : Guard) (pos : Nat) (len : Nat) (d : Nat) (a : Nat) (s : State) : Outcome :=
  runStrand 8 g (Uses.scalar [d, a] [d]) s fun s => .done (s.wS d (bvSetField (s.rS d) pos len (s.rS a).toNat))

/-- SEXT (R263). -/
def execSext (g : Guard) (k : Nat) (d : Nat) (a : Nat) (s : State) : Outcome :=
  runStrand 8 g (Uses.scalar [a] [d]) s fun s => .done (s.wS d (signExtend64 k (s.rS a).toNat))

/-- ZEXT (R263). -/
def execZext (g : Guard) (k : Nat) (d : Nat) (a : Nat) (s : State) : Outcome :=
  runStrand 8 g (Uses.scalar [a] [d]) s fun s => .done (s.wS d (BitVec.ofNat 64 (bvField (s.rS a) 0 k)))

/-- SEL, S form: by p1 (R265). -/
def execSel (g : Guard) (d : Nat) (a : Nat) (b : Nat) (s : State) : Outcome :=
  runStrand 4 g (Uses.scalar [a, b] [d]) s fun s => .done (s.wS d (if s.rP 1 then s.rS a else s.rS b))

/-- SEL, L form: by p[c] (R265). -/
def execSelLong (g : Guard) (d : Nat) (a : Nat) (b : Nat) (c : Nat) (s : State) : Outcome :=
  runStrand 8 g (Uses.scalar [a, b] [d]) s fun s => .done (s.wS d (if s.rP c then s.rS a else s.rS b))

/-- MOV, S form (R264). -/
def execMov (g : Guard) (d : Nat) (a : Nat) (s : State) : Outcome :=
  runStrand 4 g (Uses.scalar [a] [d]) s fun s => .done (s.wS d (s.rS a))

/-- MOV, L form (R264). -/
def execMovLong (g : Guard) (d : Nat) (a : Nat) (s : State) : Outcome :=
  runStrand 8 g (Uses.scalar [a] [d]) s fun s => .done (s.wS d (s.rS a))

/-- MOVI, L form (R264). -/
def execMovi (g : Guard) (d : Nat) (imm : Int) (s : State) : Outcome :=
  runStrand 8 g (Uses.scalar [] [d]) s fun s => .done (s.wS d (BitVec.ofInt 64 imm))

/-- MOVI, X form (R264). -/
def execMoviExt (g : Guard) (d : Nat) (imm : Int) (s : State) : Outcome :=
  runStrand 12 g (Uses.scalar [] [d]) s fun s => .done (s.wS d (BitVec.ofInt 64 imm))

/-- MOVHI, L form (R264). -/
def execMovhi (g : Guard) (d : Nat) (imm : Int) (s : State) : Outcome :=
  runStrand 8 g (Uses.scalar [d] [d]) s fun s => .done (s.wS d (bvSetField (s.rS d) 32 32 (ofSigned 32 imm)))

/-- MOVHI, X form (R264). -/
def execMovhiExt (g : Guard) (d : Nat) (imm : Int) (s : State) : Outcome :=
  runStrand 12 g (Uses.scalar [d] [d]) s fun s => .done (s.wS d (bvSetField (s.rS d) 32 32 (ofSigned 32 imm)))

/-- CMP, L form (R266). -/
def execCmp (g : Guard) (ty : Ty) (cond : Cond) (pt : Nat) (pf : Nat) (a : Nat) (b : Nat) (s : State) : Outcome :=
  runStrand 8 g (Uses.scalar [a, b] []) s fun s => .done (s.wPair pt pf (intCond cond ty (s.rS a) (s.rS b)))

/-- CMP, X form (R266). -/
def execCmpExt (g : Guard) (ty : Ty) (cond : Cond) (pt : Nat) (pf : Nat) (a : Nat) (imm : Int) (s : State) : Outcome :=
  runStrand 12 g (Uses.scalar [a] []) s fun s => .done (s.wPair pt pf (intCond cond ty (s.rS a) (BitVec.ofInt 64 imm)))

/-- PAND (R267). -/
def execPand (g : Guard) (d : Nat) (a : Nat) (b : Nat) (s : State) : Outcome :=
  runStrand 8 g (Uses.none) s fun s => .done (s.wP d (s.rP a && s.rP b))

/-- POR (R267). -/
def execPor (g : Guard) (d : Nat) (a : Nat) (b : Nat) (s : State) : Outcome :=
  runStrand 8 g (Uses.none) s fun s => .done (s.wP d (s.rP a || s.rP b))

/-- PXOR (R267). -/
def execPxor (g : Guard) (d : Nat) (a : Nat) (b : Nat) (s : State) : Outcome :=
  runStrand 8 g (Uses.none) s fun s => .done (s.wP d (s.rP a != s.rP b))

/-- PANDN (R267). -/
def execPandn (g : Guard) (d : Nat) (a : Nat) (b : Nat) (s : State) : Outcome :=
  runStrand 8 g (Uses.none) s fun s => .done (s.wP d (s.rP a && !(s.rP b)))

/-- PSET (R268). -/
def execPset (g : Guard) (a : Nat) (b : Nat) (s : State) : Outcome :=
  runStrand 8 g (Uses.scalar [a, b] []) s fun s => .done (s.setMe { s.me with p := setPredicates s.me.p (s.rS a) (s.rS b) })

/-- PGET: bit 0 reads 1 (R268). -/
def execPget (g : Guard) (d : Nat) (s : State) : Outcome :=
  runStrand 8 g (Uses.scalar [] [d]) s fun s => .done (s.wS d (BitVec.ofNat 64 (s.me.p.toNat / 2 * 2 + 1)))

end Sys2Proof.Machine
end

