-- ==== Sys2Proof/Machine/Vectors.lean ====
section
/-! DEFINITION. The vector engine and the piecewise function unit (14 R315 to R333, R336, R337). -/

namespace Sys2Proof.Machine

/-! ## Shapes and elements (R315, R316) -/

/-- The fields of VSHAPE. -/
structure Shape where
  ty   : Ty
  rows : Nat
  cols : Nat
  deriving DecidableEq, Repr

/-- Elements of a shape, and bits of one. -/
def Shape.count (h : Shape) : Nat := h.rows * h.cols
def Shape.width (h : Shape) : Nat := tyBits h.ty

/-- The shape through which the executing strand reads registers. -/
def State.shape (s : State) : Shape := ⟨shapeTy s.me.vshape, shapeRows s.me.vshape, shapeCols s.me.vshape⟩

/-- Element bits of v[a], row by row. -/
def State.els (s : State) (h : Shape) (a : Nat) : List Nat := unpackElems h.width h.count (s.here.vec a).toNat

/-- The scale bytes of block `b` of v[a]. -/
def State.blockScales (s : State) (ty : Ty) (a b : Nat) : List Nat :=
  let n := scalesPerBlock ty
  (upTo n).map fun j => bitsAt (s.here.sidecar a).toNat (8 * (n * b + j)) 8

/-- Exact values of the elements of v[a], scales applied (R204). -/
def State.values (s : State) (h : Shape) (a : Nat) : List Num :=
  (s.els h a).zipIdx.map fun p => elemValue h.ty (s.blockScales h.ty a (p.2 / 32)) p.1

/-- Elements of `w` bits into v[d]; the sidecar is written as zero (R321). -/
def State.putEls (s : State) (d w : Nat) (els : List Nat) : State :=
  (s.putVec s.cur.1 d (w * els.length) (packElems w els)).putSide s.cur.1 d 256 0

/-- Elements and scales of a block format into v[d] (R321). -/
def State.putBlocks (s : State) (d w : Nat) (els scales : List Nat) : State :=
  (s.putVec s.cur.1 d (w * els.length) (packElems w els)).putSide s.cur.1 d scales.length (packElems 8 scales)

/-- The classes of R320. -/
def isFlt (ty : Ty) : Bool := match ty with | .f64 => true | .f32 => true | .f16 => true | .bf16 => true | _ => false
def isInt (ty : Ty) : Bool := (intFmt? ty).isSome
def isRaw (ty : Ty) : Bool := !(isBlockTy ty)
/-- The plain floating formats of 8, 6 and 4 bits. -/
def isSmallFloat (ty : Ty) : Bool := (floatFmt? ty).isSome && !(isFlt ty)

/-- The machine check of the scales a block instruction reads (R216). -/
def State.scaleCheck (s : State) (h : Shape) (srcs : List Nat) : Option Exc :=
  if s.poison.isEmpty then none
  else
    let n := (h.count / 32 * scalesPerBlock h.ty + 7) / 8
    (srcs.find? fun a => (upTo n).any fun w => s.isPoisoned (.vreg s.cur.1 a (256 + w)) &&
      (s.here.streamOf a).isNone).map fun a => Exc.of codeMCHECK 3 (BitVec.ofNat 64 (2 ^ 63 + a))

/-- The machine check of the accumulator of a dot product, `n` bits of v[c] (R216, R322). -/
def State.accCheck (s : State) (c n : Nat) (e : Eff) : Eff :=
  if s.vregPoisoned s.cur.1 c ((n + 63) / 64) then .trap s (Exc.of codeMCHECK 3 (BitVec.ofNat 64 (2 ^ 63 + c))) else e

/-- A vector instruction on the formats it accepts (R320, R322). -/
def vectorOp (accepts : Ty → Bool) (srcs dsts : List Nat) (s : State) (body : Shape → State → Eff) : Eff :=
  let h := s.shape
  if !(accepts h.ty) then .trap s (Exc.illop 9)
  else withStreams srcs dsts s fun s =>
    match body h s with
    | .done t => (match s.scaleCheck h srcs with | some e => .trap s e | none => .done t)
    | e => e

/-- FPCTL.RM for .DYN (R319). -/
def State.rounding (s : State) (r : Rnd) : Rnd := match r with | .dyn => s.me.rm | _ => r

/-! ## VSHAPE, moves and single elements (R317, R323) -/

/-- A legal VSHAPE value (R315). -/
def shapeLegal (v : Nat) : Bool := wfShape v

/-- VSHAPE (R317). -/
def setShape (v : Nat) (s : State) : Eff :=
  if shapeLegal v then .done (s.setMe { s.me with vshape := BitVec.ofNat 32 v }) else .trap s (Exc.illop 9)

/-- VMOV (R323). -/
def vectorMove (d a : Nat) (s : State) : Eff :=
  withStreams [a] [d] s fun s =>
    match s.wholeCheck a with
    | some e => .trap s e
    | none => .done (s.putWhole d (s.here.vec a) (s.here.sidecar a))

/-- VBCAST (R323). -/
def broadcast (d : Nat) (v : Word) (s : State) : Eff :=
  vectorOp isRaw [] [d] s fun h s => .done (s.putEls d h.width (List.replicate h.count (v.toNat % 2 ^ h.width)))

/-- The index of the element that a position names, or its fault (R323). -/
def elementAt (h : Shape) (p : Word) : Except Exc Nat :=
  let col := bvField p 0 13
  let row := bvField p 16 9
  if bvField p 13 3 ≠ 0 ∨ p.toNat / 2 ^ 25 ≠ 0 then .error (Exc.illop 9)
  else if h.cols ≤ col then .error (Exc.of codeBOUNDS 0 (boundsArg 0 col))
  else if h.rows ≤ row then .error (Exc.of codeBOUNDS 0 (boundsArg 1 row))
  else .ok (row * h.cols + col)

/-- How VEXT fills a register: sign extension for the signed integer codes (R323). -/
def fillElem (ty : Ty) (v : Nat) : Word :=
  match intFmt? ty with
  | some (w, true) => signExtend64 w v
  | _ => BitVec.ofNat 64 (v % 2 ^ tyBits ty)

/-- VEXT (R323). -/
def extractElem (d a b : Nat) (s : State) : Eff :=
  let h := s.shape
  withStreams [a] [] s fun s =>
    match elementAt h (s.rS b) with
    | .error e => .trap s e
    | .ok i => .done (s.wS d (fillElem h.ty (bitsAt (s.here.vec a).toNat (i * h.width) h.width)))

/-- Word `k` of a register lies whole in the elements of `w` bits with these numbers. -/
def wordCovered (w : Nat) (xs : List Nat) (k : Nat) : Bool :=
  (upTo ((64 * k + 63) / w + 1 - 64 * k / w)).all fun i => xs.contains (64 * k / w + i)

/-- Some elements of v[d] replaced; its other bits and its sidecar stay, and words written whole lose their poison (R215). -/
def State.pokeEls (s : State) (d w : Nat) (xs : List (Nat × Nat)) : State :=
  let c := s.cur.1
  let s : State := if s.poison.isEmpty then s else { s with poison := s.poison.filter fun u =>
    match u with
    | .vreg c' v k => !(c == c' && d == v && decide (k < 256) && wordCovered w (xs.map fun x => x.1) k)
    | _ => true }
  xs.foldl (fun s x => s.setCore c { s.core c with
    v := mapPut (s.core c).v d (bvSetField ((s.core c).vec d) (w * x.1) w x.2) }) s

/-- VINS (R323). -/
def insertElem (d a b : Nat) (s : State) : Eff :=
  let h := s.shape
  withStreams [] [d] s fun s =>
    match elementAt h (s.rS b) with
    | .error e => .trap s e
    | .ok i => .done (s.pokeEls d h.width [(i, (s.rS a).toNat)])

/-! ## Floating arithmetic (R204, R324) -/

/-- The floating element-wise operations. -/
inductive FOp where
  | add | sub | mul | div | sqrt | rcp | rsq | fma | min | max
  deriving DecidableEq, Repr

/-- +1. -/
def oneNum : Num := .fin false 1 0 false

/-- Exact result of an operation on exact values, and its NV or DZ. -/
def FOp.num (op : FOp) (rm : Rnd) (x y z : Num) : Num × Nat :=
  match op with
  | .add => let r := addNum rm x y; (r.1, flagIf r.2 flagNV)
  | .sub => let r := addNum rm x y.neg; (r.1, flagIf r.2 flagNV)
  | .mul => let r := mulNum x y; (r.1, flagIf r.2 flagNV)
  | .div => divNum x y
  | .sqrt => sqrtNum x
  | .rcp => divNum oneNum x
  | .rsq => rsqrtNum x
  | .fma => let r := fmaNum rm x y z; (r.1, flagIf r.2 flagNV)
  | .min => ((match pickMinMax false x y with | none => .nan | some true => x | some false => y), 0)
  | .max => ((match pickMinMax true x y with | none => .nan | some true => x | some false => y), 0)

/-- The bits of an operand as it is read under FTZ (R201). -/
def flushBits (ftz : Bool) (ty : Ty) (v : Nat) : Nat :=
  let f := fmtOf ty
  if ftz && flushes ty && f.subnormal v then f.withSign (v.testBit (f.exp + f.man)) 0 else v

/-- Minimum or maximum of two codes (R202). -/
def minMaxBits (isMax ftz : Bool) (ty : Ty) (x y : Nat) : Nat :=
  let f := fmtOf ty
  match pickMinMax isMax (flushOperand ftz ty f x) (flushOperand ftz ty f y) with
  | none => f.nanCode?.getD 0
  | some true => flushBits ftz ty x
  | some false => flushBits ftz ty y

/-- One element at a FLT format: its code and status. -/
def FOp.bits (op : FOp) (ty : Ty) (rm : Rnd) (ftz : Bool) (x y z : Nat) : Nat × Nat :=
  match op with
  | .min => (minMaxBits false ftz ty x y, 0)
  | .max => (minMaxBits true ftz ty x y, 0)
  | _ =>
    let val := flushOperand ftz ty (fmtOf ty)
    let r := op.num rm (val x) (val y) (val z)
    floatResult ty rm false ftz r.1 r.2

/-- Status bits of several results together. -/
def joinFlags (fs : List Nat) : Nat := fs.foldl (fun a f => a ||| f) 0

/-- Values in blocks of 32, quantised: elements, scales, status (R192, R194); `fuel` bounds the blocks. -/
def quantVector (ty : Ty) : Nat → List Num → List Nat × List Nat × Nat
  | 0, _ => ([], [], 0)
  | _, [] => ([], [], 0)
  | fuel + 1, vs =>
    let b := quantBlock ty (vs.take 32)
    let r := quantVector ty fuel (vs.drop 32)
    (b.elems ++ r.1, b.scales ++ r.2.1, b.flags ||| r.2.2)

/-- Sources of an operation. -/
def FOp.sources (op : FOp) (a b c : Nat) : List Nat :=
  match op with | .sqrt => [a] | .rcp => [a] | .rsq => [a] | .fma => [a, b, c] | _ => [a, b]

/-- Element-wise floating arithmetic (R204, R324). -/
def floatVector (op : FOp) (rnd : Rnd) (d a b c : Nat) (s : State) : Eff :=
  let rm := s.rounding rnd
  vectorOp (fun ty => isFlt ty || isBlockTy ty) (op.sources a b c) [d] s fun h s =>
    if isBlockTy h.ty then
      let rs := (s.values h a).zip ((s.values h b).zip (s.values h c)) |>.map fun p =>
        let r := op.num rm p.1 p.2.1 p.2.2
        let w := roundWide rm r.1
        (w.1, r.2 ||| flagIf w.2 flagNX)
      let q := quantVector h.ty h.count (rs.map fun r => r.1)
      .done ((s.putBlocks d h.width q.1 q.2.1).setFlags (joinFlags (rs.map fun r => r.2) ||| q.2.2))
    else
      let rs := (s.els h a).zip ((s.els h b).zip (s.els h c)) |>.map fun p => op.bits h.ty rm s.me.ftz p.1 p.2.1 p.2.2
      .done ((s.putEls d h.width (rs.map fun r => r.1)).setFlags (joinFlags (rs.map fun r => r.2)))

/-- VABS and VNEG: the sign bit alone; the scales go with the elements (R324). -/
def signVector (flip : Bool) (d a : Nat) (s : State) : Eff :=
  vectorOp (fun ty => isFlt ty || isBlockTy ty || isSmallFloat ty) [a] [d] s fun h s =>
    let bit := if (dxWidth? h.ty).isSome then h.width - 2 else h.width - 1
    let one := fun (v : Nat) => if flip then v ^^^ 2 ^ bit else v - (v &&& 2 ^ bit)
    let els := (s.els h a).map one
    if isBlockTy h.ty then
      .done (s.putBlocks d h.width els ((upTo (h.count / 32)).flatMap (s.blockScales h.ty a)))
    else .done (s.putEls d h.width els)

/-! ## Integer and bitwise arithmetic (R325) -/

/-- The integer and bitwise element-wise operations. -/
inductive IOp where
  | add | sub | mul | min | max | and | or | xor | shl | shr | sra
  deriving DecidableEq, Repr

/-- One element of `w` bits, and whether it was clamped. -/
def IOp.bits (op : IOp) (w : Nat) (signed sat : Bool) (x y : Nat) : Nat × Bool :=
  let sx := intValue w signed x
  let sy := intValue w signed y
  let wrap := fun (i : Int) =>
    if sat then let c := clampInt w signed i; (ofSigned w c.1, c.2) else (ofSigned w i, false)
  let n := y % w
  match op with
  | .add => wrap (sx + sy)
  | .sub => wrap (sx - sy)
  | .mul => wrap (sx * sy)
  | .min => (if sy < sx then y else x, false)
  | .max => (if sx < sy then y else x, false)
  | .and => (x &&& y, false)
  | .or => (x ||| y, false)
  | .xor => (x ^^^ y, false)
  | .shl => (x * 2 ^ n % 2 ^ w, false)
  | .shr => (x / 2 ^ n, false)
  | .sra => (ofSigned w (toSigned w x / (2 ^ n : Nat)), false)

/-- Element-wise integer arithmetic (R325). -/
def intVector (op : IOp) (accepts : Ty → Bool) (sat : Bool) (d a b : Nat) (s : State) : Eff :=
  vectorOp accepts [a, b] [d] s fun h s =>
    let rs := ((s.els h a).zip (s.els h b)).map fun p => op.bits h.width (isSignedInt h.ty) sat p.1 p.2
    .done ((s.putEls d h.width (rs.map fun r => r.1)).setFlags (flagIf (rs.any fun r => r.2) flagSAT))

/-! ## Compare and select (R326, R327) -/

/-- Whether a condition belongs to the set of a format (R326). -/
def condFits (c : Cond) (ty : Ty) : Bool :=
  if isFlt ty then (match c with | .ltu => false | .leu => false | .gtu => false | .geu => false | _ => true)
  else (match c with | .ord => false | .uno => false | _ => true)

/-- A condition on two elements. -/
def elemCond (c : Cond) (ty : Ty) (ftz : Bool) (x y : Nat) : Bool :=
  if isFlt ty then floatCond c (flushOperand ftz ty (fmtOf ty) x) (flushOperand ftz ty (fmtOf ty) y)
  else
    let w := tyBits ty
    let sx := toSigned w x
    let sy := toSigned w y
    match c with
    | .eq => x == y
    | .ne => x != y
    | .lt => decide (sx < sy)
    | .le => decide (sx ≤ sy)
    | .gt => decide (sy < sx)
    | .ge => decide (sy ≤ sx)
    | .ltu => decide (x < y)
    | .leu => decide (x ≤ y)
    | .gtu => decide (y < x)
    | .geu => decide (y ≤ x)
    | _ => false

/-- VCMP (R326). -/
def vectorCompare (c : Cond) (pt pf m a b : Nat) (s : State) : Eff :=
  vectorOp (fun ty => (isFlt ty || isInt ty) && condFits c ty) [a, b] [m] s fun h s =>
    let ts := ((s.els h a).zip (s.els h b)).map fun p => elemCond c h.ty s.me.ftz p.1 p.2
    .done ((s.putEls m h.width (ts.map fun t => if t then 2 ^ h.width - 1 else 0)).wPair pt pf (ts.any id))

/-- VSEL (R327). -/
def vectorSelect (d m a b : Nat) (s : State) : Eff :=
  vectorOp isRaw [a, b, m] [d] s fun h s =>
    let rs := (s.els h m).zip ((s.els h a).zip (s.els h b)) |>.map fun p => if p.1 ≠ 0 then p.2.1 else p.2.2
    .done (s.putEls d h.width rs)

/-! ## Reductions and scans (R328) -/

/-- One step of VRED or VSCAN: ADD, MIN, MAX, AND, OR, XOR are 0 to 5. -/
def reduceStep (op : Nat) (ty : Ty) (rm : Rnd) (ftz : Bool) (x y : Nat) : Nat × Nat :=
  if isFlt ty then
    (match op with | 0 => FOp.add.bits ty rm ftz x y y | 1 => FOp.min.bits ty rm ftz x y y | _ => FOp.max.bits ty rm ftz x y y)
  else
    let w := tyBits ty
    let sg := isSignedInt ty
    let r := match op with
      | 0 => IOp.add.bits w sg false x y
      | 1 => IOp.min.bits w sg false x y
      | 2 => IOp.max.bits w sg false x y
      | 3 => IOp.and.bits w sg false x y
      | 4 => IOp.or.bits w sg false x y
      | _ => IOp.xor.bits w sg false x y
    (r.1, 0)

/-- One level of the pairwise tree. -/
def pairUp (f : Nat → Nat → Nat × Nat) : List Nat → List Nat × Nat
  | x :: y :: rest =>
    let r := f x y
    let q := pairUp f rest
    (r.1 :: q.1, r.2 ||| q.2)
  | xs => (xs, 0)

/-- The pairwise tree: its value and status; `fuel` bounds its levels. -/
def pairTree (f : Nat → Nat → Nat × Nat) : Nat → List Nat → Nat × Nat
  | 0, xs => (xs.headD 0, 0)
  | fuel + 1, xs =>
    match xs with
    | [] => (0, 0)
    | [x] => (x, 0)
    | _ =>
      let r := pairUp f xs
      let q := pairTree f fuel r.1
      (q.1, r.2 ||| q.2)

/-- The inclusive scan after `y`: values and status. -/
def scanFrom (f : Nat → Nat → Nat × Nat) : Nat → List Nat → List Nat × Nat
  | _, [] => ([], 0)
  | y, x :: xs =>
    let r := f y x
    let q := scanFrom f r.1 xs
    (r.1 :: q.1, r.2 ||| q.2)

/-- The inclusive scan. -/
def scanAll (f : Nat → Nat → Nat × Nat) : List Nat → List Nat × Nat
  | [] => ([], 0)
  | x :: xs => let q := scanFrom f x xs; (x :: q.1, q.2)

/-- The lines of an axis: element indices of each row, or of each column. -/
def axisLines (h : Shape) (col : Bool) : List (List Nat) :=
  if col then (upTo h.cols).map fun c => (upTo h.rows).map fun r => r * h.cols + c
  else (upTo h.rows).map fun r => (upTo h.cols).map fun c => r * h.cols + c

/-- The formats an operation of R328 accepts. -/
def reduceFits (op : Nat) (ty : Ty) : Bool := if op ≤ 2 then isFlt ty || isInt ty else isInt ty

/-- VRED (R328): only the elements of the results change. -/
def vectorReduce (rnd : Rnd) (d a : Nat) (col : Bool) (op : Nat) (s : State) : Eff :=
  vectorOp (reduceFits op) [a] [d] s fun h s =>
    let els := s.els h a
    let rs := (axisLines h col).map fun line =>
      (line.headD 0, pairTree (reduceStep op h.ty rnd s.me.ftz) 13 (line.map fun i => els.getD i 0))
    .done (((s.pokeEls d h.width (rs.map fun r => (r.1, r.2.1))).putSide s.cur.1 d 256 0).setFlags
      (joinFlags (rs.map fun r => r.2.2)))

/-- VSCAN (R328). -/
def vectorScan (rnd : Rnd) (d a : Nat) (col : Bool) (op : Nat) (s : State) : Eff :=
  vectorOp (reduceFits op) [a] [d] s fun h s =>
    let els := s.els h a
    let rs := (axisLines h col).map fun line =>
      (line, scanAll (reduceStep op h.ty rnd s.me.ftz) (line.map fun i => els.getD i 0))
    let m : Map Nat := rs.foldl (fun m r => (r.1.zip r.2.1).foldl (fun m p => mapPut m p.1 p.2) m) []
    .done ((s.putEls d h.width (m.map fun p => p.2)).setFlags (joinFlags (rs.map fun r => r.2.2)))

/-! ## Row dot products (R203, R329) -/

/-- K positions of one accumulation group (R203). -/
def groupSize (ty : Ty) : Nat :=
  match ty with | .f64 => 1 | .f32 => 4 | .f16 => 16 | .bf16 => 16 | _ => 32

/-- The product of two elements as a term, and whether it is invalid. -/
def termOf (x y : Num) : Num × Bool := mulNum x y

/-- One group into an accumulator, with the status of its rounding (R203, R329). -/
def groupStep (f : FloatFmt) (acc : Nat) (ts : List (Num × Bool)) : Nat × Nat :=
  let terms := ts.map fun t => t.1
  let all := f.value acc :: terms
  let anyNan := all.any fun x => x == .nan
  let clash := hasInf false all && hasInf true all
  let special := anyNan || hasInf false all || hasInf true all
  let fl := if special then flagIf ((ts.any fun t => t.2) || (!anyNan && clash)) flagNV
            else (f.convert .rne false (sumNums all)).2
  (groupAcc f acc terms, fl)

/-- All groups of a row; `fuel` bounds them. -/
def groupRow (f : FloatFmt) (size : Nat) : Nat → Nat → List (Num × Bool) → Nat × Nat
  | 0, acc, _ => (acc, 0)
  | _, acc, [] => (acc, 0)
  | fuel + 1, acc, ts =>
    let r := groupStep f acc (ts.take size)
    let q := groupRow f size fuel r.1 (ts.drop size)
    (q.1, r.2 ||| q.2)

/-- The formats VDOT accepts (R320). -/
def dotFits (ty : Ty) : Bool :=
  isFlt ty || isBlockTy ty || isSmallFloat ty || (match ty with | .int8 => true | .uint8 => true | .int4 => true | _ => false)

/-- The accumulator format of a VDOT. -/
def dotAcc (ty : Ty) : Ty := match ty with | .f64 => .f64 | _ => .f32

/-- A group's integer sum. -/
def sumProducts (w : Nat) (sg : Bool) (xs ys : List Nat) : Int :=
  (xs.zip ys).foldl (fun a p => a + intValue w sg p.1 * intValue w sg p.2) 0

/-- VDOT (R329). -/
def vectorDot (d a b c : Nat) (s : State) : Eff :=
  vectorOp dotFits [a, b, c] [d] s fun h s =>
    let row := fun (xs : List Nat) r => (xs.drop (r * h.cols)).take h.cols
    let acc := s.here.vec c
    match intFmt? h.ty with
    | some (w, sg) =>
      let xs := s.els h a
      let ys := s.els h b
      let rs := (upTo h.rows).map fun r =>
        ofSigned 32 (toSigned 32 (bvField acc (32 * r) 32) + sumProducts w sg (row xs r) (row ys r))
      s.accCheck c (32 * h.rows) (.done (s.putEls d 32 rs))
    | none =>
      let at_ := dotAcc h.ty
      let f := fmtOf at_
      let ftz := s.me.ftz
      let vals := fun v => if isFlt h.ty then (s.els h v).map (flushOperand ftz h.ty (fmtOf h.ty)) else s.values h v
      let ts := ((vals a).zip (vals b)).map fun p => termOf p.1 p.2
      let rs := (upTo h.rows).map fun r =>
        let w := f.bits
        let q := groupRow f (groupSize h.ty) h.cols (flushBits ftz at_ (bvField acc (w * r) w))
          ((ts.drop (r * h.cols)).take h.cols)
        flushResult ftz at_ f q
      s.accCheck c (f.bits * h.rows) (.done ((s.putEls d f.bits (rs.map fun r => r.1)).setFlags (joinFlags (rs.map fun r => r.2))))

/-! ## Rearranging elements (R330) -/

/-- VTRN. -/
def vectorTranspose (d a : Nat) (s : State) : Eff :=
  if isRaw s.shape.ty && decide (256 < s.shape.cols) then .trap s (Exc.illop 9)
  else vectorOp isRaw [a] [d] s fun h s =>
    let els := s.els h a
    .done (s.putEls d h.width ((axisLines h true).flatMap fun line => line.map fun i => els.getD i 0))

/-- VPERM. -/
def vectorPermute (d a i : Nat) (s : State) : Eff :=
  vectorOp isRaw [a, i] [d] s fun h s =>
    let els := s.els h a
    let rs := (s.els h i).zipIdx.map fun p => if h.cols ≤ p.1 then 0 else els.getD (p.2 / h.cols * h.cols + p.1) 0
    .done (s.putEls d h.width rs)

/-- VROT. -/
def vectorRotate (d a b : Nat) (s : State) : Eff :=
  vectorOp isRaw [a] [d] s fun h s =>
    let els := s.els h a
    let k := (s.rS b).toNat % h.cols
    .done (s.putEls d h.width ((upTo h.count).map fun i =>
      els.getD (i / h.cols * h.cols + (i % h.cols + k) % h.cols) 0))

/-! ## Conversions and quantisation (R331 to R333) -/

/-- One element converted: its code and status (R198, R199, R331). -/
def convertElem (src dst : Ty) (rm : Rnd) (sat ftz : Bool) (v : Nat) (x : Num) : Nat × Nat :=
  match intFmt? src, intFmt? dst with
  | some (w, sg), some (u, su) =>
    if sat then let c := clampInt u su (intValue w sg v); (ofSigned u c.1, flagIf c.2 flagSAT)
    else (ofSigned u (intValue w sg v), 0)
  | none, some (u, su) => let r := numToInt u su rm x; (ofSigned u r.1, r.2)
  | _, none => flushResult ftz dst (fmtOf dst) ((fmtOf dst).convert rm sat x)

/-- Values of a register, its FP32, FP16 or BF16 elements flushed (R201). -/
def State.flushedValues (s : State) (h : Shape) (a : Nat) : List Num :=
  if isFlt h.ty then (s.els h a).map (flushOperand s.me.ftz h.ty (fmtOf h.ty)) else s.values h a

/-- VCVT (R331). -/
def vectorConvert (dst : Ty) (rnd : Rnd) (sat : Bool) (d a : Nat) (s : State) : Eff :=
  if sat && isInt dst && !(isInt s.shape.ty) then .trap s (Exc.illop 8)
  else if 16384 < s.shape.count * tyBits dst then .trap s (Exc.illop 9)
  else vectorOp (fun _ => true) [a] [d] s fun h s =>
    let rs := ((s.els h a).zip (s.flushedValues h a)).map fun p => convertElem h.ty dst rnd sat s.me.ftz p.1 p.2
    .done ((s.putEls d (tyBits dst) (rs.map fun r => r.1)).setFlags (joinFlags (rs.map fun r => r.2)))

/-- VQMX and VQDX (R332). -/
def vectorQuantise (dst : Ty) (d a : Nat) (s : State) : Eff :=
  if s.shape.cols % 32 ≠ 0 ∨ 16384 < s.shape.count * tyBits dst then .trap s (Exc.illop 9)
  else vectorOp (fun ty => match ty with | .f32 => true | .f16 => true | .bf16 => true | _ => false) [a] [d] s fun h s =>
    let q := quantVector dst h.count (s.flushedValues h a)
    .done ((s.putBlocks d (tyBits dst) q.1 q.2.1).setFlags q.2.2)

/-- One block times 2^k (R333). -/
def rescaleBlock (ty : Ty) (k : Int) (scales els : List Nat) : Block :=
  if scales.any fun x => x == 0xFF then ⟨scales, els, 0⟩
  else if scales.all fun (x : Nat) => decide (0 ≤ (x : Int) + k) && decide ((x : Int) + k ≤ 254) then
    ⟨scales.map fun (x : Nat) => ((x : Int) + k).toNat, els, 0⟩
  else quantBlock ty (els.map fun v => (elemValue ty scales v).scale k)

/-- VRESC (R333). -/
def vectorRescale (d a : Nat) (k : Int) (s : State) : Eff :=
  vectorOp isBlockTy [a] [d] s fun h s =>
    let els := s.els h a
    let bs := (upTo (h.count / 32)).map fun b =>
      rescaleBlock h.ty k (s.blockScales h.ty a b) ((els.drop (32 * b)).take 32)
    .done ((s.putBlocks d h.width (bs.flatMap fun b => b.elems) (bs.flatMap fun b => b.scales)).setFlags
      (joinFlags (bs.map fun b => b.flags)))

/-! ## The piecewise function unit (R336, R337) -/

/-- Word `k` of segment `i` of table `x`: the breakpoint, then c0 to c3. -/
def Core.pfWord (q : Core) (x i k : Nat) : Nat := (mapGet q.pf (x * 320 + 5 * i + k) 0).toNat

/-- A step FFMA.F32.RNE or FSUB.F32.RNE, never flushed. -/
def stepF32 (r : Num × Bool) : Nat × Nat := floatResult .f32 .rne false false r.1 (flagIf r.2 flagNV)

/-- PFEVAL of one element: its code and status (R337). -/
def pfEval (q : Core) (table : Nat) (ftz : Bool) (v : Nat) : Nat × Nat :=
  let f := fmtOf .f32
  let x := flushOperand ftz .f32 f v
  if x = .nan then (0x7FC00000, 0)
  else
    let below := fun i => match cmpNum (f.value (q.pfWord table i 0)) x with | some .gt => false | some _ => true | none => false
    let i := ((upTo 64).reverse.find? below).getD 0
    let coef := fun k => f.value (q.pfWord table i k)
    let u := stepF32 (addNum .rne x (coef 0).neg)
    let y3 := stepF32 (fmaNum .rne (coef 4) (f.value u.1) (coef 3))
    let y2 := stepF32 (fmaNum .rne (f.value y3.1) (f.value u.1) (coef 2))
    let y1 := stepF32 (fmaNum .rne (f.value y2.1) (f.value u.1) (coef 1))
    flushResult ftz .f32 f (y1.1, joinFlags [u.2, y3.2, y2.2, y1.2])

/-- PFEVAL (R337); a table with an uncorrectable error raises MCHECK as a vector register does (log 45). -/
def piecewise (d a x : Nat) (s : State) : Eff :=
  vectorOp (fun ty => ty == .f32) [a] [d] s fun h s =>
    let rs := (s.els h a).map (pfEval s.here x s.me.ftz)
    if (upTo 160).any fun w => s.isPoisoned (.pfu s.cur.1 x w) then .trap s (Exc.of codeMCHECK 3 (BitVec.ofNat 64 (2 ^ 63 + x)))
    else .done ((s.putEls d 32 (rs.map fun r => r.1)).setFlags (joinFlags (rs.map fun r => r.2)))

/-- Breakpoints are numbers in non-decreasing order (R336). -/
def breakpointsOk : List Num → Bool
  | [] => true
  | [x] => x != .nan
  | x :: y :: rest => (match cmpNum x y with | some .gt => false | some _ => true | none => false) && breakpointsOk (y :: rest)

/-- PFLOAD (R336); its read is performed at issue (log 7). -/
def loadTable (x slot b : Nat) (s : State) : Eff :=
  match s.here.handle slot with
  | none => .trap s (Exc.atSlot slot codeHFAULT)
  | some h =>
    let c := s.cur.1
    let v := s.seenBy c
    let at_ := (s.rS b).toNat
    let xs := (upTo 1280).map fun i => coord0.set 0 (at_ + i)
    match pickExc (
      excIf (h.desc.rank != 1 || h.desc.fmt != .uint8) (Exc.atSlot slot codeILLOP 9) ++
      v.accessFaults (.strand c s.cur.2) c slot h false true [1, 2, 4, 5, 6] xs ++
      excIf (at_ % 4 != 0) (Exc.atSlot slot codeALIGN 0 (BitVec.ofNat 64 (h.address (coord0.set 0 at_))))) with
    | some e => .trap s e
    | none =>
      let bs := xs.map fun y => BitVec.ofNat 8 (v.readElem h y)
      let words := (upTo 320).map fun i => leNat ((bs.drop (4 * i)).take 4)
      let bps := (upTo 64).map fun i => (fmtOf .f32).value (words.getD (5 * i) 0)
      if breakpointsOk bps then
        let s := (s.reportUnits ((xs.flatMap (v.elemPoison h)).eraseDups) 1 (s.taskIdOf c)).drawIf (h.desc.space == 6)
        let s : State := { s with poison := s.poison.filter fun u => match u with | .pfu c' x' _ => !(c == c' && x == x') | _ => true }
        .done (s.setHere { s.here with
          pf := words.zipIdx.foldl (fun m p => mapPut m (x * 320 + p.2) (BitVec.ofNat 32 p.1)) s.here.pf })
      else .trap s (Exc.illop 9)

/-- VSHAPE, L form (R317). -/
def execVshape (g : Guard) (a : Nat) (s : State) : Outcome :=
  runStrand 8 g (⟨[a], [], [], []⟩) s fun s => setShape (s.rS a).toNat s

/-- VSHAPE, X form (R317). -/
def execVshapeExt (g : Guard) (imm : Nat) (s : State) : Outcome :=
  runStrand 12 g (⟨[], [], [], []⟩) s fun s => setShape imm s

/-- VMOV, S form (R323). -/
def execVmov (g : Guard) (d : Nat) (a : Nat) (s : State) : Outcome :=
  runStrand 4 g (⟨[], [], [a], [d]⟩) s fun s => vectorMove d a s

/-- VMOV, L form (R323). -/
def execVmovLong (g : Guard) (d : Nat) (a : Nat) (s : State) : Outcome :=
  runStrand 8 g (⟨[], [], [a], [d]⟩) s fun s => vectorMove d a s

/-- VBCAST, L form (R323). -/
def execVbcast (g : Guard) (d : Nat) (a : Nat) (s : State) : Outcome :=
  runStrand 8 g (⟨[a], [], [], [d]⟩) s fun s => broadcast d (s.rS a) s

/-- VBCAST, X form (R323). -/
def execVbcastExt (g : Guard) (d : Nat) (imm : Int) (s : State) : Outcome :=
  runStrand 12 g (⟨[], [], [], [d]⟩) s fun s => broadcast d (BitVec.ofInt 64 imm) s

/-- VEXT (R323). -/
def execVext (g : Guard) (d : Nat) (a : Nat) (b : Nat) (s : State) : Outcome :=
  runStrand 8 g (⟨[b], [d], [a], []⟩) s fun s => extractElem d a b s

/-- VINS (R323). -/
def execVins (g : Guard) (d : Nat) (a : Nat) (b : Nat) (s : State) : Outcome :=
  runStrand 8 g (⟨[a, b], [], [], [d]⟩) s fun s => insertElem d a b s

/-- VADD, S form: rounded in FPCTL.RM (R324). -/
def execVadd (g : Guard) (d : Nat) (a : Nat) (b : Nat) (s : State) : Outcome :=
  runStrand 4 g (⟨[], [], [a, b], [d]⟩) s fun s => floatVector .add .dyn d a b b s

/-- VADD, L form (R324). -/
def execVaddLong (g : Guard) (rnd : Rnd) (d : Nat) (a : Nat) (b : Nat) (s : State) : Outcome :=
  runStrand 8 g (⟨[], [], [a, b], [d]⟩) s fun s => floatVector .add rnd d a b b s

/-- VSUB, S form: rounded in FPCTL.RM (R324). -/
def execVsub (g : Guard) (d : Nat) (a : Nat) (b : Nat) (s : State) : Outcome :=
  runStrand 4 g (⟨[], [], [a, b], [d]⟩) s fun s => floatVector .sub .dyn d a b b s

/-- VSUB, L form (R324). -/
def execVsubLong (g : Guard) (rnd : Rnd) (d : Nat) (a : Nat) (b : Nat) (s : State) : Outcome :=
  runStrand 8 g (⟨[], [], [a, b], [d]⟩) s fun s => floatVector .sub rnd d a b b s

/-- VMUL, S form: rounded in FPCTL.RM (R324). -/
def execVmul (g : Guard) (d : Nat) (a : Nat) (b : Nat) (s : State) : Outcome :=
  runStrand 4 g (⟨[], [], [a, b], [d]⟩) s fun s => floatVector .mul .dyn d a b b s

/-- VMUL, L form (R324). -/
def execVmulLong (g : Guard) (rnd : Rnd) (d : Nat) (a : Nat) (b : Nat) (s : State) : Outcome :=
  runStrand 8 g (⟨[], [], [a, b], [d]⟩) s fun s => floatVector .mul rnd d a b b s

/-- VFMA, S form: the destination is the addend (R318, R324). -/
def execVfma (g : Guard) (d : Nat) (a : Nat) (b : Nat) (s : State) : Outcome :=
  runStrand 4 g (⟨[], [], [a, b, d], [d]⟩) s fun s => floatVector .fma .dyn d a b d s

/-- VFMA, L form (R324). -/
def execVfmaLong (g : Guard) (rnd : Rnd) (d : Nat) (a : Nat) (b : Nat) (c : Nat) (s : State) : Outcome :=
  runStrand 8 g (⟨[], [], [a, b, c], [d]⟩) s fun s => floatVector .fma rnd d a b c s

/-- VMIN (R324). -/
def execVmin (g : Guard) (d : Nat) (a : Nat) (b : Nat) (s : State) : Outcome :=
  runStrand 8 g (⟨[], [], [a, b], [d]⟩) s fun s => floatVector .min .rne d a b b s

/-- VMAX (R324). -/
def execVmax (g : Guard) (d : Nat) (a : Nat) (b : Nat) (s : State) : Outcome :=
  runStrand 8 g (⟨[], [], [a, b], [d]⟩) s fun s => floatVector .max .rne d a b b s

/-- VABS (R324). -/
def execVabs (g : Guard) (d : Nat) (a : Nat) (s : State) : Outcome :=
  runStrand 8 g (⟨[], [], [a], [d]⟩) s fun s => signVector false d a s

/-- VNEG (R324). -/
def execVneg (g : Guard) (d : Nat) (a : Nat) (s : State) : Outcome :=
  runStrand 8 g (⟨[], [], [a], [d]⟩) s fun s => signVector true d a s

/-- VRCP (R324). -/
def execVrcp (g : Guard) (rnd : Rnd) (d : Nat) (a : Nat) (s : State) : Outcome :=
  runStrand 8 g (⟨[], [], [a], [d]⟩) s fun s => floatVector .rcp rnd d a a a s

/-- VRSQ (R324). -/
def execVrsq (g : Guard) (rnd : Rnd) (d : Nat) (a : Nat) (s : State) : Outcome :=
  runStrand 8 g (⟨[], [], [a], [d]⟩) s fun s => floatVector .rsq rnd d a a a s

/-- VDIV (R324). -/
def execVdiv (g : Guard) (rnd : Rnd) (d : Nat) (a : Nat) (b : Nat) (s : State) : Outcome :=
  runStrand 8 g (⟨[], [], [a, b], [d]⟩) s fun s => floatVector .div rnd d a b b s

/-- VSQRT (R324). -/
def execVsqrt (g : Guard) (rnd : Rnd) (d : Nat) (a : Nat) (s : State) : Outcome :=
  runStrand 8 g (⟨[], [], [a], [d]⟩) s fun s => floatVector .sqrt rnd d a a a s

/-- VIADD (R325). -/
def execViadd (g : Guard) (sat : Bool) (d : Nat) (a : Nat) (b : Nat) (s : State) : Outcome :=
  runStrand 8 g (⟨[], [], [a, b], [d]⟩) s fun s => intVector .add isInt sat d a b s

/-- VISUB (R325). -/
def execVisub (g : Guard) (sat : Bool) (d : Nat) (a : Nat) (b : Nat) (s : State) : Outcome :=
  runStrand 8 g (⟨[], [], [a, b], [d]⟩) s fun s => intVector .sub isInt sat d a b s

/-- VIMUL (R325). -/
def execVimul (g : Guard) (sat : Bool) (d : Nat) (a : Nat) (b : Nat) (s : State) : Outcome :=
  runStrand 8 g (⟨[], [], [a, b], [d]⟩) s fun s => intVector .mul isInt sat d a b s

/-- VIMIN (R325). -/
def execVimin (g : Guard) (d : Nat) (a : Nat) (b : Nat) (s : State) : Outcome :=
  runStrand 8 g (⟨[], [], [a, b], [d]⟩) s fun s => intVector .min isInt false d a b s

/-- VIMAX (R325). -/
def execVimax (g : Guard) (d : Nat) (a : Nat) (b : Nat) (s : State) : Outcome :=
  runStrand 8 g (⟨[], [], [a, b], [d]⟩) s fun s => intVector .max isInt false d a b s

/-- VAND (R325). -/
def execVand (g : Guard) (d : Nat) (a : Nat) (b : Nat) (s : State) : Outcome :=
  runStrand 8 g (⟨[], [], [a, b], [d]⟩) s fun s => intVector .and isRaw false d a b s

/-- VOR (R325). -/
def execVor (g : Guard) (d : Nat) (a : Nat) (b : Nat) (s : State) : Outcome :=
  runStrand 8 g (⟨[], [], [a, b], [d]⟩) s fun s => intVector .or isRaw false d a b s

/-- VXOR (R325). -/
def execVxor (g : Guard) (d : Nat) (a : Nat) (b : Nat) (s : State) : Outcome :=
  runStrand 8 g (⟨[], [], [a, b], [d]⟩) s fun s => intVector .xor isRaw false d a b s

/-- VSHL (R325). -/
def execVshl (g : Guard) (d : Nat) (a : Nat) (b : Nat) (s : State) : Outcome :=
  runStrand 8 g (⟨[], [], [a, b], [d]⟩) s fun s => intVector .shl isInt false d a b s

/-- VSHR (R325). -/
def execVshr (g : Guard) (d : Nat) (a : Nat) (b : Nat) (s : State) : Outcome :=
  runStrand 8 g (⟨[], [], [a, b], [d]⟩) s fun s => intVector .shr isInt false d a b s

/-- VSRA (R325). -/
def execVsra (g : Guard) (d : Nat) (a : Nat) (b : Nat) (s : State) : Outcome :=
  runStrand 8 g (⟨[], [], [a, b], [d]⟩) s fun s => intVector .sra isInt false d a b s

/-- VCMP (R326). -/
def execVcmp (g : Guard) (cond : Cond) (pt : Nat) (pf : Nat) (a : Nat) (b : Nat) (c : Nat) (s : State) : Outcome :=
  runStrand 8 g (⟨[], [], [a, b], [c]⟩) s fun s => vectorCompare cond pt pf c a b s

/-- VSEL (R327). -/
def execVsel (g : Guard) (d : Nat) (a : Nat) (b : Nat) (c : Nat) (s : State) : Outcome :=
  runStrand 8 g (⟨[], [], [a, b, c], [d]⟩) s fun s => vectorSelect d c a b s

/-- VRED (R328). -/
def execVred (g : Guard) (rnd : Rnd) (d : Nat) (a : Nat) (col : Bool) (op : Nat) (s : State) : Outcome :=
  runStrand 8 g (⟨[], [], [a], [d]⟩) s fun s => vectorReduce rnd d a col op s

/-- VSCAN (R328). -/
def execVscan (g : Guard) (rnd : Rnd) (d : Nat) (a : Nat) (col : Bool) (op : Nat) (s : State) : Outcome :=
  runStrand 8 g (⟨[], [], [a], [d]⟩) s fun s => vectorScan rnd d a col op s

/-- VTRN (R330). -/
def execVtrn (g : Guard) (d : Nat) (a : Nat) (s : State) : Outcome :=
  runStrand 8 g (⟨[], [], [a], [d]⟩) s fun s => vectorTranspose d a s

/-- VPERM (R330). -/
def execVperm (g : Guard) (d : Nat) (a : Nat) (b : Nat) (s : State) : Outcome :=
  runStrand 8 g (⟨[], [], [a, b], [d]⟩) s fun s => vectorPermute d a b s

/-- VROT (R330). -/
def execVrot (g : Guard) (d : Nat) (a : Nat) (b : Nat) (s : State) : Outcome :=
  runStrand 8 g (⟨[b], [], [a], [d]⟩) s fun s => vectorRotate d a b s

/-- VDOT (R329). -/
def execVdot (g : Guard) (d : Nat) (a : Nat) (b : Nat) (c : Nat) (s : State) : Outcome :=
  runStrand 8 g (⟨[], [], [a, b, c], [d]⟩) s fun s => vectorDot d a b c s

/-- VCVT (R331). -/
def execVcvt (g : Guard) (ty : Ty) (rnd : Rnd) (sat : Bool) (d : Nat) (a : Nat) (s : State) : Outcome :=
  runStrand 8 g (⟨[], [], [a], [d]⟩) s fun s => vectorConvert ty rnd sat d a s

/-- VQMX (R332). -/
def execVqmx (g : Guard) (ty : Ty) (d : Nat) (a : Nat) (s : State) : Outcome :=
  runStrand 8 g (⟨[], [], [a], [d]⟩) s fun s => vectorQuantise ty d a s

/-- VQDX (R332). -/
def execVqdx (g : Guard) (ty : Ty) (d : Nat) (a : Nat) (s : State) : Outcome :=
  runStrand 8 g (⟨[], [], [a], [d]⟩) s fun s => vectorQuantise ty d a s

/-- VRESC (R333). -/
def execVresc (g : Guard) (d : Nat) (a : Nat) (imm : Int) (s : State) : Outcome :=
  runStrand 8 g (⟨[], [], [a], [d]⟩) s fun s => vectorRescale d a imm s

/-- PFLOAD (R336). -/
def execPfload (g : Guard) (x : Nat) (h : Nat) (b : Nat) (s : State) : Outcome :=
  runStrand 8 g (⟨[b], [], [], []⟩) s fun s => loadTable x h b s

/-- PFEVAL (R337). -/
def execPfeval (g : Guard) (d : Nat) (a : Nat) (x : Nat) (s : State) : Outcome :=
  runStrand 8 g (⟨[], [], [a], [d]⟩) s fun s => piecewise d a x s

end Sys2Proof.Machine
end

