-- ==== Sys2Proof/Machine/Records.lean ====
section
/-! DEFINITION. Engine records (15 R338 to R342, R146, R243): body fields, nests, the parts of the dispatch check that all ops
share, and how a running record reads, writes and reports. -/

namespace Sys2Proof.Machine

/-! ## Body fields (bytes 16 to 63 of a record) -/

/-- `n` bytes of the body at byte `off` of the record. -/
def bodyAt (b : BitVec 384) (off n : Nat) : Nat := bvField b (8 * (off - 16)) (8 * n)
/-- `n` bits of the body from bit `bit` of byte `off`. -/
def bodyBits (b : BitVec 384) (off bit n : Nat) : Nat := bvField b (8 * (off - 16) + bit) n
/-- A signed field of `n` bits. -/
def bodySigned (b : BitVec 384) (off bit n : Nat) : Int := toSigned n (bodyBits b off bit n)
/-- Bytes `off` to `off + n - 1` are zero. -/
def bodyZero (b : BitVec 384) (off n : Nat) : Bool := bodyAt b off n == 0
/-- Base-coordinate word `k`. -/
def bodyWord (b : BitVec 384) (k : Nat) : Nat := bodyAt b (24 + 4 * k) 4

/-- The engine of an op's queue, by QSEL where the op leaves it open (R242). -/
def RecOp.queue (op : RecOp) (qsel : Nat) : Nat :=
  match op with
  | .mma => 0 | .ocon => 0 | .mdrain => 0 | .mclr => 0
  | .cpy => 1 + qsel | .cpys => 1 + qsel | .cfill => 1 + qsel
  | .gath => 3 | .scat => 3 | .merg => 3 | .topk => 3 | .cmpt => 3
  | .nbin => 4 | .nstrm => 4
  | .chain => qsel | .rnop => qsel

/-- Capture entries by number. -/
def captureEntry (h : RecHdr) (k : Nat) : Option Nat :=
  match k with | 0 => h.capt0 | 1 => h.capt1 | 2 => h.capt2 | _ => h.capt3

/-- The words that the capture spec may fill (R339). -/
def RecOp.captureWords (op : RecOp) : Nat :=
  match op with
  | .mma => 1 | .ocon => 1 | .merg => 1 | .topk => 2 | .cmpt => 3
  | .mdrain => 4 | .cpy => 4 | .cfill => 4 | .cpys => 4 | .gath => 4 | .scat => 4
  | _ => 0

/-- The body with the captured registers in its words (R244). -/
def captured (h : RecHdr) (read : Nat → Word) (b : BitVec 384) : BitVec 384 :=
  (upTo 4).foldl (fun b k => match captureEntry h k with
    | some r => bvSetField b (64 + 32 * k) 32 (read r).toNat
    | none => b) b

/-! ## Nests -/

/-- One level: its trip count, the dimension it steps and its step. -/
structure Level where
  trip : Nat
  dim  : Nat
  step : Int
  deriving DecidableEq, Repr

/-- Every tuple of indices below the trip counts, the first index slowest. -/
def nestOf : List Nat → List (List Nat)
  | [] => [[]]
  | t :: ts => (upTo t).flatMap fun i => (nestOf ts).map fun r => i :: r

/-- Its corner tuples: coordinates are linear in the nest, so they bound every iteration. -/
def cornersOf : List Nat → List (List Nat)
  | [] => [[]]
  | t :: ts => ([0, t - 1].eraseDups).flatMap fun i => (cornersOf ts).map fun r => i :: r

/-- The micro-PC after `ix`, none at the end of the nest. -/
def nextIndex (trips ix : List Nat) : Option (List Nat) :=
  match trips, ix with
  | t :: ts, i :: is =>
    match nextIndex ts is with
    | some r => some (i :: r)
    | none => if i + 1 < t then some ((i + 1) :: is.map fun _ => 0) else none
  | _, _ => none

/-- Coordinates with an amount added along a dimension. -/
def addAlong (x : List Int) (dim : Nat) (k : Int) : List Int := x.set dim (x.getD dim 0 + k)

/-- Six coordinates from the base words given. -/
def baseCoords (xs : List Nat) : List Int := (upTo 6).map fun i => ((xs.getD i 0 : Nat) : Int)

/-- A base moved by the levels at an iteration; levels and indices outermost first. -/
def moved (base : List Int) (lv : List Level) (ix : List Nat) : List Int :=
  (lv.zip ix).foldl (fun x p => addAlong x p.1.dim (p.1.step * (p.2 : Int))) base

/-- Coordinates of a unit: lengths along dimensions, the first slowest. -/
def unitCoords (base : List Int) (unit : List (Nat × Nat)) (pick : List Nat → List (List Nat)) : List (List Int) :=
  (pick (unit.map fun u => u.2)).map fun js => (unit.zip js).foldl (fun x p => addAlong x p.1.1 (p.2 : Int)) base

/-- A coordinate as a number: one below zero lies beyond every extent, by its low 32 bits (R210). -/
def coordOf (i : Int) : Nat := if i < 0 then ofSigned 32 i else i.toNat
def coordsOf (x : List Int) : List Nat := x.map coordOf

/-- Coordinates of a whole nest over units: `pick` enumerates all tuples or the corners. -/
def nestCoords (base : List Int) (lv : List Level) (unit : List (Nat × Nat)) (pick : List Nat → List (List Nat)) :
    List (List Nat) :=
  (pick (lv.map fun l => l.trip)).flatMap fun ix => (unitCoords (moved base lv ix) unit pick).map coordsOf

/-! ## Symmetry of records (R145, R146) -/

/-- A generator without its sign. -/
def Gen.plain (g : Gen) : Gen := { g with neg := false }

/-- The slots of a generator (R140). -/
def Gen.touched (g : Gen) : List Nat := g.slots

/-- A PERM(2) among generators covers a pair of slots. -/
def hasPairPerm (gs : List Gen) (u v : Nat) : Bool :=
  gs.any fun g => g.kind == 1 && g.b == 2 && g.a == Nat.min u v && g.a + 1 == Nat.max u v

/-- Slots renamed, none where the generator has no normal form there (R146, rule 2). -/
def renameGen (gs : List Gen) (f : Nat → Option Nat) (g : Gen) : Option Gen :=
  match g.touched.mapM f with
  | none => none
  | some ns =>
    match g.kind with
    | 1 =>
      let lo := ns.foldl Nat.min (ns.headD 0)
      if (upTo g.b).all fun i => ns.contains (lo + i) then some { g with a := lo } else none
    | 2 =>
      let m := fun (i : Nat) => (f i).getD 0
      let rev1 := decide (m g.b < m g.a)
      let rev2 := decide (m g.d < m g.c)
      let perms := hasPairPerm gs g.a g.b && hasPairPerm gs g.c g.d &&
        (m g.a == m g.b + 1 || m g.b == m g.a + 1) && (m g.c == m g.d + 1 || m g.d == m g.c + 1)
      if rev1 == rev2 || perms then
        let p := (Nat.min (m g.a) (m g.b), Nat.max (m g.a) (m g.b))
        let q := (Nat.min (m g.c) (m g.d), Nat.max (m g.c) (m g.d))
        if p.1 ≤ q.1 then some { g with a := p.1, b := p.2, c := q.1, d := q.2 }
        else some { g with a := q.1, b := q.2, c := p.1, d := p.2 }
      else none
    | 3 => some { g with a := (f g.a).getD 0, b := (f g.b).getD 0 }
    | _ => some { g with a := (f g.a).getD 0 }

/-- A group renamed (R146, rule 2). -/
def renameGroup (gs : List Gen) (f : Nat → Option Nat) : List Gen := gs.filterMap (renameGen gs f)

/-- Rule 4 of R146: σ = − goes for an integer destination and for a directed rounding. -/
def dropSigned (dst : Ty) (rm : Rnd) (gs : List Gen) : List Gen :=
  let drop := (intFmt? dst).isSome || (match rm with | .rup => true | .rdn => true | _ => false)
  if drop then gs.filter fun g => !g.neg else gs

/-- A group contains another (R145). -/
def GroupTag.contains (t : GroupTag) (gs : List Gen) : Bool :=
  match t with | .every => true | .gens have_ => gs.all fun g => have_.contains g

/-- A tag narrowed to the generators that it shares with a group (R146). -/
def GroupTag.narrow (t : GroupTag) (gs : List Gen) : GroupTag :=
  match t with | .every => .gens gs | .gens have_ => .gens (have_.filter fun g => gs.contains g)

/-- Rename the slots of a tag. -/
def GroupTag.rename (t : GroupTag) (f : Nat → Option Nat) : GroupTag :=
  match t with | .every => .every | .gens gs => .gens (renameGroup gs f)

/-- SYMGROUP where a STRICT destination's group is not guaranteed (R145). -/
def strictFaults (slot : Nat) (h : Handle) (guaranteed : GroupTag) : List Exc :=
  excIf (!h.desc.sym.isEmpty && h.desc.policy == 0 && !(guaranteed.contains h.desc.sym)) (Exc.atSlot slot codeSYMGROUP)

/-- A box of absolute coordinates is closed under a group: it holds every tuple of each orbit that it touches (R146). -/
def Desc.boxClosed (d : Desc) (lo hi : List Nat) : Bool :=
  let plain := { d with sym := d.sym.map Gen.plain }
  let orbit := fun x => match plain.rep x with | some (y, _) => y | none => x
  let dims := (upTo d.rank).map fun i => hi.getD i 0 + 1 - lo.getD i 0
  let box := (nestOf dims).map fun js => (upTo 6).map fun i => lo.getD i 0 + js.getD i 0
  let ys := box.map orbit
  ys.eraseDups.all fun y => (ys.filter fun z => z == y).length == multiplicity plain.sym plain.ext y

/-! ## The dispatch check (R340): what all ops share -/

/-- A field error: ILLOP, SUB 9. -/
def badField : Exc := Exc.illop 9

/-- A capture entry for a word that the op does not have (R339). -/
def captureFaults (op : RecOp) (h : RecHdr) : List Exc :=
  excIf ((upTo 4).any fun k => decide (op.captureWords ≤ k) && (captureEntry h k).isSome) badField

/-- Faults of the wait and post specs (R116, R243, R302); the objects are those of core `c`. -/
def State.specFaults (s : State) (h : RecHdr) (c : Nat) : List Exc :=
  let q := s.core c
  let alone := match s.taskOf c with | some t => decide (t.gangSize ≤ 1) | none => true
  let ring := fun (x : Spec) (count : Bool) =>
    match mapFind q.rings x.obj with
    | none => [Exc.of codeHFAULT]
    | some r => excIf (count && decide (r.count < x.count)) badField ++
        excIf (count && r.bound.any fun u => u.2 == (x.kind == 1)) (raceExc x.obj 0)
  let barrier := fun (x : Spec) =>
    if x.obj = 16 then excIf alone (Exc.of codePERM 1)
    else excIf (mapFind q.barriers x.obj).isNone (Exc.of codeHFAULT)
  (match h.wait.kind with
   | 0 => []
   | 3 => barrier h.wait
   | _ => ring h.wait true) ++
  (match h.post.kind with
   | 0 => []
   | 3 => excIf (h.post.obj == 16) badField ++ barrier h.post
   | k => ring h.post false ++ excIf (h.wait.kind != k || h.wait.obj != h.post.obj) (raceExc h.post.obj 0))

/-- The extents a record sees: an attached handle has as many outermost coordinates as the wait spec claims (R133). -/
def Rec.extents (r : Rec) (h : Handle) : List Nat :=
  match h.desc.ring with
  | none => h.ext
  | some x =>
    let n := if (r.hdr.wait.kind == 1 || r.hdr.wait.kind == 2) && r.hdr.wait.obj == x && r.objCore == r.core then r.hdr.wait.count else 0
    h.ext.set (h.desc.rank - 1) n

/-- Something beyond the extents may stop an access of the core's engines: a purity rule, a seal, a ring. -/
def State.guarded (s : State) (c : Nat) : Bool :=
  (match s.taskOf c with | some t => t.pure | none => false) ||
  s.coreTab.any fun p => !p.2.rings.isEmpty || (p.2.handles.any fun h => h.2.sealed) ||
    (p.2.engines.any fun e => e.2.queue.any fun r => r.chainBytes.isSome)

/-- Faults of one operand: its slot, rights and space, then the extents at the corners, then every element. -/
def State.operandFaultsAt (s : State) (r : Rec) (slot : Nat) (wr : Bool) (spaces : List Nat) (codecOk : Bool)
    (corners : List (List Nat)) (cells : Unit → List (List Nat)) : List Exc :=
  let c := r.core
  match (s.core c).handle slot with
  | none => [Exc.atSlot slot codeHFAULT]
  | some h =>
    let own :=
      excIf (wr && h.isArgs) (Exc.atSlot slot codePERM 6) ++
      excIf (!(spaces.contains h.desc.space)) (Exc.atSlot slot codePERM 1) ++
      excIf ((wr && !h.desc.wr) || (!wr && !h.desc.rd)) (Exc.atSlot slot codePERM 2) ++
      excIf (h.desc.codec != 0 && !codecOk) (Exc.atSlot slot codeCOMPRESSED) ++
      excIf (wr && h.sealed) (Exc.atSlot slot codeSEALED)
    match corners.findSome? fun x => outside (r.extents h) x with
    | some (dim, v) => own ++ [Exc.atSlot slot codeBOUNDS 0 (boundsArg dim v)]
    | none =>
      own ++ (if s.guarded c then (cells ()).flatMap (s.elemFaults (.record c r.eng r.num) c slot h wr (!wr)) else [])

/-- The same over a nest whose coordinates are linear. -/
def State.operandFaults (s : State) (r : Rec) (slot : Nat) (wr : Bool) (spaces : List Nat) (codecOk : Bool)
    (coords : (List Nat → List (List Nat)) → List (List Nat)) : List Exc :=
  s.operandFaultsAt r slot wr spaces codecOk (coords cornersOf) fun _ => coords nestOf

/-- Faults of the scale link of a block operand at element coordinates (R130). -/
def State.scaleFaults (s : State) (r : Rec) (slot : Nat) (wr : Bool) (spaces : List Nat)
    (coords : (List Nat → List (List Nat)) → List (List Nat)) : List Exc :=
  match (s.core r.core).handle slot with
  | none => []
  | some h =>
    if isBlockTy h.desc.fmt then
      match (s.core r.core).scaleHandle h with
      | .error e => [e]
      | .ok _ => s.operandFaults r h.desc.slink wr spaces false
          fun pick => ((coords pick).flatMap (scaleCoords h.desc.fmt)).eraseDups
    else []

/-- Faults of the scale link of an operand whose element bits alone move (R130, R357). -/
def State.linkFaults (s : State) (r : Rec) (slot : Nat) : List Exc :=
  match (s.core r.core).handle slot with
  | none => []
  | some h =>
    if isBlockTy h.desc.fmt then
      (match (s.core r.core).scaleHandle h with | .error e => [e] | .ok _ => [])
    else []

/-- The S store of a core as a record body reaches it by byte offset (R342): no handle slot. -/
def ownStore (c : Nat) : Handle :=
  { desc := { space := 2, fmt := .uint8, rank := 1, codec := 0, sealed := false, policy := 0, trap := false, rd := true,
              wr := true, swz := 0, ring := none, base := 0, ext := [Config.sBytes, 1, 1, 1, 1, 1],
              pitch := [0, 0, 0, 0, 0, 0], slink := 0, slv := false, tgt := 0, peer := 0, clen := 0, sym := [] }
    target := c, runs := [], window := false, lo := coord0, ext := [Config.sBytes, 1, 1, 1, 1, 1], pwinIn := false,
    pwinOut := false, sealed := false, func := 0, isArgs := false }

/-- Faults of a record's own bytes of the S store. -/
def State.storeFaults (s : State) (r : Rec) (off n : Nat) (wr : Bool) : List Exc :=
  if Config.sBytes < off + n then [beyondStore off Config.sBytes]
  else if s.guarded r.core then
    (upTo n).flatMap fun i => s.elemFaults (.record r.core r.eng r.num) r.core 0xFF (ownStore r.core) wr (!wr) [off + i, 0, 0, 0, 0, 0]
  else []

/-- Handles that a record binds by name: the slots, with the scale slots of block handles (R112). -/
def Core.bindsOf (q : Core) (slots : List Nat) : Map Handle :=
  slots.foldl (fun m slot => match q.handle slot with
    | none => m
    | some h =>
      let m := mapPut m slot h
      if isBlockTy h.desc.fmt then
        (match q.handle h.desc.slink with | some x => if (mapFind m h.desc.slink).isSome then m else mapPut m h.desc.slink x | none => m)
      else m) []

/-- A precise fault of a record at dispatch (R207, R209). -/
def Exc.atDispatch (e : Exc) (eng : Nat) : Exc := { e with src := 1, eng := eng }

/-! ## Running records -/

/-- The bits of the completion word, 48 places down (R341). -/
def wPOISON : Nat := 0
def wMCHK : Nat := 1
def wHUNBOUND : Nat := 2
def wSYMBREAK : Nat := 3
def wDECODE : Nat := 4
def wCRCERR : Nat := 5
def wSKIPPED : Nat := 6
def wDISORDER : Nat := 7
def wNAN : Nat := 8
def wINF : Nat := 9
def wSAT : Nat := 10
def wOVERFLOW : Nat := 11
def wBINFULL : Nat := 12
def wSTALE : Nat := 13
def wGRIDMISMATCH : Nat := 14
def wCHUNKMIX : Nat := 15

/-- A record with a flag of its completion word set. -/
def Rec.mark (r : Rec) (bit : Nat) : Rec := { r with flags := r.flags ||| BitVec.ofNat 16 (2 ^ bit) }
/-- The same under a condition. -/
def Rec.markIf (r : Rec) (c : Bool) (bit : Nat) : Rec := if c then r.mark bit else r
/-- A running value (R222). -/
def Rec.val (r : Rec) (k : Nat) : Nat := mapGet r.aux k 0
def Rec.setVal (r : Rec) (k v : Nat) : Rec := { r with aux := mapPut r.aux k v }
/-- A pending MCHECK of a location kind; the lowest is kept (R210, R212). -/
def Rec.check (r : Rec) (sub : Nat) : Rec :=
  { r.mark wPOISON with mcheck := some (match r.mcheck with | none => sub | some k => Nat.min k sub) }

/-- Keys of the running values: the CHAIN's records, the poisoned units met, the CRCs, the frames, the rows; from
`auxInput` on the consumed counts of MERG; from `auxUnit` on the poisoned units themselves. -/
def auxChain : Nat := 0
def auxPoison : Nat := 1
def auxXcrc : Nat := 2
def auxXbits : Nat := 3
def auxXlen : Nat := 4
def auxCcrc : Nat := 5
def auxDecode : Nat := 6
def auxSkip : Nat := 7
def auxOut : Nat := 8
def auxChecked : Nat := 9
def auxLast : Nat := 10
def auxInput : Nat := 32
def auxUnit : Nat := 2 ^ 70

/-- The state with the record that an engine runs. -/
structure Job where
  s : State
  r : Rec
  deriving DecidableEq, Repr

/-- The slot as the record was checked against it (R112). -/
def Rec.bind (r : Rec) (slot : Nat) : Option Handle := mapFind r.binds slot

/-- Coordinates through an attached handle: the j-th slot claimed (R133). -/
def Rec.through (r : Rec) (h : Handle) (x : List Nat) : List Nat :=
  if h.desc.ring.isSome then
    let d := h.desc.rank - 1
    x.set d (r.held.getD (x.getD d 0) 0)
  else x

/-- Poisoned units met by a read, each once for a record: ZERO reports them, TRAP leaves a pending MCHECK (R212, R216). -/
def Job.meet (x : Job) (trap : Bool) (us : List ErrorUnit) : Job :=
  us.foldl (fun x u =>
    let key := auxUnit + unitLocation u
    if (mapFind x.r.aux key).isSome then x
    else
      let r := ((x.r.mark wPOISON).setVal key 1).setVal auxPoison (x.r.val auxPoison + 1)
      if trap then { x with r := r.check (unitSub u) }
      else { s := x.s.reportPoison (unitLocation u) (unitBytes u) 2 (x.s.taskIdOf r.core), r := r }) x

/-- Memory as the record's engine sees it: an engine of a core sees that core's writes before they are performed, the neighbour engine
of a die does not (R167, R169). -/
def Job.view (x : Job) : State := if x.r.eng = 4 then x.s else x.s.seenBy x.r.core

/-- Element bits read through a handle in order; poisoned units read as zeros. -/
def Job.read (x : Job) (h : Handle) (cs : List (List Nat)) : List Nat × Job :=
  let v := x.view
  let cs := cs.map (x.r.through h)
  let bits := cs.map (v.readElem h)
  let x := if v.poison.isEmpty then x else x.meet h.desc.trap (cs.flatMap (v.elemPoison h)).eraseDups
  (bits, { x with s := x.s.drawIf (h.desc.space == 6) })

/-- Bytes read at an offset from the base of a handle, poisoned units as zeros. -/
def Job.readBytes (x : Job) (h : Handle) (off n : Nat) : List Byte × Job :=
  let v := x.view
  let ts := (upTo n).map fun i => v.locate h (off + i)
  let bs := ts.flatMap fun t => v.readAt t 1
  (bs, if v.poison.isEmpty then x else x.meet h.desc.trap (ts.flatMap fun t => v.poisonAt t 1).eraseDups)

/-- The scale handle of a block handle among the record's bindings. -/
def Rec.scaleOf (r : Rec) (h : Handle) : Option Handle := if isBlockTy h.desc.fmt then r.bind h.desc.slink else none

/-- Exact values read through a handle, scales applied (R200), with their bits. -/
def Job.readValues (x : Job) (h : Handle) (cs : List (List Nat)) : List (Nat × Num) × Job :=
  let a := x.read h cs
  match x.r.scaleOf h with
  | none => (a.1.map fun v => (v, elemValue h.desc.fmt [] v), a.2)
  | some sh =>
    let n := scalesPerBlock h.desc.fmt
    let b := a.2.read sh (cs.flatMap (scaleCoords h.desc.fmt))
    (a.1.zipIdx.map fun p => (p.1, elemValue h.desc.fmt ((b.1.drop (n * p.2)).take n) p.1), b.2)

/-- A location as a number: its space, then its address. -/
def locNumber : WriteTarget → Nat
  | .hbm pa _ => pa
  | .store c st off => 2 ^ 64 * (1 + 4 * c + st) + off
  | .host f iova => 2 ^ 64 * (2048 + f) + iova
  | .peer p va => 2 ^ 64 * (4096 + p) + va

/-- A range put into a sorted list of separate ranges. -/
def rangeAdd : List (Nat × Nat) → Nat → Nat → List (Nat × Nat)
  | [], a, n => [(a, n)]
  | (b, m) :: rest, a, n =>
    if a + n < b then (a, n) :: (b, m) :: rest
    else if b + m < a then (b, m) :: rangeAdd rest a n
    else rangeAdd rest (Nat.min a b) (Nat.max (a + n) (b + m) - Nat.min a b)

/-- Bytes that the record has written (R243). -/
def Rec.bytesWritten (r : Rec) : Nat := r.wrote.foldl (fun a x => a + x.2) 0

/-- Bytes written to memory by the record. -/
def Job.put (x : Job) (ws : List (WriteTarget × List Byte)) : Job :=
  { s := x.s.engineWrite x.r.core ws,
    r := { x.r with wrote := ws.foldl (fun m w => rangeAdd m (locNumber w.1) w.2.length) x.r.wrote } }

/-- Elements delivered to a destination under its store policy (R144); `value` is what the whole record delivers for a
canonical tuple.  The answer has the elements that were written. -/
def Job.deliver (x : Job) (h : Handle) (xs : List (List Nat × Nat)) (value : List Nat → Option Nat) : Job :=
  let v := x.view
  let ys := xs.map fun y => (x.r.through h y.1, y.2)
  let g := v.storeWith h ys value
  let x := x.put (joinBytes (v.gatheredBytes h g.1))
  { x with r := x.r.markIf g.2 wSYMBREAK }

/-- An element of the destination is stored, not discarded. -/
def Handle.stores (h : Handle) (x : List Nat) : Bool := match h.place x with | .at _ _ _ c => c | .zero => false

/-- NAN, INF and SAT of a delivered value (R341). -/
def Rec.delivered (r : Rec) (ty : Ty) (bits fl : Nat) : Rec :=
  let r := r.markIf (decide (fl &&& flagSAT ≠ 0)) wSAT
  match floatFmt? ty with
  | some f =>
    (match f.value bits with
     | .nan => r.mark wNAN
     | .inf _ => r.mark wINF
     | _ => r)
  | none => r.markIf (ty == .e8m0 && decide (bits = 0xFF)) wNAN

/-- One element converted by an engine, never flushed: code and status; a clamp to an integer counts as SAT (R198, R199,
R331, R341). -/
def engineConvert (src dst : Ty) (rm : Rnd) (sat : Bool) (v : Nat) (x : Num) : Nat × Nat :=
  if src = dst then (v, 0)
  else
    let r := convertElem src dst rm sat false v x
    let clamped := (intFmt? dst).isSome && (intFmt? src).isNone && decide (r.2 &&& flagNV ≠ 0) && x != .nan
    (r.1, r.2 ||| flagIf clamped flagSAT)

end Sys2Proof.Machine
end

