-- ==== Sys2Proof/Machine/Copy.lean ====
section
/-! DEFINITION. The copy engines: CPY, CFILL and CPYS (15 R342, R353 to R359), the codecs of compressed tensors (R148 to R150) and the
joint orbits of two operands (R348). -/

namespace Sys2Proof.Machine

/-! ## Codecs (R148, R149) -/

/-- Length bytes that extend a nibble of 15: the sum and the rest, none at the end of the input. -/
def lz4More : Nat → List Byte → Option (Nat × List Byte)
  | n, b :: bs => if b = 255 then lz4More (n + 255) bs else some (n + b.toNat, bs)
  | _, [] => none

/-- A nibble's length. -/
def lz4Length (nibble : Nat) (bs : List Byte) : Option (Nat × List Byte) :=
  if nibble = 15 then lz4More 15 bs else some (nibble, bs)

/-- `n` bytes copied from `off` bytes back, one at a time. -/
def lz4Copy (out : List Byte) (off : Nat) : Nat → List Byte
  | 0 => out
  | n + 1 => lz4Copy (out ++ [out.getD (out.length - off) 0]) off n

/-- An LZ4 block, `fuel` sequences at most. -/
def lz4Decode : Nat → List Byte → List Byte → Option (List Byte)
  | 0, _, _ => none
  | _, [], _ => none
  | fuel + 1, t :: bs, out =>
    match lz4Length (t.toNat / 16) bs with
    | none => none
    | some (lit, bs) =>
      if bs.length < lit then none
      else
        let out := out ++ bs.take lit
        match bs.drop lit with
        | [] => some out
        | [_] => none
        | o0 :: o1 :: bs =>
          let off := o0.toNat + 256 * o1.toNat
          match lz4Length (t.toNat % 16) bs with
          | none => none
          | some (m, bs) => if off = 0 || out.length < off then none else lz4Decode fuel bs (lz4Copy out off (m + 4))

/-- A varint: `i` bytes read so far. -/
def varint : Nat → Nat → List Byte → Option (Nat × List Byte)
  | _, _, [] => none
  | i, acc, b :: bs =>
    let acc := acc + b.toNat % 128 * 2 ^ (7 * i)
    if b.toNat < 128 then some (acc % 2 ^ 64, bs) else if i = 9 then none else varint (i + 1) acc bs

/-- The value of a zig-zag code, modulo 2^64. -/
def unzigzag (z : Nat) : Nat := if z % 2 = 0 then z / 2 else 2 ^ 64 - 1 - z / 2

/-- `n` more elements of a DELTA64 frame after `x` with the difference `d`; the first code is a difference itself. -/
def deltaDecode : Nat → Bool → Nat → Nat → List Byte → Option (List Byte)
  | 0, _, _, _, bs => if bs.isEmpty then some [] else none
  | n + 1, first, x, d, bs =>
    match varint 0 0 bs with
    | none => none
    | some (z, rest) =>
      let d := if first then unzigzag z else (d + unzigzag z) % 2 ^ 64
      let y := (x + d) % 2 ^ 64
      match deltaDecode n false y d rest with
      | none => none
      | some more => some (leBytes 8 y ++ more)

/-- ZRUN tokens of elements of `eb` bytes. -/
def zrunDecode (eb : Nat) : Nat → List Byte → Option (List Byte)
  | _, [] => some []
  | 0, _ => none
  | fuel + 1, t :: bs =>
    if t.toNat < 128 then
      (match zrunDecode eb fuel bs with
       | none => none
       | some more => some (List.replicate (eb * (t.toNat + 1)) 0 ++ more))
    else
      let n := eb * (t.toNat - 127)
      if bs.length < n then none
      else match zrunDecode eb fuel (bs.drop n) with
        | none => none
        | some more => some (bs.take n ++ more)

/-- A frame of `n` expanded bytes; none for a decode error. -/
def frameDecode (codec eb n : Nat) (bs : List Byte) : Option (List Byte) :=
  let out := match codec with
    | 1 => lz4Decode (bs.length + 1) bs []
    | 2 =>
      if bs.length < 8 then none
      else (match deltaDecode (n / 8 - 1) true (leNat (bs.take 8)) 0 (bs.drop 8) with
        | none => none
        | some more => some (bs.take 8 ++ more))
    | _ => zrunDecode eb (bs.length + 1) bs
  match out with
  | none => none
  | some o => if o.length = n then some o else none

/-- Frames of a compressed tensor, and expanded bytes of one. -/
def Desc.expandedBytes (d : Desc) : Nat := (d.expandedBits + 7) / 8
def Desc.frames (d : Desc) : Nat := (d.expandedBytes + 4095) / 4096
def Desc.frameSize (d : Desc) (f : Nat) : Nat := Nat.min 4096 (d.expandedBytes - 4096 * f)

/-- Bit position of an absolute tuple in coordinate order (R147). -/
def Desc.densePos (d : Desc) (x : List Nat) : Nat :=
  ((upTo 6).foldl (fun (a : Nat × Nat) i => (a.1 + x.getD i 0 * a.2, a.2 * d.ext.getD i 1)) (0, 1)).1 * tyBits d.fmt

/-- Frames that an element touches. -/
def Desc.elemFrames (d : Desc) (x : List Nat) : List Nat :=
  let p := d.densePos x
  [p / 32768, (p + tyBits d.fmt - 1) / 32768].eraseDups

/-- Stored bytes of a frame, none where the directory does not give it. -/
def Job.frameBytes (x : Job) (h : Handle) (f : Nat) : Option (List Byte) × Job :=
  let a := x.readBytes h (4 * f) 8
  let lo := leNat (a.1.take 4)
  let hi := leNat (a.1.drop 4)
  let last := f + 1 == h.desc.frames
  if hi < lo || h.desc.clen < hi || (last && hi != h.desc.clen) || (f == 0 && lo != 4 * (h.desc.frames + 1)) then (none, a.2)
  else
    let b := a.2.readBytes h lo (hi - lo)
    (some b.1, b.2)

/-- A frame expanded; none for a decode error (R149). -/
def Job.frame (x : Job) (h : Handle) (f : Nat) : Option (List Byte) × Job :=
  let a := x.frameBytes h f
  (match a.1 with
   | none => none
   | some bs => frameDecode h.desc.codec (tyBits h.desc.fmt / 8) (h.desc.frameSize f) bs, a.2)

/-- Frames expanded, in order; those that do not decode are zeros. -/
def Job.expand (x : Job) (h : Handle) (fs : List Nat) : Map (List Byte) × Job :=
  fs.foldl (fun a f =>
    let b := a.2.frame h f
    (mapPut a.1 f (b.1.getD (List.replicate (h.desc.frameSize f) 0)), b.2)) ([], x)

/-- Element bits from expanded frames. -/
def Desc.expandedElem (d : Desc) (m : Map (List Byte)) (x : List Nat) : Nat :=
  let p := d.densePos x
  let w := tyBits d.fmt
  let bs := (upTo ((p % 8 + w + 7) / 8)).map fun i => (mapGet m ((p / 8 + i) / 4096) []).getD ((p / 8 + i) % 4096) 0
  bitsAt (leNat bs) (p % 8) w

/-- Values read through a compressed source, the scales of a block format through its link (R130, R148). -/
def Job.readExpanded (x : Job) (h : Handle) (cs : List (List Nat)) : List (Nat × Num) × Job :=
  let ys := cs.map h.abs
  let a := x.expand h (ys.flatMap h.desc.elemFrames).eraseDups
  let vs := ys.map (h.desc.expandedElem a.1)
  match a.2.r.scaleOf h with
  | none => (vs.map fun v => (v, elemValue h.desc.fmt [] v), a.2)
  | some sh =>
    let n := scalesPerBlock h.desc.fmt
    let b := a.2.read sh (cs.flatMap (scaleCoords h.desc.fmt))
    (vs.zipIdx.map fun p => (p.1, elemValue h.desc.fmt ((b.1.drop (n * p.2)).take n) p.1), b.2)

/-! ## The copy nest (R353, R355) -/

/-- Word of level `l`. -/
def copyWord (b : BitVec 384) (l : Nat) : Nat := bodyAt b (40 + 4 * l) 4
/-- Levels outermost first, with the steps of the source, or of the destination. -/
def copyLevels (b : BitVec 384) (dst trans : Bool) : List Level :=
  [5, 4, 3, 2, 1, 0].map fun l =>
    let w := copyWord b l
    let dim := bitsAt w 10 3
    ⟨bitsAt w 0 10 + 1, if dst && trans && decide (dim < 2) then 1 - dim else dim,
     if dst then toSigned 9 (bitsAt w 23 9) else toSigned 10 (bitsAt w 13 10)⟩
/-- Trip counts, outermost first. -/
def copyTrips (b : BitVec 384) : List Nat := (copyLevels b false false).map fun l => l.trip

/-- A level that steps an operand names a dimension of it. -/
def levelsFit (lv : List Level) (rank : Nat) : Bool := lv.all fun l => l.step == 0 || decide (l.dim < rank)

/-- Unit length in elements. -/
def copyUnit (b : BitVec 384) : Nat := bodyAt b 20 2
/-- TRANS, XCRC and CCHK. -/
def copyTrans (b : BitVec 384) : Bool := bodyBits b 18 0 1 == 1
def copyXcrc (b : BitVec 384) : Bool := bodyBits b 18 1 1 == 1
def copyCchk (b : BitVec 384) : Bool := bodyBits b 18 2 1 == 1
/-- The result block: offset in S, if RES is valid (R342). -/
def copyRes (b : BitVec 384) : Option Nat := if bodyBits b 22 15 1 = 1 then some (32 * bodyBits b 22 0 15) else none
/-- Rounding and SAT. -/
def copyRm (b : BitVec 384) : Rnd := rndOf (bodyBits b 19 0 2)
def copySat (b : BitVec 384) : Bool := bodyBits b 19 2 1 == 1

/-- Coordinates of a CPY's source, or of its destination, over units. -/
def copyCoords (b : BitVec 384) (dst : Bool) (pick : List Nat → List (List Nat)) : List (List Nat) :=
  let t := copyTrans b
  nestCoords (baseCoords (if dst then [bodyWord b 2, bodyWord b 3] else [bodyWord b 0, bodyWord b 1])) (copyLevels b dst t)
    [(if dst && t then 1 else 0, copyUnit b)] pick

/-- Coordinates of one unit. -/
def copyUnitAt (b : BitVec 384) (dst : Bool) (ix : List Nat) : List (List Nat) :=
  let t := copyTrans b
  let base := moved (baseCoords (if dst then [bodyWord b 2, bodyWord b 3] else [bodyWord b 0, bodyWord b 1]))
    (copyLevels b dst t) ix
  (unitCoords base [(if dst && t then 1 else 0, copyUnit b)] nestOf).map coordsOf

/-- Least and greatest of each coordinate. -/
def boundingBox (cs : List (List Nat)) : List Nat × List Nat :=
  ((upTo 6).map fun i => cs.foldl (fun a x => Nat.min a (x.getD i 0)) ((cs.headD []).getD i 0),
   (upTo 6).map fun i => cs.foldl (fun a x => Nat.max a (x.getD i 0)) 0)

/-- The guaranteed group of a CPY (R146): slots map by identity or by the transpose when every level steps both operands alike, wherever
the copied box lies in the destination (log 50). -/
def copyGroup (b : BitVec 384) (sh dh : Handle) : GroupTag :=
  let t := copyTrans b
  let swap := fun (i : Nat) => if t && decide (i < 2) then 1 - i else i
  let same := ((copyLevels b false t).zip (copyLevels b true t)).all fun p => p.1.step == p.2.step
  let box := boundingBox ((copyCoords b false cornersOf).map sh.abs)
  if same && sh.desc.boxClosed box.1 box.2 then
    .gens (dropSigned dh.desc.fmt (copyRm b) (renameGroup sh.desc.sym fun i => some (swap i)))
  else .gens []

/-- Spaces that CE0 and CE1 reach with CPY and CFILL (R109). -/
def copySpaces : List Nat := [0, 1, 2, 4, 5, 6]

/-- Frames that the whole record touches, ascending. -/
def copyFrames (b : BitVec 384) (sh : Handle) : List Nat :=
  ((copyCoords b false nestOf).flatMap fun x => sh.desc.elemFrames (sh.abs x)).foldl setPut []

/-! ## CPY (R354 to R356) -/

/-- Fields of a CPY's body that are right whatever its operands (R342, R353, R354). -/
def copyBodyOk (b : BitVec 384) : Bool :=
  decide (bodyBits b 18 3 5 = 0) && decide (bodyBits b 19 3 5 = 0) && decide (1 ≤ copyUnit b) && decide (copyUnit b ≤ 4096) &&
  (copyLevels b false false).all (fun l => decide (l.dim < 6)) &&
  ((copyRes b).isSome || (!(copyXcrc b) && !(copyCchk b)))

/-- The levels of a copy fit the rank of its destination, and blocks are written whole (R353, R355). -/
def copyDestOk (b : BitVec 384) (dh : Handle) : Bool :=
  let t := copyTrans b
  let dl := copyLevels b true t
  levelsFit dl dh.desc.rank &&
  (!(isBlockTy dh.desc.fmt) ||
    (!t && decide (copyUnit b % 32 = 0) && decide (bodyWord b 2 % 32 = 0) &&
     dl.all fun l => l.dim != 0 || decide (l.step % 32 = 0)))

/-- Slots a CPY names. -/
def copySlots (b : BitVec 384) : List Nat := [bodyAt b 16 1, bodyAt b 17 1]

/-- The dispatch check of CPY (R340, R342, R354 to R356). -/
def cpyFaults (r : Rec) (s : State) : List Exc :=
  let b := r.body
  let q := s.core r.core
  let ss := bodyAt b 16 1
  let ds := bodyAt b 17 1
  let src := copyCoords b false
  let dst := copyCoords b true
  excIf (!(copyBodyOk b)) badField ++
  (match q.handle ss with | some sh => excIf (!(levelsFit (copyLevels b false false) sh.desc.rank)) badField | none => []) ++
  (match q.handle ds with | some dh => excIf (!(copyDestOk b dh)) badField | none => []) ++
  s.operandFaults r ss false copySpaces true src ++ s.scaleFaults r ss false copySpaces src ++
  s.operandFaults r ds true copySpaces false dst ++ s.scaleFaults r ds true copySpaces dst ++
  (match copyRes b with | some off => s.storeFaults r off 32 true | none => []) ++
  (match q.handle ss, q.handle ds with
   | some sh, some dh =>
     excIf (dh.desc.fmt == .e8m0 && sh.desc.fmt != .e8m0) badField ++
     strictFaults ds dh (copyGroup b sh dh) ++
     excIf (sh.desc.codec != 0 && !([0, 1, 2].contains dh.desc.space)) (Exc.atSlot ss codeCOMPRESSED) ++
     excIf (sh.desc.codec != 0 && copyCchk b && decide (64 < (copyFrames b sh).length))
       (Exc.atSlot ss codeBOUNDS 0 (boundsArg 0 64))
   | _, _ => [])

/-- The expected compressed CRC read at dispatch (R342). -/
def Job.cpyPrepare (x : Job) : Job :=
  match copyRes x.r.body with
  | some off =>
    if copyCchk x.r.body then
      let a := x.readBytes (ownStore x.r.core) off 4
      { a.2 with r := a.2.r.setVal auxChecked (leNat a.1) }
    else x
  | none => x

/-- Elements written enter the expanded CRC, packed (R150, R83). -/
def Rec.crcElem (r : Rec) (w v : Nat) : Rec :=
  let len := r.val auxXlen + w
  let bits := r.val auxXbits + v % 2 ^ w * 2 ^ (r.val auxXlen)
  ((r.setVal auxXcrc (crc32c (r.val auxXcrc) (leBytes (len / 8) bits))).setVal auxXbits (bits / 2 ^ (8 * (len / 8)))).setVal
    auxXlen (len % 8)

/-- What a CPY delivers of its unit `ix`: elements, scales with their places, flags of R341 to set. -/
structure Unit32 where
  elems  : List (List Nat × Nat)
  scales : List (List Nat × Nat)
  stats  : List (Nat × Nat)
  deriving DecidableEq, Repr

/-- Blocks of a unit quantised, always RNE (R355): `n` blocks at most. -/
def quantUnit (ty : Ty) : Nat → List (List Nat × Num) → Unit32
  | 0, _ => ⟨[], [], []⟩
  | n + 1, xs =>
    match xs with
    | [] => ⟨[], [], []⟩
    | x :: _ =>
      let blk := xs.take 32
      let k := quantBlock ty (blk.map fun p => p.2)
      let rest := quantUnit ty n (xs.drop 32)
      ⟨(blk.zip k.elems).map (fun p => (p.1.1, p.2)) ++ rest.elems, (scaleCoords ty x.1).zip k.scales ++ rest.scales,
       (if k.scales.getD 0 0 = 0xFF then [(wNAN, 0)] else []) ++ (if k.flags &&& flagSAT ≠ 0 then [(wSAT, 0)] else []) ++
       rest.stats⟩

/-- The unit `ix` of a CPY read whole and converted. -/
def Job.cpyDelivers (x : Job) (sh dh : Handle) (ix : List Nat) : Unit32 × Job :=
  let b := x.r.body
  let a := if sh.desc.codec ≠ 0 then x.readExpanded sh (copyUnitAt b false ix) else x.readValues sh (copyUnitAt b false ix)
  let ys := copyUnitAt b true ix
  let ty := dh.desc.fmt
  if isBlockTy ty then (quantUnit ty 128 (ys.zip (a.1.map fun v => v.2)), a.2)
  else
    let out := a.1.map fun v => engineConvert sh.desc.fmt ty (copyRm b) (copySat b) v.1 v.2
    (⟨ys.zip (out.map fun v => v.1), [], out⟩, a.2)

/-- A micro-PC at or after another. -/
def indexGe : List Nat → List Nat → Bool
  | a :: as, b :: bs => decide (b < a) || (a == b && indexGe as bs)
  | _, _ => true

/-- A unit read, converted and written, its scales first; `value` is what the whole CPY delivers for a canonical tuple. -/
def Job.cpyWrite (x : Job) (dh : Handle) (u : Unit32) (value : List Nat → Option Nat) : Job :=
  let x := match x.r.scaleOf dh with
    | some kh => x.deliver kh u.scales (deliveredIn kh u.scales)
    | none => x
  x.deliver dh u.elems value

/-- The copy run on to the unit `stop`, `n` units at most. -/
def Job.cpyRun (sh dh : Handle) (stop : List Nat) : Nat → Job → Job
  | 0, x => x
  | n + 1, x =>
    if x.r.upc = stop then x
    else
      let u := x.cpyDelivers sh dh x.r.upc
      let y := u.2.cpyWrite dh u.1 fun _ => none
      match nextIndex (copyTrips x.r.body) x.r.upc with
      | some ix => cpyRun sh dh stop n { y with r := { y.r with upc := ix } }
      | none => y

/-- What the whole CPY delivers for a canonical tuple not yet passed (R144); units before it may write what it reads. -/
def Job.cpyValue (x : Job) (sh dh : Handle) (y : List Nat) : Option Nat :=
  match (nestOf (copyTrips x.r.body)).reverse.find? fun ix => (copyUnitAt x.r.body true ix).any fun z => dh.abs z == y with
  | none => none
  | some ix =>
    if indexGe ix x.r.upc then
      let x := if sh.desc.space = dh.desc.space then
          Job.cpyRun sh dh ix ((copyTrips x.r.body).foldl (fun a t => a * t) 1) x
        else x
      deliveredIn dh (x.cpyDelivers sh dh ix).1.elems y
    else none

/-- The result block (R342): bytes 4 to 31. -/
def Job.resultBlock (x : Job) : Job :=
  match copyRes x.r.body with
  | none => x
  | some off =>
    let r := x.r
    let bs := leBytes 4 (r.val auxCcrc) ++ leBytes 4 (if copyXcrc r.body then r.val auxXcrc else 0) ++
      leBytes 4 (r.val auxDecode) ++ leBytes 4 (r.val auxPoison) ++ leBytes 12 0
    { x with s := x.s.engineWrite r.core [(.store r.core 2 (off + 4), bs)] }

/-- The end of a CPY: the padded last byte of the expanded CRC, and the result block. -/
def Job.cpyEnd (x : Job) : Job :=
  let r := if copyXcrc x.r.body && decide (x.r.val auxXlen ≠ 0) then
      (x.r.setVal auxXcrc (crc32c (x.r.val auxXcrc) (leBytes 1 (x.r.val auxXbits)))).setVal auxXlen 0
    else x.r
  let x := { x with r := r }.resultBlock
  { x with r := { x.r with ended := true } }

/-- The step before the first unit of a compressed source, or of one whose CRC is checked (R150, R356). -/
def Job.cpyCheck (x : Job) (sh : Handle) : Job :=
  let fs := if sh.desc.codec ≠ 0 then copyFrames x.r.body sh else []
  let a := fs.foldl (fun (a : Nat × Nat × Job) f =>
    let b := a.2.2.frameBytes sh f
    let bad := match b.1 with
      | none => 1
      | some bs => if (frameDecode sh.desc.codec (tyBits sh.desc.fmt / 8) (sh.desc.frameSize f) bs).isNone then 1 else 0
    (crc32c a.1 (b.1.getD []), a.2.1 + bad, b.2)) (0, 0, x)
  let x := a.2.2
  let r := ((x.r.setVal auxCcrc a.1).setVal auxDecode a.2.1).setVal auxSkip 1
  if copyCchk r.body && decide (a.1 ≠ r.val auxChecked) then ({ x with r := (r.setVal auxDecode 0).mark wCRCERR }).cpyEnd
  else { x with r := r.markIf (decide (a.2.1 ≠ 0)) wDECODE }

/-- One unit of a CPY (R355). -/
def Job.cpyUnit (x : Job) (sh dh : Handle) : Job :=
  let b := x.r.body
  let u := x.cpyDelivers sh dh x.r.upc
  let r := u.1.stats.foldl (fun r p => if isBlockTy dh.desc.fmt then r.mark p.1 else r.delivered dh.desc.fmt p.1 p.2) u.2.r
  let r := if copyXcrc b then
      (u.1.elems.filter fun y => dh.stores (r.through dh y.1)).foldl (fun r y => r.crcElem (tyBits dh.desc.fmt) y.2) r
    else r
  let y := ({ u.2 with r := r } : Job).cpyWrite dh u.1 (x.cpyValue sh dh)
  let r := { y.r with count := y.r.count + 1 }
  match nextIndex (copyTrips b) r.upc with
  | some ix => { y with r := { r with upc := ix } }
  | none => ({ y with r := r }).cpyEnd

/-- Frames of the source that a unit touches. -/
def unitFrames (b : BitVec 384) (sh : Handle) (ix : List Nat) : List Nat :=
  (copyUnitAt b false ix).flatMap fun x => sh.desc.elemFrames (sh.abs x)

/-- Units up to the next place where a CPY may stop: any, or with a compressed source one between two frames (R219). -/
def Job.cpyUnits (sh dh : Handle) : Nat → Job → Job
  | 0, x => x
  | n + 1, x =>
    let y := x.cpyUnit sh dh
    if y.r.ended || sh.desc.codec == 0 ||
        (unitFrames x.r.body sh x.r.upc).getLast? != (unitFrames x.r.body sh y.r.upc).head? then y
    else cpyUnits sh dh n y

/-- One step of a CPY (R355, R356). -/
def Job.cpyStep (x : Job) : Job :=
  let b := x.r.body
  match x.r.bind (bodyAt b 16 1), x.r.bind (bodyAt b 17 1) with
  | some sh, some dh =>
    if (sh.desc.codec != 0 || copyCchk b) && decide (x.r.val auxSkip = 0) then x.cpyCheck sh
    else Job.cpyUnits sh dh ((copyTrips b).foldl (fun a t => a * t) 1) x
  | _, _ => { x with r := { x.r with ended := true } }

/-! ## CFILL (R357) -/

/-- VALUE in the destination's format. -/
def fillBits (b : BitVec 384) (ty : Ty) : Nat := bodyAt b 24 8 % 2 ^ tyBits ty

/-- The guaranteed group of a CFILL (R146). -/
def fillGroup (b : BitVec 384) (h : Handle) : GroupTag :=
  if fillBits b h.desc.fmt = 0 then .every else .gens (h.desc.sym.filter fun g => !g.neg)

/-- The dispatch check of CFILL. -/
def cfillFaults (r : Rec) (s : State) : List Exc :=
  let b := r.body
  let ds := bodyAt b 17 1
  excIf (!(decide (bodyAt b 16 1 = 0) && decide (bodyAt b 18 2 = 0) && decide (bodyAt b 22 2 = 0) &&
    decide (1 ≤ copyUnit b) && decide (copyUnit b ≤ 4096) &&
    (copyLevels b false false).all (fun l => decide (l.dim < 6) && l.step == 0))) badField ++
  s.operandFaults r ds true copySpaces false (copyCoords b true) ++ s.linkFaults r ds ++
  (match (s.core r.core).handle ds with
   | some dh =>
     excIf (!(levelsFit (copyLevels b true false) dh.desc.rank)) badField ++
     strictFaults ds dh (fillGroup b dh)
   | none => [])

/-- One step of a CFILL: one unit. -/
def Job.cfillStep (x : Job) : Job :=
  let b := x.r.body
  match x.r.bind (bodyAt b 17 1) with
  | some dh =>
    let v := fillBits b dh.desc.fmt
    let x := x.deliver dh ((copyUnitAt b true x.r.upc).map fun y => (y, v)) fun y =>
      if (copyCoords b true nestOf).any (fun z => dh.abs z == y) then some v else none
    let r := x.r.delivered dh.desc.fmt v 0
    let r := { r with count := r.count + 1 }
    match nextIndex (copyTrips b) r.upc with
    | some ix => { x with r := { r with upc := ix } }
    | none => { x with r := { r with ended := true } }
  | none => { x with r := { x.r with ended := true } }

/-! ## Joint orbits (R348) -/

/-- Slots that a mask marks, ascending. -/
def markedSlots (m : Nat) : List Nat := (upTo 8).filter fun i => m.testBit i

/-- Generators on marked slots, as they act on the contracted tuple. -/
def contractedGens (gs : List Gen) (marked : List Nat) : List Gen :=
  renameGroup (gs.filter fun g => g.touched.all fun i => marked.contains i) fun i => marked.idxOf? i

/-- A generator covers marked and unmarked slots. -/
def straddles (gs : List Gen) (marked : List Nat) : Bool :=
  gs.any fun g => g.touched.any (fun i => marked.contains i) && g.touched.any (fun i => !(marked.contains i))

/-- The sign that Rep gives a tuple: 1, −1, or 0 for a forced zero. -/
def repSign (gs : List Gen) (ext x : List Nat) : Int :=
  match repAll gs ext gs x false with | none => 0 | some (_, neg) => if neg then -1 else 1

/-- Insert by an ascending key. -/
def insertBy (key : List Nat → Nat) (x : List Nat × Int) : List (List Nat × Int) → List (List Nat × Int)
  | [] => [x]
  | y :: ys => if key x.1 ≤ key y.1 then x :: y :: ys else y :: insertBy key x ys

/-- The kept orbits of A's slots `ma` contracted with B's slots `mb`, each with its weight, in ascending rank; or the faults. -/
def jointOrbits (a b : Handle) (ma mb : Nat) : Except Exc (List (List Nat × Int)) :=
  let am := markedSlots ma
  let bm := markedSlots mb
  let ext := am.map fun i => a.ext.getD i 1
  if ext ≠ bm.map (fun i => b.ext.getD i 1) then .error badField
  else if straddles a.desc.sym am || straddles b.desc.sym bm then .error (Exc.of codeSYMGROUP)
  else
    let ga := contractedGens a.desc.sym am
    let gb := contractedGens b.desc.sym bm
    let j := (ga.filter fun g => gb.any fun k => k.plain == g.plain).map Gen.plain
    let d : Desc := { a.desc with sym := j, ext := ext, rank := am.length }
    let xs := tuplesOf ext
    let canon := fun x => match repAll j ext j x false with | some (y, _) => y | none => x
    let weight := fun t => ((xs.filter fun x => canon x == t).map fun x => repSign ga ext x * repSign gb ext x).foldl (· + ·) 0 *
      repSign ga ext t * repSign gb ext t
    let ts := (xs.filter fun x => canon x == x).map fun t => (t, weight t)
    .ok ((ts.filter fun t => t.2 != 0).foldl (fun l t => insertBy d.linearRank t l) [])

/-! ## CPYS (R358, R359) -/

/-- Stream, dimensions and mode of a CPYS. -/
def feedStream (b : BitVec 384) : Nat := bodyBits b 17 0 4
def feedRdim (b : BitVec 384) : Nat := bodyBits b 18 0 3
def feedKdim (b : BitVec 384) : Nat := bodyBits b 18 3 3
def feedOrbit (b : BitVec 384) : Bool := bodyBits b 19 0 2 == 1
def feedTri (b : BitVec 384) : Bool := bodyBits b 19 4 1 == 1
/-- Positions of a row that hold an element under SPN (R346). -/
def spnPlaces (spn : Nat) : Nat := match spn with | 1 => 16 | 2 => 8 | _ => 32
/-- A metadata stream. -/
def feedMasks (b : BitVec 384) : Bool := decide (8 ≤ feedStream b)
/-- Rows of a chunk. -/
def feedRows (b : BitVec 384) : Nat := if 4 ≤ feedStream b && feedStream b < 8 then 128 else 96
/-- Base coordinates of the chunk at an iteration; L0 of an ORBIT CPYS counts chunks and steps nothing. -/
def feedBase (b : BitVec 384) (ix : List Nat) : List Int :=
  moved (baseCoords [bodyWord b 0, bodyWord b 1, bodyWord b 2, bodyWord b 3]) (copyLevels b false false) ix
/-- An iteration that TRI leaves out. -/
def feedSkips (b : BitVec 384) (ix : List Nat) : Bool := feedTri b && decide (ix.getD 3 0 < ix.getD 4 0)

/-- The kept orbits of an ORBIT CPYS, none for a plain one or where they fault. -/
def feedOrbits (b : BitVec 384) (sh : Handle) (ph : Option Handle) : List (List Nat × Int) :=
  match ph with
  | some p => (match jointOrbits sh p (bodyAt b 21 1) (bodyAt b 22 1) with | .ok l => l | .error _ => [])
  | none => []

/-- The partner's handle, for an ORBIT CPYS. -/
def Rec.partner (r : Rec) : Option Handle := if feedOrbit r.body then r.bind (bodyAt r.body 20 1) else none

/-- Trip counts of the micro-PC: an ORBIT CPYS counts chunks at L0. -/
def feedTrips (b : BitVec 384) (kept : List (List Nat × Int)) : List Nat :=
  if feedOrbit b then (copyTrips b).set 5 (ceilDiv kept.length 32) else copyTrips b

/-- Valid rows and positions of the chunk at an iteration, and the coordinates of a place. -/
def feedShape (b : BitVec 384) (ext : List Nat) (kept : List (List Nat × Int)) (ix : List Nat) : Nat × Nat :=
  let x := coordsOf (feedBase b ix)
  let rd := feedRdim b
  let kd := feedKdim b
  (if rd = 7 then 1 else Nat.min (feedRows b) (ext.getD rd 1 - x.getD rd 0),
   if feedMasks b then 1
   else if feedOrbit b then Nat.min 32 (kept.length - 32 * ix.getD 5 0)
   else Nat.min (spnPlaces (bodyBits b 19 2 2)) (ext.getD kd 1 - x.getD kd 0))

/-- Coordinates of row `row`, position `k` of a chunk. -/
def feedPlace (b : BitVec 384) (kept : List (List Nat × Int)) (ix : List Nat) (row k : Nat) : List Nat :=
  let x := coordsOf (feedBase b ix)
  let x := if feedRdim b = 7 then x else x.set (feedRdim b) (x.getD (feedRdim b) 0 + row)
  if feedMasks b then x
  else if feedOrbit b then
    let t := (kept.getD (32 * ix.getD 5 0 + k) ([], 0)).1
    ((markedSlots (bodyAt b 21 1)).zip t).foldl (fun x p => x.set p.1 p.2) x
  else x.set (feedKdim b) (x.getD (feedKdim b) 0 + k)

/-- Every element a CPYS reads. -/
def feedCells (b : BitVec 384) (ext : List Nat) (kept : List (List Nat × Int)) : List (List Nat) :=
  ((nestOf (feedTrips b kept)).filter fun ix => !(feedSkips b ix)).flatMap fun ix =>
    let n := feedShape b ext kept ix
    (upTo n.1).flatMap fun row => (upTo n.2).map fun k => feedPlace b kept ix row k

/-- Base coordinates whose place inside the extents is checked (R358). -/
def feedBases (b : BitVec 384) : List (List Nat) :=
  let ixs := if feedTri b then (nestOf (copyTrips b)).filter fun ix => !(feedSkips b ix) else cornersOf (copyTrips b)
  ixs.map fun ix => coordsOf (feedBase b ix)

/-- Fields of a CPYS that are right whatever its operands (R353, R358, R359). -/
def feedBodyOk (b : BitVec 384) : Bool :=
  let lv := copyLevels b false false
  let rd := feedRdim b
  let kd := feedKdim b
  let l0 := lv.getD 5 ⟨1, 0, 0⟩
  decide (bodyAt b 17 1 < 10) && decide (bodyBits b 18 6 2 = 0) && rd != 6 && decide (kd < 6) && rd != kd &&
  decide (bodyBits b 19 0 2 < 2) && decide (bodyBits b 19 2 2 ≠ 3) && decide (bodyBits b 19 5 3 = 0) &&
  decide (bodyAt b 23 1 = 0) && lv.all (fun l => decide (l.dim < 6)) &&
  (copyLevels b true false).all (fun l => l.step == 0) &&
  (if feedOrbit b then l0.trip == 1 && l0.step == 0 else decide (bodyAt b 20 3 = 0))

/-- The fields fit the rank and the format of the source (R353, R358). -/
def feedSourceOk (b : BitVec 384) (sh : Handle) : Bool :=
  let rank := sh.desc.rank
  levelsFit (copyLevels b false false) rank && (feedRdim b == 7 || decide (feedRdim b < rank)) &&
  (if feedOrbit b then decide (bodyAt b 21 1 < 2 ^ rank) else feedMasks b || decide (feedKdim b < rank)) &&
  (!(feedMasks b) || sh.desc.fmt == .uint32)

/-- Slots a CPYS names. -/
def feedSlots (b : BitVec 384) : List Nat := bodyAt b 16 1 :: (if feedOrbit b then [bodyAt b 20 1] else [])

/-- The dispatch check of CPYS. -/
def cpysFaults (r : Rec) (s : State) : List Exc :=
  let b := r.body
  let q := s.core r.core
  let ss := bodyAt b 16 1
  let spaces := [0, 1, 2, 4]
  let ph := if feedOrbit b then q.handle (bodyAt b 20 1) else none
  excIf (!(feedBodyOk b)) badField ++
  excIf (feedOrbit b && ph.isNone) (Exc.atSlot (bodyAt b 20 1) codeHFAULT) ++
  (match ph with
   | some p => excIf (decide (2 ^ p.desc.rank ≤ bodyAt b 22 1)) badField ++
       excIf (p.desc.codec != 0) (Exc.atSlot (bodyAt b 20 1) codeCOMPRESSED)
   | none => []) ++
  (match q.handle ss with
   | none => [Exc.atSlot ss codeHFAULT]
   | some sh =>
     let kept := feedOrbits b sh ph
     let cells := fun (_ : Unit) => feedCells b (r.extents sh) kept
     excIf (!(feedSourceOk b sh)) badField ++
     (match ph with
      | some p => (match jointOrbits sh p (bodyAt b 21 1) (bodyAt b 22 1) with | .error e => [e] | .ok _ => [])
      | none => []) ++
     s.operandFaultsAt r ss false spaces false (feedBases b) cells ++
     (if isBlockTy sh.desc.fmt then
        (match q.scaleHandle sh with
         | .error e => [e]
         | .ok _ => s.operandFaultsAt r sh.desc.slink false spaces false
             ((feedBases b).flatMap (scaleCoords sh.desc.fmt)) fun _ => (cells ()).flatMap (scaleCoords sh.desc.fmt))
      else []))

/-- The chunk at an iteration, read (R122, R349, R358, R359). -/
def Job.chunkAt (x : Job) (sh : Handle) (kept : List (List Nat × Int)) (ix : List Nat) : Chunk × Job :=
  let b := x.r.body
  let ty := sh.desc.fmt
  let w := tyBits ty
  let n := feedShape b (x.r.extents sh) kept ix
  let places := (upTo n.1).flatMap fun row => (upTo n.2).map fun k => (row, k)
  let cs := places.map fun p => feedPlace b kept ix p.1 p.2
  let a := x.read sh cs
  let sc := match a.2.r.scaleOf sh with
    | some kh => a.2.read kh (cs.flatMap (scaleCoords ty))
    | none => ([], a.2)
  let m := scalesPerBlock ty
  let placeNo := fun (p : Nat × Nat) => if feedMasks b then p.1 else 32 * p.1 + p.2
  let scales := (places.zipIdx.foldl (fun (l : List Nat) p =>
    (upTo m).foldl (fun l j => l.set (m * placeNo p.1 + j) (sc.1.getD (m * p.2 + j) 0)) l)
    (List.replicate (m * 32 * feedRows b) 0))
  let elems := (places.zip a.1).foldl (fun t p => t + p.2 % 2 ^ w * 2 ^ (w * placeNo p.1)) 0
  let rowScales := (upTo (feedRows b)).flatMap fun row => (upTo m).map fun j => scales.getD (m * 32 * row + j) 0
  let weights := if feedOrbit b && decide (feedStream b < 4) then
      (upTo 32).map fun k => if k < n.2 then (kept.getD (32 * ix.getD 5 0 + k) ([], 0)).2 else 0
    else []
  let tail := rowScales.map (fun v => BitVec.ofNat 8 v) ++ weights.flatMap fun v => leBytes 4 (ofSigned 32 v)
  ({ slot := bodyAt b 16 1, rdim := feedRdim b, kdim := feedKdim b, orbit := feedOrbit b, chan := x.r.eng, num := x.r.num,
     upc := ix, fmt := ty, rows := n.1, pos := n.2, data := elems + leNat tail * 2 ^ (w * 32 * feedRows b),
     scales := scales, weights := weights }, sc.2)

/-- One step of a CPYS: a chunk pushed, an iteration that TRI leaves out passed over, or none while the stream is full
(R122, R358). -/
def Job.cpysStep (x : Job) : Option Job :=
  let b := x.r.body
  match x.r.bind (bodyAt b 16 1) with
  | none => some { x with r := { x.r with ended := true } }
  | some sh =>
    let kept := feedOrbits b sh x.r.partner
    let go := fun (x : Job) => match nextIndex (feedTrips b kept) x.r.upc with
      | some ix => some { x with r := { x.r with upc := ix } }
      | none => some { x with r := { x.r with ended := true } }
    if feedOrbit b && kept.isEmpty then some { x with r := { x.r with ended := true } }
    else if feedSkips b x.r.upc then go x
    else
      let q := mapGet (x.s.core x.r.core).streams (feedStream b) []
      if 8 ≤ q.length then none
      else
        let a := x.chunkAt sh kept x.r.upc
        let core := a.2.s.core x.r.core
        go { s := a.2.s.setCore x.r.core { core with streams := mapPut core.streams (feedStream b) (q ++ [a.1]) },
             r := { a.2.r with count := a.2.r.count + 1 } }

end Sys2Proof.Machine
end

