-- ==== Sys2Proof/Machine/Matrix.lean ====
section
/-! DEFINITION. The matrix engine: MMA, OCON, MDRAIN and MCLR (15 R343 to R352, R203). -/

namespace Sys2Proof.Machine

/-! ## Patches (R343) -/

/-- Row `row` of patch `z`. -/
def Core.zRow (q : Core) (z row : Nat) : BitVec 4096 := mapGet q.z (96 * z + row) 0
/-- Cells of 32 bits of a row. -/
def rowCells (v : BitVec 4096) : List Nat := unpackElems 32 128 v.toNat
/-- A core with a row replaced. -/
def Core.setZRow (q : Core) (z row : Nat) (cells : List Nat) : Core :=
  { q with z := mapPut q.z (96 * z + row) (BitVec.ofNat 4096 (packElems 32 cells)) }
/-- A core with a patch's record replaced. -/
def Core.setPatch (q : Core) (z : Nat) (p : Patch) : Core := { q with patches := mapPut q.patches z p }

/-- Poisoned words of 64 bits of a row that the first `n` cells of 32 bits meet. -/
def State.zPoison (s : State) (c z row n : Nat) : List ErrorUnit :=
  s.poison.filter fun u => match u with
    | .patch c' z' w => c == c' && z == z' && decide (64 * row ≤ w) && decide (2 * (w - 64 * row) < n) && decide (w < 64 * row + 64)
    | _ => false

/-- The cells of a row, poisoned words as zeros (R216). -/
def State.zCells (s : State) (c z row : Nat) : List Nat :=
  let cells := rowCells ((s.core c).zRow z row)
  if s.poison.isEmpty then cells
  else
    let bad := s.zPoison c z row 128
    cells.zipIdx.map fun p => if bad.contains (.patch c z (64 * row + p.2 / 2)) then 0 else p.1

/-- A row of a patch rewritten in its first `n` cells: words covered whole lose their poison (R215). -/
def State.putZRow (s : State) (c z row n : Nat) (cells : List Nat) : State :=
  let s := s.setCore c ((s.core c).setZRow z row cells)
  if s.poison.isEmpty then s
  else { s with poison := s.poison.filter fun u => match u with
    | .patch c' z' w => !(c == c' && z == z' && decide (64 * row ≤ w) && decide (2 * (w - 64 * row) + 1 < n))
    | _ => true }

/-- Cells of FP64: the row of a pair as 64-bit values, and back (R343). -/
def pairCells (lo hi : List Nat) : List Nat :=
  let v := lo ++ hi
  (upTo 128).map fun c => v.getD (2 * c) 0 + 2 ^ 32 * v.getD (2 * c + 1) 0
def unpairCells (cs : List Nat) : List Nat := cs.flatMap fun v => [v % 2 ^ 32, v / 2 ^ 32 % 2 ^ 32]

/-! ## Classes and iterations (R343, R344) -/

/-- A floating or block format of 8 bits or fewer. -/
def isLowFloat (ty : Ty) : Bool := isBlockTy ty || isSmallFloat ty

/-- The accumulator kind and the K positions of a group of a product (R203, R343). -/
def productClass (a b : Ty) : Option (PatchKind × Nat) :=
  if isLowFloat a && isLowFloat b then some (.fp32, 32)
  else if (a == .int8 || a == .int4) && (b == .int8 || b == .int4) then some (.int32, 32)
  else if a != b then none
  else match a with
    | .f16 => some (.fp32, 16)
    | .bf16 => some (.fp32, 16)
    | .f32 => some (.fp32, 4)
    | .f64 => some (.fp64, 1)
    | _ => none

/-- The patch levels of MMA and OCON, or of MDRAIN, l3 first: trip, patch step and, for MDRAIN, dimension and step. -/
structure PatchLevel where
  trip  : Nat
  pstep : Int
  level : Level
  deriving DecidableEq, Repr
def patchLevels (b : BitVec 384) (drain : Bool) : List PatchLevel :=
  [48, 44, 40].map fun off =>
    let trip := bodyBits b off 0 5 + 1
    if drain then ⟨trip, bodySigned b off 5 6, ⟨trip, bodyBits b off 11 3, bodySigned b off 14 18⟩⟩
    else ⟨trip, bodySigned b off 16 6, ⟨trip, 0, 0⟩⟩

/-- The patch of an iteration (l3, l2, l1). -/
def patchAt (zbase : Nat) (lv : List PatchLevel) (ix : List Nat) : Int :=
  (lv.zip ix).foldl (fun z p => z + p.1.pstep * (p.2 : Int)) (zbase : Int)

/-- XPOSE. -/
def mmaXpose (b : BitVec 384) : Bool := bodyBits b 19 0 1 == 1
/-- Iterations (l3, l2, l1) of MMA and OCON, and those that XPOSE does not skip (R347). -/
def mmaNest (b : BitVec 384) : List (List Nat) := nestOf ((patchLevels b false).map fun l => l.trip)
def mmaIters (b : BitVec 384) : List (List Nat) :=
  (mmaNest b).filter fun ix =>
    !(mmaXpose b && decide (ix.getD 1 0 < ix.getD 2 0))
/-- Patch of an iteration of MMA or OCON, and of MDRAIN. -/
def mmaPatch (b : BitVec 384) (ix : List Nat) : Int := patchAt (bodyAt b 24 4) (patchLevels b false) ix
def drainPatch (b : BitVec 384) (ix : List Nat) : Int := patchAt (bodyAt b 17 1) (patchLevels b true) ix
/-- Iterations (l3, l2, l1) of MDRAIN. -/
def drainIters (b : BitVec 384) : List (List Nat) := nestOf ((patchLevels b true).map fun l => l.trip)

/-- The accumulator kind that a drain takes its cells for, recorded at dispatch (R343, R368), by patch. -/
def auxKind (z : Nat) : Nat := 64 + z
/-- A kind as a running value. -/
def PatchKind.code : PatchKind → Nat
  | .fp32 => 1 | .int32 => 2 | .fp64 => 3
def kindOfCode : Nat → PatchKind
  | 2 => .int32 | 3 => .fp64 | _ => .fp32

/-- The class of a dispatched product, by the handles it was checked against. -/
def Rec.productOf (r : Rec) : Option (PatchKind × Nat) :=
  match r.bind (bodyAt r.body 17 1), r.bind (bodyAt r.body 18 1) with
  | some a, some b => productClass a.desc.fmt b.desc.fmt
  | _, _ => none

/-- Patches with both of each FP64 pair. -/
def withPairs (pair : Bool) (zs : List Nat) : List Nat := if pair then zs.flatMap fun z => [z, z + 1] else zs

/-- The patches that an ME record names (R335, R343, R352). -/
def Rec.patches (r : Rec) : List Nat :=
  let b := r.body
  match r.op with
  | .mclr => (upTo 32).filter fun z => (bodyAt b 16 4).testBit z
  | .mdrain =>
    (drainIters b).foldl (fun m ix =>
      let z := (drainPatch b ix).toNat
      (withPairs (r.val (auxKind z) == 3) [z]).foldl setPut m) []
  | .mma => (withPairs (r.productOf.any fun k => k.1 == PatchKind.fp64) ((mmaIters b).map fun ix => (mmaPatch b ix).toNat)).foldl setPut []
  | .ocon => (withPairs (r.productOf.any fun k => k.1 == PatchKind.fp64) ((mmaIters b).map fun ix => (mmaPatch b ix).toNat)).foldl setPut []
  | _ => []

/-- Patches outside 0 to 31 (R344, R350): BOUNDS names the first as a coordinate (R210; log 52). -/
def patchBounds (zs : List Int) : List Exc :=
  match zs.find? fun z => decide (z < 0) || decide (31 < z) with
  | some z => [Exc.of codeBOUNDS 0 (boundsArg 0 (coordOf z))]
  | none => []

/-! ## MMA and OCON (R344 to R349) -/

/-- Field errors of the body that do not depend on its operands. -/
def mmaFieldsOk (b : BitVec 384) (oc : Bool) : Bool :=
  let spn := bodyBits b 16 6 2
  let k := bodyAt b 20 4
  decide (bodyBits b 16 4 1 = 0) && spn != 3 && decide (bodyBits b 19 1 7 = 0) && decide (k ≤ 2 ^ 24) &&
  decide (bodyAt b 24 4 ≤ 31) && (!(mmaXpose b) || bodyAt b 17 1 == bodyAt b 18 1) && bodyZero b 30 10 && bodyZero b 52 12 &&
  [40, 44, 48].all (fun off => decide (bodyBits b off 5 11 = 0) && decide (bodyBits b off 22 10 = 0)) &&
  (if oc then spn == 0 else decide (1 ≤ k) && decide (bodyAt b 28 2 = 0))

/-- The patches among patch numbers. -/
def patchesOf (zs : List Int) : List Nat := (zs.filter fun z => decide (0 ≤ z) && decide (z < 32)).map Int.toNat

/-- What the handle of an operand that comes through a stream is checked for: no codec, and its scales (R130, R147). -/
def State.formatFaults (s : State) (r : Rec) (slot : Nat) : List Exc :=
  (match (s.core r.core).handle slot with
   | some h => excIf (h.desc.codec != 0) (Exc.atSlot slot codeCOMPRESSED)
   | none => []) ++ s.linkFaults r slot

/-- The dispatch check of MMA and OCON. -/
def mmaFaults (oc : Bool) (r : Rec) (s : State) : List Exc :=
  let b := r.body
  let q := s.core r.core
  let ah := bodyAt b 17 1
  let bh := bodyAt b 18 1
  let zs := (mmaIters b).map (mmaPatch b)
  excIf (!(mmaFieldsOk b oc)) badField ++ patchBounds ((mmaNest b).map (mmaPatch b)) ++
  s.formatFaults r ah ++ s.formatFaults r bh ++
  excIf (q.handle ah).isNone (Exc.atSlot ah codeHFAULT) ++ excIf (q.handle bh).isNone (Exc.atSlot bh codeHFAULT) ++
  (match q.handle ah with
   | some ha => excIf (bodyBits b 16 6 2 != 0 && decide (8 < tyBits ha.desc.fmt) || decide (2 ^ ha.desc.rank ≤ bodyAt b 28 1)) badField
   | none => []) ++
  (match q.handle bh with | some hb => excIf (decide (2 ^ hb.desc.rank ≤ bodyAt b 29 1)) badField | none => []) ++
  (match q.handle ah, q.handle bh with
   | some ha, some hb =>
     (match productClass ha.desc.fmt hb.desc.fmt with
      | none => [badField]
      | some (kind, _) =>
        let named := withPairs (kind == PatchKind.fp64) (patchesOf zs)
        excIf (kind == .fp64 && zs.any fun z => z % 2 != 0) badField ++
        excIf (named.any fun z => (q.patch z).kind != kind) badField) ++
     (if oc then
        match jointOrbits ha hb (bodyAt b 28 1) (bodyAt b 29 1) with
        | .error e => [e]
        | .ok kept => excIf (kept.length != bodyAt b 20 4) badField
      else [])
   | _, _ => [])

/-- PERM(2, +) on the two result slots (R146, rule 3). -/
def transposeGen : Gen := ⟨1, false, 0, 2, 0, 0⟩

/-- What a product's dispatch does to the tags of its patches (R146). -/
def Core.narrowTags (q : Core) (r : Rec) : Core :=
  r.patches.foldl (fun q z =>
    let p := q.patch z
    q.setPatch z { p with tag := p.tag.narrow (if mmaXpose r.body then [transposeGen] else []) }) q

/-- A chunk as an ME record takes it: of its own formats when its tag does not match (R349). -/
def Chunk.matches (k : Chunk) (slot : Nat) (oc : Bool) : Bool := k.slot == slot && k.orbit == oc

/-- Value of a chunk's row and position: by its source, or by its bytes in format `ty` with `rows` rows. -/
def Chunk.value (k : Chunk) (mix : Bool) (ty : Ty) (rows row i : Nat) : Num :=
  if mix then
    let w := tyBits ty
    let m := scalesPerBlock ty
    let scales := (upTo m).map fun j => bitsAt k.data (w * 32 * rows + 8 * (m * row + j)) 8
    elemValue ty scales (bitsAt k.data (w * (32 * row + i)) w)
  else
    let w := tyBits k.fmt
    let m := scalesPerBlock k.fmt
    elemValue k.fmt ((upTo m).map fun j => k.scales.getD (m * (32 * row + i) + j) 0) (bitsAt k.data (w * (32 * row + i)) w)

/-- Positions of the set bits of a mask, ascending, `n` at most (R346). -/
def maskPlaces (mask n : Nat) : List Nat := ((upTo 32).filter fun i => mask.testBit i).take n

/-- Term positions of a row: element index of A and K position within the chunk. -/
def termPlaces (spn mask : Nat) : List (Nat × Nat) :=
  if spn = 0 then (upTo 32).map fun i => (i, i) else (maskPlaces mask (spnPlaces spn)).zipIdx.map fun p => (p.2, p.1)

/-- The operands of one K block as the record takes them. -/
structure Block2 where
  a     : Chunk
  b     : Chunk
  mask  : Option Chunk
  mixA  : Bool
  mixB  : Bool
  tyA   : Ty
  tyB   : Ty
  spn   : Nat
  oc    : Bool
  deriving DecidableEq, Repr

/-- The weight of a position (R348, R349). -/
def Block2.weight (x : Block2) (i : Nat) : Int :=
  if x.oc && !x.mixA && !x.mixB && !x.a.weights.isEmpty then x.a.weights.getD i 1 else 1

/-- The mask of a row. -/
def Block2.maskOf (x : Block2) (row : Nat) : Nat := match x.mask with | some m => bitsAt m.data (32 * row) 32 | none => 0

/-- The terms of row `row` and column `col` whose K positions lie in [lo, hi) of the chunk (R345, R346). -/
def Block2.terms (x : Block2) (lo hi row col : Nat) : List (Num × Num × Int) :=
  ((termPlaces x.spn (x.maskOf row)).filter fun p =>
    decide (lo ≤ p.2) && decide (p.2 < hi) && decide (p.1 < x.a.pos) && decide (p.2 < x.b.pos)).map fun p =>
    (x.a.value x.mixA x.tyA 96 row p.1, x.b.value x.mixB x.tyB 128 col p.2, x.weight p.1)

/-- A term as an exact value. -/
def termValue (t : Num × Num × Int) : Num :=
  let p := (mulNum t.1 t.2.1).1
  if t.2.2 = 1 then p else (mulNum p (.ofInt t.2.2)).1

/-- A term of integers. -/
def Num.toInt : Num → Int
  | .fin neg m e _ => signedMan neg (m * 2 ^ e.toNat)
  | _ => 0

/-- A cell updated by one group (R203, R345). -/
def groupCell (kind : PatchKind) (old : Nat) (ts : List (Num × Num × Int)) : Nat :=
  match kind with
  | .int32 => ofSigned 32 (ts.foldl (fun a t => a + t.1.toInt * t.2.1.toInt * t.2.2) (old : Int))
  | .fp32 => groupAcc ⟨8, 23, 127, .ieee⟩ old (ts.map termValue)
  | .fp64 => groupAcc ⟨11, 52, 1023, .ieee⟩ old (ts.map termValue)

/-- The cells of a row of a patch, or of a pair. -/
def State.accCells (s : State) (kind : PatchKind) (c z row : Nat) : List Nat :=
  match kind with
  | .fp64 => pairCells (s.zCells c z row) (s.zCells c (z + 1) row)
  | _ => s.zCells c z row

/-- Poisoned words that the first `n` accumulators of a row meet. -/
def State.accPoison (s : State) (kind : PatchKind) (c z row n : Nat) : List ErrorUnit :=
  if s.poison.isEmpty then []
  else match kind with
    | .fp64 => s.zPoison c z row (2 * n) ++ s.zPoison c (z + 1) row (2 * n - 128)
    | _ => s.zPoison c z row n

/-- A row of accumulators rewritten in its first `n`. -/
def State.putAcc (s : State) (kind : PatchKind) (c z row n : Nat) (cells : List Nat) : State :=
  match kind with
  | .fp64 =>
    let v := unpairCells cells
    (s.putZRow c z row (Nat.min 128 (2 * n)) (v.take 128)).putZRow c (z + 1) row (2 * n - 128) (v.drop 128)
  | _ => s.putZRow c z row n cells

/-- The bytes of Z that a row's first `n` accumulators occupy count among those that the record wrote (R243). -/
def Rec.wroteZ (r : Rec) (z row n : Nat) : Rec :=
  if n = 0 then r else { r with wrote := rangeAdd r.wrote (locNumber (.store r.core 3 ((96 * z + row) * 512))) (4 * n) }
def Rec.wroteAcc (r : Rec) (kind : PatchKind) (z row n : Nat) : Rec :=
  match kind with
  | .fp64 => (r.wroteZ z row (Nat.min 128 (2 * n))).wroteZ (z + 1) row (2 * n - 128)
  | _ => r.wroteZ z row n

/-- One group accumulated into a patch: rows and columns that are no padding (R345); a poisoned accumulator is used as zero
and leaves a pending MCHECK (R216). -/
def Job.group (x : Job) (kind : PatchKind) (z : Nat) (k : Block2) (lo hi : Nat) : Job :=
  let c := x.r.core
  let n := Nat.min 128 k.b.rows
  (upTo (Nat.min 96 k.a.rows)).foldl (fun x row =>
    let x := (x.s.accPoison kind c z row n).foldl (fun x u => x.meet true [u]) x
    let old := x.s.accCells kind c z row
    let new := old.zipIdx.map fun p => if p.2 < n then groupCell kind p.1 (k.terms lo hi row p.2) else p.1
    { s := x.s.putAcc kind c z row n new, r := x.r.wroteAcc kind z row n }) x

/-- Every strand of a core has executed TDONE, and no CPYS still pushes into a stream (R349). -/
def Core.starved (q : Core) (stream : Nat) : Bool :=
  q.strands.all (fun t => t.tdone) &&
  !([1, 2].any fun e => (q.engine e).queue.any fun r => r.op == .cpys && !r.ended && feedStream r.body == stream)

/-- The first chunk of a stream taken. -/
def Core.popStream (q : Core) (n : Nat) : Core := { q with streams := mapPut q.streams n ((mapGet q.streams n []).drop 1) }

/-- The iteration after (l3, l2, l1) that is not skipped. -/
def nextIter (its : List (List Nat)) (ix : List Nat) : Option (List Nat) := its.find? fun y => indexGe y ix && y != ix

/-- One step of MMA or OCON: one group of one patch (R345, R219); none while a stream is empty (R122). -/
def Job.mmaStep (x : Job) : Option Job :=
  let r := x.r
  let b := r.body
  let oc := r.op == .ocon
  let q := x.s.core r.core
  let its := mmaIters b
  let kk := bodyAt b 20 4
  let fin := fun (r : Rec) => { r with ended := true }
  let ix := r.upc.take 3
  let k := r.upc.getD 3 0
  match r.productOf with
  | none => some { x with r := fin r }
  | some (kind, size) =>
    if kk = 0 then some { x with r := fin r }
    else
      let sa := bodyBits b 16 0 2
      let sb := 4 + bodyBits b 16 2 2
      let sm := 8 + bodyBits b 16 5 1
      let spn := bodyBits b 16 6 2
      let need := [sa, sb] ++ (if spn = 0 then [] else [sm])
      match need.find? fun n => (mapGet q.streams n []).isEmpty with
      | some n => if q.starved n then some { x with r := fin (r.mark wCHUNKMIX) } else none
      | none =>
        match mapGet q.streams sa [], mapGet q.streams sb [] with
        | ca :: _, cb :: _ =>
          let ah := bodyAt b 17 1
          let bh := bodyAt b 18 1
          let cm := if spn = 0 then none else (mapGet q.streams sm []).head?
          let tyOfSlot := fun h => match r.bind h with | some x => x.desc.fmt | none => Ty.int8
          let blk : Block2 :=
            { a := ca, b := cb, mask := cm, mixA := !(ca.matches ah oc), mixB := !(cb.matches bh oc), tyA := tyOfSlot ah,
              tyB := tyOfSlot bh, spn := spn, oc := oc }
          let z := (mmaPatch b ix).toNat
          let lo := k % 32
          let hi := Nat.min (lo + size) (kk - (k - lo))
          let short := spn != 0 && (upTo ca.rows).any fun row => decide ((maskPlaces (blk.maskOf row) 32).length < spnPlaces spn)
          let mixed := blk.mixA || blk.mixB || (cm.any fun m => !(m.matches ah oc)) || short
          let turned := mmaXpose b && (ca.rdim != cb.rdim || ca.kdim != cb.kdim)
          let mark := fun (q : Core) z =>
            let p := q.patch z
            q.setPatch z { p with written := true, broken := p.broken || turned,
                                  status := if turned then p.status ||| 4 else p.status }
          let x := { x with s := x.s.setCore r.core ((withPairs (kind == PatchKind.fp64) [z]).foldl mark q) }
          let x := x.group kind z blk lo hi
          let k1 := k + size
          let s := if k1 % 32 = 0 || decide (kk ≤ k1) then x.s.setCore r.core (need.foldl Core.popStream (x.s.core r.core)) else x.s
          let r := { x.r.markIf mixed wCHUNKMIX with count := x.r.count + 1 }
          let r := if k1 < kk then { r with upc := ix ++ [k1] }
            else match nextIter its ix with
              | some iy => { r with upc := iy ++ [0] }
              | none => fin { r with upc := ix ++ [kk] }
          some { s := s, r := r }
        | _, _ => none

/-! ## MDRAIN (R350, R351) -/

/-- ROWS, COLS, CDIM, RDIM and SCALE. -/
def drainRows (b : BitVec 384) : Nat := bodyAt b 19 1
def drainCols (b : BitVec 384) : Nat := bodyAt b 20 1
def drainCdim (b : BitVec 384) : Nat := bodyBits b 21 0 3
def drainRdim (b : BitVec 384) : Nat := bodyBits b 21 3 3
def drainScale (b : BitVec 384) : Int := bodySigned b 22 0 16
def drainRm (b : BitVec 384) : Rnd := rndOf (bodyBits b 18 0 2)
def drainSat (b : BitVec 384) : Bool := bodyBits b 18 2 1 == 1
def drainNanSkip (b : BitVec 384) : Bool := bodyBits b 18 3 1 == 1

/-- Destination base of an iteration (l3, l2, l1). -/
def drainBase (b : BitVec 384) (ix : List Nat) : List Int :=
  moved (baseCoords [bodyWord b 0, bodyWord b 1, bodyWord b 2, bodyWord b 3]) ((patchLevels b true).map fun l => l.level) ix
/-- Destination coordinates of a row of an iteration. -/
def drainRow (b : BitVec 384) (ix : List Nat) (row : Nat) : List (List Nat) :=
  let base := addAlong (drainBase b ix) (drainRdim b) (row : Int)
  (upTo (drainCols b)).map fun (c : Nat) => coordsOf (addAlong base (drainCdim b) (c : Int))
/-- Destination coordinates of the whole record. -/
def drainCoords (b : BitVec 384) (pick : List Nat → List (List Nat)) : List (List Nat) :=
  nestCoords (baseCoords [bodyWord b 0, bodyWord b 1, bodyWord b 2, bodyWord b 3]) ((patchLevels b true).map fun l => l.level)
    [(drainRdim b, drainRows b), (drainCdim b, drainCols b)] pick

/-- Destination formats of an accumulator kind (R350). -/
def drainFits (kind : PatchKind) (ty : Ty) (scale : Int) : Bool :=
  if isBlockTy ty then kind != .int32
  else if (floatFmt? ty).isSome then true
  else kind == .int32 && (intFmt? ty).isSome && scale == 0

/-- Fields of an MDRAIN that are right whatever its destination (R350). -/
def drainBodyOk (b : BitVec 384) : Bool :=
  let cd := drainCdim b
  let rd := drainRdim b
  decide (bodyBits b 18 4 4 = 0) && decide (bodyBits b 21 6 2 = 0) && cd != rd && decide (cd < 6) && decide (rd < 6) &&
  (patchLevels b true).all (fun l => decide (l.level.dim < 6)) && decide (1 ≤ drainRows b) && decide (drainRows b ≤ 96) &&
  decide (1 ≤ drainCols b) && decide (drainCols b ≤ 128) && bodyZero b 52 12 && decide (bodyAt b 17 1 ≤ 31)

/-- The fields fit the rank and the format of the destination (R350); of one row, RDIM moves along no dimension (R372, R375; log 51). -/
def drainDestOk (b : BitVec 384) (h : Handle) : Bool :=
  let cd := drainCdim b
  let rank := h.desc.rank
  decide (cd < rank) && (decide (drainRdim b < rank) || decide (drainRows b = 1)) && (patchLevels b true).all (fun l => decide (l.level.dim < rank)) &&
  (!(isBlockTy h.desc.fmt) || (cd == 0 && decide (bodyWord b 0 % 32 = 0) && decide (drainCols b % 32 = 0) &&
    (patchLevels b true).all fun l => l.level.dim != 0 || decide (l.level.step % 32 = 0) || l.trip == 1))

/-- The guaranteed group that a patch's tag gives a drain into a handle (R146); of every group, the destination's part. -/
def drainGroup (b : BitVec 384) (d : Desc) (t : GroupTag) : GroupTag :=
  match t.rename fun i => if i = 0 then some (drainCdim b) else if i = 1 then some (drainRdim b) else none with
  | .every => .gens (dropSigned d.fmt (drainRm b) d.sym)
  | .gens gs => .gens (dropSigned d.fmt (drainRm b) gs)

/-- The dispatch check of MDRAIN. -/
def mdrainFaults (r : Rec) (s : State) : List Exc :=
  let b := r.body
  let q := s.core r.core
  let ds := bodyAt b 16 1
  let zs := (drainIters b).map (drainPatch b)
  let spaces := [1, 2, 4, 5, 6]
  excIf (!(drainBodyOk b)) badField ++ patchBounds zs ++
  ((patchesOf zs).flatMap fun z => excIf ((q.patch z).kind == .fp64 && z % 2 != 0) badField) ++
  s.operandFaults r ds true spaces false (drainCoords b) ++ s.scaleFaults r ds true spaces (drainCoords b) ++
  (match q.handle ds with
   | none => []
   | some h =>
     excIf (!(drainDestOk b h)) badField ++
     (patchesOf zs).flatMap fun z =>
       let p := q.patch z
       excIf (!(drainFits p.kind h.desc.fmt (drainScale b))) badField ++
       (withPairs (p.kind == .fp64) [z]).flatMap fun y => strictFaults ds h (drainGroup b h.desc (q.patch y).tag))

/-- The record with the kinds of its patches, taken at dispatch (R343, R368). -/
def Job.mdrainPrepare (x : Job) : Job :=
  { x with r := (drainIters x.r.body).foldl (fun r ix =>
      let z := (drainPatch x.r.body ix).toNat
      r.setVal (auxKind z) ((x.s.core r.core).patch z).kind.code) x.r }

/-- The exact value of an accumulator. -/
def accValue (kind : PatchKind) (v : Nat) : Num :=
  match kind with
  | .fp32 => FloatFmt.value ⟨8, 23, 127, .ieee⟩ v
  | .fp64 => FloatFmt.value ⟨11, 52, 1023, .ieee⟩ v
  | .int32 => .ofInt (toSigned 32 v)

/-- An accumulator delivered: its code and its status bits, 2 INF and 8 SAT (R313, R350). -/
def drainElem (b : BitVec 384) (kind : PatchKind) (ty : Ty) (v : Nat) : Nat × Nat :=
  match intFmt? ty with
  | some (w, sg) =>
    let i := toSigned 32 v
    let c := clampInt w sg i
    if drainSat b then (ofSigned w c.1, if c.2 then 8 else 0) else (ofSigned w i, 0)
  | none =>
    match floatFmt? ty with
    | some f =>
      let x := f.convert (drainRm b) (drainSat b) ((accValue kind v).scale (drainScale b))
      (x.1, (match f.value x.1 with | .inf _ => 2 | _ => 0) + (if x.2 &&& flagSAT ≠ 0 then 8 else 0))
    | none => (0, 0)

/-- The patches that an iteration drains, each with its columns [lo, hi): an FP64 pair holds 64 columns in each (R343, R351). -/
def drainParts (kind : PatchKind) (z cols : Nat) : List (Nat × Nat × Nat) :=
  match kind with
  | .fp64 => [(z, 0, Nat.min 64 cols), (z + 1, 64, Nat.max 64 cols)]
  | _ => [(z, 0, cols)]

/-- The kind that an iteration's patch is drained as, and its parts. -/
def Rec.drainKind (r : Rec) (ix : List Nat) : PatchKind := kindOfCode (r.val (auxKind (drainPatch r.body ix).toNat))
def Rec.drainParts (r : Rec) (ix : List Nat) : List (Nat × Nat × Nat) :=
  Machine.drainParts (r.drainKind ix) (drainPatch r.body ix).toNat (drainCols r.body)

/-- What a row of an iteration delivers of columns [lo, hi): elements, scales, status bits. -/
def State.drainDelivers (s : State) (r : Rec) (h : Handle) (ix : List Nat) (row lo hi : Nat) :
    List (List Nat × Nat) × List (List Nat × Nat) × Nat :=
  let b := r.body
  let kind := r.drainKind ix
  let cells := ((s.accCells kind r.core (drainPatch b ix).toNat row).take hi).drop lo
  let cs := ((drainRow b ix row).take hi).drop lo
  if isBlockTy h.desc.fmt then
    let u := quantUnit h.desc.fmt 4 (cs.zip (cells.map fun v => (accValue kind v).scale (drainScale b)))
    (u.elems, u.scales, if u.stats.any fun p => p.1 == wSAT then 8 else 0)
  else
    let out := cells.map (drainElem b kind h.desc.fmt)
    (cs.zip (out.map fun v => v.1), [], out.foldl (fun a v => a ||| v.2) 0)

/-- An accumulator of the drained region of a part is NaN. -/
def State.drainNan (s : State) (r : Rec) (ix : List Nat) (lo hi : Nat) : Bool :=
  let kind := r.drainKind ix
  (upTo (drainRows r.body)).any fun row =>
    (((s.accCells kind r.core (drainPatch r.body ix).toNat row).take hi).drop lo).any fun v => accValue kind v == .nan

/-- The part writes nothing (R351). -/
def State.drainSkips (s : State) (r : Rec) (ix : List Nat) (lo hi : Nat) : Bool := drainNanSkip r.body && s.drainNan r ix lo hi

/-- The elements that a row of an iteration delivers. -/
def State.drainRowElems (s : State) (r : Rec) (h : Handle) (ix : List Nat) (row : Nat) : List (List Nat × Nat) :=
  (r.drainParts ix).flatMap fun p => if s.drainSkips r ix p.2.1 p.2.2 then [] else (s.drainDelivers r h ix row p.2.1 p.2.2).1

/-- What the whole MDRAIN delivers for a canonical tuple not yet passed (R144). -/
def Job.drainValue (x : Job) (h : Handle) (y : List Nat) : Option Nat :=
  let b := x.r.body
  let all := (drainIters b).flatMap fun ix => (upTo (drainRows b)).map fun row => ix ++ [row]
  match all.reverse.find? fun t => (x.s.drainRowElems x.r h (t.take 3) (t.getD 3 0)).any fun c => h.abs c.1 == y with
  | none => none
  | some t => if indexGe t x.r.upc then deliveredIn h (x.s.drainRowElems x.r h (t.take 3) (t.getD 3 0)) y else none

/-- Status bits into the flags of the completion word: 1 NAN, 2 INF, 4 SYMBREAK, 8 SAT (R313, R341). -/
def Rec.statusFlags (r : Rec) (st : Nat) : Rec :=
  (((r.markIf (st.testBit 0) wNAN).markIf (st.testBit 1) wINF).markIf (st.testBit 2) wSYMBREAK).markIf (st.testBit 3) wSAT

/-- Status bits set in a patch, or its status set afresh. -/
def Core.addStatus (q : Core) (z : Nat) (afresh : Bool) (st : Nat) : Core :=
  let p := q.patch z
  q.setPatch z { p with status := (if afresh then 0 else p.status) ||| BitVec.ofNat 4 st }

/-- Poisoned accumulators met: with NANSKIP the first row decides over the whole region (R216, R351). -/
def Job.drainMeets (x : Job) (ix : List Nat) (row : Nat) : Job :=
  let r := x.r
  let rows := if drainNanSkip r.body && row == 0 then upTo (drainRows r.body) else [row]
  (rows.flatMap fun i => x.s.accPoison (r.drainKind ix) r.core (drainPatch r.body ix).toNat i (drainCols r.body)).foldl
    (fun x u => x.meet true [u]) x

/-- A row of one part: its elements written unless the part skips, its patch's status and the record's flags set (R351). -/
def Job.drainPart (x : Job) (h : Handle) (ix : List Nat) (row : Nat) (p : Nat × Nat × Nat) : Job :=
  let b := x.r.body
  let c := x.r.core
  let z := p.1
  let skip := x.s.drainSkips x.r ix p.2.1 p.2.2
  let first := !((drainIters b).any fun iy => indexGe ix iy && iy != ix && drainPatch b iy == drainPatch b ix)
  let st0 := if row = 0 then
      (if x.s.drainNan x.r ix p.2.1 p.2.2 then 1 else 0) + (if ((x.s.core c).patch z).broken then 4 else 0)
    else 0
  let a := x.s.drainDelivers x.r h ix row p.2.1 p.2.2
  let clean : Job := { x with r := { x.r with flags := bvSetField x.r.flags wSYMBREAK 1 0 } }
  let y := if skip then clean
    else
      let y := match clean.r.scaleOf h with | some kh => clean.deliver kh a.2.1 (deliveredIn kh a.2.1) | none => clean
      let y := y.deliver h a.1 (x.drainValue h)
      { y with r := { y.r with count := y.r.count + (a.1.filter fun e => h.stores (y.r.through h e.1)).length } }
  let st := st0 ||| (if skip then 0 else a.2.2) ||| (if bvBit y.r.flags wSYMBREAK then 4 else 0)
  { s := y.s.setCore c ((y.s.core c).addStatus z (row == 0 && first) st)
    r := { y.r with flags := y.r.flags ||| x.r.flags }.statusFlags st }

/-- One step of an MDRAIN: one row (R219, R351). -/
def Job.mdrainStep (x : Job) : Job :=
  let b := x.r.body
  let ix := x.r.upc.take 3
  let row := x.r.upc.getD 3 0
  match x.r.bind (bodyAt b 16 1) with
  | none => { x with r := { x.r with ended := true } }
  | some h =>
    let x := x.drainMeets ix row
    let ps := x.r.drainParts ix
    let skip := ps.all fun p => x.s.drainSkips x.r ix p.2.1 p.2.2
    let y := ps.foldl (fun y p => y.drainPart h ix row p) x
    let r := if !skip && decide (row + 1 < drainRows b) then { y.r with upc := ix ++ [row + 1] }
      else match nextIter (drainIters b) ix with
        | some iy => { y.r with upc := iy ++ [0] }
        | none => { y.r with upc := ix ++ [drainRows b], ended := true }
    { y with r := r }

/-! ## MCLR (R352) -/

/-- The kind of an MCLR. -/
def clearKind (b : BitVec 384) : PatchKind := kindOfCode (bodyAt b 20 1 + 1)

/-- The dispatch check of MCLR. -/
def mclrFaults (r : Rec) (_s : State) : List Exc :=
  let b := r.body
  let m := bodyAt b 16 4
  excIf (m == 0 || decide (2 < bodyAt b 20 1) || !(bodyZero b 21 43) ||
    (bodyAt b 20 1 == 2 && (upTo 16).any fun i => m.testBit (2 * i) != m.testBit (2 * i + 1))) badField

/-- What an MCLR's dispatch does to the kinds and tags of its patches (R146, R343). -/
def Core.clearTags (q : Core) (r : Rec) : Core :=
  r.patches.foldl (fun q z => q.setPatch z { q.patch z with kind := clearKind r.body, tag := .every }) q

/-- One step of an MCLR: one row of one patch, micro-PC (0, 0, patch, row). -/
def Job.mclrStep (x : Job) : Job :=
  let r := x.r
  let c := r.core
  let zs := r.patches
  match zs.find? fun z => decide (r.upc.getD 2 0 ≤ z) with
  | none => { x with r := { r with ended := true } }
  | some z =>
    let row := if r.upc.getD 2 0 = z then r.upc.getD 3 0 else 0
    let q := x.s.core c
    let q := if row = 0 then q.setPatch z { q.patch z with status := 0, broken := false, written := true } else q
    let s := (x.s.setCore c q).putZRow c z row 128 (List.replicate 128 0)
    let r := r.wroteZ z row 128
    let r := if row + 1 < 96 then { r with upc := [0, 0, z, row + 1] }
      else
        let r := { r with count := r.count + 1 }
        match zs.find? fun y => decide (z < y) with
        | some y => { r with upc := [0, 0, y, 0] }
        | none => { r with upc := [0, 0, z, 96], ended := true }
    { s := s, r := r }

end Sys2Proof.Machine
end

