-- ==== Sys2Proof/Machine/Handles.lean ====
section
/-! DEFINITION. Binding (R129, R133, R135, R137), unbinding, reading and sealing handle slots (13 R292 to R294), the parking of a
PAGE (R211) and the binds of a placement (R65, R111). -/

namespace Sys2Proof.Machine

/-- A fault of a bind: its code, SUB and TRAPARG. -/
structure BindErr where
  code : Nat
  sub  : Nat
  arg  : Word
  deriving DecidableEq, Repr

/-- A bind error as an exception concerning a slot; PERM of page rights, a key or an access table is a page walk's (R206). -/
def BindErr.exc (e : BindErr) (slot : Nat) : Exc :=
  { Exc.atSlot slot e.code e.sub e.arg with walk := e.code == codePERM && decide (2 ≤ e.sub) && decide (e.sub ≤ 4) }

/-- The core of a gang that holds a rank (R110). -/
def State.coreOfRank (s : State) (t : Task) (rank : Nat) : Option Nat := t.cores.find? fun c => (s.core c).rank == rank

/-- The core whose store a descriptor means, from core `c`; none where the rank is not on its die (R110). -/
def State.targetOf (s : State) (t : Task) (c : Nat) (d : Desc) : Option Nat :=
  if d.space < 3 then
    match s.coreOfRank t d.tgt with
    | some x => if dieOf x = dieOf c then some x else none
    | none => none
  else some c

/-- A descriptor's RING attachment matches the ring it names (R133). -/
def Core.attachmentOk (q : Core) (d : Desc) (own : Bool) : Bool :=
  match d.ring with
  | none => true
  | some x =>
    own &&
    (match mapFind q.rings x with
     | none => false
     | some r =>
       r.inStore == d.space && r.base == d.base && decide (2 ≤ d.rank) &&
       d.ext.getD (d.rank - 1) 0 == r.count && d.pitch.getD (d.rank - 1) 0 == r.size)

/-- Every byte that a bound handle maps lies inside one window of the modes (R92). -/
def Task.windowHolds (t : Task) (modes : List Nat) (d : Desc) (lo ext : List Nat) : Bool :=
  let bytes := windowBytes d ⟨0, 0, lo, ext, none⟩
  t.windows.any fun w => modes.contains w.mode &&
    (match w.form with
     | some f =>
       bytes.all fun b => (upTo (b.2 - b.1)).all fun i =>
         (windowBytes f w).any fun x => decide (x.1 ≤ b.1 + i) && decide (b.1 + i < x.2)
     | none => false)

/-- What the peer of a P handle answers to its bind: a free choice of success and the faults a walk raises (R137, log 10). -/
def State.peerBind (s : State) (va : Nat) : Option BindErr :=
  match (Config.freeBits 3 s.free).toNat with
  | 0 => none
  | 1 => some ⟨codePAGE, 0, BitVec.ofNat 64 va⟩
  | 2 => some ⟨codePERM, 2, BitVec.ofNat 64 va⟩
  | 3 => some ⟨codePERM, 3, BitVec.ofNat 64 va⟩
  | 4 => some ⟨codePERM, 4, BitVec.ofNat 64 va⟩
  | 5 => some ⟨codeMCHECK, 1, BitVec.ofNat 64 (Config.freeBits 40 s.free).toNat⟩
  | _ => none

/-- The access table of the port towards a peer grants a tenant the rights of a handle (R50). -/
def State.portGrants (s : State) (peer tenant : Nat) (rd wr : Bool) : Bool :=
  match s.routePort peer with
  | some p =>
    let t := mapGet s.portTables p 0
    (!rd || tableAllows t (.tenant tenant) false) && (!wr || tableAllows t (.tenant tenant) true)
  | none => true

/-- The translation of a bind: its runs, or its fault (R135, R137). -/
def State.bindPages (s : State) (t : Task) (d : Desc) (lo ext : List Nat) : Except BindErr (List Run) :=
  let f := d.footprint lo ext
  let va := d.base + f.1
  match d.space with
  | 4 =>
    if 2 ^ 57 < va + f.2 then .error ⟨codePAGE, 0, BitVec.ofNat 64 (Nat.max va (2 ^ 57))⟩
    else match s.translate t.tenant (.tenant t.tenant) d.rd d.wr va f.2 with
      | .ok rs => .ok rs
      | .error e => .error ⟨e.code, e.sub, e.arg⟩
  | 5 =>
    match s.hostGranted t.func va f.2 with
    | some p => .error ⟨codePAGE, 0, BitVec.ofNat 64 (Nat.max va (p * 4096))⟩
    | none => .ok []
  | 6 =>
    if !(s.podReachable d.peer) then .error ⟨codePAGE, 0, BitVec.ofNat 64 va⟩
    else if !(s.portGrants d.peer t.tenant d.rd d.wr) then .error ⟨codePERM, 4, BitVec.ofNat 64 va⟩
    else match s.peerBind va with
      | some e => .error e
      | none => .ok []
  | _ => .ok []

/-- Runs of the slots of a core beyond the 16 that each holds itself (R135). -/
def Core.tableRuns (q : Core) : Nat :=
  q.handles.foldl (fun n p => n + (p.2.runs.length - 16)) 0 +
  q.bindNew.foldl (fun n p => n + match p.2 with | some h => h.runs.length - 16 | none => 0) 0

/-- The run table of the die of core `c` has room for `n` more runs (R135; log 53). -/
def State.runsFit (s : State) (c n : Nat) : Bool :=
  let used := s.coreTab.foldl (fun k p => if dieOf p.1 = dieOf c then k + p.2.tableRuns else k) 0
  decide (used + n ≤ Config.runTableRuns)

/-- The faults of binding a descriptor on core `c` for task `t` (R129, R133, R135, R137), and the handle it gives. -/
def State.bindDesc (s : State) (t : Task) (c : Nat) (d : Desc) (lo ext : List Nat) (window : Bool) :
    List BindErr × Handle :=
  let tgt := s.targetOf t c d
  let f := d.footprint lo ext
  let pages := if d.aligned then s.bindPages t d lo ext else .ok []
  let pure := t.pure
  let inGang := decide (d.space ≥ 3) || (s.coreOfRank t d.tgt).isSome
  let one := fun (b : Bool) (e : BindErr) => if b then [e] else []
  let errs :=
    one (!((s.core c).attachmentOk d (tgt == some c))) ⟨codeHFAULT, 0, 0⟩ ++
    one (pure && !window && decide (d.space = 4) && !(t.windowHolds [1, 2] d lo ext)) ⟨codePURITY, 0, 0⟩ ++
    one (pure && (decide (d.space = 5) || decide (d.space = 6))) ⟨codePURITY, 0, 0⟩ ++
    one (pure && (tgt.isNone || !inGang)) ⟨codePURITY, 0, 0⟩ ++
    one (!pure && tgt.isNone) ⟨codePERM, 5, 0⟩ ++
    one (decide (d.space < 3) && decide (storeBytes d.space < d.base + f.1 + f.2))
      ⟨codeBOUNDS, 0, (beyondStore (d.base + f.1) (storeBytes d.space)).arg⟩ ++
    one (match pages with | .ok rs => decide (16 < rs.length) && !(s.runsFit c (rs.length - 16)) | .error _ => false)
      ⟨codeHFAULT, 0, 0⟩ ++
    (match pages with | .error e => [e] | .ok _ => []) ++
    one (!d.aligned) ⟨codeALIGN, 0, BitVec.ofNat 64 d.base⟩
  (errs,
   { desc := d, target := tgt.getD c, runs := (match pages with | .ok rs => rs | .error _ => []), window := window,
     lo := lo, ext := ext, pwinIn := pure && decide (d.space = 4) && t.windowHolds [1] d lo ext,
     pwinOut := pure && decide (d.space = 4) && t.windowHolds [2] d lo ext, sealed := d.sealed, func := t.func,
     isArgs := false })

/-- Where HBIND finds its descriptor: the 128 bytes, or the faults of reading them (R292). -/
def State.descriptorBytes (s : State) (t : Task) (c k : Nat) (v : Word) : Except (List BindErr) (List Byte) :=
  if bvBit v 63 then
    let off := bvField v 0 20
    let tgt := WriteTarget.store c 2 off
    if off % 128 ≠ 0 then .error [⟨codeALIGN, 0, BitVec.ofNat 64 off⟩]
    else match (upTo 128).findSome? (fun i => s.ringRace (.strand c k) (tgt.plus i)), s.poisonAt tgt 128 with
      | some (r, i), _ => .error [⟨codeRACE, 0, raceArg r i⟩]
      | none, u :: _ => .error [⟨codeMCHECK, 2, BitVec.ofNat 64 (unitLocation u)⟩]
      | none, [] => .ok (s.readAt tgt 128)
  else
    let va := bvField v 0 57
    let bad := if va % 128 ≠ 0 then [⟨codeALIGN, 0, BitVec.ofNat 64 va⟩] else []
    match s.gRead t.tenant va 128 with
    | .error e => .error (⟨e.code, e.sub, e.arg⟩ :: bad)
    | .ok bs => if bad.isEmpty then .ok bs else .error bad

/-- The first free park entry (R211). -/
def State.freePark (s : State) : Option Nat := (upTo Config.parkEntries).find? fun i => (mapFind s.parks i).isNone

/-- A PAGE of HBIND: the strand parks, with a PAGE_MAPPED notice, or takes the fault when no entry is free (R79, R211). -/
def parkOrTrap (slot : Nat) (rd wr : Bool) (e : Exc) (s : State) : Eff :=
  match s.freePark with
  | none => .trap s e
  | some i =>
    let c := s.cur.1
    let cause := causeOf (leBytes 1 i ++ leBytes 1 (wr.toNat + 2 * rd.toNat) ++ leBytes 2 (s.tenantOf c) ++ leBytes 4 0 ++
      leBytes 8 e.arg.toNat)
    let s := { s with parks := mapPut s.parks i ⟨c, s.cur.2, slot, e.arg.toNat⟩ }
    .hold (s.postNotice ⟨1, s.taskIdOf c, cause⟩) (.parked i)

/-- HBIND (R292): the binding takes effect from the next clock (R112).  Its descriptor is an ordinary read of the strand; a walk sees
a table entry only once its write is performed (R136). -/
def bindSlot (h a : Nat) (s : State) : Eff :=
  match s.myTask with
  | none => .trap s (Exc.atSlot h codeHFAULT)
  | some t =>
    let c := s.cur.1
    let v := s.seenBy c
    let own := excIf (h == 0) (Exc.atSlot h codePERM 6)
    let fail := fun (rd wr : Bool) (es : List Exc) (s : State) =>
      match pickExc es with
      | none => Eff.done s
      | some e => if e.code = codePAGE then parkOrTrap h rd wr e s else .trap s e
    match v.descriptorBytes t c s.cur.2 (s.rS a) with
    | .error es => fail true false (own ++ es.map fun e => e.exc h) s
    | .ok bs =>
      match descOf? false bs with
      | none => fail true false (Exc.atSlot h codeHFAULT :: own) s
      | some d =>
        let r := s.bindDesc t c d coord0 d.ext false
        let s := s.drawIf (d.space == 6)
        if own.isEmpty && r.1.isEmpty then
          .done (s.setHere { s.here with bindNew := mapPut s.here.bindNew h (some r.2) })
        else fail d.rd d.wr (own ++ r.1.map fun e => e.exc h) s

/-- HUNBIND (R293). -/
def unbindSlot (h : Nat) (s : State) : Eff :=
  if h = 0 then .trap s (Exc.atSlot h codePERM 6)
  else .done (s.setHere { s.here with bindNew := mapPut s.here.bindNew h none })

/-- HINFO (R294). -/
def slotInfo (q : Core) (h k : Nat) : Nat :=
  match q.handle h with
  | none => 0
  | some x =>
    let d := x.desc
    match k with
    | 0 => 1 + 2 * x.pwinIn.toNat + 4 * x.pwinOut.toNat + 8 * x.sealed.toNat + 16 * d.rd.toNat + 32 * d.wr.toNat +
           256 * d.space + 4096 * fmtCode d.fmt + 1048576 * d.rank + 16777216 * d.codec
    | 7 => if d.space < 3 then d.tgt else 0
    | _ => x.ext.getD (k - 1) 1

/-! ## Binds at placement (R65, R111) -/

/-- h0: the argument block, read only; none when ARGLEN is 0. -/
def argsDesc (t : Task) : Desc :=
  { space := 4, fmt := .uint8, rank := 1, codec := 0, sealed := false, policy := 0, trap := false, rd := true, wr := false,
    swz := 0, ring := none, base := t.args, ext := [t.arglen, 1, 1, 1, 1, 1], pitch := [0, 0, 0, 0, 0, 0], slink := 0,
    slv := false, tgt := 0, peer := 0, clen := 0, sym := [] }

/-- h1: the core's own S store; `rank` is its own gang rank. -/
def ownStoreDesc (rank : Nat) : Desc :=
  { space := 2, fmt := .uint8, rank := 1, codec := 0, sealed := false, policy := 0, trap := false, rd := true, wr := true,
    swz := 0, ring := none, base := 0, ext := [Config.sBytes, 1, 1, 1, 1, 1], pitch := [0, 0, 0, 0, 0, 0], slink := 0,
    slv := false, tgt := rank, peer := 0, clen := 0, sym := [] }

/-- A window's descriptor with the rights of its mode (R111). -/
def Desc.forMode (d : Desc) (mode : Nat) : Desc := { d with rd := mode == 1 || mode == 3, wr := mode == 2 || mode == 3 }

/-- The bind of one window at placement on core `c`: the handle, or the code of its fault (R65). -/
def State.bindWindow (s : State) (t : Task) (c : Nat) (w : Window) : Except Nat (Desc × Handle) :=
  if w.desc % 128 ≠ 0 then .error codeALIGN
  else match s.gRead t.tenant w.desc 128 with
    | .error e => .error e.code
    | .ok bs =>
      match descOf? false bs with
      | none => .error codeHFAULT
      | some d =>
        if !(boxOk d w) then .error codeHFAULT
        else
          let r := s.bindDesc t c (d.forMode w.mode) w.lo w.ext true
          match pickExc (r.1.map fun e => e.exc 0) with
          | some e => .error e.code
          | none => .ok (d, r.2)

/-- The slots of a core at entry, or the code of the fault that a bind meets (R111). -/
def State.entrySlots (s : State) (t : Task) (c : Nat) : Except Nat (Map Handle) :=
  let own := (s.bindDesc t c (ownStoreDesc (s.core c).rank) coord0 (ownStoreDesc (s.core c).rank).ext false).2
  let base : Except Nat (Map Handle) :=
    if t.arglen = 0 then .ok [(1, own)]
    else
      let r := s.bindDesc { t with pure := false } c (argsDesc t) coord0 (argsDesc t).ext false
      match pickExc (r.1.map fun e => e.exc 0) with
      | some e => .error e.code
      | none => .ok [(0, { r.2 with isArgs := true }), (1, own)]
  (windowSlots t.windows 2).foldl (fun acc p =>
    match acc with
    | .error e => .error e
    | .ok m =>
      match s.bindWindow t c p.2 with
      | .error e => .error e
      | .ok h => .ok (mapPut m p.1 h.2)) base

/-- HBIND (R292). -/
def execHbind (g : Guard) (h : Nat) (a : Nat) (s : State) : Outcome :=
  runStrand 8 g (Uses.scalar [a] []) s fun s => bindSlot h a s

/-- HUNBIND (R293). -/
def execHunbind (g : Guard) (h : Nat) (s : State) : Outcome :=
  runStrand 8 g (Uses.none) s fun s => unbindSlot h s

/-- HINFO (R294). -/
def execHinfo (g : Guard) (d : Nat) (h : Nat) (k : Nat) (s : State) : Outcome :=
  runStrand 8 g (Uses.scalar [] [d]) s fun s => .done (s.wS d (BitVec.ofNat 64 (slotInfo s.here h k)))

end Sys2Proof.Machine
end

