-- ==== Sys2Proof/Machine/Index.lean ====
section
/-! DEFINITION. The index engine: GATH, SCAT, MERG, TOPK and CMPT (15 R360 to R363). -/

namespace Sys2Proof.Machine

/-! ## Shared by the row-by-row records -/

/-- Spaces the IE reads, and those it writes (R109). -/
def indexReads : List Nat := [0, 1, 2, 4]
def indexWrites : List Nat := [1, 2, 4]

/-- What one row does before its elements are stored: the job moved past it, and the elements it delivers. -/
abbrev Row := Job → Job × List (List Nat × Nat)

/-- The last value that the rest of a record delivers for a canonical tuple, `n` rows at most (R144). -/
def laterValue (row : Row) (h : Handle) (y : List Nat) : Nat → Job → Option Nat
  | 0, _ => none
  | n + 1, x =>
    if x.r.ended then none
    else
      let a := row x
      let plain : Handle := { h with desc := { h.desc with policy := 1 } }
      match laterValue row h y n (a.1.deliver plain a.2 fun _ => none) with
      | some v => some v
      | none => deliveredIn h a.2 y

/-- One row, stored under the destination's policy; `n` bounds the rows left. -/
def Job.rowStep (x : Job) (row : Row) (h : Handle) (n : Nat) : Job :=
  let a := row x
  a.1.deliver h a.2 fun y => laterValue row h y n x

/-- Poisoned units count anew for each row (R377). -/
def Rec.forgetUnits (r : Rec) : Rec := { r with aux := r.aux.filter fun p => decide (p.1 < auxUnit) }

/-- The record with its row counter moved on; it ends after `n` rows. -/
def Rec.nextRow (r : Rec) (n : Nat) : Rec :=
  let k := r.upc.getD 3 0 + 1
  { r with upc := [0, 0, 0, k], ended := decide (n ≤ k) }

/-- Coordinates of a row of `w` elements from (x0, x1). -/
def rowCoords (w x0 x1 : Nat) : List (List Nat) := (upTo w).map fun i => [x0 + i, x1, 0, 0, 0, 0]
/-- Corners of `n` such rows. -/
def rowCorners (w n x0 x1 : Nat) : List (List Nat) :=
  [[x0, x1, 0, 0, 0, 0], [x0 + w - 1, x1, 0, 0, 0, 0], [x0, x1 + n - 1, 0, 0, 0, 0], [x0 + w - 1, x1 + n - 1, 0, 0, 0, 0]]
/-- Coordinates of `n` places in a row from x0, and their corners. -/
def lineCoords (n x0 : Nat) : List (List Nat) := rowCoords n x0 0
def lineCorners (n x0 : Nat) : List (List Nat) := [[x0, 0, 0, 0, 0, 0], [x0 + n - 1, 0, 0, 0, 0, 0]]

/-- NAN and INF of a row of delivered codes (R341). -/
def Rec.deliveredAll (r : Rec) (ty : Ty) (vs : List Nat) : Rec := vs.foldl (fun r v => r.delivered ty v 0) r

/-! ## GATH and SCAT (R360) -/

/-- Rows, width and base words. -/
def gathRows (b : BitVec 384) : Nat := bodyAt b 20 4
def gathWidth (b : BitVec 384) : Nat := bodyAt b 40 4
def gathAdd (b : BitVec 384) : Bool := bodyBits b 19 0 1 == 1

/-- An index as read. -/
def indexValue (ty : Ty) (v : Nat) : Int := match intFmt? ty with | some (w, sg) => intValue w sg v | none => (v : Int)

/-- ADD formats. -/
def addFormat (ty : Ty) : Bool :=
  match ty with | .f64 => true | .f32 => true | .f16 => true | .bf16 => true | .i64 => true | .i32 => true | _ => false

/-- Index formats. -/
def indexFormat (ty : Ty) : Bool := match ty with | .i32 => true | .uint32 => true | .i64 => true | .u64 => true | _ => false

/-- The first index of a sealed IH that lies outside the table (R360). -/
def State.sealedIndex (s : State) (r : Rec) (th ih : Handle) : Option Int :=
  if ih.desc.space < 3 && ih.sealed then
    let v := s.seenBy r.core
    ((lineCoords (gathRows r.body) (bodyWord r.body 0)).map fun x => indexValue ih.desc.fmt (v.readElem ih x)).find? fun i =>
      !(decide (0 ≤ i) && decide (i < ((r.extents th).getD 1 1 : Nat)))
  else none

/-- The dispatch check of GATH and SCAT. -/
def gathFaults (scat : Bool) (r : Rec) (s : State) : List Exc :=
  let b := r.body
  let q := s.core r.core
  let n := gathRows b
  let w := gathWidth b
  let ts := bodyAt b 16 1
  let is := bodyAt b 17 1
  let rs := bodyAt b 18 1
  let add := gathAdd b
  let fields := decide (bodyBits b 19 1 7 = 0) && (scat || !add) && decide (1 ≤ n) && decide (n ≤ 2 ^ 24) && decide (1 ≤ w) &&
    decide (w ≤ 65536) && bodyZero b 44 20
  let spaces := fun (wr : Bool) => if wr then indexWrites else indexReads
  let tableRows := match q.handle ts with | some h => (r.extents h).getD 1 1 | none => 1
  excIf (!fields) badField ++
  s.operandFaultsAt r ts scat (spaces scat) false (rowCorners w 1 (bodyWord b 2) 0)
    (fun _ => (upTo tableRows).flatMap fun i => rowCoords w (bodyWord b 2) i) ++ s.linkFaults r ts ++
  s.operandFaultsAt r is false indexReads false (lineCorners n (bodyWord b 0)) (fun _ => lineCoords n (bodyWord b 0)) ++
  s.operandFaultsAt r rs (!scat) (spaces (!scat)) false (rowCorners w n (bodyWord b 3) (bodyWord b 1))
    (fun _ => (upTo n).flatMap fun i => rowCoords w (bodyWord b 3) (bodyWord b 1 + i)) ++ s.linkFaults r rs ++
  (match q.handle ts with
   | some th =>
     excIf (decide (th.desc.rank < 2) || (add && !(addFormat th.desc.fmt))) badField ++
     excIf (add && !th.desc.rd) (Exc.atSlot ts codePERM 2)
   | none => []) ++
  (match q.handle is with
   | some ih => excIf (ih.desc.rank != 1 || !(indexFormat ih.desc.fmt)) badField
   | none => []) ++
  (match q.handle ts, q.handle is, q.handle rs with
   | some th, some ih, some rh =>
     excIf (th.desc.fmt != rh.desc.fmt) badField ++
     (if scat then strictFaults ts th (.gens []) else strictFaults rs rh (.gens [])) ++
     (match s.sealedIndex r th ih with | some i => [Exc.atSlot ts codeBOUNDS 0 (boundsArg 1 (coordOf i))] | none => [])
   | _, _, _ => [])

/-- COUNT: rows moved in bits 23:0, rows skipped in bits 47:24. -/
def Rec.gathCount (r : Rec) : Rec := { r with count := r.val auxOut % 2 ^ 24 + 2 ^ 24 * (r.val auxSkip % 2 ^ 24) }

/-- One row of GATH or SCAT. -/
def gathRow (scat : Bool) (th ih rh : Handle) : Row := fun x =>
  let b := x.r.body
  let ty := th.desc.fmt
  let k := x.r.upc.getD 3 0
  let w := gathWidth b
  let x : Job := { x with r := x.r.forgetUnits }
  let a := x.read ih [[bodyWord b 0 + k, 0, 0, 0, 0, 0]]
  let i := indexValue ih.desc.fmt (a.1.getD 0 0)
  let x := a.2
  let fin := fun (x : Job) => { x with r := (x.r.gathCount).nextRow (gathRows b) }
  if decide (i < 0) || decide (((x.r.extents th).getD 1 1 : Nat) ≤ i) then
    (fin { x with r := (x.r.setVal auxSkip (x.r.val auxSkip + 1)).mark wSKIPPED }, [])
  else
    let table := rowCoords w (bodyWord b 2) i.toNat
    let side := rowCoords w (bodyWord b 3) (bodyWord b 1 + k)
    let c := if scat then x.read rh side else x.read th table
    let d := if scat && gathAdd b then c.2.read th table else ([], c.2)
    let vs := if scat && gathAdd b then (c.1.zip d.1).map fun p => rmwResult .add ty p.2 p.1 else c.1
    let x := d.2
    (fin { x with r := (x.r.deliveredAll ty vs).setVal auxOut (x.r.val auxOut + 1) }, (if scat then table else side).zip vs)

/-- One step of GATH or SCAT. -/
def Job.gathStep (scat : Bool) (x : Job) : Job :=
  let b := x.r.body
  match x.r.bind (bodyAt b 16 1), x.r.bind (bodyAt b 17 1), x.r.bind (bodyAt b 18 1) with
  | some th, some ih, some rh => x.rowStep (gathRow scat th ih rh) (if scat then th else rh) (gathRows b)
  | _, _, _ => { x with r := { x.r with ended := true } }

/-! ## MERG (R361) -/

/-- Inputs, key kind, record bytes, table offset and limit. -/
def mergInputs (b : BitVec 384) : Nat := bodyBits b 18 0 5
def mergKey (b : BitVec 384) : Nat := bodyBits b 19 0 2
def mergBytes (b : BitVec 384) : Nat := bodyAt b 20 2
def mergTab (b : BitVec 384) : Nat := 64 * bodyAt b 22 2
def mergMax (b : BitVec 384) : Nat := bodyAt b 28 4

/-- Keys of the table's running values, after the consumed counts. -/
def auxStart (i : Nat) : Nat := 96 + i
def auxCount (i : Nat) : Nat := 112 + i

/-- START and COUNT of each input, as the table gives them. -/
def State.mergTable (s : State) (r : Rec) : List (Nat × Nat) :=
  let v := s.seenBy r.core
  let bs := v.readAt (.store r.core 2 (mergTab r.body)) (8 * mergInputs r.body)
  (upTo (mergInputs r.body)).map fun i => (leNat ((bs.drop (8 * i)).take 4), leNat ((bs.drop (8 * i + 4)).take 4))

/-- Records that a MERG emits. -/
def mergTotal (b : BitVec 384) (tab : List (Nat × Nat)) : Nat :=
  let sum := tab.foldl (fun a x => a + x.2) 0
  if mergMax b = 0 then sum else Nat.min sum (mergMax b)

/-- The dispatch check of MERG. -/
def mergFaults (r : Rec) (s : State) : List Exc :=
  let b := r.body
  let q := s.core r.core
  let k := mergInputs b
  let w := mergBytes b
  let ss := bodyAt b 16 1
  let ds := bodyAt b 17 1
  let fields := decide (1 ≤ k) && decide (k ≤ 16) && decide (bodyBits b 18 5 3 = 0) && decide (bodyAt b 19 1 < 3) &&
    decide (8 ≤ w) && decide (w ≤ 256) && decide (w % 8 = 0) && bodyZero b 32 32
  let tabOk := decide (mergTab b + 192 ≤ Config.sBytes)
  let tab := if tabOk then s.mergTable r else []
  let live := tab.filter fun t => t.2 != 0
  let total := mergTotal b tab
  let shape := fun (slot : Nat) => match q.handle slot with
    | some h => excIf (h.desc.rank != 2 || h.desc.fmt != .uint8) badField
    | none => []
  excIf (!fields) badField ++
  (if fields then s.storeFaults r (mergTab b) (8 * k) false ++ s.storeFaults r (mergTab b + 128) (4 * k) true else []) ++
  shape ss ++ shape ds ++
  s.operandFaultsAt r ss false indexReads false (live.flatMap fun t => rowCorners w t.2 0 t.1)
    (fun _ => live.flatMap fun t => (upTo t.2).flatMap fun i => rowCoords w 0 (t.1 + i)) ++
  s.operandFaultsAt r ds true indexWrites false (if total = 0 then [] else rowCorners w total 0 (bodyWord b 0))
    (fun _ => (upTo total).flatMap fun i => rowCoords w 0 (bodyWord b 0 + i)) ++
  (match q.handle ds with | some h => strictFaults ds h (.gens []) | none => [])

/-- The table read at dispatch. -/
def Job.mergPrepare (x : Job) : Job :=
  let a := x.readBytes (ownStore x.r.core) (mergTab x.r.body) (8 * mergInputs x.r.body)
  { a.2 with r := (upTo (mergInputs x.r.body)).foldl (fun r i =>
      (r.setVal (auxStart i) (leNat ((a.1.drop (8 * i)).take 4))).setVal (auxCount i) (leNat ((a.1.drop (8 * i + 4)).take 4))) a.2.r }

/-- A key as a value: a NaN is none and comes last; its zeros are equal. -/
def mergKeyOf (kind v : Nat) : Num :=
  match kind with
  | 0 => .ofInt (toSigned 64 v)
  | 1 => .ofInt (v : Int)
  | _ => FloatFmt.value ⟨11, 52, 1023, .ieee⟩ v

/-- Order of keys: NaN above every other, all NaNs equal. -/
def keyLess (x y : Num) : Bool :=
  if x == .nan then false else if y == .nan then true else cmpNum x y == some .lt

/-- The key of a record of the source. -/
def Job.mergKeyAt (x : Job) (h : Handle) (row : Nat) : Num × Job :=
  let a := x.read h (rowCoords 8 0 row)
  (mergKeyOf (mergKey x.r.body) (packElems 8 a.1), a.2)

/-- The input whose head is least, ties to the lowest, with its key. -/
def Job.mergHead (x : Job) (h : Handle) : Option (Nat × Num) × Job :=
  (upTo (mergInputs x.r.body)).foldl (fun a i =>
    let x := a.2
    let p := x.r.val (auxInput + i)
    if x.r.val (auxCount i) ≤ p then a
    else
      let k := x.mergKeyAt h (x.r.val (auxStart i) + p)
      (match a.1 with
       | none => some (i, k.1)
       | some y => if keyLess k.1 y.2 then some (i, k.1) else some y, k.2)) (none, x)

/-- The consumed counts go to the table. -/
def Job.mergEnd (x : Job) : Job :=
  let b := x.r.body
  let bs := (upTo (mergInputs b)).flatMap fun i => leBytes 4 (x.r.val (auxInput + i))
  let x := x.put [(.store x.r.core 2 (mergTab b + 128), bs)]
  { x with r := { x.r with ended := true } }

/-- One output record of MERG. -/
def mergRow (sh : Handle) : Row := fun x =>
  let b := x.r.body
  let w := mergBytes b
  let out := x.r.val auxOut
  let limited := decide (mergMax b ≠ 0) && decide (mergMax b ≤ out)
  let a := if limited then (none, x) else x.mergHead sh
  match a.1 with
  | none => (x.mergEnd, [])
  | some (i, key) =>
    let x := a.2
    let p := x.r.val (auxInput + i)
    let row := x.r.val (auxStart i) + p
    let c := if p = 0 then (key, x) else x.mergKeyAt sh (row - 1)
    let d := c.2.read sh (rowCoords w 0 row)
    let r := d.2.r.markIf (decide (p ≠ 0) && keyLess key c.1) wDISORDER
    let r := (r.setVal auxOut (out + 1)).setVal (auxInput + i) (p + 1)
    ({ d.2 with r := { r with count := out + 1, upc := [0, 0, 0, out + 1] } }, (rowCoords w 0 (bodyWord b 0 + out)).zip d.1)

/-- One step of MERG. -/
def Job.mergStep (x : Job) : Job :=
  match x.r.bind (bodyAt x.r.body 16 1), x.r.bind (bodyAt x.r.body 17 1) with
  | some sh, some dh =>
    x.rowStep (mergRow sh) dh (1 + (upTo 16).foldl (fun a i => a + x.r.val (auxCount i)) 0)
  | _, _ => { x with r := { x.r with ended := true } }

/-! ## TOPK (R362) -/

def topkN (b : BitVec 384) : Nat := bodyAt b 20 4
def topkK (b : BitVec 384) : Nat := bodyAt b 32 4
def topkSmallest (b : BitVec 384) : Bool := bodyBits b 19 0 1 == 1
def topkMag (b : BitVec 384) : Bool := bodyBits b 19 1 1 == 1
def topkValues (b : BitVec 384) : Bool := bodyBits b 19 2 1 == 0
def topkIndices (b : BitVec 384) : Bool := bodyBits b 19 3 1 == 0

/-- Formats of TOPK. -/
def topkFormat (ty : Ty) : Bool :=
  isFlt ty || (match ty with | .i64 => true | .u64 => true | .i32 => true | .uint32 => true | _ => false)

/-- Slots a TOPK names. -/
def topkSlots (b : BitVec 384) : List Nat :=
  bodyAt b 16 1 :: ((if topkValues b then [bodyAt b 17 1] else []) ++ (if topkIndices b then [bodyAt b 18 1] else []))

/-- The dispatch check of TOPK. -/
def topkFaults (r : Rec) (s : State) : List Exc :=
  let b := r.body
  let q := s.core r.core
  let ss := bodyAt b 16 1
  let vs := bodyAt b 17 1
  let is := bodyAt b 18 1
  let n := topkN b
  let k := topkK b
  let out := fun (on : Bool) (slot : Nat) (fits : Handle → Bool) =>
    if on then
      s.operandFaultsAt r slot true indexWrites false (lineCorners k (bodyWord b 1)) (fun _ => lineCoords k (bodyWord b 1)) ++
      (match q.handle slot with
       | some h => excIf (!(fits h)) badField ++ strictFaults slot h (.gens [])
       | none => [])
    else []
  let ty? := (q.handle ss).map fun h => h.desc.fmt
  excIf (!(decide (bodyBits b 19 4 4 = 0) && decide (1 ≤ n) && decide (n ≤ 2 ^ 24) && decide (1 ≤ k) && decide (k ≤ 65536) &&
    decide (k ≤ n) && bodyZero b 36 28)) badField ++
  s.operandFaultsAt r ss false indexReads false (lineCorners n (bodyWord b 0)) (fun _ => lineCoords n (bodyWord b 0)) ++
  (match q.handle ss with
   | some h => excIf (h.desc.rank != 1 || !(topkFormat h.desc.fmt)) badField
   | none => []) ++
  out (topkValues b) vs (fun h => ty? == none || ty? == some h.desc.fmt) ++
  out (topkIndices b) is (fun h => h.desc.fmt == .uint32)

/-- A candidate goes before another of lower index: a strictly better key. -/
def topkBetter (b : BitVec 384) (x y : Num) : Bool :=
  let k := fun (v : Num) => if topkMag b then v.abs else v
  cmpNum (k x) (k y) == some (if topkSmallest b then .lt else .gt)

/-- Candidates inserted in order of index keep ties in that order. -/
def topkInsert (b : BitVec 384) (c : Nat × Nat × Num) : List (Nat × Nat × Num) → List (Nat × Nat × Num)
  | [] => [c]
  | y :: ys => if topkBetter b c.2.2 y.2.2 then c :: y :: ys else y :: topkInsert b c ys

/-- The candidates chosen of (index, bits, value), best first, and how many are NaN. -/
def topkChoose (b : BitVec 384) (ty : Ty) (cs : List (Nat × Nat × Num)) : List (Nat × Nat) × Nat :=
  let good := ((cs.filter fun (c : Nat × Nat × Num) => c.2.2 != Num.nan).foldl (fun l c => topkInsert b c l) []).take (topkK b)
  let nans := (cs.filter fun (c : Nat × Nat × Num) => c.2.2 == Num.nan).take (topkK b - good.length)
  let canon := match floatFmt? ty with | some f => f.nanCode?.getD 0 | none => 0
  (good.map (fun c => (c.1, c.2.1)) ++ nans.map fun c => (c.1, canon), nans.length)

/-- TOPK in one step. -/
def Job.topkStep (x : Job) : Job :=
  let b := x.r.body
  match x.r.bind (bodyAt b 16 1) with
  | none => { x with r := { x.r with ended := true } }
  | some sh =>
    let ty := sh.desc.fmt
    let a := x.read sh (lineCoords (topkN b) (bodyWord b 0))
    let ch : List (Nat × Nat) × Nat := topkChoose b ty (a.1.zipIdx.map fun p => (p.2, p.1, elemValue ty [] p.1))
    let ys := lineCoords (topkK b) (bodyWord b 1)
    let x := a.2
    let x := match (if topkValues b then x.r.bind (bodyAt b 17 1) else none) with
      | some h =>
        let es := ys.zip (ch.1.map Prod.snd)
        ({ x with r := x.r.deliveredAll ty (ch.1.map Prod.snd) } : Job).deliver h es (deliveredIn h es)
      | none => x
    let x := match (if topkIndices b then x.r.bind (bodyAt b 18 1) else none) with
      | some h => let es := ys.zip (ch.1.map Prod.fst); x.deliver h es (deliveredIn h es)
      | none => x
    { x with r := { x.r with count := topkK b + 2 ^ 32 * (ch.2 % 2 ^ 16), ended := true } }

/-! ## CMPT (R363) -/

def cmptRows (b : BitVec 384) : Nat := bodyAt b 20 4
def cmptWidth (b : BitVec 384) : Nat := bodyAt b 36 4

/-- The dispatch check of CMPT. -/
def cmptFaults (r : Rec) (s : State) : List Exc :=
  let b := r.body
  let q := s.core r.core
  let n := cmptRows b
  let w := cmptWidth b
  let ss := bodyAt b 16 1
  let fs := bodyAt b 17 1
  let ds := bodyAt b 18 1
  let rows := fun x1 => fun (_ : Unit) => (upTo n).flatMap fun i => rowCoords w 0 (x1 + i)
  excIf (!(decide (bodyBits b 19 1 7 = 0) && decide (1 ≤ n) && decide (n ≤ 2 ^ 24) && decide (1 ≤ w) && decide (w ≤ 65536) &&
    bodyZero b 40 24)) badField ++
  s.operandFaultsAt r ss false indexReads false (rowCorners w n 0 (bodyWord b 0)) (rows (bodyWord b 0)) ++ s.linkFaults r ss ++
  s.operandFaultsAt r fs false indexReads false (lineCorners n (bodyWord b 1)) (fun _ => lineCoords n (bodyWord b 1)) ++
  s.operandFaultsAt r ds true indexWrites false (rowCorners w n 0 (bodyWord b 2)) (rows (bodyWord b 2)) ++ s.linkFaults r ds ++
  (match q.handle fs with
   | some fh => excIf (fh.desc.rank != 1 || !(isInt fh.desc.fmt)) badField
   | none => []) ++
  (match q.handle ss with | some sh => excIf (sh.desc.rank != 2) badField | none => []) ++
  (match q.handle ds with
   | some dh =>
     excIf (dh.desc.rank != 2 || (match q.handle ss with | some sh => sh.desc.fmt != dh.desc.fmt | none => false)) badField ++
     strictFaults ds dh (.gens [])
   | none => [])

/-- One row of CMPT. -/
def cmptRow (sh fh : Handle) : Row := fun x =>
  let b := x.r.body
  let k := x.r.upc.getD 3 0
  let w := cmptWidth b
  let x : Job := { x with r := x.r.forgetUnits }
  let a := x.read fh [[bodyWord b 1 + k, 0, 0, 0, 0, 0]]
  let fin := fun (x : Job) => { x with r := x.r.nextRow (cmptRows b) }
  if (a.1.getD 0 0 != 0) != (bodyBits b 19 0 1 == 1) then
    let c := a.2.read sh (rowCoords w 0 (bodyWord b 0 + k))
    let out := c.2.r.val auxOut
    let r := (c.2.r.deliveredAll sh.desc.fmt c.1).setVal auxOut (out + 1)
    (fin { c.2 with r := { r with count := out + 1 } }, (rowCoords w 0 (bodyWord b 2 + out)).zip c.1)
  else (fin a.2, [])

/-- One step of CMPT. -/
def Job.cmptStep (x : Job) : Job :=
  let b := x.r.body
  match x.r.bind (bodyAt b 16 1), x.r.bind (bodyAt b 17 1), x.r.bind (bodyAt b 18 1) with
  | some sh, some fh, some dh => x.rowStep (cmptRow sh fh) dh (cmptRows b)
  | _, _, _ => { x with r := { x.r with ended := true } }

end Sys2Proof.Machine
end

