-- ==== Sys2Proof/Machine/Neighbour.lean ====
section
/-! DEFINITION. The neighbour engine (07 R151 to R163): NBIN and NSTRM (15 R364, R365). -/

namespace Sys2Proof.Machine

/-! ## The body (R364, R365) -/

/-- FP32, and rounding to it. -/
def fp32 : FloatFmt := ⟨8, 23, 127, .ieee⟩
def roundRne32 (x : Num) : Nat := (fp32.convert .rne false x).1

/-- Bits of an axis's cells: 0 x, 1 y, 2 z. -/
def axisBits (b : BitVec 384) (a : Nat) : Nat := bodyBits b 19 (3 * a) 3
def cellBits (b : BitVec 384) : Nat := axisBits b 0 + axisBits b 1 + axisBits b 2
def cellCapacity (b : BitVec 384) : Nat := 16 * 2 ^ bodyBits b 19 9 2
/-- The GEOM word of the grid (R154). -/
def geomWord (b : BitVec 384) : Nat :=
  axisBits b 0 + 256 * axisBits b 1 + 65536 * axisBits b 2 + 16777216 * (4 + bodyBits b 19 9 2)
def particles (b : BitVec 384) : Nat := bodyAt b 24 4
/-- Box edge along an axis, FP32 bits; the skin and the cut-off. -/
def edgeBits (b : BitVec 384) (a : Nat) : Nat := bodyAt b (28 + 4 * a) 4
def skinBits (b : BitVec 384) : Nat := bodyAt b 40 4
def cutBits (b : BitVec 384) : Nat := bodyAt b 44 4
def firstCell (b : BitVec 384) : Nat := bodyAt b 48 4
def endCell (b : BitVec 384) : Nat := bodyAt b 52 4
def fullList (b : BitVec 384) : Bool := bodyBits b 21 0 1 == 1
def ringCount (b : BitVec 384) : Nat := bodyBits b 21 1 3 + 1
def ringTable (b : BitVec 384) : Nat := 32 * bodyAt b 22 2

/-- Words of the grid (R154). -/
def cellWord (b : BitVec 384) (k : Nat) : Nat := 8208 + k * (cellCapacity b + 2)
def gridWords (b : BitVec 384) : Nat := cellWord b (2 ^ cellBits b)

/-- Positive and finite; finite and at least 0. -/
def positiveFinite (v : Nat) : Bool := match fp32.value v with | .fin neg m _ _ => !neg && decide (m ≠ 0) | _ => false
def finiteNotBelow (v : Nat) : Bool := match fp32.value v with | .fin neg m _ _ => !neg || decide (m = 0) | _ => false

/-- c + skin, exact. -/
def reachNum (b : BitVec 384) : Num := (addNum .rne (fp32.value (cutBits b)) (fp32.value (skinBits b))).1

/-! ## The dispatch checks -/

/-- Field errors of both records. -/
def neighbourFieldsOk (b : BitVec 384) (stream : Bool) : Bool :=
  (upTo 3).all (fun a => decide (1 ≤ axisBits b a) && positiveFinite (edgeBits b a)) && decide (cellBits b ≤ 21) &&
  decide (bodyBits b 19 11 5 = 0) && decide (1 ≤ particles b) && decide (particles b ≤ 2 ^ 26) && finiteNotBelow (skinBits b) &&
  (if stream then
     decide (bodyBits b 21 4 4 = 0) && bodyZero b 56 8 && positiveFinite (cutBits b) && decide (firstCell b < endCell b) &&
     decide (endCell b ≤ 2 ^ cellBits b)
   else bodyZero b 21 3 && bodyZero b 44 20)

/-- BOXSMALL (R159). -/
def boxSmall (b : BitVec 384) : Bool :=
  (upTo 3).any fun a => cmpNum (reachNum b) ((fp32.value (edgeBits b a)).scale (-1)) == some .gt

/-- A consumer ring as its table entry gives it: the core that holds the rank, and the ring (R158, R365). -/
def State.consumerRing (s : State) (r : Rec) (entry : Nat) : Option (Nat × Nat) :=
  match s.taskOf r.core with
  | none => none
  | some t => (s.coreOfRank t (bitsAt entry 0 16)).map fun c => (c, bitsAt entry 16 5)

/-- Every fault of a table entry (R158); the engine writes every slot of the ring (R134). -/
def State.consumerFaults (s : State) (r : Rec) (entry : Nat) : List Exc :=
  let pure := match s.taskOf r.core with | some t => t.pure | none => false
  excIf (decide (entry / 2 ^ 21 ≠ 0)) badField ++
  (match s.consumerRing r entry with
   | none => [if pure then Exc.of codePURITY else Exc.of codePERM 5]
   | some (c, ring) =>
     excIf (decide (dieOf c ≠ dieOf r.core)) (Exc.of codePERM 5) ++
     (match mapFind (s.core c).rings ring with
      | none => [Exc.of codeHFAULT]
      | some x =>
        excIf (decide (x.size ≠ 2048)) badField ++ excIf (x.bound.any fun u => u.2) (raceExc ring 0) ++
        excIf (s.ringSealed c x) (Exc.of codeSEALED)))

/-- The entries of the ring table. -/
def State.ringEntries (s : State) (r : Rec) : List Nat :=
  let bs := (s.seenBy r.core).readAt (.store r.core 2 (ringTable r.body)) (4 * ringCount r.body)
  (upTo (ringCount r.body)).map fun e => leNat ((bs.drop (4 * e)).take 4)

/-- Faults of a position or reference tensor, and of the grid (R151, R154, R155). -/
def State.tensorFaults (s : State) (r : Rec) (slot : Nat) (wr : Bool) : List Exc :=
  let n := particles r.body
  s.operandFaultsAt r slot wr [4] false (rowCorners 3 n 0 0) (fun _ => (upTo n).flatMap fun i => rowCoords 3 0 i) ++
  (match (s.core r.core).handle slot with
   | some h => excIf (h.desc.fmt != .uint32 || h.desc.rank != 2) badField ++ (if wr then strictFaults slot h (.gens []) else [])
   | none => [])
def State.gridFaults (s : State) (r : Rec) (slot : Nat) (wr : Bool) : List Exc :=
  let n := gridWords r.body
  s.operandFaultsAt r slot wr [4] false (lineCorners n 0) (fun _ => lineCoords n 0) ++
  (match (s.core r.core).handle slot with
   | some h => excIf (h.desc.fmt != .uint32 || h.desc.rank != 1) badField ++ (if wr then strictFaults slot h (.gens []) else [])
   | none => [])

/-- The dispatch check of NBIN and NSTRM. -/
def neighbourFaults (stream : Bool) (r : Rec) (s : State) : List Exc :=
  let b := r.body
  let ok := neighbourFieldsOk b stream
  excIf (!ok) badField ++
  (if ok then
     s.tensorFaults r (bodyAt b 16 1) false ++ s.tensorFaults r (bodyAt b 17 1) (!stream) ++
     s.gridFaults r (bodyAt b 18 1) (!stream) ++
     (if stream then
        excIf (boxSmall b) (Exc.of codeBOXSMALL) ++
        s.storeFaults r (ringTable b) (4 * ringCount b) false ++
        (if ringTable b + 4 * ringCount b ≤ Config.sBytes then (s.ringEntries r).flatMap (s.consumerFaults r) else [])
      else [])
   else [])

/-- Keys of the running values beside the consumer rings: the data blocks each received, the stale members, the status of the grid
and the end blocks sent. -/
def auxRingBlocks (e : Nat) : Nat := 136 + e
def auxStale : Nat := 11
def auxStatus : Nat := 12
def auxEnds : Nat := 13

/-- The rings taken at dispatch. -/
def Job.nstrmPrepare (x : Job) : Job :=
  let a := x.readBytes (ownStore x.r.core) (ringTable x.r.body) (4 * ringCount x.r.body)
  { a.2 with r := (upTo (ringCount x.r.body)).foldl (fun r e =>
      match x.s.consumerRing r (leNat ((a.1.drop (4 * e)).take 4)) with
      | some (c, ring) => r.setVal (auxRing e) (32 * c + ring)
      | none => r) a.2.r }

/-! ## Memory of the records -/

/-- A word of the grid. -/
def Job.gridGet (x : Job) (g : Handle) (i : Nat) : Nat × Job :=
  let a := x.read g [[i, 0, 0, 0, 0, 0]]
  (a.1.getD 0 0, a.2)
/-- Words of the grid written. -/
def Job.gridPut (x : Job) (g : Handle) (ws : List (Nat × Nat)) : Job :=
  x.deliver g (ws.map fun w => ([w.1, 0, 0, 0, 0, 0], w.2)) fun _ => none
/-- The three fractions of a particle. -/
def Job.position (x : Job) (h : Handle) (i : Nat) : List Nat × Job := x.read h (rowCoords 3 0 i)

/-- Cell of a particle (R153). -/
def cellOf (b : BitVec 384) (p : List Nat) : Nat :=
  p.getD 0 0 / 2 ^ (32 - axisBits b 0) + p.getD 1 0 / 2 ^ (32 - axisBits b 1) * 2 ^ axisBits b 0 +
  p.getD 2 0 / 2 ^ (32 - axisBits b 2) * 2 ^ (axisBits b 0 + axisBits b 1)

/-! ## NBIN (R155) -/

/-- COUNT and the flags of an NBIN as far as it has come (R341, R364). -/
def Job.binned (x : Job) : Job :=
  let st := x.r.val auxStatus
  let r := (x.r.markIf (st.testBit 0) wOVERFLOW).markIf (st.testBit 1) wBINFULL
  { x with r := { r with count := x.r.val auxOut % 2 ^ 13 + 2 ^ 16 * (x.r.val auxSkip % 2 ^ 32) } }

/-- The end of an NBIN: the header, VALID last. -/
def Job.nbinEnd (x : Job) (g : Handle) : Job :=
  let b := x.r.body
  let x := x.gridPut g [(0, geomWord b), (1, particles b), (4, edgeBits b 0), (5, edgeBits b 1), (6, edgeBits b 2), (7, skinBits b)]
  let x := x.gridPut g [(3, x.r.val auxStatus ||| 4)]
  { x with r := { x.r with ended := true } }

/-- One particle entered into the grid. -/
def Job.nbinParticle (x : Job) (p rf g : Handle) (i : Nat) : Job :=
  let b := x.r.body
  let a := x.position p i
  let x := a.2.deliver rf ((rowCoords 3 0 i).zip a.1) fun _ => none
  let k := cellOf b a.1
  let c := x.gridGet g (cellWord b k)
  let x := c.2
  let novf := x.r.val auxOut
  if c.1 < cellCapacity b then x.gridPut g [(cellWord b k + 2 + c.1, i), (cellWord b k, c.1 + 1)]
  else if novf < 4096 then
    let d := x.gridGet g (cellWord b k + 1)
    let st := d.2.r.val auxStatus ||| 1
    ({ d.2 with r := (d.2.r.setVal auxOut (novf + 1)).setVal auxStatus st } : Job).gridPut g
      [(16 + 2 * novf, i), (17 + 2 * novf, k), (2, novf + 1), (cellWord b k + 1, d.1 + 1), (3, st)]
  else
    let st := x.r.val auxStatus ||| 2
    let lost := x.r.val auxSkip + 1
    ({ x with r := (x.r.setVal auxSkip lost).setVal auxStatus st } : Job).gridPut g [(8, lost), (3, st)]

/-- One step of NBIN: a cell of pass 0 or a particle of pass 1 (R163); words 9 to 15 are cleared with STATUS (R154; log 48). -/
def Job.nbinStep (x : Job) : Job :=
  let b := x.r.body
  match x.r.bind (bodyAt b 16 1), x.r.bind (bodyAt b 17 1), x.r.bind (bodyAt b 18 1) with
  | some p, some rf, some g =>
    let k := x.r.upc.getD 1 0
    if x.r.upc.getD 0 0 = 0 then
      let x := if k = 0 then x.gridPut g ((3, 0) :: (2, 0) :: (upTo 8).map fun i => (8 + i, 0)) else x
      let w := cellWord b k
      let x := x.gridPut g ([(w, 0), (w + 1, 0)] ++ (upTo (cellCapacity b)).map fun i => (w + 2 + i, 0xFFFFFFFF))
      { x with r := { x.r with upc := if k + 1 < 2 ^ cellBits b then [0, k + 1, 0, 0] else [1, 0, 0, 0] } }
    else
      let x := (x.nbinParticle p rf g k).binned
      let x : Job := { x with r := { x.r with upc := [1, k + 1, 0, 0] } }
      if k + 1 < particles b then x else x.nbinEnd g
  | _, _, _ => { x with r := { x.r with ended := true } }

/-! ## NSTRM (R156 to R160) -/

/-- Minimum-image difference along an axis between fractions, and whether it is 0 (R152). -/
def imageDiff (b : BitVec 384) (a : Nat) (p q : List Nat) : Nat × Bool :=
  let k := toSigned 32 (ofSigned 32 ((q.getD a 0 : Int) - (p.getD a 0 : Int)))
  (roundRne32 ((mulNum (.ofInt k) (fp32.value (edgeBits b a))).1.scale (-32)), k == 0)

/-- RoundRNE32(d · d + s), fused. -/
def squareAdd (d s : Nat) : Nat :=
  roundRne32 (addNum .rne (mulNum (fp32.value d) (fp32.value d)).1 (fp32.value s)).1

/-- (dx, dy, dz, dd) and whether the pair is coincident (R152). -/
def imageDist (b : BitVec 384) (p q : List Nat) : Nat × Nat × Nat × Nat × Bool :=
  let x := imageDiff b 0 p q
  let y := imageDiff b 1 p q
  let z := imageDiff b 2 p q
  let d0 := roundRne32 (mulNum (fp32.value x.1) (fp32.value x.1)).1
  (x.1, y.1, z.1, squareAdd z.1 (squareAdd y.1 d0), x.2 && y.2 && z.2)

/-- dd ≤ limit, a finite dd. -/
def withinSquare (dd limit : Nat) : Bool :=
  match fp32.value dd with
  | .fin .. => (match cmpNum (fp32.value dd) (fp32.value limit) with | some .gt => false | some _ => true | none => false)
  | _ => false

/-- c2 and h2 (R152, R156). -/
def cutSquare (b : BitVec 384) : Nat := roundRne32 (mulNum (fp32.value (cutBits b)) (fp32.value (cutBits b))).1
def skinSquare (b : BitVec 384) : Nat :=
  let h := (fp32.value (skinBits b)).scale (-1)
  roundRne32 (mulNum h h).1

/-- m[a]: the exact ceiling (R156). -/
def stencilReach (b : BitVec 384) (a : Nat) : Nat :=
  match reachNum b, fp32.value (edgeBits b a) with
  | .fin _ m e _, .fin _ n f _ =>
    let t := e + (axisBits b a : Int) - f
    if 0 ≤ t then ceilDiv (m * 2 ^ t.toNat) n else ceilDiv m (n * 2 ^ (-t).toNat)
  | _, _ => 0

/-- Coordinates of an axis that a stencil takes. -/
def stencilAxis (b : BitVec 384) (a c : Nat) : List Nat :=
  let n := 2 ^ axisBits b a
  let m := stencilReach b a
  if n ≤ 2 * m + 1 then upTo n else (upTo (2 * m + 1)).map fun o => (c + n + o - m) % n

/-- Cells of a stencil (R156). -/
def stencil (b : BitVec 384) (k : Nat) : List Nat :=
  let c := fun a lo => bitsAt k lo (axisBits b a)
  let sx := axisBits b 0
  let sy := axisBits b 0 + axisBits b 1
  (stencilAxis b 2 (c 2 sy)).flatMap fun z => (stencilAxis b 1 (c 1 sx)).flatMap fun y =>
    (stencilAxis b 0 (c 0 0)).map fun x => x + y * 2 ^ sx + z * 2 ^ sy

/-- Members of a cell: particle, and whether it comes from the overflow list (R156). -/
def Job.members (x : Job) (g : Handle) (k : Nat) : List (Nat × Bool) × Job :=
  let b := x.r.body
  let a := x.gridGet g (cellWord b k)
  let n := Nat.min a.1 (cellCapacity b)
  let sl := a.2.read g (lineCoords n (cellWord b k + 2))
  let o := sl.2.gridGet g 2
  let ov := o.2.read g (lineCoords (2 * Nat.min o.1 4096) 16)
  let pairs := (upTo (Nat.min o.1 4096)).map fun e => (ov.1.getD (2 * e) 0, ov.1.getD (2 * e + 1) 0)
  (sl.1.map (fun i => (i, false)) ++ (pairs.filter fun p => p.2 == k).map fun p => (p.1, true), ov.2)

/-- A 32-byte pair record (R157). -/
def pairBytes (i j dx dy dz dd flags cell : Nat) : List Byte :=
  leBytes 4 i ++ leBytes 4 j ++ leBytes 4 dx ++ leBytes 4 dy ++ leBytes 4 dz ++ leBytes 4 dd ++ leBytes 2 flags ++ leBytes 2 0 ++
  leBytes 4 cell
/-- A padding record. -/
def padRecord : List Byte := pairBytes 0xFFFFFFFF 0xFFFFFFFF 0 0 0 0 0 0
/-- A block of 64 records, filled out. -/
def pairBlock (rs : List (List Byte)) : List Byte := (rs ++ List.replicate (64 - rs.length) padRecord).flatten

/-- Insert by particle j. -/
def insertPair (x : Nat × List Byte) : List (Nat × List Byte) → List (Nat × List Byte)
  | [] => [x]
  | y :: ys => if x.1 < y.1 then x :: y :: ys else y :: insertPair x ys

/-- The records of particle i of cell k, in ascending j. -/
def Job.pairsOf (x : Job) (p g : Handle) (k i : Nat) (io : Bool) : List (List Byte) × Job :=
  let b := x.r.body
  let pi := x.position p i
  let r := (stencil b k).foldl (fun (a : List (Nat × List Byte) × Job) d =>
    let ms := a.2.members g d
    ms.1.foldl (fun a m =>
      if particles b ≤ m.1 then (a.1, { a.2 with r := a.2.r.mark wBINFULL })
      else if m.1 == i || (!(fullList b) && decide (m.1 < i)) then a
      else
        let pj := a.2.position p m.1
        let d := imageDist b pi.1 pj.1
        let flags := d.2.2.2.2.toNat + 2 * io.toNat + 4 * m.2.toNat
        if withinSquare d.2.2.2.1 (cutSquare b) then
          (insertPair (m.1, pairBytes i m.1 d.1 d.2.1 d.2.2.1 d.2.2.2.1 flags k) a.1, pj.2)
        else (a.1, pj.2)) (a.1, ms.2)) ([], pi.2)
  (r.1.map fun y => y.2, r.2)

/-- Records collected over members (cell, place in it, particle, overflow) until 64 stand in `acc`: the records, and the
micro-PC after them, none when the members are done. -/
def collectPairs (p rf g : Handle) :
    List (Nat × Nat × Nat × Bool) → Nat → List (List Byte) → Job → List (List Byte) × Option (List Nat) × Job
  | [], _, acc, x => (acc, none, x)
  | (k, pos, i, io) :: rest, skip, acc, x =>
    let b := x.r.body
    if particles b ≤ i then collectPairs p rf g rest 0 acc { x with r := x.r.mark wBINFULL }
    else
      let x := if skip = 0 then
          let a := x.position p i
          let c := a.2.position rf i
          let d := imageDist b c.1 a.1
          if cmpNum (fp32.value d.2.2.2.1) (fp32.value (skinSquare b)) ≠ some .gt then c.2
          else { c.2 with r := (c.2.r.mark wSTALE).setVal auxStale (c.2.r.val auxStale + 1) }
        else x
      let o := x.pairsOf p g k i io
      let room := 64 - acc.length
      let new := o.1.drop skip
      if room ≤ new.length then (acc ++ new.take room, some [k, pos, skip + room, 0], o.2)
      else collectPairs p rf g rest 0 (acc ++ new) o.2

/-- Members from a micro-PC on. -/
def Job.membersFrom (x : Job) (g : Handle) (upc : List Nat) : List (Nat × Nat × Nat × Bool) × Job :=
  let b := x.r.body
  (upTo (endCell b - firstCell b)).foldl (fun a i =>
    let k := firstCell b + i
    if k < upc.getD 0 0 then a
    else
      let m := a.2.members g k
      let ms := m.1.zipIdx.filter fun y => k != upc.getD 0 0 || decide (upc.getD 1 0 ≤ y.2)
      (a.1 ++ ms.map fun y => (k, y.2, y.1.1, y.1.2), m.2)) ([], x)

/-- A block published in a ring's next slot, when that is free (R158): a release at .die, which carries the writes that the record
acquired at its dispatch (R170, R173). -/
def Job.publish (x : Job) (e : Nat) (bs : List Byte) : Option Job :=
  let v := x.r.val (auxRing e)
  let c := v / 32
  match mapFind (x.s.core c).rings (v % 32) with
  | none => none
  | some ring =>
    match ring.claim true 1 (.record x.r.core x.r.eng x.r.num) with
    | none => none
    | some (r1, idx) =>
      let i := idx.getD 0 0
      let y := ({ x with s := x.s.drainCore x.r.core } : Job).put [(ring.target c i, bs)]
      some { y with s := y.s.setCore c (((y.s.core c).setRing (v % 32) (r1.release true i)).wake) }

/-- What NSTRM compares before it streams (R156). -/
def Job.gridMatches (x : Job) (g : Handle) : Job :=
  let b := x.r.body
  let a := x.read g (lineCoords 8 0)
  let st := a.1.getD 3 0
  let ok := st.testBit 2 && a.1.getD 0 0 == geomWord b && a.1.getD 1 0 == particles b && a.1.getD 4 0 == edgeBits b 0 &&
    a.1.getD 5 0 == edgeBits b 1 && a.1.getD 6 0 == edgeBits b 2 && a.1.getD 7 0 == skinBits b
  let r := ((a.2.r.markIf (st.testBit 0) wOVERFLOW).markIf (st.testBit 1) wBINFULL).markIf (!ok) wGRIDMISMATCH
  { a.2 with r := { r.setVal auxSkip 1 with upc := if ok then [firstCell b, 0, 0, 0] else [endCell b, 0, 0, 0] } }

/-- COUNT of an NSTRM (R365). -/
def Rec.streamCount (r : Rec) : Nat :=
  Nat.min (r.val auxOut) (2 ^ 28 - 1) * 2 ^ 20 + r.val auxLast % 64 * 2 ^ 14 + Nat.min (r.val auxStale) 16383

/-- The consumer ring of the next end block gets it (R158). -/
def Job.endBlock (x : Job) : Option Job :=
  let e := x.r.val auxEnds
  let fin := pairBytes 0xFFFFFFFF 0xFFFFFFFF 0 0 0 0 0x8000 (x.r.val (auxRingBlocks e))
  (x.publish e (pairBlock [fin])).map fun y =>
    { y with r := { y.r.setVal auxEnds (e + 1) with
        upc := [endCell x.r.body, 0, 0, 0], count := y.r.streamCount, ended := decide (ringCount x.r.body ≤ e + 1) } }

/-- One step of NSTRM: a data block, or an end block when none is left (R163), the first after the comparison of the grid; none while
the ring has no free slot. -/
def Job.nstrmStep (x : Job) : Option Job :=
  let b := x.r.body
  match x.r.bind (bodyAt b 16 1), x.r.bind (bodyAt b 17 1), x.r.bind (bodyAt b 18 1) with
  | some p, some rf, some g =>
    let x := if x.r.val auxSkip = 0 then x.gridMatches g else x
    if x.r.upc.getD 0 0 < endCell b then
      let m := x.membersFrom g x.r.upc
      let c := collectPairs p rf g m.1 (x.r.upc.getD 2 0) [] m.2
      let y := c.2.2
      if c.1.isEmpty then y.endBlock
      else
        let blk := y.r.val auxOut
        let e := blk % ringCount b
        (y.publish e (pairBlock c.1)).map fun z =>
          let r := ((z.r.setVal auxOut (blk + 1)).setVal auxLast c.1.length).setVal (auxRingBlocks e) (z.r.val (auxRingBlocks e) + 1)
          { z with r := { r with upc := c.2.1.getD [endCell b, 0, 0, 0], count := r.streamCount } }
    else x.endBlock
  | _, _, _ => some { x with r := { x.r with ended := true } }

end Sys2Proof.Machine
end

