-- ==== Sys2Proof/Machine/Engines.lean ====
section
/-! DEFINITION. Records in their queues: dispatch (R104, R340, 15), REQ (R311), CHAIN and RNOP (R366, R367), the events of an engine
(RECORD_START, ENGINE_ITERATION, RECORD_COMPLETION), patch status and tiles (R313, R334, R335), and SEAL (R134, R293). -/

namespace Sys2Proof.Machine

/-! ## One record's check and entry -/

/-- The handle slots that a body names. -/
def RecOp.slots (op : RecOp) (b : BitVec 384) : List Nat :=
  match op with
  | .mma => [bodyAt b 17 1, bodyAt b 18 1]
  | .ocon => [bodyAt b 17 1, bodyAt b 18 1]
  | .mdrain => [bodyAt b 16 1]
  | .cpy => copySlots b
  | .cfill => [bodyAt b 17 1]
  | .cpys => feedSlots b
  | .gath => [bodyAt b 16 1, bodyAt b 17 1, bodyAt b 18 1]
  | .scat => [bodyAt b 16 1, bodyAt b 17 1, bodyAt b 18 1]
  | .merg => [bodyAt b 16 1, bodyAt b 17 1]
  | .topk => topkSlots b
  | .cmpt => [bodyAt b 16 1, bodyAt b 17 1, bodyAt b 18 1]
  | .nbin => [bodyAt b 16 1, bodyAt b 17 1, bodyAt b 18 1]
  | .nstrm => [bodyAt b 16 1, bodyAt b 17 1, bodyAt b 18 1]
  | _ => []

/-- The phase of a barrier of a core. -/
def State.phaseOf (s : State) (c obj : Nat) : BitVec 32 :=
  if obj = 16 then (match s.taskOf c with | some t => t.bg.phase | none => 0)
  else match mapFind (s.core c).barriers obj with | some b => b.phase | none => 0

/-- A record as it would enter the queue of core `c`, its specs naming objects of core `obj`. -/
def State.newRec (s : State) (c obj : Nat) (op : RecOp) (hdr : RecHdr) (body : BitVec 384) (num : Nat) (member : Bool) : Rec :=
  { num := num, eng := op.queue hdr.qsel, op := op, hdr := hdr, body := body, binds := (s.core c).bindsOf (op.slots body),
    core := c, objCore := obj, member := member, phase := if hdr.wait.kind = 3 then s.phaseOf obj hdr.wait.obj else 0,
    started := false, ended := false,
    upc := (match op with | .cpy => coord0 | .cfill => coord0 | .cpys => coord0 | _ => [0, 0, 0, 0]), held := [], count := 0,
    flags := 0, wrote := [], aux := [], mcheck := none, hunbound := false }

/-- Every fault of a record at dispatch but a CHAIN's list (R340). -/
def State.recFaults (s : State) (r : Rec) : List Exc :=
  s.specFaults r.hdr r.objCore ++ captureFaults r.op r.hdr ++
  (match r.op with
   | .mma => mmaFaults false r s
   | .ocon => mmaFaults true r s
   | .mdrain => mdrainFaults r s
   | .mclr => mclrFaults r s
   | .cpy => cpyFaults r s
   | .cpys => cpysFaults r s
   | .cfill => cfillFaults r s
   | .gath => gathFaults false r s
   | .scat => gathFaults true r s
   | .merg => mergFaults r s
   | .topk => topkFaults r s
   | .cmpt => cmptFaults r s
   | .nbin => neighbourFaults false r s
   | .nstrm => neighbourFaults true r s
   | .chain => []
   | .rnop => excIf (!(bodyZero r.body 20 44)) badField)

/-- What a record reads at its dispatch. -/
def Job.prepare (x : Job) : Job :=
  match x.r.op with
  | .cpy => x.cpyPrepare
  | .mdrain => x.mdrainPrepare
  | .merg => x.mergPrepare
  | .nstrm => x.nstrmPrepare
  | _ => x

/-- What a dispatch does to kinds and tags of patches, in timeline order (R146, R343). -/
def Core.dispatchTags (q : Core) (r : Rec) : Core :=
  match r.op with
  | .mclr => q.clearTags r
  | .mma => q.narrowTags r
  | .ocon => q.narrowTags r
  | _ => q

/-- A record that passed its check enters its queue, and the queue of its die's neighbour engine, towards which the core's writes are
released (R103, R104, R162). -/
def State.enterQueue (s : State) (r : Rec) : State :=
  let x := (Job.mk (if r.eng = 4 then s.drainCore r.core else s) r).prepare
  let r := x.r
  let q := x.s.core r.core
  let e := q.engine r.eng
  let s := x.s.setCore r.core ((q.setEngine r.eng { e with queue := e.queue ++ [r], last := Nat.max e.last r.num }).dispatchTags r)
  if r.eng = 4 then
    let d := dieOf r.core
    s.setDie d { s.die d with neQueue := (s.die d).neQueue ++ [(r.core, r.num)] }
  else s

/-- Records of a die's queue that hold a place. -/
def State.neLength (s : State) (d : Nat) : Nat :=
  ((s.die d).neQueue.filter fun p => ((s.core p.1).engine 4).queue.any fun r => r.num == p.2 && !r.member).length

/-- An engine queue has no place (R103). -/
def State.queueFull (s : State) (c e : Nat) : Bool :=
  decide (queuePlaces e ≤ ((s.core c).engine e).places) || (e == 4 && decide (64 ≤ s.neLength (dieOf c)))

/-! ## CHAIN (R366) -/

/-- The op, header and body of a decoded N record. -/
def recordParts : Instr → Option (RecOp × RecHdr × BitVec 384)
  | .mma h b => some (.mma, h, b)
  | .ocon h b => some (.ocon, h, b)
  | .mdrain h b => some (.mdrain, h, b)
  | .mclr h b => some (.mclr, h, b)
  | .cpy h b => some (.cpy, h, b)
  | .cpys h b => some (.cpys, h, b)
  | .cfill h b => some (.cfill, h, b)
  | .gath h b => some (.gath, h, b)
  | .scat h b => some (.scat, h, b)
  | .merg h b => some (.merg, h, b)
  | .topk h b => some (.topk, h, b)
  | .cmpt h b => some (.cmpt, h, b)
  | .nbin h b => some (.nbin, h, b)
  | .nstrm h b => some (.nstrm, h, b)
  | .chain h b => some (.chain, h, b)
  | .rnop h b => some (.rnop, h, b)
  | _ => none

/-- No capture entry. -/
def hdrNoCapture (h : RecHdr) : Bool := h.capt0.isNone && h.capt1.isNone && h.capt2.isNone && h.capt3.isNone

/-- LIST and MAX. -/
def chainList (b : BitVec 384) : Nat := bodyAt b 16 4
def chainMax (b : BitVec 384) : Nat := bodyAt b 20 2

/-- Words of the list's records in S, the one at `i` on, `n` at most, up to the first with END. -/
def State.chainWords (s : State) (c off : Nat) : Nat → Option (List Nat)
  | 0 => none
  | n + 1 =>
    if Config.sBytes < off + 64 then none
    else
      let w := leNat (s.readAt (.store c 2 off) 64)
      if w.testBit 16 then some [w] else (s.chainWords c (off + 64) n).map fun l => w :: l

/-- A listed record, or why it is refused: its encoding, then its guard, capture, engine and op. -/
def chainRecord (eng : Nat) (last : Bool) (w : Nat) : Except Exc (RecOp × RecHdr × BitVec 384) :=
  if w % 4 ≠ 3 then .error badField
  else match decodeN last.toNat w with
    | .error sub => .error (Exc.illop sub)
    | .ok i =>
      match recordParts i with
      | none => .error badField
      | some p =>
        if p.2.1.guard ≠ ⟨0, false⟩ || !(hdrNoCapture p.2.1) || p.1.queue p.2.1.qsel != eng || p.1 == .chain then .error badField
        else .ok p

/-- The listed records checked in turn, each under the tags that those before it leave (R340, R343). -/
def chainCheck (c obj eng : Nat) : List Nat → Nat → State → List Exc × List (RecOp × RecHdr × BitVec 384)
  | [], _, _ => ([], [])
  | w :: ws, num, s =>
    match chainRecord eng ws.isEmpty w with
    | .error e => let r := chainCheck c obj eng ws (num + 1) s; (e :: r.1, r.2)
    | .ok p =>
      let r := s.newRec c obj p.1 p.2.1 p.2.2 num true
      let rest := chainCheck c obj eng ws (num + 1) (s.setCore c ((s.core c).dispatchTags r))
      (s.recFaults r ++ rest.1, p :: rest.2)

/-- A CHAIN enters its queue with its list, or the fault. -/
def State.enterChain (s : State) (c obj : Nat) (hdr : RecHdr) (body : BitVec 384) : Except Exc State :=
  let eng := RecOp.chain.queue hdr.qsel
  let off := chainList body
  let max := chainMax body
  let fields := decide (off % 64 = 0) && decide (1 ≤ max) && decide (max ≤ 256) && bodyZero body 22 42
  let last := ((s.core c).engine eng).last
  let words := if fields then (s.seenBy c).chainWords c off max else none
  let n := (words.getD []).length
  let r := (s.newRec c obj .chain hdr body (last + n + 1) false).setVal auxChain n
  let q := s.core c
  let e := q.engine eng
  let sealed := s.setCore c (q.setEngine eng { e with queue := e.queue ++ [r] })
  let list := chainCheck c obj eng (words.getD []) (last + 1) sealed
  let short := fields && words.isNone && decide (Config.sBytes < off + 64 * max)
  match pickExc (s.specFaults hdr obj ++ captureFaults .chain hdr ++ excIf (!fields || (words.isNone && !short)) badField ++
      excIf short (beyondStore off Config.sBytes) ++ (if words.isSome then s.storeFaults r off (64 * n) false else []) ++ list.1) with
  | some x => .error x
  | none =>
    let s := (list.2.zipIdx).foldl (fun s p =>
      s.enterQueue (s.newRec c obj p.1.1 p.1.2.1 p.1.2.2 (last + 1 + p.2) true)) s
    .ok (s.enterQueue r)

/-- A record checked whole and entered into its queue, or the fault that the check raises first (R104, R340). -/
def State.place (s : State) (c obj : Nat) (op : RecOp) (hdr : RecHdr) (body : BitVec 384) : Except Exc State :=
  match op with
  | .chain => s.enterChain c obj hdr body
  | _ =>
    let e := op.queue hdr.qsel
    let r := s.newRec c obj op hdr body (((s.core c).engine e).last + 1) false
    match pickExc (s.recFaults r) with
    | some x => .error x
    | none => .ok (s.enterQueue r)

/-! ## Dispatch by a strand (R104, R207) and REQ (R311) -/

/-- Registers that a capture spec names. -/
def hdrCaptures (h : RecHdr) : List Nat := (upTo 4).filterMap (captureEntry h)

/-- An N record issued by the executing strand. -/
def dispatchRecord (op : RecOp) (h : RecHdr) (body : BitVec 384) (s : State) : Outcome :=
  let c := s.cur.1
  let e := op.queue h.qsel
  let u := Uses.scalar (hdrCaptures h) []
  if (s.rP h.guard.g != h.guard.n) = false then .next (s.setPc (s.me.pc + 64))
  else if s.me.loadPending u then .next (s.setMe { s.me with hold := some u.hold })
  else if s.queueFull c e then .next (s.setMe { s.me with hold := some (.engineQueue c e) })
  else
    match s.place c c op h (captured h s.rS body) with
    | .error x =>
      .next (s.raise (Exc.atDispatch (if x.priority ≤ 16 then x else (s.registerCheck u).getD x) e) 64)
    | .ok t =>
      match s.registerCheck u with
      | some m => .next (s.raise (Exc.atDispatch m e) 64)
      | none => .next (t.setPc (s.me.pc + 64))

/-- A record as REQ finds it in S: its op, header and body, or the subcode of ILLOP. -/
def requestRecord (queue : Nat) (w : Nat) : Except Nat (RecOp × RecHdr × BitVec 384) :=
  if w % 4 ≠ 3 || bitsAt w 2 5 ≠ 0 || w.testBit 16 then .error 9
  else match decodeN 0 w with
    | .error sub => .error sub
    | .ok i =>
      match recordParts i with
      | none => .error 9
      | some p => if p.1.queue p.2.1.qsel = queue then .ok p else .error 9

/-- A core is within a clock: strands that it picked have still to issue. -/
def State.clockOpen (s : State) (c : Nat) : Bool := match (s.core c).picks with | some (_ :: _) => true | _ => false

/-- REQ: checked at the target, when the dispatches of the target's clock are numbered (R104, R311). -/
def requestPlace (a b : Nat) (s : State) : Eff :=
  let c := s.cur.1
  let v := (s.rS a).toNat
  let off := (s.rS b).toNat
  let queue := bitsAt v 16 3
  let src := WriteTarget.store c 2 off
  match s.myTask with
  | none => .trap s (Exc.of codePERM 5)
  | some t =>
    let tgt := match s.coreOfRank t (bitsAt v 0 16) with | some x => if dieOf x = dieOf c then some x else none | none => none
    let fields := decide (v / 2 ^ 25 = 0) && decide (bitsAt v 19 5 = 0) && decide (queue ≤ 4)
    let inside := decide (off + 64 ≤ Config.sBytes)
    let word := leNat ((s.seenBy c).readAt src 64)
    let names := if inside && decide (off % 64 = 0) && fields then
        excIf (word % 4 != 3 || bitsAt word 2 5 != 0 || word.testBit 16 ||
          (match recordOf (bitsAt word 8 4) (bitsAt word 12 4), requestRecord queue word with
           | some _, .error 9 => true
           | _, _ => false)) (Exc.illop 9)
      else []
    match pickExc (excIf (!fields) (Exc.illop 9) ++ excIf s.inPure (Exc.of codePURITY) ++ excIf tgt.isNone (Exc.of codePERM 5) ++
        excIf (!inside) (beyondStore off Config.sBytes) ++ excIf (off % 64 != 0) (Exc.of codeALIGN 0 (BitVec.ofNat 64 off)) ++
        (match s.ringRace (.strand c s.cur.2) src with | some (x, i) => [raceExc x i] | none => []) ++ names), tgt with
    | some e, _ => .trap s e
    | none, none => .trap s (Exc.of codePERM 5)
    | none, some d =>
      if s.clockOpen d then .hold s (.request d)
      else if s.queueFull d queue then .hold s (.engineQueue d queue)
      else
        let s := (s.drainCore c).reportUnits (s.poisonAt src 64) 1 (s.taskIdOf c)
        match requestRecord queue word with
        | .error sub => .trap s (Exc.atDispatch (Exc.illop sub) queue)
        | .ok p =>
          let u := Uses.scalar (hdrCaptures p.2.1) []
          if s.me.loadPending u then .hold s u.hold
          else match s.place d (if v.testBit 24 then c else d) p.1 p.2.1 (captured p.2.1 s.rS p.2.2) with
            | .error x => .trap s (Exc.atDispatch x queue)
            | .ok t =>
              match s.registerCheck u with
              | some m => .trap s (Exc.atDispatch m queue)
              | none => .done (t.setCore d (t.core d).wake)

/-! ## The events of an engine (R102, R105, R219, R243) -/

/-- Engines of a core run while its task does; those of a LOOP task to its next iteration end, those of a PURE task while its outputs are captured (R88, R209, R219, R225). -/
def State.enginesRun (s : State) (c : Nat) : Bool :=
  match s.taskOf c with
  | none => false
  | some t =>
    t.aborted.isNone && !(s.core c).clearing &&
    (match t.phase with | .running => true | .capture => true | .stopping => t.loop | _ => false)

/-- A dispatched record replaced in its queue. -/
def State.putRec (s : State) (r : Rec) : State :=
  let q := s.core r.core
  let e := q.engine r.eng
  s.setCore r.core (q.setEngine r.eng { e with queue := e.queue.map fun x => if x.num = r.num then r else x })

/-- The record that may start next: the first not started, when those before it have ended; a CHAIN starts before its list. -/
def Engine.candidate (x : Engine) : Option Rec :=
  match x.queue.find? fun r => !r.started with
  | none => none
  | some r =>
    if x.queue.any fun y => decide (y.num < r.num) && !y.ended then none
    else if r.member then
      match x.queue.find? fun y => y.op == .chain && decide (r.num < y.num) with
      | some y => if y.started then some r else some y
      | none => some r
    else some r

/-- A strand's VZLD, VZST or ZSTAT holds an ME record back (R313, R335). -/
def Core.patchBlocked (q : Core) (r : Rec) : Bool :=
  r.eng == 0 && q.strands.any fun t => match t.waiting with
    | some (z, n) => decide (n < r.num) && r.patches.contains z
    | none => false

/-- The neighbour engine of a die serves the record next (R103, R161). -/
def State.neServes (s : State) (r : Rec) : Bool :=
  r.eng != 4 ||
  (match (s.die (dieOf r.core)).neQueue.head? with
   | some (c, n) => c == r.core && (decide (n = r.num) || (r.op == .chain && decide (n ≤ r.num) && decide (r.num ≤ n + r.val auxChain)))
   | none => false)

/-- The wait spec of a record met (R121, R243): the state and the record with the slots it claims. -/
def State.meetWait (s : State) (r : Rec) : Option (State × Rec) :=
  let w := r.hdr.wait
  match w.kind with
  | 0 => some (s, r)
  | 3 =>
    let broken := w.obj == 16 && (match s.taskOf r.objCore with | some t => t.broken | none => false)
    let d := (s.phaseOf r.objCore w.obj - r.phase).toNat
    if broken || (decide (w.count ≤ d) && decide (d < 2 ^ 31)) then some (s, r) else none
  | k =>
    match mapFind (s.core r.objCore).rings w.obj with
    | none => none
    | some x =>
      match x.claim (k == 1) w.count (.record r.core r.eng r.num) with
      | none => none
      | some (y, idx) => some (s.setCore r.objCore ((s.core r.objCore).setRing w.obj y), { r with held := idx })

/-- The record that starts next and the state in which it has, its claims granted. -/
def State.startNow (s : State) (c e : Nat) : Option State :=
  if !(s.enginesRun c) then none
  else match ((s.core c).engine e).candidate with
    | none => none
    | some r =>
      if (s.core c).patchBlocked r || !(s.neServes r) then none
      else (s.meetWait r).map fun p => p.1.putRec { p.2 with started := true }

/-- The ring that a record claims by its wait spec: its core and number, and whether to fill. -/
def Rec.claims (r : Rec) : Option (Nat × Nat × Bool) :=
  if r.hdr.wait.kind = 1 ∨ r.hdr.wait.kind = 2 then some (r.objCore, r.hdr.wait.obj, r.hdr.wait.kind == 1) else none

/-- Before engine `e` of core `c` may claim a ring in a clock, the strands of the ring's core have claimed, and so have the engines
of core `c` before it (R121). -/
def State.claimTurn (s : State) (c e : Nat) (ring : Nat × Nat × Bool) : Bool :=
  !(s.clockOpen ring.1) &&
  (upTo e).all fun d => match ((s.core c).engine d).candidate with
    | some r => r.claims != some ring || (s.startNow c d).isNone
    | none => true

/-- The record that starts next and the state in which it has, if it may start. -/
def State.startable (s : State) (c e : Nat) : Option State :=
  match (((s.core c).engine e).candidate).bind Rec.claims with
  | none => s.startNow c e
  | some ring => if s.claimTurn c e ring then s.startNow c e else none

/-- RECORD_START of engine `e` of core `c`. -/
def startRecord (c e : Nat) (s : State) : State := (s.startable c e).getD s

/-- A CPYS whose chunks can no longer be taken: the strands are done and the ME queue is empty (R349). -/
def Core.streamsClosed (q : Core) : Bool := q.strands.all (fun t => t.tdone) && (q.engine 0).queue.isEmpty

/-- One step of a running record, none while it is held. -/
def Job.iterate (x : Job) : Option Job :=
  let fin : Job := { x with r := { x.r with ended := true } }
  match x.r.op with
  | .mma => x.mmaStep
  | .ocon => x.mmaStep
  | .mdrain => some x.mdrainStep
  | .mclr => some x.mclrStep
  | .cpy => some x.cpyStep
  | .cfill => some x.cfillStep
  | .cpys =>
    (match x.cpysStep with
     | some y => some y
     | none => if (x.s.core x.r.core).streamsClosed then some { fin with r := fin.r.mark wCHUNKMIX } else none)
  | .gath => some (x.gathStep false)
  | .scat => some (x.gathStep true)
  | .merg => some x.mergStep
  | .topk => some x.topkStep
  | .cmpt => some x.cmptStep
  | .nbin => some x.nbinStep
  | .nstrm => x.nstrmStep
  | .chain =>
    if ((x.s.core x.r.core).engine x.r.eng).queue.any fun y => decide (y.num < x.r.num) then none
    else some { fin with r := { fin.r with count := x.r.val auxChain } }
  | .rnop => some fin

/-- The state after a step of engine `e` of core `c`, if its record can take one: the neighbour engine serves the head of its die's
queue (R161, R163), and a record claims a ring in its turn (R121). -/
def State.iterable (s : State) (c e : Nat) : Option State :=
  if !(s.enginesRun c) then none
  else match ((s.core c).engine e).running with
    | none => none
    | some r =>
      if !(s.neServes r) || !(r.consumers.all fun x => s.claimTurn c e (x.1, x.2, true)) then none
      else ((Job.mk s r).iterate).map fun y => y.s.putRec y.r

/-- ENGINE_ITERATION of engine `e` of core `c`. -/
def iterateEngine (c e : Nat) (s : State) : State := (s.iterable c e).getD s

/-- Chunks of a CPYS that no record has taken. -/
def Core.unconsumed (q : Core) (r : Rec) : Bool := q.streams.any fun p => p.2.any fun k => k.chan == r.eng && k.num == r.num

/-- The record that completes next: its nest has ended, and a CPYS has no chunk left, or its streams are closed (R220, R349). -/
def Core.completing (q : Core) (e : Nat) : Option Rec :=
  (q.engine e).queue.find? fun r => r.ended && (r.op != .cpys || !(q.unconsumed r) || q.streamsClosed)

/-- Discard the chunks of a CPYS. -/
def Core.dropChunks (q : Core) (r : Rec) : Core :=
  { q with streams := q.streams.map fun p => (p.1, p.2.filter fun k => !(k.chan == r.eng && k.num == r.num)) }

/-- The post spec of a record at its completion (R243); one beyond .core carries the writes that the record acquired at its dispatch
(R170, R173). -/
def State.postRecord (s : State) (r : Rec) : State :=
  let p := r.hdr.post
  let s := if p.kind = 0 ∨ p.kind = 3 ∧ r.objCore = r.core then s else s.drainCore r.core
  let q := s.core r.objCore
  match p.kind with
  | 0 => s
  | 3 =>
    (match mapFind q.barriers p.obj with
     | none => s
     | some b =>
       let n := if r.op = .rnop then bodyAt r.body 16 4 else r.bytesWritten
       s.setCore r.objCore { q with barriers := mapPut q.barriers p.obj { b with bytes := b.bytes + n } })
  | k =>
    match mapFind q.rings p.obj with
    | none => s
    | some x => s.setCore r.objCore (q.setRing p.obj (r.held.foldl (fun x i => x.release (k == 1) i) x))

/-- The completion word (R341). -/
def Rec.word (r : Rec) : Word := BitVec.ofNat 64 (r.flags.toNat * 2 ^ 48 + r.count % 2 ^ 48)

/-- The words of the 64 most recent completions, the latest last (R106). -/
def keepWords (m : Map Word) (num : Nat) (w : Word) : Map Word := m.drop (m.length - 63) ++ [(num, w)]

/-- A completed record leaves its queue: its word, the timeline, its pending MCHECK (R106, R212). -/
def Engine.retire (x : Engine) (r : Rec) : Engine :=
  let queue := x.queue.filter fun y => y.num != r.num
  { x with queue := queue, words := keepWords x.words r.num r.word,
           tl := (match queue with | [] => x.last | y :: ys => ys.foldl (fun a z => Nat.min a (z.num - 1)) (y.num - 1)),
           pend := match r.mcheck with | some sub => mapPut x.pend r.num sub | none => x.pend }

/-- The clock of a drain's completion, for ZSTAT (R313). -/
def Core.stampPatches (q : Core) (r : Rec) : Core :=
  r.patches.foldl (fun q z =>
    q.setPatch z { q.patch z with drained := if r.op = .mdrain then some q.clk else none }) q

/-- A record completes (R105, R106, R173): its post, its word, and the event latches. -/
def State.completeRec (s : State) (r0 : Rec) : State :=
  let c := r0.core
  let q := s.core c
  let left := r0.op == .cpys && q.unconsumed r0
  let r := (r0.markIf left wCHUNKMIX).markIf r0.mcheck.isSome wMCHK
  let q := if left then q.dropChunks r else q
  let s := (s.setCore c (if r.eng = 0 then q.stampPatches r else q)).postRecord r
  let q := s.core c
  let s := s.setCore c ((q.setEngine r.eng ((q.engine r.eng).retire r)).wake)
  let s := if r.objCore = c then s else s.setCore r.objCore (s.core r.objCore).wake
  let s := { s with sdWait := s.sdWait.filter fun w => w != (c, r.eng, r.num) }
  if r.eng = 4 then
    let d := dieOf c
    s.setDie d { s.die d with neQueue := (s.die d).neQueue.filter fun p => p != (c, r.num) }
  else s

/-- The state after the next completion of engine `e` of core `c`, if one is due. -/
def State.completable (s : State) (c e : Nat) : Option State :=
  if !(s.enginesRun c) then none else ((s.core c).completing e).map s.completeRec

/-- RECORD_COMPLETION of engine `e` of core `c`. -/
def completeRecord (c e : Nat) (s : State) : State := (s.completable c e).getD s

/-! ## Patch status and tiles (R313, R334, R335) -/

/-- Wait for the ME records dispatched before that name patch `z`; `drain` adds the clocks after an MDRAIN. -/
def awaitPatch (z : Nat) (drain : Bool) (s : State) (act : State → Eff) : Eff :=
  let q := s.here
  let n := match s.me.waiting with | some (y, n) => if y = z then n else (q.engine 0).last | none => (q.engine 0).last
  let busy := (q.engine 0).queue.any fun r => decide (r.num ≤ n) && r.patches.contains z
  let early := drain && (match (q.patch z).drained with | some k => decide (q.clk < k + Config.drainDelay) | none => false)
  if busy || early then .hold (s.setMe { s.me with waiting := some (z, n) }) (.patch n drain z)
  else act (s.setMe { s.me with waiting := none })

/-- ZSTAT. -/
def patchStatus (pt pf z k : Nat) (s : State) : Eff :=
  awaitPatch z true s fun s => .done (s.wPair pt pf (decide ((s.here.patch z).status.toNat &&& k ≠ 0)))

/-- Types of VZLD and VZST. -/
def isWord32 (ty : Ty) : Bool := match ty with | .f32 => true | .i32 => true | .uint32 => true | _ => false

/-- The origin of a tile: row and column, or the fault (R334). -/
def tileOrigin (h : Shape) (v : Nat) : Except Exc (Nat × Nat) :=
  let row := bitsAt v 0 7
  let col := bitsAt v 16 7
  if v / 2 ^ 23 ≠ 0 || bitsAt v 7 9 ≠ 0 || 95 < row then .error (Exc.illop 9)
  else if 128 < col + h.cols then .error (Exc.of codeBOUNDS 0 (boundsArg 0 (Nat.max col 128)))
  else if 96 < row + h.rows then .error (Exc.of codeBOUNDS 0 (boundsArg 1 (Nat.max row 96)))
  else .ok (row, col)

/-- VZLD: raw words; an uncorrectable word is a machine check (R216, R334). -/
def patchLoad (d z b : Nat) (s : State) : Eff :=
  vectorOp isWord32 [] [d] s fun h s =>
    match tileOrigin h (s.rS b).toNat with
    | .error e => .trap s e
    | .ok (row, col) =>
      awaitPatch z false s fun s =>
        let c := s.cur.1
        let bad := if s.poison.isEmpty then [] else (upTo h.rows).flatMap fun i =>
          (s.zPoison c z (row + i) (col + h.cols)).filter fun u =>
            match u with | .patch _ _ w => decide (col ≤ 2 * (w - 64 * (row + i)) + 1) | _ => false
        match bad with
        | u :: _ => .trap s (Exc.of codeMCHECK 4 (BitVec.ofNat 64 (unitLocation u)))
        | [] =>
          .done (s.putEls d 32 ((upTo h.rows).flatMap fun i => ((rowCells (s.here.zRow z (row + i))).drop col).take h.cols))

/-- A tile written into a patch: words covered whole lose their poison, the tag goes to no generators. -/
def State.putTile (s : State) (z row col : Nat) (h : Shape) (els : List Nat) : State :=
  let c := s.cur.1
  let q := s.here
  let q := (upTo h.rows).foldl (fun (q : Core) i =>
    let cells := rowCells (q.zRow z (row + i))
    q.setZRow z (row + i) (cells.take col ++ (els.drop (i * h.cols)).take h.cols ++ cells.drop (col + h.cols))) q
  let s := s.setHere (q.setPatch z { q.patch z with tag := .gens [], written := true })
  if s.poison.isEmpty then s
  else { s with poison := s.poison.filter fun u => match u with
    | .patch c' z' w =>
      !(c == c' && z == z' && (upTo h.rows).any fun i =>
        decide (64 * (row + i) ≤ w) && decide (col ≤ 2 * (w - 64 * (row + i))) && decide (2 * (w - 64 * (row + i)) + 1 < col + h.cols))
    | _ => true }

/-- VZST. -/
def patchStore (z a b : Nat) (s : State) : Eff :=
  vectorOp isWord32 [a] [] s fun h s =>
    match tileOrigin h (s.rS b).toNat with
    | .error e => .trap s e
    | .ok (row, col) => awaitPatch z false s fun s => .done (s.putTile z row col h (s.els h a))

/-! ## SEAL (R134, R293) -/

/-- Elements that a record's nest writes, through which slot. -/
def Rec.writes (r : Rec) : List (Nat × List (List Nat)) :=
  let b := r.body
  match r.op with
  | .cpy => [(bodyAt b 17 1, copyCoords b true nestOf)]
  | .cfill => [(bodyAt b 17 1, copyCoords b true nestOf)]
  | .mdrain => [(bodyAt b 16 1, drainCoords b nestOf)]
  | .gath => [(bodyAt b 18 1, (upTo (gathRows b)).flatMap fun i => rowCoords (gathWidth b) (bodyWord b 3) (bodyWord b 1 + i))]
  | .scat =>
    let rows := match r.bind (bodyAt b 16 1) with | some h => (r.extents h).getD 1 1 | none => 0
    [(bodyAt b 16 1, (upTo rows).flatMap fun i => rowCoords (gathWidth b) (bodyWord b 2) i)]
  | .merg =>
    let tab := (upTo (mergInputs b)).map fun i => (r.val (auxStart i), r.val (auxCount i))
    [(bodyAt b 17 1, (upTo (mergTotal b tab)).flatMap fun i => rowCoords (mergBytes b) 0 (bodyWord b 0 + i))]
  | .topk =>
    (if topkValues b then [(bodyAt b 17 1, lineCoords (topkK b) (bodyWord b 1))] else []) ++
    (if topkIndices b then [(bodyAt b 18 1, lineCoords (topkK b) (bodyWord b 1))] else [])
  | .cmpt => [(bodyAt b 18 1, (upTo (cmptRows b)).flatMap fun i => rowCoords (cmptWidth b) 0 (bodyWord b 2 + i))]
  | .nbin =>
    [(bodyAt b 17 1, (upTo (particles b)).flatMap fun i => rowCoords 3 0 i), (bodyAt b 18 1, lineCoords (gridWords b) 0)]
  | _ => []

/-- Bytes that a record writes without a handle: in S by offset, and the slots of consumer rings. -/
def State.writesOwn (s : State) (r : Rec) : List (WriteTarget × Nat) :=
  match r.op with
  | .nstrm => r.consumers.filterMap fun x =>
      (mapFind (s.core x.1).rings x.2).map fun g => (g.target x.1 0, g.count * g.size)
  | .cpy => (match copyRes r.body with | some off => [(.store r.core 2 (off + 4), 28)] | none => [])
  | .merg => [(.store r.core 2 (mergTab r.body + 128), 4 * mergInputs r.body)]
  | _ => []

/-- The write footprint that the dispatch check of a record evaluated (R134). -/
def State.writeFoot (s : State) (r : Rec) : List (WriteTarget × Nat) :=
  s.writesOwn r ++ r.writes.flatMap fun p =>
    match r.bind p.1 with
    | none => []
    | some h =>
      let at1 := fun (h : Handle) x =>
        match h.place (if r.held.isEmpty then x else r.through h x) with
        | .at offs _ _ true => offs.map fun o => (s.locate h o, 1)
        | _ => []
      p.2.flatMap (at1 h) ++
      (match r.op, r.scaleOf h with
       | .cfill, _ => []
       | _, some kh => (p.2.flatMap (scaleCoords h.desc.fmt)).eraseDups.flatMap (at1 kh)
       | _, none => [])

/-- The ranges of locations that a bound handle covers. -/
def State.handleRanges (s : State) (h : Handle) : List (WriteTarget × Nat) :=
  let f := h.desc.footprint h.lo h.ext
  if h.desc.space = 4 then h.runs.map fun r => (.hbm r.pa (s.keySlot r.key).gen, r.len)
  else [(s.locate h f.1, f.2)]

/-- Some dispatched, uncompleted record of the task writes within the ranges. -/
def State.writtenByRecord (s : State) (task : Option Nat) (rs : List (WriteTarget × Nat)) : Bool :=
  s.coreTab.any fun p => p.2.task == task && p.2.engines.any fun e => e.2.queue.any fun r =>
    (s.writeFoot r).any fun w => rs.any fun x => overlaps w.1 w.2 x.1 x.2

/-- SEAL. -/
def sealSlot (h : Nat) (s : State) : Eff :=
  match s.here.handle h with
  | none => .trap s (Exc.atSlot h codeHFAULT)
  | some x =>
    if x.sealed then .done s
    else if s.writtenByRecord s.here.task (s.handleRanges x) then .trap s (Exc.atSlot h codeRACE)
    else .done (s.setHere { s.here with handles := mapPut s.here.handles h { x with sealed := true } })

/-- REQ (R311). -/
def execReq (g : Guard) (a : Nat) (b : Nat) (s : State) : Outcome :=
  runStrand 8 g (Uses.scalar [a, b] []) s fun s => requestPlace a b s

/-- ZSTAT (R313). -/
def execZstat (g : Guard) (pt : Nat) (pf : Nat) (z : Nat) (k : Nat) (s : State) : Outcome :=
  runStrand 8 g (Uses.none) s fun s => patchStatus pt pf z k s

/-- VZLD (R334, R335). -/
def execVzld (g : Guard) (d : Nat) (z : Nat) (b : Nat) (s : State) : Outcome :=
  runStrand 8 g (⟨[b], [], [], [d]⟩) s fun s => patchLoad d z b s

/-- VZST (R334, R335). -/
def execVzst (g : Guard) (z : Nat) (a : Nat) (b : Nat) (s : State) : Outcome :=
  runStrand 8 g (⟨[b], [], [a], []⟩) s fun s => patchStore z a b s

/-- SEAL (R134, R293). -/
def execSeal (g : Guard) (h : Nat) (s : State) : Outcome :=
  runStrand 8 g (Uses.none) s fun s => sealSlot h s
/-- MMA (R343 to R347): its dispatch (R104, R340). -/
def execMma (h : RecHdr) (body : BitVec 384) (s : State) : Outcome := dispatchRecord .mma h body s

/-- OCON (R344, R348): its dispatch (R104, R340). -/
def execOcon (h : RecHdr) (body : BitVec 384) (s : State) : Outcome := dispatchRecord .ocon h body s

/-- MDRAIN (R350, R351): its dispatch (R104, R340). -/
def execMdrain (h : RecHdr) (body : BitVec 384) (s : State) : Outcome := dispatchRecord .mdrain h body s

/-- MCLR (R352): its dispatch (R104, R340). -/
def execMclr (h : RecHdr) (body : BitVec 384) (s : State) : Outcome := dispatchRecord .mclr h body s

/-- CPY (R353 to R356): its dispatch (R104, R340). -/
def execCpy (h : RecHdr) (body : BitVec 384) (s : State) : Outcome := dispatchRecord .cpy h body s

/-- CPYS (R358, R359): its dispatch (R104, R340). -/
def execCpys (h : RecHdr) (body : BitVec 384) (s : State) : Outcome := dispatchRecord .cpys h body s

/-- CFILL (R357): its dispatch (R104, R340). -/
def execCfill (h : RecHdr) (body : BitVec 384) (s : State) : Outcome := dispatchRecord .cfill h body s

/-- GATH (R360): its dispatch (R104, R340). -/
def execGath (h : RecHdr) (body : BitVec 384) (s : State) : Outcome := dispatchRecord .gath h body s

/-- SCAT (R360): its dispatch (R104, R340). -/
def execScat (h : RecHdr) (body : BitVec 384) (s : State) : Outcome := dispatchRecord .scat h body s

/-- MERG (R361): its dispatch (R104, R340). -/
def execMerg (h : RecHdr) (body : BitVec 384) (s : State) : Outcome := dispatchRecord .merg h body s

/-- TOPK (R362): its dispatch (R104, R340). -/
def execTopk (h : RecHdr) (body : BitVec 384) (s : State) : Outcome := dispatchRecord .topk h body s

/-- CMPT (R363): its dispatch (R104, R340). -/
def execCmpt (h : RecHdr) (body : BitVec 384) (s : State) : Outcome := dispatchRecord .cmpt h body s

/-- NBIN (R155, R364): its dispatch (R104, R340). -/
def execNbin (h : RecHdr) (body : BitVec 384) (s : State) : Outcome := dispatchRecord .nbin h body s

/-- NSTRM (R156, R365): its dispatch (R104, R340). -/
def execNstrm (h : RecHdr) (body : BitVec 384) (s : State) : Outcome := dispatchRecord .nstrm h body s

/-- CHAIN (R366): its dispatch (R104, R340). -/
def execChain (h : RecHdr) (body : BitVec 384) (s : State) : Outcome := dispatchRecord .chain h body s

/-- RNOP (R367): its dispatch (R104, R340). -/
def execRnop (h : RecHdr) (body : BitVec 384) (s : State) : Outcome := dispatchRecord .rnop h body s

/-- RECORD_START (R104, R243). -/
def execRecordStart (c : Nat) (e : Nat) (s : State) : Outcome := .next (startRecord c e s)

/-- ENGINE_ITERATION (R102, R219). -/
def execEngineIteration (c : Nat) (e : Nat) (s : State) : Outcome := .next (iterateEngine c e s)

/-- RECORD_COMPLETION (R105, R106). -/
def execRecordCompletion (c : Nat) (e : Nat) (s : State) : Outcome := .next (completeRecord c e s)

end Sys2Proof.Machine
end

