-- ==== Sys2Proof/Machine/Larder.lean ====
section
/-! DEFINITION. The Larder (chapter 04): digests and keys of PURE tasks (R83, R84), the digest cache (R87), hits and captures
(R88 to R90), and its registers (R94 to R97). -/

namespace Sys2Proof.Machine

/-! ## Elements of a window as bytes (R83) -/

/-- Insert a tuple by its linear rank. -/
def insertByRank (d : Desc) (abs : List Nat → List Nat) (x : List Nat) : List (List Nat) → List (List Nat)
  | [] => [x]
  | y :: ys => if d.linearRank (abs x) ≤ d.linearRank (abs y) then x :: y :: ys else y :: insertByRank d abs x ys

/-- The tuples of E in order, relative to the window: coordinate order, or under a group the canonical tuples of the box in
ascending linear rank. -/
def Handle.elemTuples (h : Handle) : List (List Nat) :=
  if h.desc.sym.isEmpty then tuplesOf h.ext
  else ((tuplesOf h.ext).filter fun x => h.desc.canonical (h.abs x)).foldr (insertByRank h.desc h.abs) []

/-- Bytes of E. -/
def Handle.elemLength (h : Handle) : Nat :=
  if h.desc.codec ≠ 0 then h.desc.clen else (h.elemTuples.length * tyBits h.desc.fmt + 7) / 8

/-- Values of `w` bits packed, the first in the low bits. -/
def packBits (w : Nat) : List Nat → Nat
  | [] => 0
  | v :: vs => v % 2 ^ w + 2 ^ w * packBits w vs

/-- E of a bound window: its elements, or the stored bytes of a compressed tensor. -/
def State.elemBytes (s : State) (h : Handle) : List Byte :=
  if h.desc.codec ≠ 0 then s.readRuns h.runs
  else leBytes h.elemLength (packBits (tyBits h.desc.fmt) (h.elemTuples.map (s.readElem h)))

/-- Poisoned units that reading E meets. -/
def State.windowPoison (s : State) (h : Handle) : List ErrorUnit :=
  if s.poison.isEmpty then []
  else if h.desc.codec ≠ 0 then (h.runs.flatMap fun r => (s.hbmPoison r.pa r.len).map ErrorUnit.hbm).eraseDups
  else (h.elemTuples.flatMap (s.elemPoison h)).eraseDups

/-- The scale elements that cover the box of a block window, in coordinate order, within the scale window's box. -/
def scaleTuples (h x : Handle) : List (List Nat) :=
  (tuplesOf (scalesPerBlock h.desc.fmt * ceilDiv (h.ext.getD 0 1) 32 :: h.ext.drop 1)).filter fun y =>
    (outside x.ext y).isNone

/-- C of a bound window. -/
def State.scaleBytes (s : State) (h : Handle) : Option Handle → List Byte
  | none => []
  | some x => (scaleTuples h x).map fun y => BitVec.ofNat 8 (s.readElem x y)

/-- Poisoned units that reading C meets. -/
def State.scalePoison (s : State) (h : Handle) : Option Handle → List ErrorUnit
  | none => []
  | some x => if s.poison.isEmpty then [] else ((scaleTuples h x).flatMap (s.elemPoison x)).eraseDups

/-- A generator entry of 8 bytes (R140). -/
def Gen.bytes (g : Gen) : List Byte := ([g.kind, g.neg.toNat, g.a, g.b, g.c, g.d, 0, 0]).map (BitVec.ofNat 8)

/-- The 64-byte window header WHDR. -/
def windowHeader (d : Desc) (ext : List Nat) : List Byte :=
  ([fmtCode d.fmt, d.rank, d.codec, 0, 0, 0, 0, 0]).map (BitVec.ofNat 8) ++
  ((upTo 6).flatMap fun i => leBytes 4 (ext.getD i 1)) ++
  (d.sym.flatMap Gen.bytes ++ leBytes 32 0).take 32

/-! ## Reads of a PURE task's inputs and outputs -/

/-- R82: the Larder takes part in a task. -/
def State.larderOn (s : State) (t : Task) : Bool :=
  t.pure && (upTo Config.dies).all (fun d => (mapGet s.watchRegions d ⟨0, false⟩).en) && (s.pool t.tenant).en

/-- A window bound for the Larder with the rights of its mode; none where the bind faults. -/
def State.larderWindow (s : State) (t : Task) (w : Window) : Option Handle :=
  match w.form with
  | none => none
  | some d =>
    let r := s.bindDesc t 0 (d.forMode w.mode) w.lo w.ext true
    if r.1.isEmpty then some r.2 else none

/-- What the digest of a part reads: part 0 the argument block, part i + 1 window i. -/
def State.digestSource (s : State) (t : Task) (part : Nat) : Option Handle :=
  match part with
  | 0 =>
    let r := s.bindDesc { t with pure := false } 0 (argsDesc t) coord0 (argsDesc t).ext false
    if r.1.isEmpty then some r.2 else none
  | i + 1 =>
    match t.windows[i]? with
    | some w => s.larderWindow t w
    | none => none

/-- The window that binds to the slot of a block handle's SLINK (R80, R83); `some none` where no scales are due. -/
def State.digestScales (s : State) (t : Task) (h : Handle) : Option (Option Handle) :=
  if isBlockTy h.desc.fmt && h.desc.codec == 0 then
    match (windowSlots t.windows 2).find? fun p => p.1 == h.desc.slink with
    | some (_, w) => (s.larderWindow t w).map some
    | none => none
  else some none

/-- Parts of a task that are digested (R84, R88). -/
def Task.parts (t : Task) : List Nat :=
  (if t.arglen = 0 then [] else [0]) ++
  (t.windows.zipIdx.filter fun p => p.1.mode == 1).map fun p => p.2 + 1

/-! ## Keys (R83, R84) -/

/-- Customisation strings. -/
def customWindow : List Byte := [0x4C, 0x44, 0x52, 0x57]
def customArgs : List Byte := [0x4C, 0x44, 0x52, 0x41]
def customKey : List Byte := [0x4C, 0x44, 0x52, 0x4B]

/-- KMAC256 under a tenant's Larder key, 256 bits. -/
def State.larderMac (s : State) (tenant : Nat) (msg custom : List Byte) : BitVec 256 :=
  Config.kmac256 (s.keySlot tenant).larder msg custom

/-- The value of a digest over what it reads. -/
def State.digestValue (s : State) (tenant : Nat) (d : Digest) : BitVec 256 :=
  if d.part = 0 then s.larderMac tenant (s.readRuns d.source.runs) customArgs
  else s.larderMac tenant
    (windowHeader d.source.desc d.source.ext ++ s.elemBytes d.source ++ s.scaleBytes d.source d.scales) customWindow

/-- Poisoned units that a digest meets. -/
def State.digestPoison (s : State) (d : Digest) : List ErrorUnit :=
  if d.part = 0 then d.source.runs.flatMap fun r => (s.hbmPoison r.pa r.len).map ErrorUnit.hbm
  else s.windowPoison d.source ++ s.scalePoison d.source d.scales

/-- First byte address of the code window. -/
def Task.codeBase (t : Task) : Nat :=
  match t.windows with
  | w :: _ => (match w.form with | some d => (d.boxBytes w).1 | none => 0)
  | [] => 0

/-- An entry address relative to the code window, 0 where there is none. -/
def Task.codeOffset (t : Task) (a : Nat) : Nat := if a = 0 then 0 else a - t.codeBase

/-- The part of M for one window. -/
def Task.windowPart (t : Task) (i : Nat) (w : Window) : List Byte :=
  if w.mode = 1 then leBytes 32 1 ++ leBytes 32 (mapGet t.digests (i + 1) 0).toNat ++ leBytes 32 0
  else if w.mode = 2 then
    leBytes 32 2 ++ (match w.form with | some d => windowHeader d w.ext | none => leBytes 64 0)
  else []

/-- M of R84. -/
def Task.keyMessage (t : Task) : List Byte :=
  ([1, 8 * t.loop.toNat, t.strands + 16 * t.scope, 0]).map (BitVec.ofNat 8) ++
  leBytes 2 t.width ++ leBytes 2 t.windows.length ++ leBytes 4 t.trip ++ leBytes 2 t.minch ++ leBytes 2 t.arglen ++
  leBytes 8 (2 ^ 64 + t.entry - t.codeBase) ++ leBytes 8 (t.codeOffset t.kernel) ++ leBytes 8 (t.codeOffset t.epilogue) ++
  leBytes 24 0 ++ leBytes 32 (mapGet t.digests 0 0).toNat ++
  t.windows.zipIdx.flatMap fun p => t.windowPart p.2 p.1

/-- The entry of a key (R91). -/
def State.findResult (s : State) (tenant : Nat) (key : BitVec 256) : Option Result :=
  s.results.find? fun r => r.tenant == tenant && r.key == key

/-- A new recency stamp for the entry of a key. -/
def State.touchResult (s : State) (tenant : Nat) (key : BitVec 256) : State :=
  { s with stamp := s.stamp + 1
           results := s.results.map fun r => if r.tenant == tenant && r.key == key then { r with stamp := s.stamp + 1 } else r }

/-- A task has cores, or their saved context. -/
def Task.placed (t : Task) : Bool :=
  match t.phase with | .running => true | .stopping => true | .saved => true | .capture => true | _ => false

/-- KEYING with every digest done and the key not void: the key is formed and looked up (R88). -/
def State.formKey (s : State) (t : Task) : State :=
  if t.larder == .keying && !t.void && t.parts.all (fun p => (mapFind t.digests p).isSome) then
    let key := s.larderMac t.tenant t.keyMessage customKey
    let hit := (s.findResult t.tenant key).isSome
    let s := s.setTask { t with key := some key, larder := if hit then .hit else .miss }
    if hit && t.placed then s.touchResult t.tenant key else s
  else s

/-! ## Digests (R86 to R88) -/

/-- The digest cache tag of a window with its descriptor, none for the argument block and where there are more than 16 runs. -/
def cacheTag (tenant : Nat) (form : Option Desc) (h : Handle) : Option DigestTag :=
  match form with
  | some d =>
    if h.runs.length ≤ 16 then
      some { tenant := tenant, desc := { d with base := 0 }, lo := h.lo, ext := h.ext, runs := h.runs.map fun r => { r with va := 0 } }
    else none
  | none => none

/-- The descriptor of a part (R87). -/
def Task.partForm (t : Task) (part : Nat) : Option Desc :=
  match part with
  | 0 => none
  | i + 1 => match t.windows[i]? with | some w => w.form | none => none

/-- The cached digest of a tag. -/
def State.findDigest (s : State) (tag : Option DigestTag) : Option DigestEntry :=
  match tag with
  | none => none
  | some g => s.digestCache.find? fun e => e.tag == g

/-- The numbers of a list put into a set. -/
def setUnion (s xs : List Nat) : List Nat := xs.foldl setPut s

/-- One part of a task that enters its queue's FIFO: its granules are watched, then its digest is taken from the cache or
registered (R86, R87); a bind that faults voids the key (R88). -/
def State.startDigest (id : Nat) (s : State) (part : Nat) : State :=
  match s.task? id with
  | none => s
  | some t =>
    match s.digestSource t part with
    | none => s.setTask { t with void := true }
    | some h =>
      match s.digestScales t h with
      | none => s.setTask { t with void := true }
      | some sc =>
        let g := granulesOf h.runs
        let all := g ++ (match sc with | some x => granulesOf x.runs | none => [])
        let t := { t with granules := setUnion t.granules g }
        let s := s.rewatch (setUnion s.watch all)
        match s.findDigest (cacheTag t.tenant (t.partForm part) h) with
        | some e =>
          { s.setTask { t with digests := mapPut t.digests part e.digest } with
            stamp := s.stamp + 1
            digestCache := s.digestCache.map fun x => if x.tag == e.tag then { x with stamp := s.stamp + 1 } else x }
        | none => { s.setTask t with digests := s.digests ++ [⟨t.id, part, h, sc, t.partForm part, all⟩] }

/-- A task enters its queue's FIFO (R88). -/
def State.startKeying (s : State) (id : Nat) : State :=
  match s.task? id with
  | none => s
  | some t =>
    if s.larderOn t then
      let s := t.parts.foldl (State.startDigest id) (s.setTask { t with larder := .keying })
      match s.task? id with
      | some u => s.formKey u
      | none => s
    else s

/-- The entry of least recency. -/
def oldestDigest (es : List DigestEntry) : Option DigestEntry :=
  es.foldl (fun a e => match a with | some x => if e.stamp < x.stamp then some e else a | none => some e) none

/-- A digest enters the cache (R87). -/
def State.cacheDigest (s : State) (tenant : Nat) (d : Digest) (v : BitVec 256) : State :=
  match cacheTag tenant d.form d.source with
  | none => s
  | some tag =>
    let kept := s.digestCache.filter fun e => e.tag != tag
    let kept := if kept.length < Config.digestEntries then kept
      else match oldestDigest kept with | some o => kept.filter fun e => e.stamp != o.stamp | none => kept
    { s with stamp := s.stamp + 1
             digestCache := kept ++ [⟨tag, v, granulesOf d.source.runs, s.stamp + 1⟩] }

/-- The digest of a part of a task under computation. -/
def State.digestOf (s : State) (task : Word) (part : Nat) : Option Digest :=
  s.digests.find? fun d => d.task == task && d.part == part

/-- DIGEST_DONE: a registered digest ends (R86, R88, R216). -/
def State.finishDigest (s : State) (d : Digest) : State :=
  let s1 : State := { s with digests := s.digests.filter fun x => x != d }
  match s.task? d.task.toNat with
  | none => s1.unwatch
  | some t =>
    match s.digestPoison d with
    | [] =>
      let v := s.digestValue t.tenant d
      let s2 := s1.cacheDigest t.tenant d v
      let t := if t.void then t else { t with digests := mapPut t.digests d.part v }
      ((s2.setTask t).formKey t).unwatch
    | us => ((s1.setTask { t with void := true }).reportUnits us 5 t.id).unwatch

/-! ## Entries (R89, R90) -/

/-- LCNT fields count to their width. -/
def satAdd1 {w : Nat} (v : BitVec w) : BitVec w := if v.toNat + 1 < 2 ^ w then v + 1 else v

/-- A tenant's pool replaced. -/
def State.setPool (s : State) (t : Nat) (p : Pool) : State := { s with pools := mapPut s.pools t p }

/-- Count in LCNT. -/
def State.countHit (s : State) (t : Nat) : State := s.setPool t { s.pool t with hits := satAdd1 (s.pool t).hits }
def State.countInstall (s : State) (t : Nat) : State := s.setPool t { s.pool t with installs := satAdd1 (s.pool t).installs }
def State.countDrop (s : State) (t : Nat) : State := s.setPool t { s.pool t with drops := satAdd1 (s.pool t).drops }

/-- Entries of a tenant: LQUOTA.USED. -/
def State.used (s : State) (t : Nat) : Nat := (s.results.filter fun r => r.tenant == t).length

/-- Every entry of a tenant is removed. -/
def State.dropResults (s : State) (t : Nat) : State :=
  State.unwatch { s with results := s.results.filter fun r => r.tenant != t }

/-- The least recently used entry of a tenant that no hit copy reads. -/
def State.evictable (s : State) (t : Nat) : Option Result :=
  (s.results.filter fun r => r.tenant == t && r.readers.isEmpty).foldl
    (fun a r => match a with | some x => if r.stamp < x.stamp then some r else a | none => some r) none

/-- One eviction, if an entry can go. -/
def State.evict (s : State) (t : Nat) : Option State :=
  (s.evictable t).map fun r => State.unwatch { s with results := s.results.filter fun x => x != r }

/-- Evict until at most `n` entries are left or none can go; `fuel` bounds the steps. -/
def State.evictTo (s : State) (t n : Nat) : Nat → State
  | 0 => s
  | fuel + 1 =>
    if s.used t ≤ n then s
    else match s.evict t with
      | none => s
      | some u => u.evictTo t n fuel

/-- The first free extent of `k` blocks of a pool. -/
def State.firstFit (s : State) (t k : Nat) : Option Nat :=
  let total := (s.pool t).bytes / 65536
  if total < k then none
  else (upTo (total - k + 1)).find? fun b =>
    !(s.results.any fun r => r.tenant == t && decide (r.block < b + k) && decide (b < r.block + r.blocks))

/-- Room for an install: under the quota and with an extent, evicting one by one (R90). -/
def State.makeRoom (s : State) (t k : Nat) : Nat → State × Option Nat
  | 0 => (s, none)
  | fuel + 1 =>
    match (if s.used t < (s.pool t).quota then s.firstFit t k else none) with
    | some b => (s, some b)
    | none =>
      match s.evict t with
      | none => (s, none)
      | some u => u.makeRoom t k fuel

/-- The Larder's own writes into a pool, which no watch bit stops (R85). -/
def State.poolPut (s : State) : List Run → List Byte → State
  | [], _ => s
  | r :: rs, bs => (s.hbmPut (s.keySlot r.key).gen r.pa (bs.take r.len)).poolPut rs (bs.drop r.len)

/-- Out windows of a task, bound, in table order; none where a bind faults. -/
def State.outWindows (s : State) (t : Task) : Option (List Handle) :=
  (t.windows.filter fun w => w.mode == 2).mapM (s.larderWindow t)

/-- The strands of a task being captured are done: its out windows are watched from here (R88). -/
def State.startCapture (s : State) (t : Task) : State :=
  match s.outWindows t with
  | none => s.setTask { t with phase := .capture, void := true }
  | some hs =>
    let g := hs.flatMap fun h => granulesOf h.runs
    (s.setTask { t with phase := .capture, granules := setUnion t.granules g }).rewatch (setUnion s.watch g)

/-- Blocks of a pool that outputs of `n` bytes take (R89). -/
def outputBlocks (n : Nat) : Nat := Nat.max 1 (ceilDiv n 65536)

/-- An install has to wait for a hit copy: without one of the entries that copies read, which are evicted when their copies end, it
does not fit (R90). -/
def State.installWaits (s : State) (t : Task) : Bool :=
  (s.results.any fun r => r.tenant == t.tenant && !r.readers.isEmpty) && !t.void && !t.tainted &&
  (match s.outWindows t, t.key with
   | some hs, some key =>
     let n := (hs.map Handle.elemLength).sum
     decide (n ≤ 2 ^ 24) && (hs.flatMap s.windowPoison).isEmpty && (s.findResult t.tenant key).isNone &&
       (s.makeRoom t.tenant (outputBlocks n) (s.results.length + 1)).2.isNone
   | _, _ => false)

/-- The end of CAPTURE: the entry is installed, or the task counts in DROPS (R88 to R90).  A task that was keyed before LPOOL[t].EN
was cleared stays keyed, and finds no room here (R82; log 46). -/
def State.install (s : State) (t : Task) : State :=
  match s.outWindows t, t.key with
  | some hs, some key =>
    let bad := hs.flatMap s.windowPoison
    let bs := hs.flatMap s.elemBytes
    if !bad.isEmpty then (s.reportUnits bad.eraseDups 5 t.id).countDrop t.tenant
    else if t.void || t.tainted || decide (2 ^ 24 < bs.length) then s.countDrop t.tenant
    else if (s.findResult t.tenant key).isSome then s.countInstall t.tenant
    else
      let k := outputBlocks bs.length
      match s.makeRoom t.tenant k (s.results.length + 1) with
      | (u, none) => u.countDrop t.tenant
      | (u, some b) =>
        let u := u.poolPut (sliceRuns (u.pool t.tenant).runs (b * 65536) bs.length) bs
        let r : Result := { key := key, tenant := t.tenant, block := b, blocks := k, bytes := bs.length,
                            stamp := u.stamp + 1, readers := [] }
        State.rewatch { u.countInstall t.tenant with stamp := u.stamp + 1, results := u.results ++ [r] }
          (setUnion u.watch (u.extentGranules t.tenant b k))
  | some hs, none =>
    (s.reportUnits (hs.flatMap s.windowPoison).eraseDups 5 t.id).countDrop t.tenant
  | none, _ => s.countDrop t.tenant

/-! ## Hits (R88) -/

/-- E written back into an out window. -/
def State.putElems (s : State) (h : Handle) (bs : List Byte) : State :=
  if h.desc.codec ≠ 0 then s.writeRuns h.runs bs
  else
    let w := tyBits h.desc.fmt
    let v := leNat bs
    let m := (h.elemTuples.zipIdx).foldl (fun (m : Gathered) p =>
      match h.place p.1 with
      | .at offs bit _ true => gatherBits m offs bit w (bitsAt v (p.2 * w) w)
      | _ => m) []
    (joinBytes (s.gatheredBytes h m)).foldl (fun s p => s.writeAt p.1 p.2) s

/-- The outputs of an entry written into out windows in table order. -/
def State.putOutputs (s : State) : List Handle → List Byte → State
  | [], _ => s
  | h :: hs, bs => (s.putElems h (bs.take h.elemLength)).putOutputs hs (bs.drop h.elemLength)

/-- A PURE task reaches Place in HIT: its hit copy begins, or the hit is lost, its entry removed or a bind faulting, and Place goes
on (R88); `true` where it does not run. -/
def State.tryHit (s : State) (t : Task) : State × Bool :=
  match t.larder, t.void, t.key with
  | .hit, false, some key =>
    match s.findResult t.tenant key with
    | none => (s.setTask { t with larder := .miss }, false)
    | some r =>
      match s.outWindows t with
      | none => (s.setTask { t with larder := .abandoned }, false)
      | some hs =>
        let bs := s.readRuns (sliceRuns (s.pool t.tenant).runs (r.block * 65536) r.bytes)
        let s := (s.touchResult t.tenant key).setTask { t with phase := .copying }
        let s : State := { s with results := s.results.map fun x =>
          if x.tenant == t.tenant && x.key == key then { x with readers := setPut x.readers t.id.toNat } else x }
        (s.putOutputs hs bs, true)
  | _, _, _ => (s, false)

/-- A task whose hit was abandoned is placed: the recency of its entry is refreshed (R88). -/
def State.placedHit (s : State) (t : Task) : State :=
  match t.larder, t.key with
  | .abandoned, some key => s.touchResult t.tenant key
  | _, _ => s

/-- The hit copy of a task ends (R88): the entry may be evicted again, as a lowered QUOTA may ask (R96), and HITS counts. -/
def State.endHit (s : State) (t : Task) : State :=
  let s : State := { s with results := s.results.map fun x => { x with readers := setDel x.readers t.id.toNat } }
  (s.countHit t.tenant).evictTo t.tenant (s.pool t.tenant).quota s.results.length

/-! ## Registers (R94 to R97) -/

/-- LPOOL[t] (R95): DESC, BAD, EN. -/
def Pool.lpool (p : Pool) : Word := BitVec.ofNat 64 (p.desc + 2 * p.bad.toNat + p.en.toNat)
/-- LQUOTA[t] (R96). -/
def State.lquota (s : State) (t : Nat) : Word :=
  BitVec.ofNat 64 (s.used t * 2 ^ 32 + (s.pool t).qerr.toNat * 2 ^ 31 + (s.pool t).quota)
/-- LCNT[t]. -/
def Pool.lcnt (p : Pool) : Word := BitVec.ofNat 64 (p.hits.toNat * 2 ^ 40 + p.installs.toNat * 2 ^ 16 + p.drops.toNat)
/-- LWMAP[d]. -/
def State.lwmap (s : State) (d : Nat) : Word :=
  let x := mapGet s.watchRegions d ⟨0, false⟩
  BitVec.ofNat 64 (x.base + x.en.toNat)

/-- The runs and bytes of a pool at its enable, none where it is refused (R95); the RD, WR and SEALED bits of its descriptor do not
bear on it, the rights of its pages do (log 46). -/
def State.bindPool (s : State) (t va : Nat) : Option (List Run × Nat) :=
  match s.gRead t va 128 with
  | .error _ => none
  | .ok bs =>
    match descOf? false bs with
    | none => none
    | some d =>
      let n := d.ext.getD 0 0
      if d.space = 4 ∧ d.rank = 1 ∧ d.fmt = .uint8 ∧ d.codec = 0 ∧ d.sym = [] ∧ n % 65536 = 0 ∧ d.base + n ≤ 2 ^ 57 then
        match s.translate t (.tenant t) true true d.base n with
        | .ok rs => some (rs, n)
        | .error _ => none
      else none

/-- A write of LPOOL[t] (R91, R95). -/
def State.writeLpool (s : State) (t : Nat) (v : Word) : State :=
  let s := s.dropResults t
  let p := s.pool t
  let desc := bvField v 7 50 * 128
  if bvBit v 0 then
    match s.bindPool t desc with
    | some (rs, n) => s.setPool t { p with desc := desc, bad := false, en := true, runs := rs, bytes := n }
    | none => s.setPool t { p with desc := desc, bad := true, en := false, runs := [], bytes := 0 }
  else s.setPool t { p with desc := desc, en := false, runs := [], bytes := 0 }

/-- A write of LQUOTA[t] (R96). -/
def State.writeLquota (s : State) (t : Nat) (v : Word) : State :=
  let q := bvField v 0 18
  let others := s.pools.foldl (fun a p => if p.1 = t then a else a + p.2.quota) 0
  let p := s.pool t
  if 131072 < q + others then s.setPool t { p with qerr := true }
  else (s.setPool t { p with quota := q, qerr := p.qerr && !(bvBit v 31) }).evictTo t q s.results.length

/-- A write of LCNT[t]: any 1 bit clears its field (R97). -/
def State.writeLcnt (s : State) (t : Nat) (v : Word) : State :=
  let p := s.pool t
  s.setPool t { p with hits := if bvField v 40 24 = 0 then p.hits else 0
                       installs := if bvField v 16 24 = 0 then p.installs else 0
                       drops := if bvField v 0 16 = 0 then p.drops else 0 }

/-- No PURE task is keyed or runs, and no entry exists (R97). -/
def State.larderIdle (s : State) : Bool :=
  s.results.isEmpty && s.tasks.all fun p => !(p.2.pure && (p.2.larder != .off || p.2.phase != .ready))

/-- A write of LWMAP[d] (R97). -/
def State.writeLwmap (s : State) (d : Nat) (v : Word) : State :=
  let old := mapGet s.watchRegions d ⟨0, false⟩
  if bvField v 38 2 ≠ d then s
  else if old.en && !(bvBit v 0) && !s.larderIdle then s
  else { s with watchRegions := mapPut s.watchRegions d ⟨bvField v 23 17 * 2 ^ 23, bvBit v 0⟩ }

end Sys2Proof.Machine
end

