-- ==== Sys2Proof/Machine/Tasks.lean ====
section
/-! DEFINITION. Tasks at their entry and their end (R54 to R57, R61, R77, R113, R114, R209), graphs (R66 to R69) and the records of
the launch queues (R61 to R64). -/

namespace Sys2Proof.Machine

/-- The part takes launches and other traffic: it has power and the start is over (R37, R40). -/
def State.ready (s : State) : Bool := s.power && s.mbxState == 1

/-! ## A task leaves its cores -/

/-- A core that its task leaves (R56): stores, vector file, PFU tables and patches stay. -/
def Core.vacate (q : Core) : Core :=
  { q with task := none, rank := 0, strands := [], picks := none, clearing := false, place := .prologue, index := 0,
           count := 0, qs := [], qv := [], qsNew := [], qvNew := [], rings := [], barriers := [], handles := [],
           bindNew := [], unbindStream := [], streams := [], engines := [], writes := [] }

/-- A task leaves its cores: its writes are performed first (R61). -/
def State.vacateCores (s : State) (cs : List Nat) : State :=
  let s := cs.foldl State.drainCore s
  let s := s.stopCores cs
  let s := { s with sdWait := s.sdWait.filter fun w => !(cs.contains w.1) }
  cs.foldl (fun s c => s.setCore c (s.core c).vacate) s

/-- A task leaves the tables of the scheduler: its FIFO, its launch in flight, its saved slots, its digests, and the task that
waits for its pre-emption waits no more. -/
def State.removeTask (s : State) (t : Task) : State :=
  let id := t.id.toNat
  let q := s.queue t.queue
  let s := s.setQueue t.queue { q with fifo := q.fifo.filter fun i => i != id
                                       flight := q.flight.filter fun l => t.node.isSome || l.id != t.id }
  State.unwatch { s with
    tasks := (mapDel s.tasks id).map fun p => if p.2.waits = some id then (p.1, { p.2 with waits := none }) else p
    digests := s.digests.filter fun d => d.task != t.id
    peerGangs := s.peerGangs.filter fun g => g.task != t.id
    saveFree := s.saveFree + t.saved.length }

/-! ## Ends of launches (R77) -/

/-- How a launch ends. -/
inductive Ending where
  | done
  | reused
  /-- Cause byte, code byte, node index. -/
  | aborted (cause code : Nat) (node : Option Nat)
  deriving DecidableEq, Repr

/-- TYPE of its event. -/
def Ending.typ : Ending → Nat
  | .done => 1 | .reused => 2 | .aborted .. => 3

/-- Payload of its event. -/
def Ending.payload : Ending → BitVec 120
  | .aborted cause code node => payloadOf (leBytes 1 cause ++ leBytes 1 code ++ leBytes 2 0 ++ leBytes 4 (node.getD 0))
  | _ => 0

/-- DONE and REUSED are posted only with NOTIFY, ABORTED always. -/
def Ending.posts (e : Ending) (notify : Bool) : Bool :=
  match e with | .aborted .. => true | _ => notify

/-- The event of a launch that ends. -/
def State.postEnding (s : State) (n func : Nat) (id : Word) (notify : Bool) (e : Ending) : State :=
  if e.posts notify then s.postEvent func 0 n e.typ id e.payload else s

/-! ## Graphs (R66 to R69) -/

/-- A graph by its TASKID. -/
def State.graph? (s : State) (g : Nat) : Option Graph := mapFind s.graphs g
/-- The state with a graph replaced. -/
def State.setGraph (s : State) (g : Graph) : State := { s with graphs := mapPut s.graphs g.id.toNat g }

/-- A node's task, none where the node is malformed or a successor lies beyond NNODES (R66, R67). -/
def State.nodeTask (s : State) (g : Graph) (i : Nat) : Option Task :=
  let tenant := (s.queue g.queue).tenant
  match s.gRead tenant (g.nodes + 64 * i) 64 with
  | .error _ => none
  | .ok bs =>
    match s.taskOfRecord g.queue (g.id + BitVec.ofNat 64 i) (some (g.id.toNat, i)) bs with
    | none => none
    | some t =>
      let t := { t with spawnDie := g.spawnDie }
      let n := bytesField bs 60 2
      if n = 0 then some t
      else match s.gRead tenant (g.succ + 4 * bytesField bs 56 4) (4 * n) with
        | .error _ => none
        | .ok xs =>
          let l := (upTo n).map fun k => bytesField xs (4 * k) 4
          if l.all fun j => decide (j < g.nnodes) then some { t with succ := l } else none

/-- The abort of a graph: nodes not yet placed leave the pool (R69). -/
def State.abortGraph (s : State) (gid cause code : Nat) (node : Option Nat) : State :=
  match s.graph? gid with
  | none => s
  | some g =>
    if g.cause.isSome then s
    else
      let out := s.tasks.filterMap fun p =>
        match p.2.node with
        | some (h, _) => if h = gid ∧ p.2.phase = .ready then some p.2 else none
        | none => none
      let gone := out.filterMap fun t => t.node.map fun x => x.2
      let s := out.foldl State.removeTask s
      s.setGraph { g with cause := some (cause, code, node), live := g.live.filter fun i => !(gone.contains i) }

/-- A started task or ready node enters the tail of its queue's FIFO (R61, R68), and its keying starts (R88). -/
def State.enterFifo (s : State) (t : Task) : State :=
  let q := s.queue t.queue
  ((s.setTask t).setQueue t.queue { q with fifo := q.fifo ++ [t.id.toNat] }).startKeying t.id.toNat

/-- A node enters the ready pool, or aborts its graph (R67, R68). -/
def State.enterNode (gid : Nat) (s : State) (i : Nat) : State :=
  match s.graph? gid with
  | none => s
  | some g =>
    if g.cause.isSome then s
    else match s.nodeTask g i with
      | none => s.abortGraph gid 0x23 0 (some i)
      | some t => (s.setGraph { g with entered := setPut g.entered i, live := setPut g.live i }).enterFifo t

/-- One decrement of a successor's counter (R68). -/
def State.decrement (gid : Nat) (s : State) (j : Nat) : State :=
  match s.graph? gid with
  | none => s
  | some g =>
    if g.cause.isSome then s
    else match mapGet g.counters j 0 with
      | 0 => s.abortGraph gid 0x23 0 (some j)
      | 1 => (s.setGraph { g with counters := mapDel g.counters j }).enterNode gid j
      | n + 2 => s.setGraph { g with counters := mapPut g.counters j (n + 1) }

/-- A graph retires. -/
def State.retireGraph (s : State) (g : Graph) (e : Ending) : State :=
  let q := s.queue g.queue
  let s := s.setQueue g.queue { q with flight := q.flight.filter fun l => l.id != g.id }
  State.postEnding { s with graphs := mapDel s.graphs g.id.toNat } g.queue q.func g.id g.notify e

/-- A graph with no node in the pool, placed or pre-empted ends: done, aborted, or STUCK (R61, R69). -/
def State.settleGraph (s : State) (gid : Nat) : State :=
  match s.graph? gid with
  | none => s
  | some g =>
    if g.live.isEmpty then
      match g.cause with
      | some (c, k, n) => s.retireGraph g (.aborted c k n)
      | none => if g.entered.length = g.nnodes then s.retireGraph g .done else s.retireGraph g (.aborted 0x22 0 none)
    else s

/-- What the end of a node does to its graph: its successors, or the abort (R68, R69). -/
def State.endNode (s : State) (t : Task) (e : Ending) : State :=
  match t.node with
  | none => s
  | some (gid, i) =>
    match s.graph? gid with
    | none => s
    | some g =>
      let s := s.setGraph { g with live := setDel g.live i }
      let s := match e with
        | .aborted c k _ => s.abortGraph gid c k (some i)
        | _ => t.succ.foldl (State.decrement gid) s
      s.settleGraph gid

/-- The package that launched a task (R57). -/
def launcherOf (id : Word) : Nat := id.toNat / 2 ^ 58

/-- The end of the members that a peer runs for a launcher (queue 128): DONE to it, with whether they leave a pending MCHECK (R212;
log 36), or, where it is lost, the event to the function of queue 0 (R75, R76). -/
def State.endMembers (s : State) (t : Task) (e : Ending) : State :=
  if s.podReachable (launcherOf t.id) then
    s.sendPod (launcherOf t.id) (.done (match e with | .aborted cause _ _ => cause == codeMCHECK | _ => false)) t.id t.attempt
  else s.postEnding 0 (s.queue 0).func t.id false e

/-- A task retires (R61, R68, R77): it leaves its cores with its effects released, its event is posted, its successors are
released. -/
def State.retire (s : State) (t : Task) (e : Ending) : State :=
  let s := (s.vacateCores t.cores).removeTask t
  let e := match e, t.node with
    | .aborted c k none, some (_, i) => Ending.aborted c k (some i)
    | _, _ => e
  let s := if t.queue < 128 then s.postEnding t.queue t.func t.id t.notify e else s.endMembers t e
  s.endNode t e

/-! ## A task starts on its cores (R56, R111, R113, R114) -/

/-- The strands of a core at task entry. -/
def entryStrands (t : Task) (rank : Nat) : List Strand :=
  (upTo t.strands).map fun k => { Strand.entry.entryValues k rank t.gangSize 0 0 with pc := t.entry }

/-- The core is cleared before the first instruction (R41, R81, R114). -/
def Core.mustClear (q : Core) (t : Task) : Bool :=
  !q.clean || t.pure || (match q.lastTenant with | some x => x != t.tenant | none => false)

/-- Stores, vector file and PFU tables cleared (R41, R114). -/
def Core.cleared (q : Core) : Core :=
  { q with w := [], a := [], s := [], z := [], patches := [], v := [], side := [], pf := [] }

/-- A core taken by a task, its strands not yet set. -/
def Core.take (q : Core) (t : Task) (rank : Nat) : Core :=
  let c := q.mustClear t
  let q := if c then q.cleared else q
  { q.vacate with task := some t.id.toNat, rank := rank, clean := true, lastTenant := some t.tenant, clearing := c, ptr := 0,
                  patches := q.patches.map fun p => (p.1, { p.2 with written := false, drained := none }) }

/-- Poison of the stores, vector file and patches of a core that a clear covers (R215). -/
def State.clearedPoison (s : State) (c : Nat) : State :=
  { s with poison := s.poison.filter fun u =>
      match u with
      | .store x _ _ => x != c
      | .vreg x _ _ => x != c
      | .patch x _ _ => x != c
      | .queue x _ _ => x != c
      | .pfu x _ _ => x != c
      | .sreg x _ _ => x != c
      | _ => true }

/-- Poison of strand registers and queue registers, which every task entry writes whole (R113, R117, R215). -/
def State.entryPoison (s : State) (c : Nat) : State :=
  { s with poison := s.poison.filter fun u =>
      match u with
      | .queue x _ _ => x != c
      | .sreg x _ _ => x != c
      | _ => true }

/-- The gang ratio of a task: the least L_d over the dies of its cores (R20). -/
def State.gangRatio (s : State) (t : Task) : Nat := t.cores.foldl (fun k c => Nat.min k (s.die (dieOf c)).limitK) 16

/-- A core runs at a ratio, which MIN_K of its die notes (R20, R21). -/
def State.applyRatio (s : State) (c k : Nat) : State :=
  let d := s.die (dieOf c)
  (s.setCore c { s.core c with ratio := k }).setDie (dieOf c) { d with minK := Nat.min d.minK k }

/-- The cores of a task, with the ranks that follow placement order from `base` on; they start at the gang ratio (R20). -/
def State.takeCores (s : State) (t : Task) (base : Nat) : State :=
  t.cores.zipIdx.foldl (fun s p =>
    let q := s.core p.1
    let s := if q.mustClear t then s.clearedPoison p.1 else s.entryPoison p.1
    (s.setCore p.1 (q.take t (base + p.2))).applyRatio p.1 (s.gangRatio t)) s

/-- The first gang rank of this package: packages of lower identity come first (R75). -/
def State.rankBase (s : State) (t : Task) : Nat :=
  if t.scope = 2 then t.width * ((upTo s.podId.toNat).filter fun p => bvBit t.podmask p).length else 0

/-- Every core's slots, or the code of the first fault that a bind at placement meets (R65). -/
def State.bindAll (s : State) (t : Task) : List Nat → Except Nat State
  | [] => .ok s
  | c :: cs =>
    match s.entrySlots t c with
    | .error e => .error e
    | .ok m => (s.setCore c { s.core c with handles := m }).bindAll t cs

/-- The strands of every core of a task start at ENTRY. -/
def State.startStrands (s : State) (t : Task) : State :=
  t.cores.foldl (fun s c => s.setCore c { s.core c with strands := entryStrands t (s.core c).rank }) s

/-- bg of a task at its start (R56). -/
def Task.freshBg (t : Task) : Barrier :=
  { ea := t.gangSize, eb := 0, ca := t.gangSize, cb := 0, phase := 0, arrivals := 0, bytes := 0 }

/-- A task whose cores are held starts on them; a bind that faults ends it before its first instruction (R56, R65, R111). -/
def State.startTask (s : State) (t : Task) : State :=
  let t := { t with phase := .running, bg := t.freshBg }
  let s := s.setTask t
  match s.bindAll t t.cores with
  | .error code => s.retire t (.aborted 0x20 code none)
  | .ok u => u.startStrands t

/-! ## Records of the queues (R61 to R64) -/

/-- The next record of a queue: none where none waits, or the queue reads none. -/
def State.hasRecord (s : State) (n : Nat) : Bool :=
  let q := s.queue n
  s.ready && decide (n < 128) && q.en && !q.halted && q.pi != q.ci

/-- R62: the next launch of a queue may start. -/
def Queue.mayStart (q : Queue) (concurrent : Bool) : Bool :=
  decide (q.flight.length < 64) && (concurrent || q.flight.isEmpty)

/-- The record at CI starts: CI and the count of records advance, and waiting notices enter queue 0 (R61, R78). -/
def State.consume (s : State) (n : Nat) : State :=
  let q := s.queue n
  let s := s.setQueue n { q with ci := q.ci + 1, taken := q.taken + 1
                                 spawnDie := mapDel q.spawnDie q.ci.toNat }
  if n = 0 then s.drainNotices s.notices.length else s

/-- A launch in flight. -/
def State.launch (s : State) (n : Nat) (id : Word) (concurrent : Bool) : State :=
  let q := s.queue n
  s.setQueue n { q with flight := q.flight ++ [⟨id, concurrent⟩] }

/-- A record of a kind, with the state its read leaves: a record that cannot be read, or whose byte 0 is malformed, halts the
queue at whichever event reads it; one of another kind is left alone. -/
def State.readRecord (s : State) (n kind : Nat) (act : List Byte → Option State) : State :=
  if s.hasRecord n then
    match s.readSlot n (s.queue n).ci with
    | none => s.haltQueue n 2
    | some bs =>
      if 3 < bytesField bs 0 1 then s.haltQueue n 2
      else if bytesField bs 0 1 ≠ kind then s
      else match act bs with
        | none => s.haltQueue n 2
        | some t => t
  else s

/-- Zero bytes of a record. -/
def zeroBytes (bs : List Byte) (off n : Nat) : Bool := bytesField bs off n == 0

/-- TASK (R61, R63, R64). -/
def State.startRecord (s : State) (n : Nat) (bs : List Byte) : Option State :=
  let q := s.queue n
  match s.taskOfRecord n (s.taskId n q.taken 0) none bs with
  | none => none
  | some t =>
    let conc := (bytesField bs 1 1).testBit 0
    if q.mayStart conc then
      some (((s.consume n).launch n t.id conc).enterFifo { t with spawnDie := mapFind q.spawnDie q.ci.toNat })
    else some s

/-- The graph of a GRAPH record, none where it is malformed (R63, R64). -/
def State.graphOfRecord (s : State) (n : Nat) (bs : List Byte) : Option Graph :=
  let q := s.queue n
  let f := fun off k => bytesField bs off k
  let ok := decide (f 1 1 < 4) && zeroBytes bs 2 6 && f 8 8 % 64 == 0 && f 16 8 % 4 == 0 &&
    decide (1 ≤ f 24 4) && decide (f 24 4 ≤ 1048576) && zeroBytes bs 28 36 &&
    s.reachable q.tenant (f 8 8) 1 true false && s.reachable q.tenant (f 16 8) 1 true false
  if ok then
    some { id := s.taskId n q.taken 0, queue := n, notify := (f 1 1).testBit 1, nodes := f 8 8, succ := f 16 8,
           nnodes := f 24 4, counters := [], entered := [], live := [], spawnDie := mapFind q.spawnDie q.ci.toNat, cause := none }
  else none

/-- Counters that a graph of `n` nodes takes in bank `b`. -/
def bankUse (n b : Nat) : Nat := (n + 15 - b) / 16

/-- Every bank has the counters a graph needs (R67). -/
def State.countersFree (s : State) (n : Nat) : Bool :=
  (upTo 16).all fun b => decide (s.graphs.foldl (fun a p => a + bankUse p.2.nnodes b) (bankUse n b) ≤ 65536)

/-- DEPS of every node, none where the table cannot be read. -/
def State.graphDeps (s : State) (g : Graph) : Option (List Nat) :=
  (upTo g.nnodes).mapM fun i =>
    match s.gRead (s.queue g.queue).tenant (g.nodes + 64 * i) 64 with
    | .ok bs => some (bytesField bs 62 2)
    | .error _ => none

/-- A graph starts: its counters are loaded and its root nodes enter in ascending order (R61, R67). -/
def State.startGraph (s : State) (g : Graph) : State :=
  match s.graphDeps g with
  | none => ((s.setGraph g).abortGraph g.id.toNat 0x23 0 none).settleGraph g.id.toNat
  | some deps =>
    let counters := (deps.zipIdx.filter fun p => p.1 != 0).map fun p => (p.2, p.1)
    let roots := (deps.zipIdx.filter fun p => p.1 == 0).map fun p => p.2
    (roots.foldl (State.enterNode g.id.toNat) (s.setGraph { g with counters := counters })).settleGraph g.id.toNat

/-- GRAPH (R61, R63, R67). -/
def State.startGraphRecord (s : State) (n : Nat) (bs : List Byte) : Option State :=
  match s.graphOfRecord n bs with
  | none => none
  | some g =>
    let conc := (bytesField bs 1 1).testBit 0
    if (s.queue n).mayStart conc && s.countersFree g.nnodes then
      some (((s.consume n).launch n g.id conc).startGraph g)
    else some s

/-- QFENCE: it retires as it starts (R61, R63). -/
def State.fenceRecord (s : State) (n : Nat) (bs : List Byte) : Option State :=
  let q := s.queue n
  let flags := bytesField bs 1 1
  if (flags = 0 ∨ flags = 2) ∧ zeroBytes bs 2 62 then
    if q.mayStart false then
      some ((s.consume n).postEnding n q.func (s.taskId n q.taken 0) (flags == 2) .done)
    else some s
  else none

/-- SIGNAL: its store, a release at package scope, and its event (R61, R63, R77). -/
def State.signalRecord (s : State) (n : Nat) (bs : List Byte) : Option State :=
  let q := s.queue n
  let flags := bytesField bs 1 1
  let addr := bytesField bs 8 8
  let value := (bs.drop 16).take 8
  if (flags = 0 ∨ flags = 2) ∧ zeroBytes bs 2 6 ∧ zeroBytes bs 24 40 ∧ addr % 8 = 0 ∧
     (addr = 0 ∨ s.reachable q.tenant addr 8 false true) then
    if q.mayStart false then
      let id := s.taskId n q.taken 0
      let s := match (if addr = 0 then Except.ok s else s.gWrite q.tenant addr value) with | .ok t => t | .error _ => s
      let s := s.consume n
      some (if flags = 2 then s.postEvent q.func 0 n 4 id (payloadOf value) else s)
    else some s
  else none

end Sys2Proof.Machine
end

