-- ==== Sys2Proof/Machine/Clock.lean ====
section
/-! DEFINITION. The end of a core's clock (R112, R117, R124, R305, R309) and the completion of asynchronous loads (R116, R297). -/

namespace Sys2Proof.Machine

/-- Binds and unbinds of a clock take effect (R112). -/
def Core.settleBinds (q : Core) : Core :=
  { q with handles := q.bindNew.foldl (fun m p => match p.2 with | some h => mapPut m p.1 h | none => mapDel m p.1) q.handles
           bindNew := [] }

/-- Releases of ring slots and unbinds of stream registers take effect (R305, R309). -/
def Core.settleRings (q : Core) : Core :=
  { q with rings := q.rings.map fun p =>
             (p.1, { p.2.settle with bound := match p.2.bound with
                                              | some (v, o) => if q.unbindStream.contains v then none else some (v, o)
                                              | none => none })
           unbindStream := [] }

/-- Pushes of a clock are taken up (R117). -/
def Core.settleQueues (q : Core) : Core :=
  { q with qs := q.qsNew.foldl (fun m p => mapPut m p.1 (mapGet m p.1 [] ++ p.2)) q.qs
           qv := q.qvNew.foldl (fun m p => mapPut m p.1 (mapGet m p.1 [] ++ p.2)) q.qv
           qsNew := [], qvNew := [] }

/-- Core barriers sum the decrements of a clock; a phase that advances sets the event latches (R124, R285). -/
def Core.settleBarriers (q : Core) : Core :=
  let q1 := { q with barriers := q.barriers.map fun p => (p.1, p.2.settle) }
  if q.barriers.any fun p => p.2.settle.phase != p.2.phase then q1.wake else q1

/-- What takes effect in a core at the end of a clock. -/
def Core.settle (q : Core) : Core := q.settleBinds.settleRings.settleQueues.settleBarriers

/-- Something in a core waits for the end of the clock. -/
def Core.edgeWork (q : Core) : Bool :=
  !q.bindNew.isEmpty || !q.unbindStream.isEmpty || !q.qsNew.isEmpty || !q.qvNew.isEmpty ||
  (q.rings.any fun p => p.2.slots.any fun x => x.next.isSome) || q.barriers.any fun p => p.2.due

/-- Other packages of a pod gang. -/
def State.peersOf (s : State) (t : Task) : List Nat :=
  if t.scope = 2 then (upTo 64).filter fun p => bvBit t.podmask p && p != s.podId.toNat else []

/-- Those whose members are not done (R75). -/
def State.livePeers (s : State) (t : Task) : List Nat := (s.peersOf t).filter fun p => !(t.peersDone.contains p)

/-- A gang barrier whose object is in this package: every one but a peer's pod barrier (R123). -/
def Task.ownsBg (t : Task) : Bool := t.bgLevel != 0 && (t.bgLevel != 4 || decide (t.queue < 128))

/-- The gang barrier of a task sums its decrements; a phase that advances sets the event latches of every member, and goes to
the peers of a pod gang (R123, R124, R285).  A peer sends its arrivals to the launcher. -/
def State.settleBg (s : State) (id : Nat) : State :=
  match s.task? id with
  | none => s
  | some t =>
    if t.ownsBg && t.bg.due then
      let b := t.bg.settle
      let s := s.setTask { t with bg := b }
      if b.phase = t.bg.phase then s
      else
        let s := t.cores.foldl (fun s c => s.setCore c (s.core c).wake) s
        (s.peersOf t).foldl (fun s p => s.sendPod p (.barrier (.phase b.phase)) t.id t.attempt) s
    else if t.bgLevel = 4 ∧ t.bg.arrivals ≠ 0 then
      (s.setTask { t with bg := { t.bg with arrivals := 0, ca := t.bg.ca - (t.bg.arrivals : Int) } }).sendPod
        (launcherOf t.id) (.barrier (.arrivals t.bg.arrivals)) t.id t.attempt
    else s

/-- The end of a clock of core `c`. -/
def State.endClock (s : State) (c : Nat) : State :=
  let q := (s.core c).settle
  let s := s.setCore c { q with clk := q.clk + 1, picks := none }
  match q.task with
  | some id => s.settleBg id
  | none => s

/-! ## Asynchronous loads -/

/-- A strand whose load on counter `lc` has completed: it is no longer held for that counter, or for registers that no load left will
write (R101). -/
def Strand.loadDone (t : Strand) (lc : Nat) (rest : List OutLoad) : Strand :=
  let h := match t.hold with
    | some (.load rs vs) => if loadsPending rest rs vs then some (.load rs vs) else none
    | some (.counterFull n) => if n = lc then none else some (.counterFull n)
    | x => x
  { t with loads := rest, hold := h, heldTicks := if h.isNone then 0 else t.heldTicks }

/-- A loaded value written to its destination; none while the ring of a bound OUT register is full (R116, R297), or the response of a
P-space load has not come (R27). -/
def State.writeLoad (s : State) (c k : Nat) (d : LoadDst) : Option State :=
  match d with
  | .nothing => some s
  | .scalar r v =>
    some ((s.setCore c ((s.core c).setStrand k (((s.core c).strand k).setReg r v))).clearPoison (.sreg c k r))
  | .vector r bits v side sv =>
    let put := fun (s : State) => (s.putVec c r bits v.toNat).putSide c r side sv.toNat
    match (s.core c).streamOf r with
    | some (_, ring, true) =>
      if (ring.claim true 1 (.stream r)).isNone then none
      else
        let old := s.core c
        let t := ((put { s with cur := (c, k) }).streamOut r).restoreVecs old [r]
        some { t with cur := s.cur }
    | _ => some (put s)
  | _ => none

/-- The oldest load on counter `lc` of strand `k` of core `c` completes, if it can. -/
def State.finishLoad (s : State) (c k lc : Nat) : Option State :=
  match takeLoad lc ((s.core c).strand k).loads with
  | none => none
  | some (l, rest) =>
    (s.writeLoad c k l.dst).map fun u =>
      u.setCore c ((u.core c).setStrand k (((u.core c).strand k).loadDone lc rest))

/-- Every outstanding load of a strand completes, in issue order. -/
def State.finishLoads (s : State) (c k : Nat) : State :=
  ((s.core c).strand k).loads.foldl (fun s l => (s.finishLoad c k l.lc).getD s) s

end Sys2Proof.Machine
end

