-- ==== Sys2Proof/Machine/SaveSlot.lean ====
section
/-! DEFINITION. The bytes of a save slot (R221 to R223, R225).  Where R222 names what a field holds and not how, the layout is that
of log 14. -/

namespace Sys2Proof.Machine

/-- Bytes of a save slot (R221). -/
def slotBytes : Nat := 0xC00000

/-- An offset rounded up to the next multiple of 64. -/
def align64 (n : Nat) : Nat := (n + 63) / 64 * 64

/-- ENG and OP of a record (R249). -/
def RecOp.code : RecOp → Nat × Nat
  | .mma => (0, 0) | .ocon => (0, 1) | .mdrain => (0, 2) | .mclr => (0, 3)
  | .cpy => (1, 0) | .cpys => (1, 1) | .cfill => (1, 2)
  | .gath => (2, 0) | .scat => (2, 1) | .merg => (2, 2) | .topk => (2, 3) | .cmpt => (2, 4)
  | .nbin => (3, 0) | .nstrm => (3, 1) | .chain => (15, 0) | .rnop => (15, 1)

/-- The 64 bytes of a record as captured. -/
def Rec.bytes (r : Rec) : List Byte := leBytes 64 (encodeN r.op.code.1 r.op.code.2 r.hdr r.body)

/-- The 128 bytes of a descriptor (R127). -/
def Desc.bytes (d : Desc) : List Byte :=
  leBytes 1 d.space ++ leBytes 1 (fmtCode d.fmt) ++ leBytes 1 d.rank ++ leBytes 1 (d.codec + 4 * d.sealed.toNat) ++
  leBytes 1 (d.policy + 4 * d.trap.toNat + 8 * d.rd.toNat + 16 * d.wr.toNat) ++ leBytes 1 d.swz ++
  leBytes 1 (match d.ring with | some r => 128 + r | none => 0) ++ leBytes 1 0 ++ leBytes 8 d.base ++
  ((upTo 6).flatMap fun i => leBytes 4 (d.ext.getD i 0)) ++ ((upTo 5).flatMap fun i => leBytes 8 (d.pitch.getD (i + 1) 0)) ++
  leBytes 1 d.slink ++ leBytes 1 d.slv.toNat ++ leBytes 2 d.tgt ++ leBytes 4 d.peer ++ leBytes 8 d.clen ++
  (d.sym.flatMap Gen.bytes ++ leBytes 32 0).take 32

/-- A handle slot: descriptor, LO and EXT of the window, PWIN, seal and bound flags (R222). -/
def Handle.slotBytes (h : Handle) : List Byte :=
  h.desc.bytes ++ ((upTo 6).flatMap fun i => leBytes 4 (h.lo.getD i 0)) ++ ((upTo 6).flatMap fun i => leBytes 4 (h.ext.getD i 0)) ++
  leBytes 1 (h.pwinIn.toNat + 2 * h.pwinOut.toNat + 4 * h.sealed.toNat + 8)

/-- A strand context (R222); `held` is set where the strand stopped held at its pc. -/
def Strand.contextBytes (t : Strand) (held : Bool) : List Byte :=
  leBytes 8 t.pc ++ leBytes 8 (t.tdone.toNat + 2 * held.toNat) ++ ((upTo 64).flatMap fun i => leBytes 8 (t.reg i).toNat) ++
  leBytes 8 t.p.toNat ++ ((upTo 8).flatMap fun i => leBytes 8 (mapGet t.b i 0).toNat) ++
  ((upTo 4).flatMap fun i => leBytes 8 (t.loads.filter fun l => l.lc == i).length) ++ leBytes 8 t.vshape.toNat ++
  leBytes 4 t.fpctl.toNat ++ leBytes 4 t.fpst.toNat ++ leBytes 8 t.trapvec.toNat ++ leBytes 8 t.trapinfo.toNat ++
  leBytes 8 t.trappc.toNat ++ leBytes 8 t.traparg.toNat

/-- State of a ring slot and its holder, in two bytes. -/
def RingSlot.code (x : RingSlot) : Nat :=
  (match x.state with | .free => 0 | .filling => 1 | .full => 2 | .draining => 3) +
  4 * (match x.holder with
       | none => 0
       | some (.strand k) => 1 + k
       | some (.stream v) => 512 + v
       | some (.record _ e n) => 8192 + 1024 * e + n % 1024)

/-- A ring: the values of RINIT, FH, CH, the binding of a stream register, and the slots. -/
def Ring.slotBytes (r : Ring) : List Byte :=
  leBytes 8 r.place.toNat ++ leBytes 8 r.shape.toNat ++ leBytes 4 r.fh.toNat ++ leBytes 4 r.ch.toNat ++
  leBytes 8 (match r.bound with | some (v, out) => 2 ^ 15 + 2 ^ 14 * out.toNat + v | none => 0) ++
  r.slots.flatMap fun x => leBytes 2 x.code

/-- A barrier in 16 bytes: EA, EB, CA, CB and phase. -/
def Barrier.slotBytes (b : Barrier) : List Byte :=
  leBytes 2 b.ea ++ leBytes 4 b.eb ++ leBytes 2 (ofSigned 16 b.ca) ++ leBytes 4 (ofSigned 32 b.cb) ++ leBytes 4 b.phase.toNat

/-- Flags of an engine record entry: started, pushed but not consumed, pending MCHECK. -/
def Rec.entryFlags (r : Rec) : Nat := r.started.toNat + 2 * (r.op == .cpys && r.ended).toNat + 4 * r.mcheck.isSome.toNat

/-- Timeline number and micro-PC of a record entry. -/
def Rec.placeBytes (r : Rec) : List Byte := leBytes 8 r.num ++ (upTo 6).flatMap fun i => leBytes 4 (r.upc.getD i 0)

/-- Running values of a record entry, the CRCs, the output count and the status, then its consumed counts by input. -/
def Rec.valueBytes (r : Rec) : List Byte :=
  leBytes 4 (r.val auxXcrc) ++ leBytes 4 (r.val auxCcrc) ++ leBytes 8 (r.val auxOut) ++ leBytes 8 r.flags.toNat ++
  (upTo 16).flatMap fun i => leBytes 8 (r.val (auxInput + i))

/-- The entry of a record; of a CHAIN, with the listed record `m` in progress and the offset of its saved list. -/
def Rec.entryBytes (r : Rec) (m : Option Rec) (list : Nat) : List Byte :=
  if r.op = .chain then
    let x := m.getD r
    let i := match m with | some y => r.val auxChain - (r.num - y.num) | none => r.val auxChain
    r.bytes ++ x.placeBytes ++ leBytes 8 (x.entryFlags + 8 + 2 ^ 16 * i + 2 ^ 32 * (list / 64)) ++ x.valueBytes
  else r.bytes ++ r.placeBytes ++ leBytes 8 r.entryFlags ++ r.valueBytes

/-- The first entry of an engine among the 60: ME 16, CE0 16, CE1 16, IE 8, NE 4. -/
def entryBase (e : Nat) : Nat := if e < 4 then 16 * e else 56

/-- The entries of an engine, the saved lists of its CHAINs from `list` on. -/
def entryPieces (e : Nat) (all : List Rec) : List Rec → Nat → Nat → List (Nat × List Byte)
  | [], _, _ => []
  | r :: rs, i, list =>
    if r.member then entryPieces e all rs i list
    else
      let m := if r.op = .chain then all.find? fun y => y.member && decide (y.num < r.num) && decide (r.num ≤ y.num + r.val auxChain)
               else none
      let n := match r.chainBytes with | some p => p.2 | none => 0
      (0x1E000 + 256 * (entryBase e + i), r.entryBytes m list) :: entryPieces e all rs (i + 1) (list + n)

/-- Bytes of the lists of the CHAINs queued on the engines below `e` (R223). -/
def Core.listsBelow (q : Core) (e : Nat) : Nat :=
  ((upTo e).flatMap fun i => (q.engine i).queue.filterMap fun r => r.chainBytes.map fun p => p.2).sum

/-- Pieces packed one after another at multiples of 64, from `at_` on. -/
def packPieces : List (List Byte) → Nat → List (Nat × List Byte)
  | [], _ => []
  | b :: bs, at_ => (at_, b) :: packPieces bs (at_ + align64 b.length)

/-- SAVE entries of the header: data offset, length, space, target rank, store offset. -/
def saveEntries (rank : Nat) : List (Nat × Nat × List Byte) → Nat → List Byte
  | [], _ => []
  | d :: ds, at_ =>
    leBytes 4 at_ ++ leBytes 4 d.2.2.length ++ leBytes 1 d.1 ++ leBytes 1 0 ++ leBytes 2 rank ++ leBytes 4 d.2.1 ++
    saveEntries rank ds (at_ + align64 d.2.2.length)

/-- The patches that are saved whole. -/
def Core.livePatches (q : Core) (t : Task) (covers : Nat → Bool) : List Nat :=
  if t.loop then [] else (upTo 32).filter fun z => (q.patch z).written && !(covers z)

/-- The header (R222), with the patches saved and the save data. -/
def slotHeader (t : Task) (q : Core) (live : List Nat) (data : List (Nat × Nat × List Byte)) : List Byte :=
  leBytes 8 t.id.toNat ++ leBytes 2 t.tenant ++ leBytes 2 q.rank ++ leBytes 1 q.strands.length ++
  leBytes 1 (t.loop.toNat + 2 * t.pure.toNat + 4 * t.tainted.toNat) ++ leBytes 2 0 ++
  ((upTo 5).flatMap fun e => leBytes 8 (q.engine e).tl) ++ leBytes 4 (live.foldl (fun n z => n + 2 ^ z) 0) ++
  leBytes 2 data.length ++ leBytes 2 0 ++ saveEntries q.rank data 0

/-- The pieces of a slot beside the header, the strand contexts and the save data, which the slot of a LOOP task leaves out
(R225). -/
def Core.plainPieces (q : Core) (live : List Nat) (lists : List (List Byte)) : List (Nat × List Byte) :=
  (q.handles.map fun p => (0x3000 + 256 * p.1, p.2.slotBytes)) ++
  (q.rings.map fun p => (0x13000 + 1024 * p.1, p.2.slotBytes)) ++
  (q.barriers.map fun p => (0x1B000 + 16 * p.1, p.2.slotBytes)) ++
  (q.pf.map fun p => (0x1C000 + 2048 * (p.1 / 320) + 4 * (p.1 % 320), leBytes 4 p.2.toNat)) ++
  ((upTo 5).flatMap fun e => entryPieces e (q.engine e).queue (q.engine e).queue 0 (q.listsBelow e)) ++
  ((upTo 5).flatMap fun e => (q.engine e).words.reverse.map fun p => (0x22000 + 512 * e + 8 * (p.1 % 64), leBytes 8 p.2.toNat)) ++
  [(0x23000, (upTo 16).flatMap fun n =>
      leBytes 8 (if n < 8 then (mapGet q.qs n []).length else (mapGet q.qv n []).length))] ++
  (q.qs.map fun p => (0x23080 + 128 * p.1, p.2.flatMap fun v => leBytes 8 v.toNat)) ++
  (q.qv.map fun p => (0x24000 + 9216 * (p.1 - 8), p.2.flatMap fun v => leBytes 2048 v.1.toNat ++ leBytes 256 v.2.toNat)) ++
  (q.v.map fun p => (0x36000 + 2048 * p.1, leBytes 2048 p.2.toNat)) ++
  (q.side.map fun p => (0xD6000 + 256 * p.1, leBytes 256 p.2.toNat)) ++
  (live.map fun z => (0x980000 + 49152 * z, (upTo 96).flatMap fun i => leBytes 512 (mapGet q.z (96 * z + i) 0).toNat)) ++
  packPieces lists 0xB00000

/-- The pieces of the slot of a saved core `q`: `held` strands were held, `data` is the save data and `lists` the lists of its
CHAINs. -/
def slotPieces (t : Task) (q : Core) (held : List Bool) (live : List Nat) (data : List (Nat × Nat × List Byte))
    (lists : List (List Byte)) : List (Nat × List Byte) :=
  (0, slotHeader t q live data) ::
  (q.strands.zipIdx.map fun p => (0x1000 + 1024 * p.2, p.1.contextBytes (held.getD p.2 false))) ++
  (if t.loop then [] else q.plainPieces live lists) ++
  packPieces (data.map fun d => d.2.2) 0x100000

/-- The cells of a piece. -/
def pieceCells (base : Nat) (p : Nat × List Byte) : Bytes :=
  (p.2.zipIdx.filter fun b => b.1 != unlistedByte).map fun b => (base + p.1 + b.2, b.1)

/-- A save slot written whole under the key of the task's tenant (R221). -/
def State.writeSave (s : State) (t : Task) (slot : Nat) (pieces : List (Nat × List Byte)) : State :=
  let pa := s.saveBase + slotBytes * slot
  s.hbmFill (s.keySlot t.tenant).gen pa slotBytes (pieces.flatMap (pieceCells pa))

/-- The free slots of the save region, lowest first (log 14). -/
def State.freeSlots (s : State) : List Nat :=
  let used := s.tasks.flatMap fun p => p.2.saved.map fun x => x.2.slot
  (upTo s.saveSlots).filter fun k => !(used.contains k)

end Sys2Proof.Machine
end

