-- ==== Sys2Proof/Machine/Preempt.lean ====
section
/-! DEFINITION. The stop, save and resume of a pre-empted task (R72, R74, R163, R219 to R226).  The resume takes back what the save
wrote into the task's slots, which no other master reaches (R52), as structured data (log 14). -/

namespace Sys2Proof.Machine

/-! ## The stop -/

/-- A core of a LOOP task has reached the point of R225: every strand at its KNEXT, or done, and every record completed. -/
def Core.atStep (q : Core) : Bool :=
  (q.strands.all fun t => t.knext || t.tdone) && q.engines.all fun e => e.2.queue.isEmpty

/-- A load still awaits the response of its request (R27, R297). -/
def LoadDst.pending : LoadDst → Bool
  | .peerScalar .. => true | .peerVector .. => true | _ => false

/-- A core can stop: no strand awaits the response of a P-space access it has issued. -/
def Core.canStop (q : Core) : Bool :=
  q.strands.all fun t => !(t.loads.any fun l => l.dst.pending) && (match t.hold with | some (.response _) => false | _ => true)

/-- The release at pod scope of a member of a pod gang is complete: its writes are performed and acknowledged (R61, R75, R176,
R185). -/
def State.podReleased (s : State) (t : Task) (c : Nat) : Bool :=
  t.scope != 2 || ((s.core c).writes.isEmpty && !s.awaitingAcks)

/-- The stop of a pre-emption is complete (R219, R225), and the save region has a free slot for each core (R221; log 14). -/
def State.stopped (s : State) (t : Task) : Bool :=
  t.phase == .stopping && t.aborted.isNone && decide (t.cores.length ≤ s.freeSlots.length) &&
  t.cores.all fun c => s.podReleased t c && (s.core c).canStop && (!t.loop || (s.core c).atStep)

/-! ## The save -/

/-- A strand as it is saved: at its pc, its hold dropped (R101, R177); loads that a full ring keeps from completing stay outstanding
(R219; log 49). -/
def Strand.stop (t : Strand) : Strand :=
  { t with hold := none, heldTicks := 0, scStage := 0, waiting := none, knext := false, window := [] }

/-- The first chunk of a CPYS that no record has taken, and how many there are. -/
def Core.chunksOf (q : Core) (r : Rec) : List Chunk :=
  q.streams.flatMap fun p => p.2.filter fun k => k.chan == r.eng && k.num == r.num

/-- A CPYS set back to its first chunk not consumed (R220). -/
def Rec.rewind (q : Core) (r : Rec) : Rec :=
  if r.op = .cpys then
    match q.chunksOf r with
    | [] => r
    | k :: ks => { r with upc := k.upc, count := r.count - (ks.length + 1), ended := false }
  else r

/-- Bytes of the Z store: patch zk from byte k · 48 KiB on, rows of 512 bytes. -/
def Core.zByte (q : Core) (off : Nat) : Byte :=
  BitVec.ofNat 8 (bvField (mapGet q.z (off / 512) 0) (8 * (off % 512)) 8)

/-- A byte of the Z store written. -/
def Core.putZByte (q : Core) (off : Nat) (b : Byte) : Core :=
  { q with z := mapPut q.z (off / 512) (bvSetField (mapGet q.z (off / 512) 0) (8 * (off % 512)) 8 b.toNat) }

/-- Bytes of a region of a store of core `c` as a save reads them (R223). -/
def State.saveBytes (s : State) (c space off n : Nat) : List Byte :=
  if space < 3 then s.readAt (.store c space off) n else (upTo n).map fun i => (s.core c).zByte (off + i)

/-- The lists of queued CHAINs (R223): offset in S and length. -/
def Core.chainLists (q : Core) : List (Nat × Nat) := q.engines.flatMap fun e => e.2.queue.filterMap Rec.chainBytes

/-- The save data of a core: its save windows in table order (R223). -/
def State.saveData (s : State) (t : Task) (c : Nat) : List (Nat × Nat × List Byte) :=
  t.saveSet.map fun w => (w.1, w.2.1, s.saveBytes c w.1 w.2.1 w.2.2)

/-- The lists of the CHAINs of a core. -/
def State.saveLists (s : State) (c : Nat) : List (Nat × Nat × List Byte) :=
  (s.core c).chainLists.map fun l => (2, l.1, s.saveBytes c 2 l.1 l.2)

/-- A save window covers patch `z` whole. -/
def Task.covers (t : Task) (z : Nat) : Bool :=
  t.saveSet.any fun w => w.1 == 3 && decide (w.2.1 ≤ 49152 * z) && decide (49152 * (z + 1) ≤ w.2.1 + w.2.2)

/-- Rows of the patches that are saved whole: written by the task, and covered by no save window (R223). -/
def Core.savedRows (q : Core) (t : Task) : Map (BitVec 4096) :=
  q.z.filter fun p => (q.patch (p.1 / 96)).written && !(t.covers (p.1 / 96))

/-- An engine as it is saved: its records rewound, those a shootdown waits for discarded as HUNBOUND (R139, R220). -/
def Engine.save (q : Core) (wait : List (Nat × Nat × Nat)) (x : Engine) : Engine :=
  { x with queue := x.queue.map fun r =>
      let r := r.rewind q
      if wait.contains (r.core, r.eng, r.num) then { r with hunbound := true } else r }

/-- The context of one core of a PLAIN task (R222). -/
def State.saveCore (s : State) (t : Task) (c slot : Nat) : SavedCore :=
  let q := s.core c
  { slot := slot
    core := { q with strands := q.strands.map Strand.stop, picks := none, w := [], a := [], s := [],
                     z := q.savedRows t, patches := q.patches.map (fun p => (p.1, { p.2 with drained := none })),
                     engines := q.engines.map (fun e => (e.1, e.2.save q s.sdWait)), streams := [], writes := [] }
    data := s.saveData t c ++ s.saveLists c }

/-- What is left of a chunk goes back to the TGS when a core stops in its kernel (R74). -/
def Core.leftOver (q : Core) : List (Nat × Nat) :=
  match q.place with
  | .kernel => if 1 < q.count then [(q.index + 1, q.count - 1)] else []
  | _ => []

/-- The context of one core of a LOOP task (R225): strands, timelines and save data; stopped in its kernel, its count is 1 and
s5 of every strand 1 (R74, R278). -/
def State.saveLoopCore (s : State) (t : Task) (c slot : Nat) : SavedCore :=
  let q := s.core c
  let kernel := q.place == .kernel
  let strand := fun (x : Strand) => if kernel then x.stop.setReg 5 1 else x.stop
  { slot := slot
    core := { Core.initial with rank := q.rank, strands := q.strands.map strand, place := q.place, index := q.index,
                                count := if kernel then 1 else q.count,
                                engines := q.engines.map (fun e => (e.1, { Engine.idle with tl := e.2.tl, last := e.2.tl,
                                                                                            pend := e.2.pend })) }
    data := s.saveData t c }

/-- The slot of core `c` is written (R221, R222): `x` is its saved context; a strand at its KNEXT is held there. -/
def State.writeSaved (s : State) (t : Task) (c : Nat) (x : SavedCore) : State :=
  s.writeSave t x.slot (slotPieces t x.core ((s.core c).strands.map fun y => y.hold.isSome || y.knext)
    (x.core.livePatches t t.covers) (s.saveData t c) ((s.saveLists c).map fun d => d.2.2))

/-- A range put into a list by its first iteration. -/
def insertRange (x : Nat × Nat) : List (Nat × Nat) → List (Nat × Nat)
  | [] => [x]
  | y :: ys => if x.1 ≤ y.1 then x :: y :: ys else y :: insertRange x ys

/-- A pre-empted task is at the head of its FIFO, and the head of before is no longer head; members of a launcher elsewhere wait for
its RESERVE (R70, R72). -/
def State.backInTurn (s : State) (t : Task) : State :=
  if 128 ≤ t.queue then
    { s with peerGangs := s.peerGangs.map fun g => if g.task = t.id then { g with state := 4, timer := false } else g }
  else
    let q := s.queue t.queue
    let s := match q.fifo with
      | h :: _ => (match s.task? h with | some u => s.setTask { u with patience := false } | none => s)
      | [] => s
    s.setQueue t.queue { s.queue t.queue with fifo := t.id.toNat :: q.fifo }

/-- PREEMPTION_COMPLETE (R74, R185, R219 to R223): loads complete, writes are performed, every core is saved and freed. -/
def State.saveTask (s : State) (t0 : Task) : State :=
  let s := t0.cores.foldl (fun s c => (upTo (s.core c).strands.length).foldl (fun s k => s.finishLoads c k) s) s
  let s := t0.cores.foldl (fun s c => s.setCore c (s.core c).settle) s
  let s := (t0.cores.foldl State.drainCore s).settleBg t0.id.toNat
  match s.task? t0.id.toNat with
  | none => s
  | some t =>
    let slots := s.freeSlots
    let saved := t.cores.zipIdx.map fun p =>
      (p.2, (if t.loop then s.saveLoopCore else s.saveCore) t p.1 (slots.getD p.2 0))
    let s := (t.cores.zip saved).foldl (fun s p => s.writeSaved t p.1 p.2.2) s
    let left := if t.loop then t.cores.flatMap fun c => (s.core c).leftOver else []
    let s := (s.backInTurn t).vacateCores t.cores
    let s := s.setTask { t with phase := .saved, former := t.cores, cores := [], saved := saved, patience := false
                                attempt := if (s.peersOf t).isEmpty ∨ 128 ≤ t.queue then t.attempt else (t.attempt + 1) % 256
                                returned := left.foldr insertRange t.returned }
    { s with saveFree := s.saveFree - saved.length
             tasks := s.tasks.map fun p =>
               if p.2.waits = some t.id.toNat then (p.1, { p.2 with waits := none }) else p }

/-! ## The resume (R224) -/

/-- The core that took the place of a former core. -/
def newCore (former now : List Nat) (c : Nat) : Nat :=
  match (former.zip now).find? fun p => p.1 == c with
  | some p => p.2
  | none => c

/-- A location number after a move. -/
def movedLoc (f : Nat → Nat) (a : Nat) : Nat :=
  let k := a / 2 ^ 64
  if 1 ≤ k ∧ k < 2048 then 2 ^ 64 * (1 + 4 * f ((k - 1) / 4) + (k - 1) % 4) + a % 2 ^ 64 else a

/-- A record after a move: its core, the core of its specs, its rings and the bytes it has written. -/
def Rec.move (f : Nat → Nat) (r : Rec) : Rec :=
  { r with core := f r.core, objCore := f r.objCore
           wrote := r.wrote.foldl (fun m w => rangeAdd m (movedLoc f w.1) w.2) []
           aux := if r.op = .nstrm then
               r.aux.map fun p => if auxRing 0 ≤ p.1 ∧ p.1 < auxRingBlocks 0 then (p.1, 32 * f (p.2 / 32) + p.2 % 32) else p
             else r.aux }

/-- A ring after a move: records that hold its slots. -/
def Ring.move (f : Nat → Nat) (r : Ring) : Ring :=
  { r with slots := r.slots.map fun x =>
      match x.holder with
      | some (.record c e n) => { x with holder := some (.record (f c) e n) }
      | _ => x }

/-- A strand as it resumes at clock `clk` of its core: every b register counts as written then (R276). -/
def Strand.resume (clk : Nat) (t : Strand) : Strand :=
  { t with latch := true, window := (upTo 8).map fun x => (x, clk + Config.branchWindow) }

/-- A core of a PLAIN task restored over the core it resumes on, its slots still unbound. -/
def Core.restore (q : Core) (f : Nat → Nat) (v : Core) : Core :=
  { q with strands := v.strands.map (Strand.resume q.clk), z := v.z, patches := v.patches, v := v.v, side := v.side,
           qs := v.qs, qv := v.qv, rings := v.rings.map (fun p => (p.1, p.2.move f)), barriers := v.barriers, pf := v.pf,
           engines := v.engines.map (fun e => (e.1, { e.2 with queue := e.2.queue.map (Rec.move f) })) }

/-- A core of a LOOP task restored: the rest as at task entry, the vector file and the PFU tables zero (R225). -/
def Core.restoreLoop (q : Core) (v : Core) : Core :=
  { q with strands := v.strands.map (Strand.resume q.clk), place := v.place, index := v.index, count := v.count,
           v := [], side := [], pf := [], engines := v.engines }

/-- The poison of patch words that a write of `n` bytes of the Z store covers whole (R215). -/
def State.curedZ (s : State) (c off n : Nat) : State :=
  { s with poison := s.poison.filter fun u =>
      match u with
      | .patch x z w => !(x == c && decide (off ≤ 49152 * z + 8 * w) && decide (49152 * z + 8 * w + 8 ≤ off + n))
      | _ => true }

/-- Save data written back into the stores of a core. -/
def State.restoreData (s : State) (c : Nat) (ds : List (Nat × Nat × List Byte)) : State :=
  ds.foldl (fun s d =>
    if d.1 < 3 then s.writeAt (.store c d.1 d.2.1) d.2.2
    else (s.curedZ c d.2.1 d.2.2.length).setCore c (d.2.2.zipIdx.foldl (fun q p => q.putZByte (d.2.1 + p.2) p.1) (s.core c))) s

/-- A slot bound again on core `c`; none where the bind faults (R224). -/
def State.rebind (s : State) (t : Task) (c : Nat) (h : Handle) : Option Handle :=
  if h.isArgs then
    let r := s.bindDesc { t with pure := false } c (argsDesc t) coord0 (argsDesc t).ext false
    if r.1.isEmpty then some { r.2 with isArgs := true } else none
  else
    let r := s.bindDesc t c h.desc h.lo h.ext h.window
    if r.1.isEmpty then some { r.2 with sealed := h.sealed } else none

/-- A slot of core `c` takes what a bind gives, or stays unbound where the bind faults (R224). -/
def State.putBound (s : State) (c slot : Nat) (r : Option Handle) : State :=
  match r with
  | some h => s.setCore c { s.core c with handles := mapPut (s.core c).handles slot h }
  | none => s

/-- The saved slots of a core bound again. -/
def State.rebindSlots (s : State) (t : Task) (c : Nat) (m : Map Handle) : State :=
  m.foldl (fun s p =>
    (s.drawIf (p.2.desc.space == 6)).putBound c p.1 (s.rebind t c p.2)) s

/-- The slots of a LOOP task at resume, as at task entry: h0, h1 and the windows (R111, R225). -/
def State.rebindLoop (s : State) (t : Task) (c : Nat) : State :=
  let own := ownStoreDesc (s.core c).rank
  let a := s.bindDesc { t with pure := false } c (argsDesc t) coord0 (argsDesc t).ext false
  let s := if t.arglen ≠ 0 ∧ a.1.isEmpty then s.putBound c 0 (some { a.2 with isArgs := true }) else s
  let s := s.putBound c 1 (some (s.bindDesc t c own coord0 own.ext false).2)
  (windowSlots t.windows 2).foldl (fun s p =>
    s.putBound c p.1 (match s.bindWindow t c p.2 with | .ok h => some h.2 | .error _ => none)) s

/-- A saved record at resume: its bindings bound again, or it completes with HUNBOUND (R139, R224). -/
def State.rebindRec (s : State) (t : Task) (r : Rec) : Rec :=
  let bs := r.binds.map fun p => (p.1, s.rebind t r.core p.2)
  if r.hunbound || bs.any fun p => p.2.isNone then
    { r.mark wHUNBOUND with started := true, ended := true, hunbound := true }
  else { r with binds := bs.filterMap fun p => p.2.map fun h => (p.1, h) }

/-- The records of core `c` at resume; those of the neighbour engine enter the tail of the die queue (R163). -/
def State.rebindRecs (s : State) (t : Task) (c : Nat) : State :=
  let q := s.core c
  let s1 := s.setCore c { q with engines := q.engines.map fun e =>
    (e.1, { e.2 with queue := e.2.queue.map (s.rebindRec t) }) }
  let d := dieOf c
  s1.setDie d { s1.die d with neQueue := (s1.die d).neQueue ++ (q.engine 4).queue.map fun r => (c, r.num) }

/-- Poison of the vector file, the queue and strand registers, and with `z` the patches, that a resume writes whole (R215). -/
def State.restoredPoison (s : State) (c : Nat) (z : Bool) : State :=
  { s.entryPoison c with poison := (s.entryPoison c).poison.filter fun u =>
      match u with
      | .vreg x _ _ => x != c
      | .patch x _ _ => x != c || !z
      | _ => true }

/-- A saved task resumes on cores, in rank order (R185, R224). -/
def State.resumeTask (s : State) (t0 : Task) (cores : List Nat) : State :=
  let t := { t0 with cores := cores, phase := .running, saved := [] }
  let f := newCore t0.former cores
  let ctx := cores.zip (t0.saved.map fun p => p.2)
  let s := s.setTask t
  let s := ctx.foldl (fun s p =>
    let q := s.core p.1
    let s := if q.mustClear t then s.clearedPoison p.1 else s.restoredPoison p.1 (!t.loop)
    let q := q.take t p.2.core.rank
    (s.setCore p.1 (if t.loop then q.restoreLoop p.2.core else q.restore f p.2.core)).applyRatio p.1 (s.gangRatio t)) s
  let s := ctx.foldl (fun s p =>
    if t.loop then s.rebindLoop t p.1 else s.rebindSlots t p.1 p.2.core.handles) s
  let s := ctx.foldl (fun s p => s.restoreData p.1 p.2.data) s
  let s := cores.foldl (fun s c => s.rebindRecs t c) s
  { s with saveFree := s.saveFree + t0.saved.length }

end Sys2Proof.Machine
end

