-- ==== Sys2Proof/Machine/Schedule.lean ====
section
/-! DEFINITION. The task graph scheduler's decisions: placement (R71), victims (R72), the dispatch decision (R70), chunks (R73, R74),
the end of cores (R61, R279), and the events of the scheduler and of the Larder's part in it (R88). -/

namespace Sys2Proof.Machine

/-! ## Place (R71) -/

/-- Free cores of a die in ascending number; those of task `extra` count as free. -/
def State.freeOf (s : State) (extra : Option Nat) (d : Nat) : List Nat :=
  ((upTo Config.coresPerDie).map fun i => Config.coresPerDie * d + i).filter fun c =>
    match (s.core c).task with | none => true | some i => extra == some i

/-- The first byte of the element at the LO corner of a window. -/
def Window.firstByte (w : Window) (d : Desc) : Nat :=
  match d.rep w.lo with
  | some (y, _) => d.base + d.bitPos y / 8
  | none => d.base + (d.footprint w.lo w.ext).1

/-- The first out or inout window in G, with its descriptor. -/
def Task.homeWindow (t : Task) : Option (Window × Desc) :=
  t.windows.findSome? fun w =>
    match w.form with
    | some d => if (w.mode = 2 ∨ w.mode = 3) ∧ d.space = 4 then some (w, d) else none
    | none => none

/-- Home die of that window's first element, where it is mapped. -/
def State.windowHome (s : State) (t : Task) : Option Nat :=
  match t.homeWindow with
  | none => none
  | some (w, d) =>
    match s.walk t.tenant (w.firstByte d) with
    | .page pa size _ _ _ => some (homeDie (pa + w.firstByte d % size))
    | _ => none

/-- The die with the most free cores, the lowest number first. -/
def mostFree (free : Nat → List Nat) : Nat :=
  (upTo Config.dies).foldl (fun b d => if (free b).length < (free d).length then d else b) 0

/-- The home die of a task. -/
def State.homeOf (s : State) (t : Task) (free : Nat → List Nat) : Nat :=
  match s.windowHome t with
  | some d => d
  | none => match t.spawnDie with | some d => d | none => mostFree free

/-- The level of the gang barrier of cores of this package, and the quad or die that holds its object (R123). -/
def gangLevel (cs : List Nat) : Nat × Nat :=
  match cs with
  | [] => (0, 0)
  | c :: rest =>
    if rest.isEmpty then (0, 0)
    else if rest.all fun x => x / 4 == c / 4 then (1, c / 4)
    else if rest.all fun x => dieOf x == dieOf c then (2, dieOf c)
    else (3, 0)

/-- The level of the gang barrier of a task on cores: the pod's for members on several packages. -/
def State.levelOf (s : State) (t : Task) (cs : List Nat) : Nat × Nat :=
  if t.bgLevel ≠ 0 then (t.bgLevel, t.bgAt)
  else if (s.peersOf t).isEmpty then gangLevel cs else (4, 0)

/-- Barrier objects of a level. -/
def levelObjects (l : Nat) : Nat := match l with | 1 => 4 | 2 => 64 | 3 => 128 | _ => 64

/-- An object is free for the gang barrier of a task, or the task has one already (R123). -/
def State.objectFree (s : State) (t : Task) (cs : List Nat) : Bool :=
  let l := s.levelOf t cs
  l.1 == 0 || t.bgLevel != 0 ||
  decide ((s.tasks.filter fun p => p.2.bgLevel == l.1 && p.2.bgAt == l.2).length < levelObjects l.1)

/-- The free cores from which Place takes those of a task under its scope and patience, in order from the home die on; a die-scope
task that was pre-empted looks at its former die first, while a core it had there is free. -/
def corePool (scope width home : Nat) (patient : Bool) (former : List Nat) (free : Nat → List Nat) : Option (List Nat) :=
  let order := (upTo Config.dies).map fun k => (home + k) % Config.dies
  if scope = 0 then
    let back := (former.filter fun c => (free (dieOf c)).contains c).map dieOf
    ((back ++ if patient then order else [home]).find? fun d => decide (width ≤ (free d).length)).map free
  else if patient || decide (width ≤ (free home).length) || decide ((free home).length = Config.coresPerDie) then
    let all := order.flatMap free
    if width ≤ all.length then some all else none
  else none

/-- The cores of the ranks from those of a pool: a rank keeps its former core where that is in `kept`, and the others take from `rest`
in order. -/
def fillRanks (kept : List Nat) : List Nat → List Nat → List Nat
  | [], _ => []
  | c :: former, rest =>
    if kept.contains c then c :: fillRanks kept former rest
    else match rest with
      | [] => fillRanks kept former []
      | r :: rest => r :: fillRanks kept former rest

/-- The cores that Place finds for a task, those of `extra` counted as free; a pre-empted task takes its former cores first, each at
its former rank, when they are free. -/
def State.fit (s : State) (t : Task) (extra : Option Nat) : Option (List Nat) :=
  let free := s.freeOf extra
  let back := t.former.all fun c => (free (dieOf c)).contains c
  let cs := if !t.former.isEmpty && back then some t.former
    else (corePool t.scope t.width (s.homeOf t free) t.patience t.former free).map fun pool =>
      if t.former.isEmpty then pool.take t.width
      else
        let kept := t.former.filter fun c => pool.contains c
        fillRanks kept t.former (pool.filter fun c => !(kept.contains c))
  match cs with
  | some cs => if s.objectFree t cs then some cs else none
  | none => none

/-- A message to every other package of a pod gang whose members are not done (R75). -/
def State.tellPeers (s : State) (t : Task) (k : PodKind) : State :=
  (s.livePeers t).foldl (fun s p => s.sendPod p k t.id t.attempt) s

/-- Members of a pod gang, their cores held and their slots bound, start; those that were pre-empted resume (R72, R75). -/
def State.startMembers (s : State) (t : Task) : State :=
  if t.saved.isEmpty then
    let t := { t with phase := .running, ackTimer := false, bg := t.freshBg }
    (s.setTask t).startStrands t
  else s.resumeTask { t with ackTimer := false } t.cores

/-- Members of a pod gang that Place has found cores for hold them until GO, their slots bound at placement (R65, R75); a bind that
faults ends the launch on every package, with its code.  The launcher sends RESERVE; members left without their launcher or without
a peer start at once (R76). -/
def State.holdMembers (s : State) (t : Task) : State :=
  let t := { t with phase := .reserving, acks := [], ackTimer := decide (t.queue < 128) }
  let s := s.setTask t
  let r := if t.saved.isEmpty then (s.takeCores t (s.rankBase t)).bindAll t t.cores
    else .ok (t.cores.foldl (fun s c => s.setCore c { s.core c with task := some t.id.toNat }) s)
  match r with
  | .error code =>
    if t.queue < 128 then s.retire t (.aborted 0x20 code none)
    else ((s.tellPeers t (.abort 0x20 code)).vacateCores t.cores).removeTask t
  | .ok u =>
    if t.queue < 128 then (if (s.livePeers t).isEmpty then u.startMembers t else u.tellPeers t .reserve)
    else if t.broken && !(s.podReachable (launcherOf t.id)) then u.startMembers t
    else u

/-- A task takes the cores that Place found (R54): it starts, resumes, or, for a gang on several packages, holds them until GO
(R75). -/
def State.occupy (s : State) (t : Task) (cs : List Nat) : State :=
  let l := s.levelOf t cs
  let t := { t with cores := cs, bgLevel := l.1, bgAt := l.2, stamp := s.stamp + 1, doneCores := [] }
  let s := { s with stamp := s.stamp + 1 }
  if 128 ≤ t.queue ∨ !(s.peersOf t).isEmpty then s.holdMembers t
  else if t.saved.isEmpty then ((s.setTask t).takeCores t (s.rankBase t)).startTask t
  else s.resumeTask t cs

/-- Place(t) (R71): a PURE task in HIT is retired by the Larder instead. -/
def State.placeTask (s : State) (t : Task) : State × Bool :=
  let r := if t.pure && t.phase == .ready then s.tryHit t else (s, false)
  if r.2 then r
  else match r.1.task? t.id.toNat with
    | none => (r.1, false)
    | some u =>
      match r.1.fit u none with
      | none => (r.1, false)
      | some cs => ((r.1.placedHit u).occupy u cs, true)

/-! ## Victims (R72) -/

/-- One running task whose pre-emption would let Place succeed. -/
def State.mayYield (s : State) (t v : Task) : Bool :=
  v.phase == .running && v.aborted.isNone && !v.cores.isEmpty && decide (t.prio < v.prio) &&
  decide (v.cores.length ≤ s.saveFree) && decide (v.queue < 128) && !v.broken &&
  (s.fit t (some v.id.toNat)).isSome

/-- The better of two victims: greatest priority number, then smallest width, then latest placement. -/
def betterVictim (a b : Task) : Task :=
  if a.prio < b.prio then b
  else if b.prio < a.prio then a
  else if b.width < a.width then b
  else if a.width < b.width then a
  else if a.stamp < b.stamp then b else a

/-- Victim(t). -/
def State.victim (s : State) (t : Task) : Option Task :=
  ((s.tasks.map fun p => p.2).filter (s.mayYield t)).foldl
    (fun a v => match a with | none => some v | some x => some (betterVictim x v)) none

/-- Preempt(v), unless a pre-emption is pending for t; the peers of a pod gang are told (R72; log 36). -/
def State.preemptFor (s : State) (t : Task) : State :=
  if t.waits.isSome then s
  else match s.victim t with
    | none => s
    | some v => ((s.setTask { v with phase := .stopping }).setTask { t with waits := some v.id.toNat }).tellPeers v .stop

/-! ## The dispatch decision (R70) -/

/-- The queue after Last[prio] among those of a priority with a task to dispatch. -/
def State.turnOf (s : State) (prio : Nat) : Option Nat :=
  let qs := (upTo 128).filter fun n => (s.queue n).prio == prio && !(s.queue n).fifo.isEmpty
  match qs.find? fun n => decide (mapGet s.lastQueue prio 127 < n) with
  | some n => some n
  | none => qs.head?

/-- A pending reservation of a priority: it comes ahead of every queue (R75). -/
def State.pendingPeer (s : State) (prio : Nat) : Option Task :=
  s.peerGangs.findSome? fun g =>
    if g.state = 0 then
      match s.task? g.task.toNat with
      | some t => if t.prio = prio then some t else none
      | none => none
    else none

/-- The task that has the turn of a priority, and its queue. -/
def State.headOf (s : State) (prio : Nat) : Option (Task × Option Nat) :=
  match s.pendingPeer prio with
  | some t => some (t, none)
  | none =>
    match s.turnOf prio with
    | none => none
    | some n =>
      match (s.queue n).fifo with
      | [] => none
      | i :: _ => (s.task? i).map fun t => (t, some n)

/-- A placed task leaves its FIFO and takes the turn of its priority; a reservation is then held (R75). -/
def State.tookTurn (s : State) (prio : Nat) (t : Task) (n : Option Nat) : State :=
  match n with
  | some n =>
    let q := s.queue n
    { s.setQueue n { q with fifo := q.fifo.filter fun i => i != t.id.toNat } with
      lastQueue := mapPut s.lastQueue prio n }
  | none =>
    match s.task? t.id.toNat with
    | none => s
    | some u =>
      let held := u.phase == .reserving
      let s : State := { s with peerGangs := s.peerGangs.map fun g =>
        if g.task = t.id ∧ g.state = 0 then { g with state := if held then 1 else 3, timer := held } else g }
      if held then s.sendPod (launcherOf t.id) .ack t.id t.attempt else s

/-- One decision over the priorities left: the state, and whether a task was placed. -/
def State.decideFrom (s : State) : List Nat → State × Bool
  | [] => (s, false)
  | p :: ps =>
    match s.headOf p with
    | none => s.decideFrom ps
    | some (t, n) =>
      if t.delayed then (s, false)
      else
        let r := s.placeTask t
        if r.2 then (r.1.tookTurn p t n, true)
        else match r.1.task? t.id.toNat with
          | some u => (r.1.preemptFor u, false)
          | none => (r.1, false)

/-- Decisions until one places nothing; `fuel` bounds them. -/
def State.dispatchLoop (s : State) : Nat → State
  | 0 => s
  | fuel + 1 =>
    let r := s.decideFrom (upTo 8)
    if r.2 then r.1.dispatchLoop fuel else r.1

/-- The dispatch decisions of a moment at which cores became free, a task entered a FIFO, a patience expired or a pre-emption
completed. -/
def State.dispatch (s : State) : State := s.dispatchLoop (s.tasks.length + 1)

/-! ## Records read (R61) -/

/-- The TGS reads a record of a kind, if one waits at the head of queue `n` while the part is ready, and dispatches. -/
def readKind (n kind : Nat) (act : State → List Byte → Option State) (s : State) : State :=
  if s.hasRecord n then (s.readRecord n kind (act s)).dispatch else s

/-- The kind of the record at the head of a queue that would start, or halt its queue, now. -/
def State.recordDue (s : State) (n : Nat) : Option Nat :=
  if s.hasRecord n then
    match s.readSlot n (s.queue n).ci with
    | none => some 0
    | some bs =>
      let k := bytesField bs 0 1
      let act : Option State := match k with
        | 0 => s.startRecord n bs
        | 1 => s.startGraphRecord n bs
        | 2 => s.fenceRecord n bs
        | 3 => s.signalRecord n bs
        | _ => none
      match act with
      | none => some k
      | some _ =>
        if (s.queue n).mayStart (k ≤ 1 && (bytesField bs 1 1).testBit 0) &&
           (k != 1 || s.countersFree (bytesField bs 24 4)) then some k else none
  else none

/-! ## LOOP chunks (R73, R74) -/

/-- The answer to a request: returned ranges first, then a new chunk; none when nothing is left. -/
def Task.nextChunk (t : Task) : Option (Nat × Nat) × Task :=
  match t.returned with
  | r :: rs => (some r, { t with returned := rs })
  | [] =>
    if t.rem = 0 then (none, t)
    else
      let n := Nat.min t.rem (Nat.max (Nat.max t.minch 1) (ceilDiv t.rem (2 * t.gangSize)))
      (some (t.next, n), { t with next := t.next + n, rem := t.rem - n })

/-- A core that takes its answer: the kernel with the chunk, or the epilogue (R278). -/
def Core.takeChunk (q : Core) (t : Task) : Option (Nat × Nat) → Core
  | some (first, n) =>
    { q.mapStrands (Strand.leaveKnext q.rank t.gangSize first n t.kernel) with place := .kernel, index := first, count := n }
  | none =>
    { q.mapStrands (Strand.leaveKnext q.rank t.gangSize 0 0 t.epilogue) with place := .epilogue, index := 0, count := 0 }

/-- A request of core `c` waits. -/
def State.asksChunk (s : State) (c : Nat) : Option Task :=
  match s.taskOf c with
  | some t =>
    if t.loop && t.phase == .running && t.aborted.isNone && (s.core c).place == .awaiting then some t else none
  | none => none

/-- CHUNK_REQUEST of core `c`. -/
def grantChunk (c : Nat) (s : State) : State :=
  match s.asksChunk c with
  | none => s
  | some t =>
    let r := t.nextChunk
    (s.setTask r.2).setCore c ((s.core c).takeChunk t r.1)

/-! ## Cores done (R61, R279) -/

/-- Every strand of a core has executed TDONE and every record it dispatched has completed. -/
def Core.finished (q : Core) : Bool :=
  !q.strands.isEmpty && q.strands.all (fun t => t.tdone) && q.engines.all fun e => e.2.queue.isEmpty

/-- The task of a core that has become done, or whose task has been aborted. -/
def State.coreEnds (s : State) (c : Nat) : Option Task :=
  match s.taskOf c with
  | none => none
  | some t =>
    if t.aborted.isSome then some t
    else if (s.core c).finished && !(t.doneCores.contains c) && s.podReleased t c &&
      (match t.phase with | .running => true | .stopping => true | .capture => true | _ => false) then some t
    else none

/-- Some record of the task left a pending MCHECK that no wait has taken (R212). -/
def State.pendingCheck (s : State) (t : Task) : Bool :=
  t.cores.any fun c => (s.core c).engines.any fun e => !e.2.pend.isEmpty

/-- Every member of a gang on other packages has sent DONE. -/
def State.peersFinished (s : State) (t : Task) : Bool := decide (128 ≤ t.queue) || (s.livePeers t).isEmpty

/-- A task is on its cores: it runs, or a pre-emption of it is pending. -/
def Task.onCores (t : Task) : Bool :=
  match t.phase with | .running => true | .stopping => true | _ => false

/-- A task all of whose cores are done retires, unless its capture runs or peers still do (R61, R75, R76, R88, R212). -/
def State.finishTask (s : State) (t : Task) : State :=
  if !t.onCores ∨ !(t.cores.all fun c => t.doneCores.contains c) ∨ !(s.peersFinished t) then s
  else if s.pendingCheck t ∨ t.peerCheck then s.retire t (.aborted 0x10 0 none)
  else if t.broken then s.retire t (.aborted 0x11 0 none)
  else s.retire t .done

/-- A task that is aborted here leaves its cores: the launcher's package retires it, or a peer without its launcher, and a peer drops
its members (R75, R76, R209). -/
def State.endAborted (s : State) (t : Task) (cause code : Nat) : State :=
  if t.queue < 128 ∨ !(s.podReachable (launcherOf t.id)) then s.retire t (.aborted cause code none) else (s.vacateCores t.cores).removeTask t

/-- CORE_DONE of core `c`; the abort of a pod gang goes to every package, with its cause and code (R209; log 36). -/
def endCore (c : Nat) (s : State) : State :=
  match s.coreEnds c with
  | none => s
  | some t =>
    match t.aborted with
    | some (cause, code) =>
      ((s.tellPeers t (.abort cause code)).endAborted t cause code).dispatch
    | none =>
      let u := { t with doneCores := setPut t.doneCores c }
      let r := (s.setTask u).finishTask u
      if (r.task? t.id.toNat).isNone then r.dispatch else r

/-! ## Other events of the scheduler -/

/-- The task has the placement patience running: it is head of its FIFO, or its reservation is pending (R71). -/
def State.patient (s : State) (t : Task) : Bool :=
  !t.patience &&
  ((match (s.queue t.queue).fifo with | i :: _ => i == t.id.toNat | [] => false) ||
   s.peerGangs.any fun g => g.task == t.id && g.state == 0)

/-- PLACEMENT_PATIENCE_EXPIRY. -/
def expirePatience (id : Word) (s : State) : State :=
  match s.task? id.toNat with
  | none => s
  | some t => if s.patient t then (s.setTask { t with patience := true }).dispatch else s

/-- CORE_CLEAR_DONE: the core's first instruction may issue (R41, R81, R114). -/
def clearCore (c : Nat) (s : State) : State := s.setCore c { s.core c with clearing := false }

/-- PREEMPTION_COMPLETE. -/
def completePreemption (id : Word) (s : State) : State :=
  match s.task? id.toNat with
  | none => s
  | some t => if s.stopped t then (s.saveTask t).dispatch else s

/-- DIGEST_DONE. -/
def digestPart (id : Word) (part : Nat) (s : State) : State :=
  match s.digestOf id part with
  | none => s
  | some d => s.finishDigest d

/-- HIT_COPY_DONE: the task is retired by the Larder (R88). -/
def hitCopyEnds (id : Word) (s : State) : State :=
  match s.task? id.toNat with
  | none => s
  | some t => if t.phase = .copying then ((s.endHit t).retire t .reused).dispatch else s

/-- A capture can end: every core is done, the key is formed or void, and the install waits for no hit copy (R88, R90). -/
def State.captureDue (s : State) (t : Task) : Bool :=
  t.phase == .capture && (t.cores.all fun c => t.doneCores.contains c) && (t.void || t.key.isSome) && !(s.installWaits t)

/-- CAPTURE_DONE; a task with a pending MCHECK is aborted instead and installs nothing (R88, R209, R212). -/
def captureEnds (id : Word) (s : State) : State :=
  match s.task? id.toNat with
  | none => s
  | some t =>
    if s.captureDue t then
      if s.pendingCheck t then (s.retire t (.aborted 0x10 0 none)).dispatch
      else (((s.install t).unwatch).retire t .done).dispatch
    else s

/-- WATCH_NOTICE of a granule whose bit is set (R86). -/
def noticeGranule (g : Nat) (s : State) : State := if s.watched g then s.acceptNotice g else s

/-- TASK (R61). -/
def execTask (n : Nat) (s : State) : Outcome := .next (readKind n 0 (fun s => s.startRecord n) s)

/-- GRAPH (R61, R67). -/
def execGraph (n : Nat) (s : State) : Outcome := .next (readKind n 1 (fun s => s.startGraphRecord n) s)

/-- QFENCE (R61, R63). -/
def execQfence (n : Nat) (s : State) : Outcome := .next (readKind n 2 (fun s => s.fenceRecord n) s)

/-- SIGNAL (R61, R63). -/
def execSignal (n : Nat) (s : State) : Outcome := .next (readKind n 3 (fun s => s.signalRecord n) s)

/-- PLACEMENT_PATIENCE_EXPIRY (R70, R71). -/
def execPlacementPatienceExpiry (task : BitVec 64) (s : State) : Outcome := .next (expirePatience task s)

/-- CORE_CLEAR_DONE (R41, R81, R114). -/
def execCoreClearDone (c : Nat) (s : State) : Outcome := .next (clearCore c s)

/-- CORE_DONE (R61, R279). -/
def execCoreDone (c : Nat) (s : State) : Outcome := .next (endCore c s)

/-- PREEMPTION_COMPLETE (R219 to R223). -/
def execPreemptionComplete (task : BitVec 64) (s : State) : Outcome := .next (completePreemption task s)

/-- CHUNK_REQUEST (R73, R74, R278). -/
def execChunkRequest (c : Nat) (s : State) : Outcome := .next (grantChunk c s)

/-- DIGEST_DONE (R83 to R88). -/
def execDigestDone (task : BitVec 64) (part : Nat) (s : State) : Outcome := .next (digestPart task part s)

/-- WATCH_NOTICE (R85, R86). -/
def execWatchNotice (granule : Nat) (s : State) : Outcome := .next (noticeGranule granule s)

/-- HIT_COPY_DONE (R88). -/
def execHitCopyDone (task : BitVec 64) (s : State) : Outcome := .next (hitCopyEnds task s)

/-- CAPTURE_DONE (R88 to R90). -/
def execCaptureDone (task : BitVec 64) (s : State) : Outcome := .next (captureEnds task s)

end Sys2Proof.Machine
end

