-- ==== Sys2Proof/Machine/Gangs.lean ====
section
/-! DEFINITION. Gangs on several packages: the launcher's and the peers' states of R75, broken gangs (R76, R214), and the messages
of a pod barrier (R23, R123). -/

namespace Sys2Proof.Machine

/-- A task of this package's queues in the two-phase start or running, by TASKID and with an attempt. -/
def State.launched (s : State) (task : Word) (attempt : Nat) : Option Task :=
  match s.task? task.toNat with
  | some t => if t.queue < 128 ∧ t.attempt = attempt then some t else none
  | none => none

/-- The reservation that this package holds for a launcher. -/
def State.reservation (s : State) (task : Word) (attempt : Nat) : Option (PeerGang × Task) :=
  match s.peerGangs.find? fun g => g.task == task && g.attempt == attempt with
  | none => none
  | some g => (s.task? task.toNat).map fun t => (g, t)

/-- A launcher gives up an attempt: ABORT to all, its cores released, the task at the head of its FIFO, not placed again before
its retry delay, with the next attempt number (R75). -/
def State.giveUp (s : State) (t : Task) : State :=
  let s := (s.tellPeers t (.abort 0 0)).vacateCores t.cores
  let q := s.queue t.queue
  let s := s.setQueue t.queue { q with fifo := t.id.toNat :: q.fifo }
  s.setTask { t with cores := [], phase := if t.saved.isEmpty then .ready else .saved, acks := [], ackTimer := false,
                     delayed := true, attempt := (t.attempt + 1) % 256
                     bgLevel := if t.saved.isEmpty then 0 else t.bgLevel, bgAt := if t.saved.isEmpty then 0 else t.bgAt }

/-- A peer gives up its members: IDLE. -/
def State.dropMembers (s : State) (t : Task) : State := (s.vacateCores t.cores).removeTask t

/-- A peer gives up a reservation: IDLE, or, for members that were pre-empted, back to their wait for a RESERVE; without a launcher
they are to be placed on their own (R72, R75, R76). -/
def State.releaseHold (s : State) (t : Task) : State :=
  if t.saved.isEmpty then s.dropMembers t
  else
    let n := if s.podReachable (launcherOf t.id) then 4 else 0
    let s := s.vacateCores t.cores
    State.setTask { s with peerGangs := s.peerGangs.map fun g => if g.task = t.id then { g with state := n, timer := false } else g }
      { t with phase := .saved, cores := [] }

/-! ## Broken gangs (R76, R214) -/

/-- A strand held in a BWAIT on bg completes it with GANGBROKEN, kind C (R214). -/
def State.breakStrand (s : State) (c k : Nat) : State :=
  let t := (s.core c).strand k
  match t.hold with
  | some (.barrier 16 _ len) =>
    (s.setCore c ((s.core c).setStrand k { t with hold := none, heldTicks := 0 })).raiseAt c k
      { Exc.of codeGANGBROKEN with kindC := true } (t.pc + len)
  | _ => s

/-- A gang breaks with the loss of a package: waits on bg complete, a GANG_BROKEN notice is posted, and the surviving members
run on (R76, R79). -/
def State.breakGang (s : State) (t : Task) (lost : Nat) : State :=
  if t.broken then s.setTask { t with peersDone := setPut t.peersDone lost }
  else
    let s := s.setTask { t with broken := true, peersDone := setPut t.peersDone lost }
    let s : State := { s with peerGangs := s.peerGangs.map fun g =>
      if g.task = t.id ∧ g.state = 2 then { g with state := 3 }
      else if g.task = t.id ∧ g.state = 4 ∧ g.launcher = lost then { g with state := 0 } else g }
    let s := t.cores.foldl (fun s c => (upTo (s.core c).strands.length).foldl (fun s k => s.breakStrand c k) s) s
    s.postNotice ⟨4, t.id, causeOf (leBytes 1 lost)⟩

/-- Members of the gang have started on this package. -/
def Task.afterGo (t : Task) : Bool :=
  match t.phase with | .running => true | .stopping => true | .saved => true | _ => false

/-- What the loss of packages does to one task (R75, R76). -/
def State.checkGang (s : State) (id : Nat) : State :=
  match s.task? id with
  | none => s
  | some t =>
    let lost := (s.livePeers t).filter fun p => !(s.podReachable p)
    if lost.isEmpty then s
    else
      let s := if t.phase = .reserving ∧ t.queue < 128 then s.giveUp t else s
      if !t.afterGo ∧ t.saved.isEmpty then s
      else
      let s := lost.foldl (fun s p => match s.task? id with | some u => s.breakGang u p | none => s) s
      match s.task? id with
      | some u => s.finishTask u
      | none => s

/-- A port has failed: gangs that lost a member or their launcher (R76), and dispatch where cores came free. -/
def State.checkGangs (s : State) : State :=
  ((s.tasks.map fun p => p.1).foldl State.checkGang s).dispatch

/-! ## The launcher (R75) -/

/-- With the ACK of every member that is not done, GO is sent and the local members start. -/
def State.goIfAcked (s : State) (t : Task) : State :=
  if (s.livePeers t).all fun p => t.acks.contains p then ((s.setTask t).tellPeers t .go).startMembers t else s.setTask t

/-- ACK. -/
def gangAck (peer : Nat) (task : Word) (attempt : Nat) (s : State) : State :=
  match s.launched task attempt with
  | none => s.sendPod peer (.abort 0 0) task attempt
  | some t =>
    if t.phase = .reserving then
      if (s.livePeers t).contains peer then s.goIfAcked { t with acks := setPut t.acks peer }
      else s.sendPod peer (.abort 0 0) task attempt
    else s

/-- NAK. -/
def gangRefused (peer : Nat) (task : Word) (attempt : Nat) (s : State) : State :=
  match s.launched task attempt with
  | none => s
  | some t =>
    if t.phase = .reserving ∧ (s.livePeers t).contains peer then
      ((s.tellPeers t (.abort 0x21 0)).retire t (.aborted 0x21 0 none)).dispatch
    else s

/-- LATE: of the current attempt it breaks the gang, of an earlier one it is answered with ABORT. -/
def gangLate (peer : Nat) (task : Word) (attempt : Nat) (s : State) : State :=
  match s.launched task attempt with
  | none => s.sendPod peer (.abort 0 0) task attempt
  | some t =>
    if t.afterGo ∧ (s.livePeers t).contains peer then
      let s := s.breakGang t peer
      (match s.task? task.toNat with | some u => s.finishTask u | none => s).dispatch
    else s

/-- DONE of a peer; `check` says that its members left a pending MCHECK (R212). -/
def gangMemberDone (peer : Nat) (task : Word) (check : Bool) (s : State) : State :=
  match s.task? task.toNat with
  | none => s
  | some t =>
    if t.queue < 128 ∧ (t.afterGo ∨ !t.saved.isEmpty) ∧ (s.livePeers t).contains peer then
      let t := { t with peersDone := setPut t.peersDone peer, peerCheck := t.peerCheck || check }
      if t.phase = .reserving then (s.setTask t).goIfAcked t else ((s.setTask t).finishTask t).dispatch
    else s

/-- The 1 ms timer of WAIT_ACK expires. -/
def ackTimeout (task : Word) (s : State) : State :=
  match s.task? task.toNat with
  | none => s
  | some t => if t.phase = .reserving ∧ t.ackTimer then (s.giveUp t).dispatch else s

/-- The retry delay of 1 ms is over. -/
def retryReady (task : Word) (s : State) : State :=
  match s.task? task.toNat with
  | none => s
  | some t => if t.delayed then (s.setTask { t with delayed := false }).dispatch else s

/-! ## A peer (R75) -/

/-- The members of a RESERVE as a task of this package, in queue 128. -/
def State.memberTask (s : State) (task : Word) (attempt : Nat) (rec : BitVec 512) (tenant prio : Nat) : Option Task :=
  let v := s.setQueue 128 { Queue.initial with tenant := tenant, prio := prio }
  (v.taskOfRecord 128 task none (leBytes 64 rec.toNat)).map fun t => { t with attempt := attempt, func := (s.queue 0).func }

/-- RESERVE of a TASKID whose members are here already: those that were pre-empted are to be placed again (R72). -/
def State.reserveAgain (s : State) (t : Task) (attempt : Nat) : State :=
  if s.peerGangs.any fun g => g.task == t.id && g.state == 4 then
    State.dispatch { s.setTask { t with attempt := attempt } with
      peerGangs := s.peerGangs.map fun g => if g.task = t.id then { g with attempt := attempt, state := 0 } else g }
  else s

/-- RESERVE on port `p`: refused by the port's access table or malformed here it is answered with NAK; else the members enter
the ready pool ahead of every queue of their priority. -/
def gangReserve (p peer : Nat) (task : Word) (attempt : Nat) (rec : BitVec 512) (tenant prio : Nat) (s : State) : State :=
  if !(tableAllows (mapGet s.portTables p 0) (.peer peer) true) then s.sendPod peer .nak task attempt
  else match s.task? task.toNat with
    | some t => s.reserveAgain t attempt
    | none =>
      match s.memberTask task attempt rec tenant prio with
      | none => s.sendPod peer .nak task attempt
      | some t =>
        if t.scope = 2 then
          State.dispatch { s.setTask t with
            peerGangs := s.peerGangs ++ [{ launcher := peer, task := task, attempt := attempt, state := 0, timer := false }] }
        else s.sendPod peer .nak task attempt

/-- GO. -/
def gangGo (peer : Nat) (task : Word) (attempt : Nat) (s : State) : State :=
  match s.reservation task attempt with
  | none => s.sendPod peer .late task attempt
  | some (g, t) =>
    if g.state = 1 then
      State.startMembers { s with peerGangs := s.peerGangs.map fun x => if x.task = task then { x with state := 2, timer := false } else x } t
    else s

/-- ABORT: a reservation is released; with the cause of a launch that ends, members are dropped whatever they do, and the launcher
that hears it of a peer ends the launch with that cause and code (R209; log 36). -/
def gangAbort (peer : Nat) (task : Word) (attempt cause code : Nat) (s : State) : State :=
  match s.reservation task attempt with
  | some (g, t) =>
    if cause ≠ 0 then (s.dropMembers t).dispatch
    else if g.state ≤ 1 then (s.releaseHold t).dispatch
    else s
  | none =>
    match s.launched task attempt with
    | some t =>
      if (t.phase = .reserving ∨ t.afterGo) ∧ (s.peersOf t).contains peer then
        ((s.tellPeers t (.abort cause code)).retire t (.aborted cause code none)).dispatch
      else s
    | none => s

/-- The 2 ms timer of RESERVED expires. -/
def reservationTimeout (task : Word) (s : State) : State :=
  match s.peerGangs.find? fun g => g.task == task && g.state == 1 && g.timer, s.task? task.toNat with
  | some _, some t => (s.releaseHold t).dispatch
  | _, _ => s

/-- The launcher pre-empts a gang that has members here (R72; log 36). -/
def gangStop (peer : Nat) (task : Word) (s : State) : State :=
  match s.peerGangs.find? fun g => g.task == task && g.launcher == peer && g.state == 2, s.task? task.toNat with
  | some _, some t => if t.phase = .running ∧ t.aborted.isNone then s.setTask { t with phase := .stopping } else s
  | _, _ => s

/-! ## The receive buffer (R23) -/

/-- The hub takes a message of a package from virtual channel 0 and acts on it; without one there is nothing to act on. -/
def State.onMessage (s : State) (peer : Nat) (act : State → State) : State :=
  match s.take 0 peer with
  | some s => act s
  | none => s

/-- A RESERVE stays in the buffer while members of its TASKID are still stopping here (R72; log 36). -/
def State.reserveWaits (s : State) (task : Word) : Bool :=
  match s.task? task.toNat with
  | some t => t.phase == .stopping
  | none => false

/-! ## Pod barriers (R123) -/

/-- A message of a pod barrier. -/
def podBarrierMessage (task : Word) (m : PodBarrierMsg) (s : State) : State :=
  match s.task? task.toNat with
  | none => s
  | some t =>
    if t.bgLevel = 4 then
      match m with
      | .arrivals n => (s.setTask { t with bg := { t.bg with arrivals := t.bg.arrivals + n } }).settleBg t.id.toNat
      | .phase p =>
        let s := s.setTask { t with bg := { t.bg with phase := p, ca := t.bg.ea, cb := t.bg.eb } }
        t.cores.foldl (fun s c => s.setCore c (s.core c).wake) s
    else s

/-- Packages from which a message of a pod barrier comes: the other members of its gang. -/
def State.barrierPeers (s : State) (task : Word) : List Nat :=
  match s.task? task.toNat with
  | some t => s.peersOf t
  | none => upTo 64

/-- POD_BARRIER_ARRIVAL (R23, R123). -/
def execPodBarrierArrival (task : BitVec 64) (msg : PodBarrierMsg) (s : State) : Outcome :=
  match (s.barrierPeers task).findSome? fun p => s.take 0 p with
  | some t => .next (podBarrierMessage task msg t)
  | none => .next s

/-- RESERVE (R75). -/
def execReserve (p : Nat) (peer : Nat) (task : BitVec 64) (attempt : Nat) (rec : BitVec 512) (tenant : Nat) (prio : Nat)
    (s : State) : Outcome :=
  if !s.ready || s.reserveWaits task then .next s
  else match s.takeFrom p 0 peer with
    | some t => .next (gangReserve p peer task attempt rec tenant prio t)
    | none => .next s

/-- ACK (R75). -/
def execAck (peer : Nat) (task : BitVec 64) (attempt : Nat) (s : State) : Outcome :=
  .next (s.onMessage peer (gangAck peer task attempt))

/-- GANG_NAK (R75). -/
def execGangNak (peer : Nat) (task : BitVec 64) (attempt : Nat) (s : State) : Outcome :=
  .next (s.onMessage peer (gangRefused peer task attempt))

/-- GO (R75, R76). -/
def execGo (peer : Nat) (task : BitVec 64) (attempt : Nat) (s : State) : Outcome :=
  .next (s.onMessage peer (gangGo peer task attempt))

/-- ABORT (R75, R209). -/
def execAbort (peer : Nat) (task : BitVec 64) (attempt : GangEnd) (s : State) : Outcome :=
  .next (s.onMessage peer (gangAbort peer task attempt.attempt attempt.cause attempt.code))

/-- LATE (R75, R76). -/
def execLate (peer : Nat) (task : BitVec 64) (attempt : Nat) (s : State) : Outcome :=
  .next (s.onMessage peer (gangLate peer task attempt))

/-- GANG_DONE (R75, R212). -/
def execGangDone (peer : Nat) (task : GangResult) (s : State) : Outcome :=
  .next (s.onMessage peer (gangMemberDone peer task.task task.check))

/-- ACK_TIMER_EXPIRY (R75). -/
def execAckTimerExpiry (task : BitVec 64) (s : State) : Outcome := .next (ackTimeout task s)

/-- RESERVATION_TIMER_EXPIRY (R75). -/
def execReservationTimerExpiry (task : BitVec 64) (s : State) : Outcome := .next (reservationTimeout task s)

/-- RETRY_DELAY_EXPIRY (R75). -/
def execRetryDelayExpiry (task : BitVec 64) (s : State) : Outcome := .next (retryReady task s)

end Sys2Proof.Machine
end

