-- ==== Sys2Proof/Machine/Power.lean ====
section
/-! DEFINITION. The heartbeat, clock ratios, power limits and thermal events (R15 to R21).  What the sensors measure comes with the
event that reports it (log 11). -/

namespace Sys2Proof.Machine

/-! ## Limits (R19) -/

/-- Bits of the cause field of DIE_CLK_STAT, from bit 16 on (R21). -/
def causeDie : BitVec 5 := 0b00001
def causeHot : BitVec 5 := 0b00010
def causeCur : BitVec 5 := 0b00100
def causePkg : BitVec 5 := 0b01000
def causeExt : BitVec 5 := 0b10000

/-- A limit that is to take effect at the next tick: the least of those decided since the last. -/
def Die.plan (x : Die) (k : Nat) (cause : BitVec 5) : Die :=
  { x with nextK := some (match x.nextK with | some j => Nat.min j k | none => k), causes := x.causes ||| cause }

/-- The package limit in watts: WATTS used within 1,200 and 3,200 (R19, R21). -/
def State.packageLimit (s : State) : Nat := Nat.min (Nat.max s.watts.toNat Config.packageWattsLeast) Config.packageWatts

/-- Ratios in sixteenths from 16 down to 4 (R16). -/
def ratios : List Nat := (upTo 13).map fun i => 16 - i

/-- The watts of a die at ratio `k`. -/
def drawAt (r : PowerReading) (k : Nat) : Nat := r.draw.getD (k - 4) 0

/-- The greatest ratio at which a die stays within its share (R17, R19), 4 where none does. -/
def dieRatio (r : PowerReading) : Nat := (ratios.find? fun k => decide (drawAt r k ≤ Config.dieWatts)).getD 4

/-- Watts of the package where no die runs above ratio `k` or its own share. -/
def packageDraw (rs : List PowerReading) (other k : Nat) : Nat := other + (rs.map fun r => drawAt r (Nat.min k (dieRatio r))).sum

/-- The greatest ratio, one for all dies, at which the package stays within `limit` watts (R19; that it is one for all: log 11). -/
def packageRatio (rs : List PowerReading) (other limit : Nat) : Nat :=
  (ratios.find? fun k => decide (packageDraw rs other k ≤ limit)).getD 4

/-- Why a die is lowered from `old` (R21): its share, the package limit, or that limit only because it is below 3,200 W. -/
def lowerCauses (old die pkg full : Nat) : BitVec 5 :=
  (if die < old then causeDie else 0) ||| (if pkg < old then causePkg else 0) |||
    (if pkg < old ∧ pkg < full then causeExt else 0)

/-- L_d at an evaluation: down by as many sixteenths as are needed, up by at most one (R19).  `pkg` is the ratio of the package limit
and `full` what that of 3,200 W would be. -/
def Die.evaluate (x : Die) (r : PowerReading) (pkg full : Nat) : Die :=
  let x := { x with temp := r.temp }
  let need := Nat.min (dieRatio r) pkg
  let x :=
    if need < x.limitK then x.plan need (lowerCauses x.limitK (dieRatio r) pkg full)
    else if x.limitK < need then x.plan (x.limitK + 1) 0
    else x
  if 100 ≤ r.temp then x.plan (Nat.min x.limitK 8) causeHot else x

/-- An evaluation is due (R19). -/
def State.evaluationDue (s : State) : Bool := s.power && decide (s.evalTick + Config.evaluationTicks ≤ s.tick)

/-- L_d falls to 8 at the next tick (R19); the reading of the alarm stands in TEMP at once (log 44). -/
def limitDie (d : Nat) (temp : Option Nat) (cause : BitVec 5) (s : State) : State :=
  if s.power then
    let x := s.die d
    let x := match temp with | some t => { x with temp := t } | none => x
    s.setDie d (x.plan (Nat.min x.limitK 8) cause)
  else s

/-! ## The heartbeat tick (R15, R16) -/

/-- The THERMAL notice of a die with its LIMIT event (R19, R35, R79). -/
def State.postThermal (s : State) (d : Nat) : State :=
  let x := s.die d
  let head := leBytes 1 x.limitK ++ leBytes 1 x.causes.toNat ++ leBytes 1 x.temp
  let s := s.postNotice ⟨6, 0, causeOf (leBytes 1 d ++ head ++ leBytes 4 x.suppressed)⟩
  let s := s.postEvent 0 4 d 1 0 (payloadOf head)
  s.setDie d { s.die d with lastThermal := some s.tick, suppressed := 0 }

/-- A THERMAL notice of a die may be posted: at most one in 10 ms (R19). -/
def Die.mayPost (x : Die) (tick : Nat) : Bool :=
  match x.lastThermal with | none => true | some t => decide (t + Config.thermalTicks ≤ tick)

/-- The limit decided for a die takes effect; L_d that leaves 16 or returns to it is posted, or counted as suppressed (R16,
R19). -/
def State.applyLimit (s : State) (d : Nat) : State :=
  let x := s.die d
  match x.nextK with
  | none => s
  | some k =>
    let s1 := s.setDie d { x with limitK := k, nextK := none, minK := Nat.min x.minK k }
    if (x.limitK == 16) == (k == 16) then s1
    else if x.mayPost s.tick then s1.postThermal d
    else s1.setDie d { s1.die d with suppressed := x.suppressed + 1 }

/-- The ratio at which a core runs from this tick on (R20). -/
def State.ratioNow (s : State) (c : Nat) : Nat :=
  match s.taskOf c with
  | some t => s.gangRatio t
  | none => (s.die (dieOf c)).limitK

/-- Every core takes its ratio; a core that no task has held yet takes L_d as it is placed or listed (R20). -/
def State.applyRatios (s : State) : State := s.coreTab.foldl (fun s p => s.applyRatio p.1 (s.ratioNow p.1)) s

/-- A strand at a heartbeat tick in clock `clk` of its core: a fence whose drain ended in an earlier clock continues (R177), and a held
strand has been held a tick longer (R213). -/
def Strand.atTick (clk : Nat) (t : Strand) : Strand :=
  match t.hold with
  | some (.fence n) =>
    if n < clk then { t with hold := none, heldTicks := 0, scStage := t.scStage + t.scStage % 2 }
    else { t with heldTicks := t.heldTicks + 1 }
  | some _ => { t with heldTicks := t.heldTicks + 1 }
  | none => t

/-- Strands of every core at a tick. -/
def State.tickStrands (s : State) : State :=
  { s with coreTab := s.coreTab.map fun p => (p.1, { p.2 with strands := p.2.strands.map (Strand.atTick p.2.clk) }) }

/-- HEARTBEAT_TICK (R15, R16, R19, R177): it does not come before an evaluation that is due. -/
def tickOnce (s : State) : State :=
  if s.ready && !s.evaluationDue then
    (((upTo Config.dies).foldl State.applyLimit { s with tick := s.tick + 1 }).applyRatios).tickStrands
  else s

/-! ## The trip and the safe state (R19, R42) -/

/-- The safe state: every core, engine, link port and HBM controller is held in reset (R42). -/
def State.enterSafe (s : State) : State :=
  { s with mbxState := 2, coreTab := [], tasks := [], graphs := [], peerGangs := [], notices := [], parks := [], sdBusy := false,
           sdWait := [], digests := [], pOut := []
           dies := s.dies.map fun p => (p.1, { p.2 with neQueue := [] })
           queues := s.queues.map fun p => (p.1, { p.2 with fifo := [], flight := [] })
           ports := [] }

/-- The ring or the backlog of a function can take an event (R33). -/
def State.canPost (s : State) (f : Nat) : Bool :=
  let x := s.fn f
  (x.backlog.isEmpty && x.en && !x.ringFull) || decide (x.backlog.length < Config.eventBacklog)

/-- THERMAL_TRIP (R19, R35, R42). -/
def tripPackage (d temp : Nat) (s : State) : State :=
  if s.power then
    let s := s.setDie d { s.die d with temp := temp }
    let s := if s.canPost 0 then s.postEvent 0 4 d 2 0 (payloadOf (leBytes 1 temp)) else s
    { s.enterSafe with boot := { s.boot with failStep := 0, failCode := 9 } }
  else s

/-- POWER_EVALUATION (R19): readings of the four dies and the watts of everything else; a die at 110 °C trips the package. -/
def evaluatePower (rs : List PowerReading) (other : Nat) (s : State) : State :=
  if s.evaluationDue && rs.length == Config.dies then
    match rs.zipIdx.find? fun p => decide (110 ≤ p.1.temp) with
    | some p => tripPackage p.2 p.1.temp s
    | none =>
      let pkg := packageRatio rs other s.packageLimit
      let full := packageRatio rs other Config.packageWatts
      rs.zipIdx.foldl (fun s p => s.setDie p.2 ((s.die p.2).evaluate p.1 pkg full)) { s with evalTick := s.tick }
  else s

/-- HEARTBEAT_TICK (R15, R16, R19, R177). -/
def execHeartbeatTick (s : State) : Outcome := .next (tickOnce s)

/-- POWER_EVALUATION (R19). -/
def execPowerEvaluation (readings : PowerReport) (s : State) : Outcome :=
  .next (evaluatePower readings.dies readings.other s)

/-- SUPPLY_CURRENT_ALARM (R19). -/
def execSupplyCurrentAlarm (die : Nat) (s : State) : Outcome := .next (limitDie die none causeCur s)

/-- JUNCTION_HOT (R19): a temperature of 100 °C or more. -/
def execJunctionHot (die : Nat) (temp : Nat) (s : State) : Outcome :=
  .next (if 100 ≤ temp then limitDie die (some temp) causeHot s else s)

/-- THERMAL_TRIP (R19): a temperature of 110 °C or more. -/
def execThermalTrip (die : Nat) (temp : Nat) (s : State) : Outcome := .next (if 110 ≤ temp then tripPackage die temp s else s)

end Sys2Proof.Machine
end

