-- ==== Sys2Proof/Machine/Boot.lean ====
section
/-! DEFINITION. Cold and warm starts (R40 to R44), the mailbox and its commands (R37 to R39, R45, R46, R49), and function-level
reset (R36).  Algorithms of other standards are the free functions of Config (log 6); how a timed step ends comes with its event
(log 11). -/

namespace Sys2Proof.Machine

/-! ## The start (R40, R42) -/

/-- An entry of the start log (R39). -/
def State.logEntry (s : State) (step failCode detail : Nat) : BitVec 128 :=
  BitVec.ofNat 128 (leNat (leBytes 8 s.clkcnt ++ leBytes 1 step ++ leBytes 1 failCode ++ leBytes 1 s.boot.retries ++
    leBytes 1 s.boot.warm.toNat ++ leBytes 4 detail))

/-- The start log with an entry added; the area holds 4,096 (R39). -/
def State.logStep (s : State) (failCode detail : Nat) : State :=
  if s.startLog.length < 4096 then { s with startLog := s.startLog ++ [s.logEntry s.boot.step failCode detail] } else s

/-- Poison of HBM units, which no start clears. -/
def hbmUnits (us : List ErrorUnit) : List ErrorUnit := us.filter fun u => match u with | .hbm _ => true | _ => false

/-- Step 1 of a cold start: every register and store has its reset value when the start is over; HBM, the fuses, the firmware
read last and what lies outside the part stay (log 12). -/
def State.coldBegin (s : State) (boot : Boot) (log : List (BitVec 128)) : State :=
  { State.reset with
    agenda := s.agenda, cur := s.cur, lastCore := s.lastCore, free := s.free, hbm := s.hbm, hbmGen := s.hbmGen,
    hostMem := s.hostMem, hostPages := s.hostPages, poison := hbmUnits s.poison, rollback := s.rollback,
    fwVersion := s.fwVersion, fwDigest := s.fwDigest, tkey := s.tkey, keyGen := s.keyGen, boot := boot, startLog := log }

/-- The boot register at the beginning of a cold start (R42). -/
def bootCold : Boot := { failStep := 0, failCode := 0, retries := 0, warm := false, step := 1 }

/-- A cold start begins. -/
def State.beginCold (s : State) : State := s.coldBegin bootCold []

/-- A warm start begins: running tasks are stopped without being saved, and every core is marked unclean (R40, R41). -/
def State.beginWarm (s : State) : State :=
  let s := s.coreTab.foldl (fun s p => s.drainCore p.1) s
  { s with mbxState := 0, boot := { s.boot with retries := 0, warm := true, step := 1 }, startLog := [],
           coreTab := (upTo Config.cores).map fun c => (c, { (s.core c).vacate with clean := false })
           dies := s.dies.map fun p => (p.1, { p.2 with neQueue := [] })
           tasks := [], graphs := [], peerGangs := [], notices := [], parks := [], sdBusy := false, sdWait := [],
           digests := [], pOut := [], saveFree := s.saveSlots
           queues := s.queues.map fun p => (p.1, { p.2 with fifo := [], flight := [] }) }

/-- The part keeps its ports in STATE 2 through a warm start (R40). -/
def State.allPortsUp (s : State) : Bool := (upTo 12).all fun p => (mapGet s.ports p Port.initial).state == 2

/-- The step after a step: a warm start skips steps 3 and 4, and step 5 when every port is up (R40). -/
def State.stepAfter (s : State) (k : Nat) : Nat :=
  if s.boot.warm && k == 2 then (if s.allPortsUp then 6 else 5) else k + 1

/-- The ports that step 5 trains: STATE 1 until it ends (R26, R40). -/
def State.trainPorts (s : State) : State :=
  (upTo 12).foldl (fun s p => if (s.port p).state = 2 then s else s.setPort p { s.port p with state := 1 }) s

/-- The end of step 5: the ports that came up, each with its UP event; the others are down (R26, R35, R40). -/
def State.bringUp (s : State) (ups : List LinkUp) : State :=
  (upTo 12).foldl (fun s p =>
    if (s.port p).state = 2 then s
    else match ups.find? fun u => u.port == p && u.width != 0 with
      | none => s.setPort p { s.port p with state := 0, width := 0 }
      | some u => (s.setPort p ((s.port p).comeUp u.width u.peer)).postEvent 0 3 p 3 0
          (payloadOf (leBytes 1 u.width ++ leBytes 1 u.peer))) s

/-- Step 6 (R40, R41, R49): keys cleared and slot 0 loaded, queues and Larder tables emptied, a new transport key.  A queue is
emptied by CI := PI; its EN and a halt stay (log 44). -/
def State.stepSix (s : State) : State :=
  State.rewatch { s with
    keyGen := s.keyGen + 1, tkey := s.tkey + 1, sessions := 0
    keys := [(0, { loaded := true, gen := 2 * (s.keyGen + 1), memKey := 0, larder := Config.systemLarderKey })]
    queues := s.queues.map fun p => (p.1, { p.2 with ci := p.2.pi, taken := 0, fifo := [], flight := [], spawnDie := [] })
    results := [], digestCache := [], digests := []
    fns := s.fns.map fun p => (p.1, { p.2 with session := none, part := [] }) } []

/-- Step 7 (R35, R40, R44, R282). -/
def State.stepSeven (s : State) : State :=
  let s : State := { s with
    mbxState := 1, rollback := Nat.max s.rollback s.fwVersion, tick := 0, clkcnt := 0, evalTick := 0
    coreTab := s.coreTab.map fun p => (p.1, { p.2 with clk := 0, veFree := 0 })
    dies := s.dies.map fun p => (p.1, { p.2 with lastThermal := none }) }
  s.postEvent 0 2 0 2 0 (payloadOf (leBytes 1 s.boot.warm.toNat ++ leBytes 1 s.boot.retries))

/-- The start moves on from the step it is in, with an entry of the start log and detail 0 (log 44); step 7 follows step 6 at once. -/
def State.stepDone (s : State) : State :=
  let k := s.boot.step
  let s := s.logStep 0 0
  let s := if k = 6 then s.stepSix else s
  let n := s.stepAfter k
  let s := { s with boot := { s.boot with step := n } }
  if n = 7 then (s.logStep 0 0).stepSeven else if n = 5 then s.trainPorts else s

/-- The step fails: the start runs again as a cold start, or the part enters the safe state (R42). -/
def State.stepFails (s : State) (code detail : Nat) : State :=
  let k := s.boot.step
  let s := s.logStep code detail
  let boot := { s.boot with failStep := k, failCode := code }
  if s.boot.retries < 3 then
    s.coldBegin { boot with retries := s.boot.retries + 1, warm := false, step := 1 } s.startLog
  else { s.enterSafe with boot := boot }

/-- The signed bytes of a firmware header: 0 to 59 (R43). -/
def FwImage.signed (w : FwImage) : List Byte :=
  leBytes 4 w.magic.toNat ++ leBytes 4 w.version ++ leBytes 4 w.length ++ leBytes 48 w.digest.toNat

/-- FAILCODE of an image, none where it is accepted (R44); an image without its MAGIC or of another length has no DIGEST that
matches. -/
def State.imageFault (s : State) (w : FwImage) : Option Nat :=
  if Config.sha384 w.rsaPub ≠ Config.fuseF0 then some 4
  else if Config.sha384 w.slhPub ≠ Config.fuseF1 then some 4
  else if Config.rsaVerify w.rsaPub w.rsaSig (FwImage.signed w) = false then some 1
  else if Config.slhVerify w.slhPub w.slhSig (FwImage.signed w) = false then some 2
  else if w.magic ≠ 0x4C475846 ∨ w.length ≠ w.body.length ∨ Config.sha384 w.body ≠ w.digest then some 8
  else if w.version < s.rollback ∨ 64 < w.version then some 3
  else none

/-- A start is in progress. -/
def State.starting (s : State) : Bool := s.power && s.mbxState == 0 && s.boot.step != 0

/-- START_STEP_COMPLETE (R40, R42, R44): step 2 ends only with an image, which the part checks, or a failure. -/
def stepCompletes (r : StepResult) (s : State) : State :=
  if s.starting then
    match r with
    | .done => if s.boot.step = 2 then s else if s.boot.step = 5 then (s.bringUp []).stepDone else s.stepDone
    | .failed code detail => s.stepFails code detail
    | .image w =>
      if s.boot.step = 2 then
        match s.imageFault w with
        | some code => s.stepFails code 0
        | none => State.stepDone { s with fwVersion := w.version, fwDigest := w.digest }
      else s
    | .links ups => if s.boot.step = 5 then (s.bringUp ups).stepDone else s
  else s

/-- POWER_ON: a cold start, where power was off or no start has run (R40). -/
def applyPower (s : State) : State :=
  if !s.power || (s.boot.step == 0 && s.mbxState == 0) then State.beginCold { s with power := true } else s

/-- POWER_REMOVAL: nothing is retained (R18); fuses and the outside of the part stay. -/
def removePower (s : State) : State :=
  if s.power then
    { State.reset with power := false, agenda := s.agenda, free := s.free, hostMem := s.hostMem, hostPages := s.hostPages,
                       rollback := s.rollback, tkey := s.tkey }
  else s

/-! ## The mailbox (R37 to R39) -/

/-- BOOT_STAT (R42). -/
def Boot.stat (b : Boot) : BitVec 32 :=
  BitVec.ofNat 32 (b.failStep * 2 ^ 24 + b.failCode * 2 ^ 16 + b.retries * 2 ^ 8 + b.warm.toNat * 2 ^ 7 + b.step)

/-- A number among the argument bytes of a function. -/
def Fn.arg (x : Fn) (off n : Nat) : Nat := bvField x.data (8 * off) (8 * n)
/-- Argument bytes. -/
def Fn.argBytes (x : Fn) (off n : Nat) : List Byte := leBytes n (x.arg off n)

/-- What a command does at once: the state, RESULT and the result bytes. -/
abbrev Command := State × Nat × List Byte

/-- A command that ends with a RESULT that is not 0 and changes nothing. -/
def refuseCommand (s : State) (result : Nat) : Command := (s, result, [])

/-- GET_STATUS. -/
def commandStatus (s : State) : Command :=
  (s, 0, leBytes 4 s.boot.stat.toNat ++ leBytes 4 s.fwVersion ++ leBytes 48 s.fwDigest.toNat ++ leBytes 1 s.rollback ++
    leBytes 1 s.mbxState)

/-- GET_LOG. -/
def commandLog (f : Nat) (s : State) : Command :=
  let off := (s.fn f).arg 0 4
  if off % 256 = 0 ∧ off < 65536 then
    (s, 0, (upTo 16).flatMap fun i => leBytes 16 ((s.startLog.getD (off / 16 + i) 0).toNat))
  else refuseCommand s 3

/-- An access table as its 160 bytes. -/
def tableBytes (t : AccessTable) : List Byte := leBytes 160 t.toNat

/-- Every access table, in ascending register-block offset (R46, R52). -/
def State.allTables (s : State) : List Byte :=
  ((upTo 16).flatMap fun c =>
    tableBytes (mapGet s.hbmTables c tableTenant0) ++ (upTo 8).flatMap fun r => tableBytes (s.range c r).table) ++
  tableBytes s.hubTable ++ ((upTo 128).flatMap fun n => tableBytes (mapGet s.queueTables n 0)) ++
  (upTo 12).flatMap fun p => tableBytes (mapGet s.portTables p 0)

/-- The map of loaded key slots (R46). -/
def State.slotMap (s : State) : List Byte :=
  leBytes 64 ((upTo 512).foldl (fun a t => if (s.keySlot t).loaded then a + 2 ^ t else a) 0)

/-- Length of an attestation report (R46). -/
def reportLength : Nat := 1772 + Config.cert1.length + 4 + Config.cert2.length + 384 + 16224

/-- The signed bytes of an attestation report (R46). -/
def State.reportBody (s : State) (f : Nat) (nonce : List Byte) : List Byte :=
  leBytes 4 0x52545441 ++ leBytes 4 reportLength ++ nonce ++ leBytes 1 f ++ leBytes 1 0 ++ leBytes 2 (s.tenantOfFn f) ++
  leBytes 4 s.fwVersion ++ leBytes 48 s.fwDigest.toNat ++ leBytes 48 (Config.sha384 s.allTables).toNat ++
  leBytes 48 (Config.sha384 s.slotMap).toNat ++ leBytes 8 s.rollback ++ leBytes 1568 (Config.transportKey s.tkey).toNat ++
  leBytes 4 Config.cert1.length ++ Config.cert1 ++ leBytes 4 Config.cert2.length ++ Config.cert2

/-- An attestation report (R45, R46). -/
def State.report (s : State) (f : Nat) (nonce : List Byte) : List Byte :=
  let b := s.reportBody f nonce
  b ++ leBytes 384 (Config.rsaSign b).toNat ++ leBytes 16224 (Config.slhSign b).toNat

/-- GET_ATTEST. -/
def commandAttest (f : Nat) (s : State) : Command :=
  let x := s.fn f
  let iova := x.arg 32 8
  if iova % 4096 ≠ 0 ∨ x.arg 40 4 < reportLength then refuseCommand s 3
  else (s.hostWrite f iova (s.report f (x.argBytes 0 32)), 0, leBytes 4 reportLength)

/-- Customisation strings LDRT and LDRC (R39). -/
def customKek : List Byte := [0x4C, 0x44, 0x52, 0x54]
def customConfirm : List Byte := [0x4C, 0x44, 0x52, 0x43]

/-- A complete ciphertext opens a session (R39). -/
def openSession (f : Nat) (ct : List Byte) (s : State) : Command :=
  let n := s.sessions + 1
  let ss := Config.decapsulate s.tkey ct
  let kek := Config.kmac256 ss (leBytes 8 n ++ leBytes 1 f) customKek
  let conf := (leBytes 32 (Config.kmac256 ss (leBytes 8 n) customConfirm).toNat).take 8
  (State.setFn { s with sessions := n } f { s.fn f with part := [], session := some (n, kek) }, 0, leBytes 8 n ++ conf)

/-- OPEN_TRANSPORT. -/
def commandTransport (f : Nat) (s : State) : Command :=
  let x := s.fn f
  let off := x.arg 0 4
  if off % 240 ≠ 0 ∨ 1568 ≤ off ∨ x.arg 4 4 ≠ 0 then refuseCommand s 3
  else if off ≠ 0 ∧ off ≠ x.part.length then (s.setFn f { x with part := [] }, 3, [])
  else
    let ct := (if off = 0 then [] else x.part) ++ x.argBytes 8 (Nat.min 240 (1568 - off))
    if ct.length = 1568 then openSession f ct s else (s.setFn f { x with part := ct }, 0, [])

/-- The keys of an unwrapped LOAD_KEY in a slot (R49); its memory key names its generation (log 5). -/
def slotOf (k : BitVec 768) : KeySlot :=
  let mem := BitVec.ofNat 512 k.toNat
  { loaded := true, gen := 2 * mem.toNat + 1, memKey := mem, larder := BitVec.ofNat 256 (k.toNat / 2 ^ 512) }

/-- LOAD_KEY (R49): the session is closed by it, whatever the result. -/
def commandLoadKey (f : Nat) (s : State) : Command :=
  let x := s.fn f
  let t := x.arg 0 2
  let g := x.arg 2 2
  if t = 0 ∨ 512 ≤ t ∨ 64 ≤ g then refuseCommand s 3
  else match (s.fn g).session with
    | none => refuseCommand s 3
    | some (n, kek) =>
      if n ≠ x.arg 4 8 then refuseCommand s 3
      else
        let s1 := s.setFn g { s.fn g with session := none }
        match Config.unwrapKeys kek (x.argBytes 16 104) with
        | none => (s1, 5, [])
        | some k => if (s.keySlot t).loaded then (s1, 3, []) else ({ s1 with keys := mapPut s1.keys t (slotOf k) }, 0, [])

/-- A tenant is busy (R49): a task of it runs or is saved, a handle of it is bound, or a queue of it holds a record. -/
def State.tenantBusy (s : State) (t : Nat) : Bool :=
  (s.tasks.any fun p => p.2.tenant == t && p.2.phase != .ready) ||
  (s.coreTab.any fun p => !p.2.handles.isEmpty && p.2.task.isSome && s.tenantOf p.1 == t) ||
  s.queues.any fun p => p.2.tenant == t && p.2.pi != p.2.ci

/-- A tenant's entries leave the Larder (R49): results, digests, and the keys its waiting tasks were to form. -/
def State.forgetTenant (s : State) (t : Nat) : State :=
  let s := s.dropResults t
  State.unwatch { s with
    digestCache := s.digestCache.filter fun e => e.tag.tenant != t
    digests := s.digests.filter fun d => !((s.task? d.task.toNat).any fun x => x.tenant == t)
    tasks := s.tasks.map fun p => if p.2.tenant = t ∧ p.2.pure then (p.1, { p.2 with void := true }) else p }

/-- REVOKE_KEY (R49). -/
def commandRevokeKey (f : Nat) (s : State) : Command :=
  let t := (s.fn f).arg 0 2
  if t = 0 ∨ 512 ≤ t then refuseCommand s 3
  else if s.tenantBusy t then refuseCommand s 4
  else
    let s := s.forgetTenant t
    ({ s with keys := mapDel s.keys t }, 0, [])

/-- ASSIGN_FN. -/
def commandAssign (f : Nat) (s : State) : Command :=
  let g := (s.fn f).arg 0 2
  let t := (s.fn f).arg 2 2
  if g = 0 ∨ 64 ≤ g ∨ t = 0 ∨ 512 ≤ t then refuseCommand s 3
  else (s.setFn g { s.fn g with tenant := t }, 0, [])

/-- WARM_START; a start in progress is not one that a warm start may cut short (log 12). -/
def commandWarm (s : State) : Command := if s.mbxState = 1 then (s.beginWarm, 0, []) else refuseCommand s 2

/-- The results of a command in MBX_DATA, the rest of it zero (R39). -/
def resultData (bs : List Byte) : BitVec 2048 := BitVec.ofNat 2048 (leNat bs)

/-- A command finishes (R37): results, RESULT and the MBX_DONE event. -/
def State.mailboxDone (s : State) (f : Nat) : State :=
  let x := s.fn f
  match x.busy with
  | none => s
  | some r =>
    (s.setFn f { x with busy := none, result := BitVec.ofNat 8 r.result, data := r.data }).postEvent f 2 f 1 0
      (payloadOf (leBytes 1 r.cmd ++ leBytes 1 r.result))

/-- Commands the safe state serves (R38). -/
def safeCommand (cmd : Nat) : Bool := cmd == 0x01 || cmd == 0x02 || cmd == 0x31

/-- A GO with a command code (R37, R38): ignored while another command of the function runs; else it is checked, has its effect,
and is busy until MBX_DONE. -/
def State.issue (s : State) (f cmd : Nat) (own : Bool) (run : State → Command) : State :=
  let x := s.fn f
  if !s.power then s
  else if x.busy.isSome then s.setFn f { x with errBusy := true }
  else
    let r := if (s.mbxState == 2 && !(safeCommand cmd)) || (own && f != 0) then refuseCommand s 2 else run s
    r.1.setFn f { r.1.fn f with cmd := BitVec.ofNat 8 cmd, busy := some ⟨cmd, r.2.1, resultData r.2.2⟩ }

/-- COLD_START (R38, R40, R42): the command is done as the start begins, which resets the mailbox with everything else. -/
def issueCold (f : Nat) (s : State) : State :=
  if f ≠ 0 ∨ !s.power ∨ (s.fn f).busy.isSome then s.issue f 0x31 true fun s => refuseCommand s 0
  else ((s.issue f 0x31 true fun s => (s, 0, [])).mailboxDone f).beginCold

/-- A GO of any code (R37): an unassigned one ends with RESULT 1. -/
def State.mailboxGo (s : State) (f cmd : Nat) : State :=
  match cmd with
  | 0x01 => s.issue f cmd false commandStatus
  | 0x02 => s.issue f cmd false (commandLog f)
  | 0x10 => s.issue f cmd false (commandAttest f)
  | 0x11 => s.issue f cmd false (commandTransport f)
  | 0x20 => s.issue f cmd true (commandLoadKey f)
  | 0x21 => s.issue f cmd true (commandRevokeKey f)
  | 0x22 => s.issue f cmd true (commandAssign f)
  | 0x30 => s.issue f cmd true commandWarm
  | 0x31 => issueCold f s
  | _ => s.issue f cmd false fun s => refuseCommand s 1

/-- FUNCTION_LEVEL_RESET (R36, R37): a command that it ends posts no MBX_DONE and leaves MBX_DATA zero (log 44). -/
def resetFunction (f : Nat) (s : State) : State :=
  if s.power then
    let x := s.fn f
    let x := { x with en := false, backlog := [], seqs := [] }
    s.setFn f (if x.busy.isSome then { x with busy := none, result := 6, data := 0 } else x)
  else s

/-- POWER_ON (R40). -/
def execPowerOn (s : State) : Outcome := .next (applyPower s)

/-- FUNDAMENTAL_RESET (R40); it does not lead out of the safe state (R42). -/
def execFundamentalReset (s : State) : Outcome := .next (if s.power && s.mbxState != 2 then s.beginCold else s)

/-- POWER_REMOVAL (R18). -/
def execPowerRemoval (s : State) : Outcome := .next (removePower s)

/-- START_STEP_COMPLETE (R40 to R44). -/
def execStartStepComplete (res : StepResult) (s : State) : Outcome := .next (stepCompletes res s)

/-- FUNCTION_LEVEL_RESET (R36). -/
def execFunctionLevelReset (f : Nat) (s : State) : Outcome := .next (resetFunction f s)

/-- GET_STATUS (R39). -/
def execGetStatus (f : Nat) (s : State) : Outcome := .next (s.mailboxGo f 0x01)

/-- GET_LOG (R39). -/
def execGetLog (f : Nat) (s : State) : Outcome := .next (s.mailboxGo f 0x02)

/-- GET_ATTEST (R45, R46). -/
def execGetAttest (f : Nat) (s : State) : Outcome := .next (s.mailboxGo f 0x10)

/-- OPEN_TRANSPORT (R39). -/
def execOpenTransport (f : Nat) (s : State) : Outcome := .next (s.mailboxGo f 0x11)

/-- LOAD_KEY (R49). -/
def execLoadKey (f : Nat) (s : State) : Outcome := .next (s.mailboxGo f 0x20)

/-- REVOKE_KEY (R49). -/
def execRevokeKey (f : Nat) (s : State) : Outcome := .next (s.mailboxGo f 0x21)

/-- ASSIGN_FN (R38, R39). -/
def execAssignFn (f : Nat) (s : State) : Outcome := .next (s.mailboxGo f 0x22)

/-- WARM_START (R40, R41). -/
def execWarmStart (f : Nat) (s : State) : Outcome := .next (s.mailboxGo f 0x30)

/-- COLD_START (R40, R42). -/
def execColdStart (f : Nat) (s : State) : Outcome := .next (s.mailboxGo f 0x31)

/-- A GO with a code that R38 does not assign (R37). -/
def assignedCommand (cmd : Nat) : Bool := [0x01, 0x02, 0x10, 0x11, 0x20, 0x21, 0x22, 0x30, 0x31].contains cmd

/-- MBX_UNKNOWN_COMMAND (R37). -/
def execMbxUnknownCommand (f : Nat) (cmd : Nat) (s : State) : Outcome :=
  .next (if assignedCommand cmd then s else s.mailboxGo f cmd)

/-- MBX_DONE (R37). -/
def execMbxDone (f : Nat) (s : State) : Outcome := .next (s.mailboxDone f)

end Sys2Proof.Machine
end

