-- ==== Sys2Proof/Machine/Hub.lean ====
section
/-! DEFINITION. The register windows of the host functions (R29, R30, R33, R34, R37) and the hub register block (R31): reads,
writes, access checks (R50, R51), and what writes of SDCTL, PKCTL, SAVECFG, QCFG and QPI do; host writes to package memory and
ATS invalidations (R12, R137). -/

namespace Sys2Proof.Machine

/-! ## Offsets (R29, R31) -/

/-- An access table of the hub register block (R52). -/
inductive TableId where
  | hbmDefault (c : Nat)
  | hbmRange (c r : Nat)
  | hub
  | queue (n : Nat)
  | port (p : Nat)
  deriving DecidableEq, Repr

/-- A register of the hub register block (R31). -/
inductive HubReg where
  | pkgPwr | dieClk (d : Nat) | wdlimit | savecfg | sdaddr | sdctl | pkctl | evtab | evarg | evlost | ecc (d : Nat) | bootStat
  | link (p : Nat) | route (i : Nat) | podId | lwmap (d : Nat)
  | qbase (n : Nat) | qcfg (n : Nat) | qprod (n : Nat) | qcons (n : Nat) | qstat (n : Nat)
  | lpool (t : Nat) | lquota (t : Nat) | lcnt (t : Nat) | ptroot (t : Nat)
  | range (c r : Nat)
  /-- Word `i` of an access table. -/
  | table (x : TableId) (i : Nat)
  deriving DecidableEq, Repr

/-- A register of a function's window (R29). -/
inductive FnReg where
  | qpi (n : Nat) | evqBase | evqCtl | evqHead | evqStat | mbxCtl | mbxStat
  /-- Eight bytes of MBX_DATA. -/
  | mbxData (i : Nat)
  | fnInfo | fnStat
  deriving DecidableEq, Repr

/-- Number of the register of an array that begins at an offset, if it is one of `n` at this stride. -/
def arrayAt (off base stride n : Nat) : Option Nat :=
  if base ≤ off ∧ (off - base) % stride = 0 ∧ (off - base) / stride < n then some ((off - base) / stride) else none

/-- Word of an access table of 160 bytes at a base. -/
def tableAt (off base : Nat) (x : TableId) : Option HubReg := (arrayAt off base 8 20).map fun i => .table x i

/-- A register of HBM range controller `c`, by its offset from the controller's base (R52). -/
def controllerAt (c off : Nat) : Option HubReg :=
  if off < 0x100 then (arrayAt off 0 8 8).map fun r => .range c r
  else if off < 0x200 then tableAt off 0x100 (.hbmDefault c)
  else if off < 0xA00 then tableAt ((off - 0x200) % 0x100) 0 (.hbmRange c ((off - 0x200) / 0x100))
  else none

/-- The register of a queue at its offset within the queue's 32 bytes. -/
def queueRegAt (n off : Nat) : Option HubReg :=
  match off with
  | 0 => some (.qbase n) | 0x8 => some (.qcfg n) | 0x10 => some (.qprod n) | 0x14 => some (.qcons n) | 0x18 => some (.qstat n)
  | _ => none

/-- The register of a tenant's Larder at its offset within its 32 bytes. -/
def larderRegAt (t off : Nat) : Option HubReg :=
  match off with | 0 => some (.lpool t) | 0x8 => some (.lquota t) | 0x10 => some (.lcnt t) | _ => none

/-- The register of the hub register block at an offset. -/
def hubRegAt (off : Nat) : Option HubReg :=
  if off < 0x1000 then
    match off with
    | 0x00 => some .pkgPwr | 0x40 => some .wdlimit | 0x48 => some .savecfg | 0x50 => some .sdaddr | 0x58 => some .sdctl
    | 0x60 => some .pkctl | 0x68 => some .evtab | 0x70 => some .evarg | 0x78 => some .evlost | 0xA0 => some .bootStat
    | _ => ((arrayAt off 0x10 8 4).map .dieClk).orElse fun _ => (arrayAt off 0x80 8 4).map .ecc
  else if off < 0x1100 then (arrayAt off 0x1000 8 12).map .link
  else if off < 0x1300 then (arrayAt off 0x1100 8 64).map .route
  else if off = 0x1300 then some .podId
  else if off < 0x4000 then (arrayAt off 0x2000 8 4).map .lwmap
  else if off < 0x5000 then queueRegAt ((off - 0x4000) / 32) (off % 32)
  else if off < 0x10000 then none
  else if off < 0x14000 then larderRegAt ((off - 0x10000) / 32) (off % 32)
  else if off < 0x15000 then (arrayAt off 0x14000 8 512).map .ptroot
  else if off < 0x20000 then none
  else if off < 0x30000 then controllerAt ((off - 0x20000) / 0x1000) (off % 0x1000)
  else if off < 0x31000 then tableAt off 0x30000 .hub
  else if off < 0x39000 then tableAt (off % 0x100) 0 (.queue ((off - 0x31000) / 0x100))
  else if off < 0x39C00 then tableAt (off % 0x100) 0 (.port ((off - 0x39000) / 0x100))
  else none

/-- A register is 32 bits wide. -/
def HubReg.narrow : HubReg → Bool
  | .pkgPwr => true | .dieClk _ => true | .wdlimit => true | .pkctl => true | .evlost => true | .bootStat => true
  | .link _ => true | .podId => true | .qcfg _ => true | .qprod _ => true | .qcons _ => true | .qstat _ => true
  | _ => false

/-- The register of a function's window at an offset (R29). -/
def fnRegAt (off : Nat) : Option FnReg :=
  match off with
  | 0x400 => some .evqBase | 0x408 => some .evqCtl | 0x410 => some .evqHead | 0x418 => some .evqStat
  | 0x800 => some .mbxCtl | 0x808 => some .mbxStat | 0x1000 => some .fnInfo | 0x1008 => some .fnStat
  | _ => ((arrayAt off 0 8 128).map .qpi).orElse fun _ => (arrayAt off 0xC00 8 32).map .mbxData

/-- A register is 32 bits wide. -/
def FnReg.narrow : FnReg → Bool
  | .qpi _ => false | .evqBase => false | .mbxData _ => false | _ => true

/-- The registers that an access reaches, each with its place in the data; none where the access is malformed (R29): it must be
naturally aligned, of 8 bytes, or of 4 bytes to a 32-bit register.  An offset without a register reaches none. -/
def accessParts {α : Type} (find : Nat → Option α) (narrow : α → Bool) (off size : Nat) : Option (List (α × Nat)) :=
  if size = 8 ∧ off % 8 = 0 then
    match find off with
    | none => some []
    | some r =>
      if narrow r then
        match find (off + 4) with
        | some q => if narrow q then some [(r, 0), (q, 32)] else some [(r, 0)]
        | none => some [(r, 0)]
      else some [(r, 0)]
  else if size = 4 ∧ off % 4 = 0 then
    match find off with
    | some r => if narrow r then some [(r, 0)] else none
    | none => none
  else none

/-! ## Reads -/

/-- LINK_STAT (R26). -/
def Port.stat (x : Port) : Nat :=
  (if x.state = 2 then x.peer else 0) * 2 ^ 26 + x.retrains * 2 ^ 18 + x.width * 2 ^ 10 + x.state

/-- DIE_CLK_STAT (R21). -/
def Die.clkStat (x : Die) : Nat :=
  x.temp % 256 * 2 ^ 24 + x.causes.toNat * 2 ^ 16 + x.limitK * 2 ^ 8 + x.minK

/-- ECC_STAT (R218). -/
def Die.eccStat (x : Die) : Nat :=
  x.lastUE.toNat * 2 ^ 29 + x.lastSram.toNat * 2 ^ 28 + x.ue.toNat * 2 ^ 16 + x.ce.toNat

/-- QCFG (R58). -/
def Queue.cfg (q : Queue) : Nat :=
  q.en.toNat * 2 ^ 31 + q.space.toNat * 2 ^ 30 + q.prio * 2 ^ 27 + q.tenant * 2 ^ 18 + q.func * 2 ^ 12 + q.spawn.toNat * 2 ^ 11 +
  q.size

/-- STATE of QSTAT: 0 disabled, 1 running, 2 halted (R58). -/
def Queue.status (q : Queue) : Nat := if !q.en then 0 else if q.halted then 2 else 1

/-- QSTAT (R58). -/
def Queue.stat (q : Queue) : Nat :=
  q.status * 2 ^ 30 + q.ovr.toNat * 2 ^ 29 + q.badrec.toNat * 2 ^ 28 + q.full.toNat * 2 ^ 27 + q.flight.length

/-- An access table. -/
def State.accessTable (s : State) : TableId → AccessTable
  | .hbmDefault c => mapGet s.hbmTables c tableTenant0
  | .hbmRange c r => (s.range c r).table
  | .hub => s.hubTable
  | .queue n => mapGet s.queueTables n (if n = 0 then tableHost0 else 0)
  | .port p => mapGet s.portTables p 0

/-- What a register of the hub register block reads as. -/
def State.hubValue (s : State) : HubReg → Nat
  | .pkgPwr => s.watts.toNat
  | .dieClk d => (s.die d).clkStat
  | .wdlimit => s.wdlimit.toNat
  | .savecfg => s.saveSlots * 2 ^ 52 + s.saveFree * 2 ^ 40 + s.saveBase
  | .sdaddr => s.sdBase
  | .sdctl => s.sdPages.toNat * 2 ^ 32 + s.sdBusy.toNat * 2 ^ 30 + s.sdTenant * 2 ^ 20
  | .pkctl => s.pkAction * 2 ^ 8 + s.pkIndex
  | .evtab => s.evtab.toNat
  | .evarg => s.evarg.toNat
  | .evlost => s.evlost.toNat
  | .ecc d => (s.die d).eccStat
  | .bootStat => s.boot.stat.toNat
  | .link p => (mapGet s.ports p Port.initial).stat
  | .route i => (mapGet s.routes i 0xFF).toNat
  | .podId => s.podId.toNat
  | .lwmap d => (s.lwmap d).toNat
  | .qbase n => (s.queue n).base
  | .qcfg n => (s.queue n).cfg
  | .qprod n => (s.queue n).pi.toNat
  | .qcons n => (s.queue n).ci.toNat
  | .qstat n => (s.queue n).stat
  | .lpool t => (s.pool t).lpool.toNat
  | .lquota t => (s.lquota t).toNat
  | .lcnt t => (s.pool t).lcnt.toNat
  | .ptroot t => (mapGet s.ptroot t 0).toNat
  | .range c r => (s.range c r).en.toNat * 2 ^ 63 + (s.range c r).last * 2 ^ 32 + (s.range c r).first
  | .table x i => bvField (s.accessTable x) (64 * i) 64

/-- What a register of a function's window reads as; QPI is write only. -/
def State.fnValue (s : State) (f : Nat) : FnReg → Nat
  | .qpi _ => 0
  | .evqBase => (s.fn f).evqBase.toNat
  | .evqCtl => (s.fn f).en.toNat * 2 ^ 31 + (s.fn f).vec * 2 ^ 10 + (s.fn f).size
  | .evqHead => (s.fn f).head.toNat
  | .evqStat => (s.fn f).lost.toNat * 2 ^ 16 + (s.fn f).backlog.length
  | .mbxCtl => (s.fn f).cmd.toNat
  | .mbxStat =>
    (s.fn f).busy.isSome.toNat * 2 ^ 31 + (s.fn f).errBusy.toNat * 2 ^ 30 + s.mbxState * 2 ^ 8 + (s.fn f).result.toNat
  | .mbxData i => bvField (s.fn f).data (64 * i) 64
  | .fnInfo => s.tenantOfFn f * 2 ^ 17 + f
  | .fnStat => (s.fn f).denied.toNat * 2 ^ 16 + (s.fn f).badacc.toNat

/-! ## Refused and malformed accesses (R29, R50) -/

/-- Count an access refused by an access table. -/
def State.countDenied (s : State) (f : Nat) : State := s.setFn f { s.fn f with denied := satAdd1 (s.fn f).denied }
/-- Count a malformed access. -/
def State.countBad (s : State) (f : Nat) : State := s.setFn f { s.fn f with badacc := satAdd1 (s.fn f).badacc }

/-- A register that only function 0 may write (R50, R58, R94), or reach at all (R211, R221). -/
def HubReg.reserved (write : Bool) : HubReg → Bool
  | .table _ _ => write
  | .qbase _ => write | .qcfg _ => write | .qprod _ => write | .qcons _ => write | .qstat _ => write
  | .lpool _ => write | .lquota _ => write | .lcnt _ => write | .lwmap _ => write
  | .savecfg => true | .pkctl => true
  | _ => false

/-- The access table of the hub register block, and the registers of function 0, refuse an access of function `f`. -/
def State.hubRefuses (s : State) (f : Nat) (write : Bool) (rs : List HubReg) : Bool :=
  !(tableAllows s.hubTable (.func f) write) || (f != 0 && rs.any (HubReg.reserved write))

/-! ## Queues (R58, R59) -/

/-- Spawned records that still wait in a queue (R71). -/
def Queue.trimSpawns (q : Queue) : Queue :=
  { q with spawnDie := q.spawnDie.filter fun e => decide ((BitVec.ofNat 32 e.1 - q.ci).toNat < (q.pi - q.ci).toNat) }

/-- A queue whose indices or size have been written; notices enter queue 0 where that made room (R78). -/
def State.setIndices (s : State) (n : Nat) (q : Queue) : State :=
  let s := s.setQueue n q.trimSpawns
  if n = 0 then s.drainNotices s.notices.length else s

/-- A write of QCFG[n]; while EN is 1 it changes only EN, and a cleared EN ends a halt (R58, R59). -/
def writeQcfg (n : Nat) (v : Nat) (s : State) : State :=
  let q := s.queue n
  let en := v.testBit 31
  let tenant := if n = 0 then 0 else bitsAt v 18 9
  let prio := if n = 0 then 0 else if bitsAt v 27 3 = 0 ∧ tenant ≠ 0 then 1 else bitsAt v 27 3
  let q := if q.en then { q with en := en }
    else { q with en := en, space := v.testBit 30, prio := prio, tenant := tenant, func := if n = 0 then 0 else bitsAt v 12 6,
                  spawn := n != 0 && v.testBit 11, size := bitsAt v 0 5 }
  s.setIndices n (if en then q else { q with halted := false })

/-- An accepted producer index (R59). -/
def producerIndex (n : Nat) (p : BitVec 32) (s : State) : State :=
  let q := s.queue n
  let s1 := s.setIndices n { q with pi := p }
  if !q.en || p == q.pi || decide ((p - q.ci).toNat ≤ (q.pi - q.ci).toNat) || decide ((p - q.ci).toNat ≤ q.slots) then s1
  else s1.haltQueue n 1

/-- A write of QPI[n] by function `f` (R30, R58). -/
def writeQpi (f n : Nat) (v : Word) (s : State) : State :=
  if bvField v 32 32 = 0 && tableAllows (s.accessTable (.queue n)) (.func f) true && !(s.queue n).spawn then
    producerIndex n (BitVec.ofNat 32 v.toNat) s
  else s.countDenied f

/-! ## Shootdown (R139) -/

/-- Virtual bytes, or IOVAs, [first, end) of a slot in G or H (R135). -/
def Handle.vaRange (h : Handle) : Option (Nat × Nat) :=
  if h.desc.space = 4 ∨ h.desc.space = 5 then
    if h.desc.codec ≠ 0 then some (h.desc.base, h.desc.base + h.desc.clen)
    else
      let f := h.desc.footprint h.lo h.ext
      some (h.desc.base + f.1, h.desc.base + f.1 + f.2)
  else none

/-- A slot's range meets the named one. -/
def Handle.meets (h : Handle) (first last : Nat) : Bool :=
  match h.vaRange with | some r => decide (r.1 < last) && decide (first < r.2) | none => false

/-- A record names a slot of the range. -/
def Rec.meets (r : Rec) (first last : Nat) : Bool := r.binds.any fun p => p.2.meets first last

/-- A core whose slots of a range are unbound. -/
def Core.unbindRange (q : Core) (first last : Nat) : Core :=
  { q with handles := q.handles.filter fun p => !(p.2.meets first last)
           bindNew := q.bindNew.map fun p => (p.1, p.2.bind fun h => if h.meets first last then none else some h) }

/-- A saved core whose slots of a range are unbound; its records that name one are discarded at the resume (R139). -/
def SavedCore.unbindRange (x : SavedCore) (first last : Nat) : SavedCore :=
  let mark := fun (r : Rec) => if r.meets first last = true then { r with hunbound := true } else r
  { x with core := { x.core.unbindRange first last with
      engines := x.core.engines.map fun e => (e.1, { e.2 with queue := e.2.queue.map mark }) } }

/-- Records of a core that name a slot of a range. -/
def Core.recordsMeeting (q : Core) (first last : Nat) : List (Nat × Nat × Nat) :=
  q.engines.flatMap fun e => (e.2.queue.filter fun r => r.meets first last).map fun r => (r.core, r.eng, r.num)

/-- Steps 1 and 2 of a shootdown (R139). -/
def State.shootDown (s : State) : State :=
  let first := s.sdBase
  let last := s.sdBase + s.sdPages.toNat * 4096
  let mine := fun (c : Nat) => (s.taskOf c).any fun t => t.tenant == s.sdTenant
  { s with
    sdBusy := true
    sdWait := s.coreTab.flatMap fun p => if mine p.1 then p.2.recordsMeeting first last else []
    coreTab := s.coreTab.map fun p => if mine p.1 then (p.1, p.2.unbindRange first last) else p
    tasks := s.tasks.map fun p =>
      if p.2.tenant = s.sdTenant then
        (p.1, { p.2 with saved := p.2.saved.map fun x => (x.1, x.2.unbindRange first last) })
      else p }

/-- A write of SDCTL: a GO while BUSY is ignored, and the other fields are written. -/
def writeSdctl (v : Nat) (s : State) : State :=
  let s : State := { s with sdPages := BitVec.ofNat 32 (v / 2 ^ 32), sdTenant := bitsAt v 20 9 }
  if v.testBit 31 && !s.sdBusy then s.shootDown else s

/-- A record is still in a queue. -/
def State.stillQueued (s : State) (w : Nat × Nat × Nat) : Bool :=
  (s.core w.1).engines.any fun e => e.2.queue.any fun r => (r.core, r.eng, r.num) == w

/-- Step 4 of a shootdown is due: the records it waits for have completed. -/
def State.shootdownDue (s : State) : Bool := s.sdBusy && s.sdWait.all fun w => !(s.stillQueued w)

/-- SHOOTDOWN_COMPLETE. -/
def endShootdown (s : State) : State := if s.shootdownDue then { s with sdBusy := false, sdWait := [] } else s

/-! ## Parked strands (R211) -/

/-- A strand that is parked no more: it may execute its HBIND again. -/
def State.unpark (s : State) (i : Nat) (x : Park) : State :=
  let s : State := { s with parks := mapDel s.parks i }
  s.setCore x.core ((s.core x.core).setStrand x.strand { (s.core x.core).strand x.strand with hold := none, heldTicks := 0 })

/-- An action on a park entry. -/
def resolvePark (action i : Nat) (s : State) : State :=
  match mapFind s.parks i with
  | none => s
  | some x =>
    let t := s.unpark i x
    match action with
    | 0 => t
    | 2 =>
      (match (t.core x.core).task with
       | some id => t.abortTask id codePAGE 0
       | none => t)
    | _ => t.raiseAt x.core x.strand (Exc.atSlot x.slot codePAGE 0 (BitVec.ofNat 64 x.va)) 0

/-- A write of PKCTL; one that names a free entry is ignored (R211). -/
def writePkctl (v : Nat) (s : State) : State :=
  if (mapFind s.parks (bitsAt v 0 8)).isNone then s
  else
    let s : State := { s with pkAction := bitsAt v 8 2, pkIndex := bitsAt v 0 8 }
    if v.testBit 31 then resolvePark s.pkAction s.pkIndex s else s

/-- A write of SAVECFG, ignored while a task is saved (R221). -/
def writeSavecfg (v : Nat) (s : State) : State :=
  if s.tasks.any (fun p => !p.2.saved.isEmpty) then s
  else { s with saveSlots := bitsAt v 52 12, saveFree := bitsAt v 52 12, saveBase := bitsAt v 16 24 * 2 ^ 16 }

/-! ## Writes -/

/-- The state with an access table replaced. -/
def State.setTable (s : State) (x : TableId) (t : AccessTable) : State :=
  match x with
  | .hbmDefault c => { s with hbmTables := mapPut s.hbmTables c t }
  | .hbmRange c r => { s with ranges := mapPut s.ranges (c * 8 + r) { s.range c r with table := t } }
  | .hub => { s with hubTable := t }
  | .queue n => { s with queueTables := mapPut s.queueTables n t }
  | .port p => { s with portTables := mapPut s.portTables p t }

/-- Bits 56:12 of a written address (R7). -/
def pageAddr (v : Nat) : Nat := bitsAt v 12 45 * 4096

/-- A write of a register of the hub register block; reserved and read-only bits ignore it (R7). -/
def State.writeHubReg (s : State) (r : HubReg) (v : Nat) : State :=
  match r with
  | .pkgPwr => { s with watts := BitVec.ofNat 16 v }
  | .dieClk d => s.setDie d { s.die d with causes := (s.die d).causes &&& ~~~(BitVec.ofNat 5 (v / 2 ^ 16)) }
  | .wdlimit => { s with wdlimit := BitVec.ofNat 32 v }
  | .savecfg => writeSavecfg v s
  | .sdaddr => { s with sdBase := pageAddr v }
  | .sdctl => writeSdctl v s
  | .pkctl => writePkctl v s
  | .evtab => { s with evtab := BitVec.ofNat 64 (pageAddr v) }
  | .evarg => { s with evarg := BitVec.ofNat 64 (pageAddr v) }
  | .evlost => if v % 2 ^ 32 = 0 then s else { s with evlost := 0 }
  | .ecc d =>
    let x := s.die d
    s.setDie d { x with ue := if bitsAt v 16 12 = 0 then x.ue else 0, ce := if bitsAt v 0 16 = 0 then x.ce else 0 }
  | .bootStat => s
  | .link p =>
    if bitsAt v 18 8 = 0 then s
    else { s with ports := mapPut s.ports p { mapGet s.ports p Port.initial with retrains := 0 } }
  | .route i => { s with routes := mapPut s.routes i (BitVec.ofNat 8 v) }
  | .podId => { s with podId := BitVec.ofNat 6 v }
  | .lwmap d => s.writeLwmap d (BitVec.ofNat 64 v)
  | .qbase n => s.setQueue n { s.queue n with base := pageAddr v }
  | .qcfg n => writeQcfg n v s
  | .qprod n => if (s.queue n).en then s else s.setIndices n { s.queue n with pi := BitVec.ofNat 32 v }
  | .qcons n => if (s.queue n).en then s else s.setIndices n { s.queue n with ci := BitVec.ofNat 32 v }
  | .qstat n =>
    let q := s.queue n
    s.setQueue n { q with ovr := q.ovr && !(v.testBit 29), badrec := q.badrec && !(v.testBit 28)
                          full := q.full && !(v.testBit 27) }
  | .lpool t => s.writeLpool t (BitVec.ofNat 64 v)
  | .lquota t => s.writeLquota t (BitVec.ofNat 64 v)
  | .lcnt t => s.writeLcnt t (BitVec.ofNat 64 v)
  | .ptroot t => { s with ptroot := mapPut s.ptroot t (BitVec.ofNat 64 (bitsAt v 17 23 * 2 ^ 17 + v % 2)) }
  | .range c r =>
    let x : HbmRange := { en := v.testBit 63, last := bitsAt v 32 24, first := bitsAt v 0 24, table := (s.range c r).table }
    { s with ranges := mapPut s.ranges (c * 8 + r) x }
  | .table x i => s.setTable x (bvSetField (s.accessTable x) (64 * i) 64 v)

/-- A write of EVQ_CTL: SIZE is ignored while EN is 1 (R34). -/
def writeEvqCtl (f : Nat) (v : Nat) (s : State) : State :=
  let x := s.fn f
  let s := s.setFn f { x with en := v.testBit 31, vec := bitsAt v 10 6, size := if x.en then x.size else bitsAt v 0 5 }
  s.drainEvents f x.backlog.length

/-- A write of EVQ_HEAD acknowledges the interrupt and makes room (R33, R34). -/
def writeEvqHead (f : Nat) (v : Nat) (s : State) : State :=
  let x := s.fn f
  (s.setFn f { x with head := BitVec.ofNat 32 v, armed := true }).drainEvents f x.backlog.length

/-- A write of a register of a function's window. -/
def State.writeFnReg (s : State) (f : Nat) (r : FnReg) (v : Nat) : State :=
  let x := s.fn f
  match r with
  | .qpi n => writeQpi f n (BitVec.ofNat 64 v) s
  | .evqBase => s.setFn f { x with evqBase := BitVec.ofNat 64 (v / 4096 * 4096) }
  | .evqCtl => writeEvqCtl f v s
  | .evqHead => writeEvqHead f v s
  | .evqStat => if bitsAt v 16 16 = 0 then s else s.setFn f { x with lost := 0 }
  | .mbxCtl => if v.testBit 31 then s.mailboxGo f (v % 256) else s.setFn f { x with cmd := BitVec.ofNat 8 v }
  | .mbxStat => if v.testBit 30 then s.setFn f { x with errBusy := false } else s
  | .mbxData i => if x.busy.isSome then s else s.setFn f { x with data := bvSetField x.data (64 * i) 64 v }
  | .fnInfo => s
  | .fnStat =>
    s.setFn f { x with denied := if bitsAt v 16 16 = 0 then x.denied else 0, badacc := if bitsAt v 0 16 = 0 then x.badacc else 0 }

/-- The part of written data that goes to a register at bit `sh`. -/
def partOf (narrow : Bool) (v : Word) (sh : Nat) : Nat := bvField v sh (if narrow then 32 else 64)

/-- A write to the hub register block (R29, R31, R50). -/
def State.writeHub (s : State) (f off size : Nat) (v : Word) : State :=
  if !s.power then s
  else match accessParts hubRegAt HubReg.narrow off size with
    | none => s.countBad f
    | some ps =>
      if s.hubRefuses f true (ps.map fun p => p.1) then s.countDenied f
      else ps.foldl (fun s p => s.writeHubReg p.1 (partOf p.1.narrow v p.2)) s

/-- A write to a function's window (R29). -/
def State.writeWindow (s : State) (f off size : Nat) (v : Word) : State :=
  if !s.power then s
  else match accessParts fnRegAt FnReg.narrow off size with
    | none => s.countBad f
    | some ps => ps.foldl (fun s p => s.writeFnReg f p.1 (partOf p.1.narrow v p.2)) s

/-- All ones, as a refused or malformed read of `size` bytes completes (R29, R50). -/
def allOnes (size : Nat) : Word := BitVec.ofNat 64 (2 ^ (8 * Nat.min size 8) - 1)

/-- A served read of DIE_CLK_STAT sets its MIN_K to LIMIT_K (R21). -/
def State.hubRead (s : State) : HubReg → State
  | .dieClk d => s.setDie d { s.die d with minK := (s.die d).limitK }
  | _ => s

/-- A read of the hub register block: its data, and the state with its counters (R29, R50). -/
def State.readHub (s : State) (f off size : Nat) : Word × State :=
  match accessParts hubRegAt HubReg.narrow off size with
  | none => (allOnes size, s.countBad f)
  | some ps =>
    if s.hubRefuses f false (ps.map fun p => p.1) then (allOnes size, s.countDenied f)
    else (BitVec.ofNat 64 (ps.foldl (fun a p => a + s.hubValue p.1 * 2 ^ p.2) 0), ps.foldl (fun s p => s.hubRead p.1) s)

/-- A read of a function's window (R29). -/
def State.readWindow (s : State) (f off size : Nat) : Word × State :=
  match accessParts fnRegAt FnReg.narrow off size with
  | none => (allOnes size, s.countBad f)
  | some ps => (BitVec.ofNat 64 (ps.foldl (fun a p => a + s.fnValue f p.1 * 2 ^ p.2) 0), s)

/-- A register read by function `f` completes: in the hub register block, or in its window (R29, R31, R50). -/
def readRegister (f : Nat) (hub : Bool) (off size : Nat) (s : State) : State :=
  if !s.power then s
  else
    let r := if hub then s.readHub f off size else s.readWindow f off size
    r.2.setFn f { r.2.fn f with readData := r.1 }

/-! ## Host memory accesses and ATS (R12, R48, R50, R137) -/

/-- A function may access [pa, pa + n) of package memory in a page of key id `k`: the tables of the HBM controllers and the key id
allow it (R48, R50). -/
def State.hostMay (s : State) (f k pa n : Nat) (write : Bool) : Bool :=
  (s.refusedGranule (.func f) write pa n).isNone && s.keyAllowed (s.tenantOfFn f) k

/-- A write of function `f` to package memory, under the key id of the page (R47); refused, it is dropped and counted. -/
def hostWrites (f k pa : Nat) (bs : List Byte) (s : State) : State :=
  if !s.ready || bs.isEmpty then s
  else if s.hostMay f k pa bs.length true then s.hbmWrite (s.keySlot k).gen pa bs
  else s.countDenied f

/-- A read of function `f` of package memory: its bytes, or all ones where it is refused (R50). -/
def hostReads (f k pa n : Nat) (s : State) : State :=
  if !s.ready || n == 0 then s
  else if s.hostMay f k pa n false then s.setFn f { s.fn f with readBytes := s.hbmRead (s.keySlot k).gen pa n }
  else
    let t := s.countDenied f
    t.setFn f { t.fn f with readBytes := List.replicate n 0xFF }

/-- Some record in a queue uses an H slot of function `f` that meets a range of IOVAs. -/
def State.usesHost (s : State) (f first last : Nat) : Bool :=
  s.coreTab.any fun p => p.2.engines.any fun e => e.2.queue.any fun r => r.binds.any fun b =>
    b.2.desc.space == 5 && b.2.func == f && b.2.meets first last

/-- ATS_INVALIDATION, answered once the records using the slot have drained (R137). -/
def invalidatePages (f page pages : Nat) (s : State) : State :=
  if s.usesHost f (page * 4096) ((page + pages) * 4096) then s
  else { s with hostPages := s.hostPages.filter fun x =>
    !(decide (f * 2 ^ 52 + page ≤ x) && decide (x < f * 2 ^ 52 + page + pages)) }

/-! ## The events -/

/-- QPI_WRITE (R30, R59). -/
def execQpiWrite (f : Nat) (n : Nat) (v : BitVec 64) (s : State) : Outcome := .next (s.writeWindow f (8 * n) 8 v)

/-- EVQ_CTL_WRITE (R34). -/
def execEvqCtlWrite (f : Nat) (v : BitVec 32) (s : State) : Outcome := .next (s.writeWindow f 0x408 4 (BitVec.ofNat 64 v.toNat))

/-- EVQ_HEAD_WRITE (R33, R34). -/
def execEvqHeadWrite (f : Nat) (v : BitVec 32) (s : State) : Outcome := .next (s.writeWindow f 0x410 4 (BitVec.ofNat 64 v.toNat))

/-- REGISTER_WRITE (R29, R31): in a function's window, or the hub register block. -/
def execRegisterWrite (f : Nat) (hub : Bool) (off : Nat) (size : Nat) (v : BitVec 64) (s : State) : Outcome :=
  .next (if hub then s.writeHub f off size v else s.writeWindow f off size v)

/-- PKCTL_RETRY (R211). -/
def execPkctlRetry (f : Nat) (idx : Nat) (s : State) : Outcome := .next (s.writeHub f 0x60 4 (BitVec.ofNat 64 (2 ^ 31 + idx)))

/-- PKCTL_DELIVER (R211). -/
def execPkctlDeliver (f : Nat) (idx : Nat) (s : State) : Outcome :=
  .next (s.writeHub f 0x60 4 (BitVec.ofNat 64 (2 ^ 31 + 2 ^ 8 + idx)))

/-- PKCTL_ABORT (R211). -/
def execPkctlAbort (f : Nat) (idx : Nat) (s : State) : Outcome :=
  .next (s.writeHub f 0x60 4 (BitVec.ofNat 64 (2 ^ 31 + 2 * 2 ^ 8 + idx)))

/-- SHOOTDOWN (R139). -/
def execShootdown (f : Nat) (v : BitVec 64) (s : State) : Outcome := .next (s.writeHub f 0x58 8 v)

/-- SHOOTDOWN_COMPLETE (R139). -/
def execShootdownComplete (s : State) : Outcome := .next (endShootdown s)

/-- SAVECFG_WRITE (R221). -/
def execSavecfgWrite (f : Nat) (v : BitVec 64) (s : State) : Outcome := .next (s.writeHub f 0x48 8 v)

/-- LPOOL_WRITE (R95). -/
def execLpoolWrite (f : Nat) (t : Nat) (v : BitVec 64) (s : State) : Outcome := .next (s.writeHub f (0x10000 + 32 * t) 8 v)

/-- LQUOTA_WRITE (R96). -/
def execLquotaWrite (f : Nat) (t : Nat) (v : BitVec 64) (s : State) : Outcome := .next (s.writeHub f (0x10008 + 32 * t) 8 v)

/-- LWMAP_WRITE (R97). -/
def execLwmapWrite (f : Nat) (d : Nat) (v : BitVec 64) (s : State) : Outcome := .next (s.writeHub f (0x2000 + 8 * d) 8 v)

/-- QCFG_WRITE (R58). -/
def execQcfgWrite (f : Nat) (n : Nat) (v : BitVec 32) (s : State) : Outcome :=
  .next (s.writeHub f (0x4008 + 32 * n) 4 (BitVec.ofNat 64 v.toNat))

/-- DIE_CLK_STAT_READ (R21). -/
def execDieClkStatRead (f : Nat) (d : Nat) (s : State) : Outcome := .next (readRegister f true (0x10 + 8 * d) 4 s)

/-- HOST_MEMORY_WRITE (R12, R48, R50, R85). -/
def execHostMemoryWrite (f : Nat) (pa : HostPlace) (bytes : List Byte) (s : State) : Outcome :=
  .next (hostWrites f pa.key pa.pa bytes s)

/-- ATS_INVALIDATION (R137). -/
def execAtsInvalidation (f : Nat) (page : Nat) (pages : Nat) (s : State) : Outcome := .next (invalidatePages f page pages s)

end Sys2Proof.Machine
end

