-- ==== Sys2Proof/Machine/Links.lean ====
section
/-! DEFINITION. Llynly Link ports (R22 to R27): flits received, link-level retry, credits, forwarding, retraining; P-space accesses of
peers and the responses to those of this package (R23, R27, R50, R178). -/

namespace Sys2Proof.Machine

/-! ## Receiving (R24) -/

/-- A flit that failed: it and every later one is discarded until the replay, which a NAK requests (R24). -/
def Port.discard (x : Port) : Port := { x with discarding := true }.nak

/-- Flits up to the acknowledged one leave the replay buffer; the count of replays begins again where the oldest has left. -/
def Port.acked (x : Port) (a : Nat) : Port :=
  let rest := x.replay.filter fun f => !(decide (seqAhead a f.1 < 2048))
  { x with replay := rest, badReplays := if rest.length < x.replay.length then 0 else x.badReplays }

/-- A port begins to retrain (R25, R26): WIDTH keeps the lanes of before (log 44). -/
def Port.train (x : Port) : Port :=
  { x with state := 1, retrains := Nat.min (x.retrains + 1) 255, attempts := 0, badReplays := 0 }.put
    ((Outgoing.control 4).flit x.sendSeq x.ackNow)

/-- The flits of the replay buffer go out again (R24). -/
def Port.resend (x : Port) : Port := { x with wire := x.wire ++ x.replay.map fun f => f.2 }

/-- A request for a replay from `a`: it is made, unless 8 replays of that flit have failed already; the port then retrains (R24,
R25). -/
def Port.replayFrom (x : Port) (a : Nat) : Port :=
  let y := x.acked (a + 4095)
  if y.replay.isEmpty then y
  else if y.badReplays < 8 then { y with badReplays := y.badReplays + 1 }.resend
  else y.train

/-- What a port that has taken a flit, and was `old` before, can send goes out, or an IDLE with its ACK (R22). -/
def Port.reply (x old : Port) : Port :=
  let y := x.flush
  if y.state = 2 ∧ y.wire.length = old.wire.length then y.idle else y

/-- A flit received on a port that is up: corrected, its CRC checked (R24); `act` says what a good one does, `w` corrected. -/
def receive (p : Nat) (w : Flit) (s : State) (act : Port → State) : State :=
  let x := s.port p
  if !s.power || x.state ≠ 2 then s
  else
    let t := if w.crcOk then act x else s.setPort p x.discard
    t.setPort p ((t.port p).reply x)

/-- A DATA or CREDIT flit in its turn: the port with the flit taken; out of turn it is discarded (R24). -/
def Port.inTurn (x : Port) (w : Flit) : Port × Bool :=
  if w.seq = x.expect then ({ x with expect := (x.expect + 1) % 4096, discarding := false }.acked w.ack, true)
  else if x.discarding then (x, false)
  else if seqAhead x.expect w.seq < 2048 then (x, false)
  else (x.discard, false)

/-- A credit returned for a flit that has left the receive buffer of a port. -/
def State.owe (s : State) (p vc : Nat) : State := s.setPort p ((s.port p).owe vc)

/-- A DATA flit at its hub: delivered, forwarded with one more hop, or discarded at the fifth (R27).  Bulk copies of channel 3 are
taken at once. -/
def State.deliver (s : State) (p : Nat) (w : Flit) : State :=
  if w.dest = s.podId.toNat then
    if w.vc = 3 then s.owe p 3
    else s.setPort p { s.port p with rx := (s.port p).rx ++ [(w.vc, w.src, w.payload)] }
  else if 4 ≤ w.hops then ({ s with hopDrops := s.hopDrops + 1 } : State).owe p w.vc
  else match s.routePort w.dest with
    | some q =>
      (s.owe p w.vc).sendOn q { typ := 1, vc := w.vc, dest := w.dest, src := w.src, hops := w.hops + 1, payload := w.payload }
    | none => s.owe p w.vc

/-- DATA (R22, R24, R27). -/
def receiveData (p : Nat) (w : Flit) (s : State) : State :=
  receive p w s fun x =>
    let r := x.inTurn w
    let s := s.setPort p r.1
    if r.2 then s.deliver p w else s

/-- A port with four credit returns added. -/
def Port.credited (x : Port) (w : Flit) : Port :=
  { x with credits := (upTo 4).map fun v => x.credits.getD v 0 + bvField w (64 + 16 * v) 16 }

/-- CREDIT: four returns in bytes 8 to 15 (R22). -/
def receiveCredit (p : Nat) (w : Flit) (s : State) : State :=
  receive p w s fun x =>
    let r := x.inTurn w
    s.setPort p (if r.2 then r.1.credited w else r.1)

/-- IDLE: its ACK (R22). -/
def receiveIdle (p : Nat) (w : Flit) (s : State) : State := receive p w s fun x => s.setPort p (x.acked w.ack)

/-- NAK (R22, R24, R25). -/
def receiveNak (p : Nat) (w : Flit) (s : State) : State := receive p w s fun x => s.setPort p (x.replayFrom w.ack)

/-- A flit event whose flit, once corrected, has not its type does not happen. -/
def ofType (raw : Flit) (ok : Nat → Bool) (f : Flit → State → State) (s : State) : State :=
  let w := raw.corrected
  if ok w.typ then f w s else s

/-! ## Retraining (R25) -/

/-- A port that is up begins to retrain. -/
def beginTraining (p : Nat) (s : State) : State :=
  let x := s.port p
  if s.power && x.state == 2 then s.setPort p x.train else s

/-- The driver's request: any port trains that is not in training and not held in reset (R25, R42). -/
def requestTraining (p : Nat) (s : State) : State :=
  let x := s.port p
  if s.power && s.mbxState != 2 && x.state != 1 then s.setPort p x.train else s

/-- RETRAIN_DONE: the port is up at a width, or has failed again; three failures in a row mark it failed (R25, R26, R35). -/
def endTraining (p width peer : Nat) (s : State) : State :=
  let x := s.port p
  if !s.power || x.state ≠ 1 || s.starting then s
  else if width = 0 then
    let n := x.attempts + 1
    if n < 3 then s.setPort p { x with attempts := n }
    else
      ((s.setPort p { x with attempts := n, state := 3, width := 0 }).postEvent 0 3 p 2 0 (payloadOf (leBytes 1 n))).checkGangs
  else
    let s := s.setPort p (x.comeUp width peer)
    let s := s.postEvent 0 3 p 1 0 (payloadOf (leBytes 1 width ++ leBytes 1 2))
    let s := s.postEvent 0 3 p 3 0 (payloadOf (leBytes 1 width ++ leBytes 1 peer))
    s.postNotice ⟨2, 0, causeOf (leBytes 1 p ++ leBytes 1 width ++ leBytes 1 2)⟩

/-! ## P space (R23, R27, R50, R178) -/

/-- Bytes a request accesses. -/
def peerBytes : PeerOp → Nat
  | .read n => n | .write bs => bs.length | .rmw n _ _ _ => n | .cas n _ _ => n
/-- A request reads. -/
def peerReads : PeerOp → Bool
  | .write _ => false | _ => true
/-- A request writes. -/
def peerWrites : PeerOp → Bool
  | .read _ => false | _ => true

/-- The tables of the port and of the HBM controllers, and the key id of the page, allow a request (R48, R50). -/
def State.peerAllowed (s : State) (p peer : Nat) (r : PeerRequest) : Bool :=
  let ok := fun (w : Bool) =>
    tableAllows (mapGet s.portTables p 0) (.peer peer) w &&
      (peerBytes r.op == 0 || (s.refusedGranule (.peer peer) w r.pa (peerBytes r.op)).isNone)
  (!peerReads r.op || ok false) && (!peerWrites r.op || ok true) && s.keyAllowed r.tenant r.key

/-- An old value under an RMW: poisoned units read as zero and are reported (R216). -/
def State.oldValue (s : State) (gen pa n : Nat) : Nat × State :=
  let bad := s.hbmPoison pa n
  (leNat (s.hbmRead gen pa n), s.reportUnits (bad.map .hbm) 1 0)

/-- A request performed at its home port (R12, R178), under the key id of its page (R47). -/
def State.peerPerform (s : State) (r : PeerRequest) : State :=
  let gen := (s.keySlot r.key).gen
  match r.op with
  | .read _ => s
  | .write bs => s.hbmWrite gen r.pa bs
  | .rmw n op ty v =>
    let o := s.oldValue gen r.pa n
    o.2.hbmWrite gen r.pa (leBytes n (rmwResult op ty o.1 v.toNat))
  | .cas n e d =>
    let o := s.oldValue gen r.pa n
    if o.1 = e.toNat % 2 ^ (8 * n) then o.2.hbmWrite gen r.pa (leBytes n d.toNat) else o.2

/-- P_SPACE_REQUEST: the request that port `p` holds from `peer` is performed, or refused and counted; its response leaves on virtual
channel 2, with what it read, or poisoned (R23, R50). -/
def peerAccess (p peer : Nat) (r : PeerRequest) (s : State) : State :=
  if !s.ready then s
  else match s.takeFrom p 1 peer with
    | none => s
    | some s =>
      if s.peerAllowed p peer r then
        let old := leNat (s.hbmRead (s.keySlot r.key).gen r.pa (peerBytes r.op))
        (s.peerPerform r).sendTo 2 peer [0, if peerReads r.op then old else 0]
      else State.sendTo { s with peerDenied := s.peerDenied + 1 } 2 peer [1]

/-- The strand that awaits a response, with its core. -/
def State.awaiting (s : State) (tag : Nat) : Option (Nat × Nat) :=
  s.coreTab.findSome? fun p =>
    ((upTo p.2.strands.length).find? fun k => (p.2.strand k).hold == some (.response tag)).map fun k => (p.1, k)

/-- The response of request `tag` taken by an outstanding load: the load as it then completes, and with poison the address met. -/
def LoadDst.answer (tag : Nat) (v : Word) (bad : Bool) : LoadDst → Option (LoadDst × List Nat)
  | .peerScalar t a d fmt ty neg =>
    if t = tag then some (.scalar d (if bad then 0 else fillSigned fmt ty neg v.toNat), if bad then [a] else []) else none
  | .peerVector t a d bits w side sv =>
    if t = tag then some (if bad then .vector d bits 0 side 0 else .vector d bits w side sv, if bad then [a] else []) else none
  | _ => none

/-- An outstanding load after a response: what it writes, and the addresses whose poison is reported, where it sent the request. -/
def OutLoad.answered (tag : Nat) (v : Word) (bad : Bool) (l : OutLoad) : OutLoad × List Nat :=
  match l.dst.answer tag v bad with
  | some r => ({ l with dst := r.1 }, r.2)
  | none => (l, [])

/-- The response goes to the outstanding load that sent the request, if one did; poison is reported under the ZERO policy (R216). -/
def State.answerLoad (s : State) (tag : Nat) (v : Word) (bad : Bool) : State :=
  s.coreTab.foldl (fun s p => (upTo p.2.strands.length).foldl (fun s k =>
    let t := (s.core p.1).strand k
    let r := t.loads.map (OutLoad.answered tag v bad)
    if (r.map fun x => x.1) = t.loads then s
    else
      let s := r.foldl (fun s x => x.2.foldl (fun s a => s.reportPoison a 0 1 (s.taskIdOf p.1)) s) s
      s.setCore p.1 ((s.core p.1).setStrand k { t with loads := r.map fun x => x.1 })) s) s

/-- An answer goes to its strand or its load; a write that was lost is reported (R27). -/
def State.answered (s : State) (tag : Nat) (write : Bool) (v : Word) (bad : Bool) : State :=
  let s : State := { s with pOut := s.pOut.filter fun y => y.1 != tag }
  let s := s.answerLoad tag v bad
  match s.awaiting tag with
  | some (c, k) =>
    s.setCore c ((s.core c).setStrand k { (s.core c).strand k with answer := some (v, bad), hold := none, heldTicks := 0 })
  | none => if bad && write then s.reportPoison 0 0 4 0 else s

/-- P_SPACE_RESPONSE: the response that a port holds from the peer; a poisoned one may also stand for an access that was discarded on
its way (R27). -/
def peerAnswer (tag : Nat) (v : Word) (bad : Bool) (s : State) : State :=
  match s.pOut.find? fun x => x.1 == tag with
  | none => s
  | some x =>
    match s.take 2 x.2.1 with
    | some t => t.answered tag x.2.2 v bad
    | none => if bad then s.answered tag x.2.2 v bad else s

/-- IDLE (R22). -/
def execIdle (p : Nat) (flit : BitVec 2048) (s : State) : Outcome := .next (ofType flit (· == 0) (receiveIdle p) s)

/-- DATA (R22, R24, R27). -/
def execData (p : Nat) (flit : BitVec 2048) (s : State) : Outcome := .next (ofType flit (· == 1) (receiveData p) s)

/-- CREDIT (R22). -/
def execCredit (p : Nat) (flit : BitVec 2048) (s : State) : Outcome := .next (ofType flit (· == 2) (receiveCredit p) s)

/-- NAK (R24). -/
def execNak (p : Nat) (flit : BitVec 2048) (s : State) : Outcome := .next (ofType flit (· == 3) (receiveNak p) s)

/-- TRAIN (R22, R25): it is never delivered, and retraining ends with an event of its own. -/
def execTrain (p : Nat) (flit : BitVec 2048) (s : State) : Outcome :=
  .next (ofType flit (· == 4) (fun w s => receive p w s fun x => s.setPort p x) s)

/-- FLIT_RESERVED_TYPE (R22): discarded as if it had failed the CRC. -/
def execFlitReservedType (p : Nat) (flit : BitVec 2048) (s : State) : Outcome :=
  .next (ofType flit (fun t => decide (5 ≤ t)) (fun w s => receive p w s fun x => s.setPort p x.discard) s)

/-- LANE_LOCK_LOSS (R25). -/
def execLaneLockLoss (p : Nat) (s : State) : Outcome := .next (beginTraining p s)

/-- RETRAIN (R25): the driver requests it. -/
def execRetrain (p : Nat) (s : State) : Outcome := .next (requestTraining p s)

/-- RETRAIN_DONE (R25, R26, R35, R76). -/
def execRetrainDone (p : Nat) (width : Nat) (peer : Nat) (s : State) : Outcome := .next (endTraining p width peer s)

/-- P_SPACE_REQUEST (R23, R50, R178). -/
def execPSpaceRequest (p : Nat) (peer : Nat) (req : PeerRequest) (s : State) : Outcome := .next (peerAccess p peer req s)

/-- P_SPACE_RESPONSE (R27). -/
def execPSpaceResponse (tag : Nat) (data : BitVec 64) (poisoned : Bool) (s : State) : Outcome :=
  .next (peerAnswer tag data poisoned s)

end Sys2Proof.Machine
end

