-- ==== Sys2Proof/Machine/Cores.lean ====
section
/-! DEFINITION. The issue of a core: holds and their ends (R101), the choice of a clock (R99), instruction fetch (R100); completions
of loads and writes (R167, R297), the watchdog (R213), and soft errors (R215 to R218). -/

namespace Sys2Proof.Machine

/-! ## Ends of holds (R101) -/

/-- The condition that holds strand `k` of core `c` is over; the step, the load, the driver, the tick and the response end the
other holds themselves. -/
def State.holdOver (s : State) (c k : Nat) : Bool :=
  let q := s.core c
  let t := q.strand k
  let turn := fun (x : Nat) (fill : Bool) =>
    match mapFind q.rings x with | some r => (r.claim fill 1 (.strand k)).isSome | none => true
  match t.hold with
  | none => false
  | some h =>
    match h with
    | .queueEmpty n => if n < 8 then !(mapGet q.qs n []).isEmpty else !(mapGet q.qv n []).isEmpty
    | .queueFull n => decide (q.queueLength n < queueCapacity n)
    | .ringFree x => turn x true
    | .ringFull x => turn x false
    | .barrier x v _ =>
      (match State.barrierAt { s with cur := (c, k) } x with | .ok b => phasePassed b.phase v | .error _ => true)
    | .timeline e v => decide (v ≤ (q.engine e).tl)
    | .counter lc n => decide (t.counter lc ≤ n)
    | .engineQueue d e => !(s.queueFull d e)
    | .event => t.latch
    | .branch clk => decide (clk ≤ q.clk)
    | .patch n drain z =>
      !((q.engine 0).queue.any fun r => decide (r.num ≤ n) && r.patches.contains z) &&
      (!drain || (match (q.patch z).drained with | some d => decide (d + Config.drainDelay ≤ q.clk) | none => true))
    | .counterFull lc => decide (t.counter lc < 63)
    | .load rs vs => !(loadsPending t.loads rs vs)
    | .word e n => (q.engine e).completed n
    | .request d => d != c && !(s.clockOpen d)
    | .acks => !s.awaitingAcks
    | .yielded others clk => (others.all fun j => !(q.strand j).ready) || decide (clk ≤ q.clk)
    | _ => false

/-- A strand held no more. -/
def Strand.release (t : Strand) : Strand := { t with hold := none, heldTicks := 0 }

/-- STRAND_HOLD_RELEASE: the held instruction proceeds when its strand next issues. -/
def releaseHold (c k : Nat) (s : State) : State :=
  if s.holdOver c k then s.setCore c ((s.core c).setStrand k ((s.core c).strand k).release) else s

/-! ## The choice of a clock (R99) -/

/-- The rotation of R99 over `n` strands, `fuel` left: the strands picked so far, at most two. -/
def rotate (ready : Nat → Bool) (n : Nat) : Nat → Nat → List Nat → List Nat
  | 0, _, picked => picked
  | fuel + 1, k, picked =>
    rotate ready n fuel ((k + 1) % n) (if ready k && decide (picked.length < 2) then picked ++ [k] else picked)

/-- Strands picked, in ascending number. -/
def ascending (ks : List Nat) : List Nat := ks.foldl setPut []

/-- The core makes the choice of a clock among the strands that are ready (R99). -/
def Core.choose (q : Core) (ready : Nat → Bool) : Core :=
  let n := q.strands.length
  let ks := rotate ready n n (q.ptr % Nat.max n 1) []
  { q with picks := some (ascending ks)
           ptr := match ks.getLast? with | some l => (l + 1) % n | none => q.ptr }

/-- Strands of a core may issue: its task runs, or runs on to the end of an iteration (R225), and it is not being cleared. -/
def State.issues (s : State) (c : Nat) : Bool := s.ready && s.enginesRun c

/-! ## One step of a core -/

/-- What the part does next: an instruction or event to execute, or a state reached without one, or an event of a unit that the
part does not have. -/
inductive Plan where
  | run (i : Instr) (s : State)
  | done (s : State)
  | fault
  deriving DecidableEq, Repr

/-! ## Readiness (R99, R322) -/

/-- A hold in which the instruction has not begun: its strand is not ready (R99, R101). -/
def Hold.waits : Hold → Bool
  | .queueEmpty _ => true | .queueFull _ => true | .ringFree _ => true | .ringFull _ => true | .barrier _ _ _ => true
  | .timeline _ _ => true | .counter _ _ => true | .engineQueue _ _ => true | .event => true | .branch _ => true
  | .patch _ _ _ => true | .counterFull _ => true | .load _ _ => true | .word _ _ => true | .acks => true | .request _ => true
  | _ => false

/-- What an instruction asks of the VE under a shape of `w` bits an element (R322): its factor, and the bits of the larger element
of its source and destination; none where it does not use the VE. -/
def veUse (w : Nat) : Instr → Option (Nat × Nat)
  | .vmov .. => some (1, w) | .vmovLong .. => some (1, w) | .vbcast .. => some (1, w) | .vbcastExt .. => some (1, w)
  | .vext .. => some (1, w) | .vins .. => some (1, w)
  | .vadd .. => some (1, w) | .vaddLong .. => some (1, w) | .vsub .. => some (1, w) | .vsubLong .. => some (1, w)
  | .vmul .. => some (1, w) | .vmulLong .. => some (1, w) | .vfma .. => some (1, w) | .vfmaLong .. => some (1, w)
  | .vmin .. => some (1, w) | .vmax .. => some (1, w) | .vabs .. => some (1, w) | .vneg .. => some (1, w)
  | .vrcp .. => some (4, w) | .vrsq .. => some (4, w) | .vdiv .. => some (4, w) | .vsqrt .. => some (4, w)
  | .viadd .. => some (1, w) | .visub .. => some (1, w) | .vimul .. => some (1, w) | .vimin .. => some (1, w)
  | .vimax .. => some (1, w) | .vand .. => some (1, w) | .vor .. => some (1, w) | .vxor .. => some (1, w)
  | .vshl .. => some (1, w) | .vshr .. => some (1, w) | .vsra .. => some (1, w)
  | .vcmp .. => some (1, w) | .vsel .. => some (1, w)
  | .vred .. => some (2, w) | .vscan .. => some (2, w) | .vtrn .. => some (2, w) | .vperm .. => some (2, w)
  | .vrot .. => some (1, w) | .vdot .. => some (1, Nat.max w 32)
  | .vcvt _ ty _ _ _ _ => some (1, Nat.max w (tyBits ty)) | .vqmx _ ty _ _ => some (1, Nat.max w (tyBits ty))
  | .vqdx _ ty _ _ => some (1, Nat.max w (tyBits ty)) | .vresc .. => some (1, w)
  | .vzld .. => some (1, w) | .vzst .. => some (1, w) | .pfeval .. => some (4, w)
  | _ => none

/-- Clocks for which an instruction of a strand occupies the VE (R322); 0 where it does not use it. -/
def Strand.veClocks (t : Strand) (i : Instr) : Nat :=
  match veUse (shapeBits (bvField t.vshape 0 5)) i with
  | none => 0
  | some p => p.1 * ceilDiv (ceilDiv (shapeRows t.vshape * shapeCols t.vshape * p.2) 8) 1024

/-- The VE of a core is occupied by an instruction of strand `k`, after what occupies it already. -/
def Core.occupyVe (q : Core) (k : Nat) (i : Instr) : Core :=
  match (q.strand k).veClocks i with
  | 0 => q
  | n => { q with veFree := Nat.max q.veFree q.clk + n }

/-- Strand `k` at the start of a clock: a condition of R101 holds it, or it waits for the VE, or it is ready.  `run` is what an
instruction does. -/
def readyAt (run : Instr → State → Outcome) (c : Nat) (r : State × List Nat) (k : Nat) : State × List Nat :=
  let s : State := { r.1 with cur := (c, k) }
  if !s.me.ready then (s, r.2)
  else match s.nextOf c k with
    | none => (s, k :: r.2)
    | some i =>
      if s.me.veClocks i ≠ 0 ∧ s.here.clk < s.here.veFree then (s, r.2)
      else match run i s with
        | .next t =>
          (match t.me.hold with
           | some h => if h.waits then (t, r.2) else (s, k :: r.2)
           | none => (s, k :: r.2))
        | _ => (s, k :: r.2)

/-- Records that wait for a ring of core `c` on the side to which a vector register is bound claim before that register does (R121). -/
def State.startBound (s : State) (c : Nat) : State :=
  if (s.core c).rings.all fun p => p.2.bound.isNone then s
  else s.coreTab.foldl (fun s p => (upTo 5).foldl (fun s e =>
    match (((s.core p.1).engine e).candidate).bind Rec.claims with
    | some (d, x, fill) =>
      if d = c && (mapFind (s.core c).rings x).any fun r => r.bound.any fun u => u.2 == fill then (s.startable p.1 e).getD s else s
    | none => s) s) s

/-- Ended holds are released, and the choice of the clock is made; a core that may not issue picks none. -/
def openClock (run : Instr → State → Outcome) (c : Nat) (s : State) : State :=
  if s.issues c then
    let s := s.startBound c
    let ks := upTo (s.core c).strands.length
    let r := ks.foldl (readyAt run c) (ks.foldl (fun s k => releaseHold c k s) s, [])
    r.1.setCore c ((r.1.core c).choose fun k => r.2.contains k)
  else s.setCore c { s.core c with picks := some [] }

/-- Another strand's YIELD has seen strand `k` issue (R286). -/
def Strand.sawIssue (k : Nat) (t : Strand) : Strand :=
  match t.hold with
  | some (.yielded others clk) => { t with hold := some (.yielded (setDel others k) clk) }
  | _ => t

/-- Strand `k` of core `c` issues, with `rest` still picked: its instruction is fetched, or its fetch faults. -/
def issue (c k : Nat) (rest : List Nat) (s : State) : Plan :=
  let q := s.core c
  let s := { s.setCore c { q.mapStrands (fun _ => Strand.sawIssue k) with picks := some rest } with cur := (c, k) }
  match s.taskOf c with
  | none => .done s
  | some t =>
    if !(s.issues c) || !(s.me.ready) then .done s
    else match s.fetch t s.me.pc with
      | .error e => .done (s.raiseAt c k e s.me.pc)
      | .ok i => .run i (s.setHere (s.here.occupyVe k i))

/-- The first strand of core `c` whose REQ to it waits for the dispatches of the clock (R104, R311). -/
def Core.requester (q : Core) (c : Nat) : Option Nat :=
  (upTo q.strands.length).find? fun k => (q.strand k).hold == some (.request c)

/-- The next step of core `c`: the choice of its clock, an instruction of it, or its end. -/
def coreStep (run : Instr → State → Outcome) (c : Nat) (s : State) : Plan :=
  let q := s.core c
  match q.picks with
  | none => .done (openClock run c s)
  | some (k :: ks) => issue c k ks s
  | some [] =>
    match q.requester c with
    | some k => issue c k [] (s.setCore c (q.setStrand k (q.strand k).release))
    | none => .done (s.endClock c)

/-! ## Loads, writes, watchdog (R167, R213, R297) -/

/-- A write may be performed: no earlier write of the core meets it (R167, R168). -/
def Core.writeFree (q : Core) (i : Nat) : Bool :=
  match q.writes[i]? with
  | none => false
  | some w => (q.writes.take i).all fun x => !(overlaps w.target w.size x.target x.size)

/-- WRITE_PERFORMED. -/
def performWrite (c i : Nat) (s : State) : State :=
  if s.ready && (s.core c).writeFree i then s.performNth c i else s

/-- A hold that counts towards the watchdog (R101, R213): a row of the table of R101 but WFE and a parked HBIND. -/
def Hold.watched : Hold → Bool
  | .event => false
  | .parked _ => false
  | .yielded _ _ => false
  | .acks => false
  | .response _ => false
  | _ => true

/-- A strand has been held too long (R213). -/
def State.overdue (s : State) (c k : Nat) : Bool :=
  let t := (s.core c).strand k
  s.wdlimit != 0 && decide (s.wdlimit.toNat < t.heldTicks) && (match t.hold with | some h => h.watched | none => false)

/-- WATCHDOG: the held instruction has had no effect, so a KNEXT is not counted (R206, R278). -/
def raiseWatchdog (c k : Nat) (s : State) : State :=
  if s.overdue c k then
    let t := (s.core c).strand k
    (s.setCore c ((s.core c).setStrand k { t with knext := false })).raiseAt c k
      (Exc.of codeWATCHDOG 0 (BitVec.ofNat 64 t.heldTicks)) t.pc
  else s

/-! ## Soft errors (R215 to R218) -/

/-- Compute die of a unit; none for the hub. -/
def unitDie : ErrorUnit → Option Nat
  | .hbm u => some (homeDie (u * 32))
  | .store c _ _ => some (dieOf c)
  | .vreg c _ _ => some (dieOf c)
  | .queue c _ _ => some (dieOf c)
  | .pfu c _ _ => some (dieOf c)
  | .patch c _ _ => some (dieOf c)
  | .sreg c _ _ => some (dieOf c)
  | .control d _ => some d
  | .hub => none
  | .peer _ _ => none

/-- A corrected error in ECC_STAT of a die (R218). -/
def State.countCorrected (s : State) (d : Option Nat) : State :=
  match d with
  | some d => s.setDie d { s.die d with ce := satAdd1 (s.die d).ce }
  | none => s

/-- An uncorrectable error in ECC_STAT of a unit's die (R218). -/
def State.countUncorrectable (s : State) (u : ErrorUnit) : State :=
  match unitDie u with
  | none => s
  | some d =>
    let x := s.die d
    let x := { x with ue := satAdd1 x.ue }
    s.setDie d (match u with
      | .hbm n => { x with lastUE := BitVec.ofNat 35 n, lastSram := false }
      | _ => { x with lastSram := true })

/-- A task ended by the reset of a die, the whole gang with it (R209, R217). -/
def State.resetTask (s : State) (id : Nat) : State :=
  match s.task? id with
  | none => s
  | some t => (s.tellPeers t (.abort codeMCHECK 0)).endAborted t codeMCHECK 0

/-- The reset of a die (R217): its tasks are aborted, and its cores are to be cleared before they run again (log 15). -/
def State.resetDie (s : State) (d cause : Nat) : State :=
  let ids := s.tasks.filterMap fun p => if p.2.cores.any (fun c => dieOf c == d) then some p.1 else none
  let s := ids.foldl State.resetTask s
  let fresh := fun (c : Nat) => { (s.core c).vacate with clean := false }
  let s : State := { s with
    coreTab := s.coreTab.map fun p => if dieOf p.1 = d then (p.1, fresh p.1) else p }
  let s := s.setDie d { s.die d with neQueue := [] }
  (s.postNotice ⟨3, 0, causeOf (leBytes 1 d ++ leBytes 1 cause)⟩).dispatch

/-- The units that exist. -/
def unitExists : ErrorUnit → Bool
  | .hbm u => decide (u < 2 ^ 35)
  | .store c st w => decide (c < 256) && decide (st < 3) && decide (w * 8 < storeBytes st)
  | .vreg c v w => decide (c < 256) && decide (v < 320) && decide (w < 288)
  | .queue c n w => decide (c < 256) && decide (n < 16) && decide (w < queueCapacity n * queueWords n)
  | .pfu c x w => decide (c < 256) && decide (x < 4) && decide (w < 160)
  | .patch c z w => decide (c < 256) && decide (z < 32) && decide (w < 6144)
  | .sreg c k r => decide (c < 256) && decide (k < 8) && decide (r < 64)
  | .control d _ => decide (d < 4)
  | .hub => true
  | .peer _ _ => false

/-- SOFT_ERROR: corrected, it is counted; else its unit is poisoned, its die is reset, or the part enters the safe state.  A word of
a queue register that holds no entry is written whole before it is read (R215). -/
def softErrorAt (u : ErrorUnit) (correctable : Bool) (s : State) : State :=
  if !s.ready || !(unitExists u) then s
  else if correctable then s.countCorrected (unitDie u)
  else
    let s := s.countUncorrectable u
    match u with
    | .control d cause => s.resetDie d cause
    | .hub => State.enterSafe (s.logStep 6 0)
    | .queue c n w => if w < (s.core c).queueLength n * queueWords n then s.addPoison u else s
    | _ => s.addPoison u

/-- PATROL_SCRUB of an HBM unit (R218): its write-back is no write of the memory model. -/
def scrubUnit (unit : Nat) (res : ScrubResult) (s : State) : State :=
  if !s.ready then s
  else match res with
    | .clean => s
    | .corrected => s.countCorrected (some (homeDie (unit * 32)))
    | .uncorrectable =>
      ((s.countUncorrectable (.hbm unit)).addPoison (.hbm unit)).reportPoison (unit * 32) 32 3 0

/-- STRAND_HOLD_RELEASE (R101). -/
def execStrandHoldRelease (c : Nat) (k : Nat) (s : State) : Outcome := .next (releaseHold c k s)

/-- LDA_COMPLETION (R297). -/
def execLdaCompletion (c : Nat) (k : Nat) (lc : Nat) (s : State) : Outcome := .next ((s.finishLoad c k lc).getD s)

/-- WRITE_PERFORMED (R167). -/
def execWritePerformed (c : Nat) (i : Nat) (s : State) : Outcome := .next (performWrite c i s)

/-- WATCHDOG (R213). -/
def execWatchdog (c : Nat) (k : Nat) (s : State) : Outcome := .next (raiseWatchdog c k s)

/-- SOFT_ERROR (R215, R217, R218). -/
def execSoftError (u : ErrorUnit) (correctable : Bool) (s : State) : Outcome := .next (softErrorAt u correctable s)

/-- PATROL_SCRUB (R218). -/
def execPatrolScrub (unit : Nat) (res : ScrubResult) (s : State) : Outcome := .next (scrubUnit unit res s)

end Sys2Proof.Machine
end

