-- ==== Sys2Proof/Machine/Ending.lean ====
section
/-! DEFINITION. The end of a strand (R279), and with the last strand of a PURE task the start of its capture (R88). -/

namespace Sys2Proof.Machine

/-- Every strand of every core of a task has executed TDONE. -/
def State.strandsDone (s : State) (t : Task) : Bool :=
  t.cores.all fun c => (s.core c).strands.all fun x => x.tdone

/-- After a TDONE: a PURE task in MISS or KEYING enters CAPTURE with its last one, its writes performed (R88, R89). -/
def State.afterTdone (s : State) : State :=
  match s.myTask with
  | none => s
  | some t =>
    let open_ := match t.larder with | .keying => true | .miss => true | _ => false
    if t.pure && open_ && !t.void && s.strandsDone t then
      let s := t.cores.foldl State.drainCore s
      match s.task? t.id.toNat with
      | some u => if u.void then s else s.startCapture u
      | none => s
    else s

/-- TDONE (R279): in a PLAIN task, or in the epilogue of a LOOP task. -/
def strandEnd (s : State) : Eff :=
  match s.myTask with
  | none => .trap s (Exc.illop 9)
  | some t =>
    if t.loop && s.here.place != .epilogue then .trap s (Exc.illop 9)
    else .done (s.setMe { s.me with tdone := true }).afterTdone

/-- TDONE, S form (R279). -/
def execTdone (g : Guard) (s : State) : Outcome :=
  runStrand 4 g (Uses.none) s fun s => strandEnd s

/-- TDONE, L form (R279). -/
def execTdoneLong (g : Guard) (s : State) : Outcome :=
  runStrand 8 g (Uses.none) s fun s => strandEnd s

end Sys2Proof.Machine
end

