-- ==== Sys2Proof/Machine/Policy.lean ====
section
/-! DEFINITION. What happens next (log 1): the agenda holds what the outside does and any choice of agent, next first; where it is
empty, one fixed order of the part's own events stands in. -/

namespace Sys2Proof.Machine

/-! ## The agenda -/

/-- An instruction of a program has an encoding; an event of the part has none. -/
def isEvent (i : Instr) : Bool := (encode i).isNone

/-- The next entry of an agenda: an event of a unit the part has, a step of a core, a read by the host, or the
pre-emption of a gang by its launcher. -/
def actPlan (run : Instr → State → Outcome) (a : Act) (s : State) : Plan :=
  match a with
  | .event i => if isEvent i && wellFormed i then .run i s else .fault
  | .core c => if c < Config.cores then coreStep run c s else .fault
  | .registerRead f hub off size => if f < 64 then .done (readRegister f hub off size s) else .fault
  | .memoryRead f key pa n =>
    if f < 64 ∧ key < 512 ∧ pa + n ≤ Config.hbmBytes then .done (hostReads f key pa n s) else .fault
  | .gangStop peer task => if peer < 64 then .done (s.onMessage peer (gangStop peer task)) else .fault

/-! ## The part's own events, in one order -/

/-- The first answer of a list of questions. -/
def firstOf : List (Unit → Option State) → Option State
  | [] => none
  | f :: fs => match f () with | some s => some s | none => firstOf fs

/-- The answer for the first number that has one. -/
def firstNat (f : Nat → Option State) : List Nat → Option State
  | [] => none
  | n :: ns => match f n with | some s => some s | none => firstNat f ns

/-- A mailbox command finishes. -/
def dueMailbox (s : State) : Option State :=
  (s.fns.find? fun p => p.2.busy.isSome).map fun p => s.mailboxDone p.1

/-- A record of a queue starts, or halts its queue. -/
def dueRecord (s : State) : Option State :=
  (s.queues.findSome? fun p => (s.recordDue p.1).map fun k => (p.1, k)).map fun x =>
    match x.2 with
    | 0 => readKind x.1 0 (fun s => s.startRecord x.1) s
    | 1 => readKind x.1 1 (fun s => s.startGraphRecord x.1) s
    | 2 => readKind x.1 2 (fun s => s.fenceRecord x.1) s
    | _ => readKind x.1 3 (fun s => s.signalRecord x.1) s

/-- A task is saved, a hit copy ends, or a capture ends. -/
def dueTask (s : State) : Option State :=
  s.tasks.findSome? fun p =>
    let t := p.2
    if s.stopped t then some (completePreemption t.id s)
    else if t.phase == .copying then some (hitCopyEnds t.id s)
    else if s.captureDue t then some (captureEnds t.id s)
    else none

/-- A digest is done. -/
def dueDigest (s : State) : Option State := s.digests.head?.map fun d => s.finishDigest d

/-- An engine of a core starts, iterates or completes a record. -/
def dueEngine (s : State) (c : Nat) : Option State :=
  firstNat (fun e => firstOf [fun _ => s.completable c e, fun _ => s.iterable c e, fun _ => s.startable c e]) [0, 1, 2, 3, 4]

/-- A load of a core completes. -/
def dueLoad (s : State) (c : Nat) : Option State :=
  firstNat (fun k => match ((s.core c).strand k).loads with | [] => none | l :: _ => s.finishLoad c k l.lc)
    (upTo (s.core c).strands.length)

/-- A core is done, asks for a chunk, is clear, performs a write, completes a load, or runs an engine. -/
def dueCore (s : State) (c : Nat) : Option State :=
  firstOf [
    fun _ => if (s.coreEnds c).isSome then some (endCore c s) else none,
    fun _ => if (s.asksChunk c).isSome then some (grantChunk c s) else none,
    fun _ => if (s.core c).clearing then some (clearCore c s) else none,
    fun _ => if (s.core c).writes.isEmpty then none else some (s.performNth c 0),
    fun _ => dueLoad s c,
    fun _ => dueEngine s c]

/-- An overdue strand. -/
def dueWatchdog (s : State) (c : Nat) : Option State :=
  firstNat (fun k => if s.overdue c k then some (raiseWatchdog c k s) else none) (upTo (s.core c).strands.length)

/-- The first of the part's own events that is due, while the part is ready. -/
def dueEvent (s : State) : Option State :=
  let cores := s.coreTab.map fun p => p.1
  firstOf [
    fun _ => dueMailbox s,
    fun _ => dueRecord s,
    fun _ => dueTask s,
    fun _ => dueDigest s,
    fun _ => firstNat (dueCore s) cores,
    fun _ => firstNat (dueWatchdog s) cores,
    fun _ => if s.shootdownDue then some (endShootdown s) else none,
    fun _ => if s.evaluationDue then some (evaluatePower (List.replicate Config.dies ⟨0, []⟩) 0 s) else none]

/-! ## Turns of the cores -/

/-- A hold that only the core's clock ends. -/
def Hold.timed : Hold → Bool
  | .branch _ => true
  | .yielded _ _ => true
  | .patch _ d _ => d
  | _ => false

/-- A gang barrier of a task has something to sum. -/
def Task.bgWork (t : Task) : Bool := (t.ownsBg && t.bg.due) || (t.bgLevel == 4 && t.bg.arrivals != 0)

/-- A core has a clock to run. -/
def State.coreBusy (s : State) (c : Nat) : Bool :=
  let q := s.core c
  q.picks.isSome || q.edgeWork || (match s.taskOf c with | some t => t.bgWork | none => false) ||
  (s.issues c && (upTo q.strands.length).any fun k =>
    (q.strand k).ready || s.holdOver c k || (match (q.strand k).hold with | some h => h.timed | none => false))

/-- A timer of the scheduler that may expire. -/
def dueTimer (s : State) : Option State :=
  s.tasks.findSome? fun p =>
    let t := p.2
    if s.patient t then some (expirePatience t.id s)
    else if t.phase == .reserving && t.ackTimer then some (ackTimeout t.id s)
    else if t.delayed then some (retryReady t.id s)
    else none

/-- Turns of the cores between two ticks (R15). -/
def turnsPerTick : Nat := 32

/-- The round of the cores is over: after 32 of them, or with no core busy, a timer expires or the heartbeat ticks.
`lastCore` is 256 · round + the core after which the round goes on. -/
def roundOver (busy : Bool) (s : State) : State :=
  let round := s.lastCore / Config.cores + 1
  if busy ∧ round < turnsPerTick then { s with lastCore := Config.cores * round }
  else
    let s := { s with lastCore := 0 }
    match dueTimer s with
    | some t => t
    | none => tickOnce s

/-- The next core of the round whose clock runs, in ascending order from the place of the round. -/
def State.nextCore (s : State) : Option Nat :=
  (s.coreTab.find? fun p => decide (s.lastCore % Config.cores ≤ p.1) && s.coreBusy p.1).map fun p => p.1

/-- The place of the round after a step of core `c`: the same core while its clock is open. -/
def State.afterTurn (c : Nat) (s : State) : State :=
  if (s.core c).picks.isSome || c + 1 = Config.cores then s else { s with lastCore := s.lastCore / Config.cores * Config.cores + c + 1 }

/-- A core's turn. -/
def coreTurn (run : Instr → State → Outcome) (c : Nat) (s : State) : Plan :=
  let s := { s with lastCore := s.lastCore / Config.cores * Config.cores + c }
  match coreStep run c s with
  | .done t => if c + 1 = Config.cores ∧ (t.core c).picks.isNone then .done (roundOver true t) else .done (t.afterTurn c)
  | p => p

/-- The default order (log 1). -/
def defaultPlan (run : Instr → State → Outcome) (s : State) : Plan :=
  if !s.power then .done s
  else if s.starting then .done (stepCompletes .done s)
  else if s.ready then
    match dueEvent s with
    | some t => .done t
    | none =>
      match s.nextCore with
      | some c => coreTurn run c s
      | none => .done (roundOver (s.coreTab.any fun p => s.coreBusy p.1) s)
  else match dueMailbox s with
    | some t => .done t
    | none => .done s

/-! ## A program put in place (log 16) -/

/-- Where a placed instruction lies: its virtual address, and the physical page behind it. -/
def placedVa : Nat := 0x10000
def placedPa : Nat := 0x60000

/-- A task of tenant 0 with one strand on core 0, at its entry. -/
def placedTask : Task :=
  { id := 0, queue := 0, node := none, tenant := 0, prio := 0, func := 0, notify := false, pure := false, loop := false,
    strands := 1, scope := 0, width := 1, entry := placedVa, args := 0, arglen := 0, kernel := 0, epilogue := 0, trip := 0,
    minch := 0, podmask := 0, windows := [], saveSet := [], spawnDie := none, succ := [], phase := .running, cores := [0],
    former := [], doneCores := [], patience := false, waits := none, stamp := 0, next := 0, rem := 0, returned := [],
    bg := ⟨1, 0, 1, 0, 0, 0, 0⟩, bgLevel := 0, bgAt := 0, broken := false, larder := .off, void := false, tainted := false,
    digests := [], key := none, granules := [], saved := [], attempt := 0, acks := [], peersDone := [], peerCheck := false, ackTimer := false,
    delayed := false, aborted := none }

/-- Page table entries that map one page for tenant 0, each in a unit of 32 bytes (R136): physical address and entry. -/
def placedTables : List (Nat × Nat) :=
  [(0x20000, 0x40001), (0x40000, 0x50001), (0x50000, 0x51001), (0x51008, placedPa + 15)]

/-- Bytes written under the key of slot 0. -/
def State.placeBytes (s : State) (pa : Nat) (bs : List Byte) : State := s.hbmPut 0 pa bs

/-- The part ready, with bytes of code mapped for tenant 0, a task of one strand on core 0 whose pc is their address, and that
strand picked in the clock of its core. -/
def State.placeCode (s : State) (bs : List Byte) : State :=
  let s := placedTables.foldl (fun s p => s.placeBytes p.1 (leBytes 8 p.2)) s
  let s := s.placeBytes placedPa bs
  let t := { (s.core 0).strand 0 with pc := placedVa, hold := none, tdone := false, knext := false }
  let s : State := { s with
    agenda := [.core 0], power := true, mbxState := 1, ranges := [], hbmTables := []
    keys := mapPut s.keys 0 { s.keySlot 0 with loaded := true, gen := 0 }
    ptroot := mapPut s.ptroot 0 0x20001
    tasks := mapPut s.tasks 0 placedTask }
  s.setCore 0 { s.core 0 with task := some 0, strands := [t], picks := some [0], clearing := false }

/-- What happens next; `run` is what an instruction does, which says whether a strand is ready (R99). -/
def plan (run : Instr → State → Outcome) (s : State) : Plan :=
  match s.agenda with
  | [] => defaultPlan run s
  | a :: rest => actPlan run a { s with agenda := rest }

end Sys2Proof.Machine
end

