-- ==== Sys2Proof/Machine/Dispatch.lean ====
section
/-! DEFINITION. The meaning of every operation and event: one call for each constructor of `Instr`. -/

namespace Sys2Proof.Machine

def exec (i : Instr) (s : State) : Host.Outcome State Fault Refusal :=
  match i with
  | .add g d a b => Sys2Proof.Machine.execAdd g d a b s
  | .addLong g ty sat d a b => Sys2Proof.Machine.execAddLong g ty sat d a b s
  | .sub g d a b => Sys2Proof.Machine.execSub g d a b s
  | .subLong g ty sat d a b => Sys2Proof.Machine.execSubLong g ty sat d a b s
  | .addi g d a imm => Sys2Proof.Machine.execAddi g d a imm s
  | .addiLong g ty sat d a imm => Sys2Proof.Machine.execAddiLong g ty sat d a imm s
  | .addiExt g ty sat d a imm => Sys2Proof.Machine.execAddiExt g ty sat d a imm s
  | .mul g ty sat d a b => Sys2Proof.Machine.execMul g ty sat d a b s
  | .mulh g ty d a b => Sys2Proof.Machine.execMulh g ty d a b s
  | .mulhu g ty d a b => Sys2Proof.Machine.execMulhu g ty d a b s
  | .div g ty d a b => Sys2Proof.Machine.execDiv g ty d a b s
  | .divu g ty d a b => Sys2Proof.Machine.execDivu g ty d a b s
  | .rem g ty d a b => Sys2Proof.Machine.execRem g ty d a b s
  | .remu g ty d a b => Sys2Proof.Machine.execRemu g ty d a b s
  | .and g d a b => Sys2Proof.Machine.execAnd g d a b s
  | .andLong g ty d a b => Sys2Proof.Machine.execAndLong g ty d a b s
  | .or g d a b => Sys2Proof.Machine.execOr g d a b s
  | .orLong g ty d a b => Sys2Proof.Machine.execOrLong g ty d a b s
  | .xor g d a b => Sys2Proof.Machine.execXor g d a b s
  | .xorLong g ty d a b => Sys2Proof.Machine.execXorLong g ty d a b s
  | .andn g ty d a b => Sys2Proof.Machine.execAndn g ty d a b s
  | .orn g ty d a b => Sys2Proof.Machine.execOrn g ty d a b s
  | .shl g ty d a b => Sys2Proof.Machine.execShl g ty d a b s
  | .shli g d a n => Sys2Proof.Machine.execShli g d a n s
  | .shliLong g ty d a n => Sys2Proof.Machine.execShliLong g ty d a n s
  | .shr g ty d a b => Sys2Proof.Machine.execShr g ty d a b s
  | .shri g d a n => Sys2Proof.Machine.execShri g d a n s
  | .shriLong g ty d a n => Sys2Proof.Machine.execShriLong g ty d a n s
  | .sra g ty d a b => Sys2Proof.Machine.execSra g ty d a b s
  | .srai g d a n => Sys2Proof.Machine.execSrai g d a n s
  | .sraiLong g ty d a n => Sys2Proof.Machine.execSraiLong g ty d a n s
  | .rotl g ty d a b => Sys2Proof.Machine.execRotl g ty d a b s
  | .min g d a b => Sys2Proof.Machine.execMin g d a b s
  | .minLong g ty d a b => Sys2Proof.Machine.execMinLong g ty d a b s
  | .max g d a b => Sys2Proof.Machine.execMax g d a b s
  | .maxLong g ty d a b => Sys2Proof.Machine.execMaxLong g ty d a b s
  | .minu g ty d a b => Sys2Proof.Machine.execMinu g ty d a b s
  | .maxu g ty d a b => Sys2Proof.Machine.execMaxu g ty d a b s
  | .clz g ty d a => Sys2Proof.Machine.execClz g ty d a s
  | .ctz g ty d a => Sys2Proof.Machine.execCtz g ty d a s
  | .popc g ty d a => Sys2Proof.Machine.execPopc g ty d a s
  | .brev g ty d a => Sys2Proof.Machine.execBrev g ty d a s
  | .bfx g pos len d a => Sys2Proof.Machine.execBfx g pos len d a s
  | .bfxu g pos len d a => Sys2Proof.Machine.execBfxu g pos len d a s
  | .bfi g pos len d a => Sys2Proof.Machine.execBfi g pos len d a s
  | .sext g k d a => Sys2Proof.Machine.execSext g k d a s
  | .zext g k d a => Sys2Proof.Machine.execZext g k d a s
  | .sel g d a b => Sys2Proof.Machine.execSel g d a b s
  | .selLong g d a b c => Sys2Proof.Machine.execSelLong g d a b c s
  | .mov g d a => Sys2Proof.Machine.execMov g d a s
  | .movLong g d a => Sys2Proof.Machine.execMovLong g d a s
  | .movi g d imm => Sys2Proof.Machine.execMovi g d imm s
  | .moviExt g d imm => Sys2Proof.Machine.execMoviExt g d imm s
  | .movhi g d imm => Sys2Proof.Machine.execMovhi g d imm s
  | .movhiExt g d imm => Sys2Proof.Machine.execMovhiExt g d imm s
  | .cmp g ty cond pt pf a b => Sys2Proof.Machine.execCmp g ty cond pt pf a b s
  | .cmpExt g ty cond pt pf a imm => Sys2Proof.Machine.execCmpExt g ty cond pt pf a imm s
  | .pand g d a b => Sys2Proof.Machine.execPand g d a b s
  | .por g d a b => Sys2Proof.Machine.execPor g d a b s
  | .pxor g d a b => Sys2Proof.Machine.execPxor g d a b s
  | .pandn g d a b => Sys2Proof.Machine.execPandn g d a b s
  | .pset g a b => Sys2Proof.Machine.execPset g a b s
  | .pget g d => Sys2Proof.Machine.execPget g d s
  | .fadd g ty rnd d a b => Sys2Proof.Machine.execFadd g ty rnd d a b s
  | .fsub g ty rnd d a b => Sys2Proof.Machine.execFsub g ty rnd d a b s
  | .fmul g ty rnd d a b => Sys2Proof.Machine.execFmul g ty rnd d a b s
  | .ffma g ty rnd d a b c => Sys2Proof.Machine.execFfma g ty rnd d a b c s
  | .fdiv g ty rnd d a b => Sys2Proof.Machine.execFdiv g ty rnd d a b s
  | .fsqrt g ty rnd d a => Sys2Proof.Machine.execFsqrt g ty rnd d a s
  | .fmin g ty d a b => Sys2Proof.Machine.execFmin g ty d a b s
  | .fmax g ty d a b => Sys2Proof.Machine.execFmax g ty d a b s
  | .fabs g ty d a => Sys2Proof.Machine.execFabs g ty d a s
  | .fneg g ty d a => Sys2Proof.Machine.execFneg g ty d a s
  | .fcmp g ty cond pt pf a b => Sys2Proof.Machine.execFcmp g ty cond pt pf a b s
  | .fcvt g ty rnd sat d a src => Sys2Proof.Machine.execFcvt g ty rnd sat d a src s
  | .icvt g ty rnd sat d a src => Sys2Proof.Machine.execIcvt g ty rnd sat d a src s
  | .fcvti g ty rnd d a src => Sys2Proof.Machine.execFcvti g ty rnd d a src s
  | .pbr g x imm => Sys2Proof.Machine.execPbr g x imm s
  | .pbrExt g x imm => Sys2Proof.Machine.execPbrExt g x imm s
  | .pbrs g x a => Sys2Proof.Machine.execPbrs g x a s
  | .movb g x a => Sys2Proof.Machine.execMovb g x a s
  | .movsb g d x => Sys2Proof.Machine.execMovsb g d x s
  | .br g x => Sys2Proof.Machine.execBr g x s
  | .brLong g x => Sys2Proof.Machine.execBrLong g x s
  | .call g x => Sys2Proof.Machine.execCall g x s
  | .callLong g x => Sys2Proof.Machine.execCallLong g x s
  | .loop g d x => Sys2Proof.Machine.execLoop g d x s
  | .knext g => Sys2Proof.Machine.execKnext g s
  | .knextLong g => Sys2Proof.Machine.execKnextLong g s
  | .tdone g => Sys2Proof.Machine.execTdone g s
  | .tdoneLong g => Sys2Proof.Machine.execTdoneLong g s
  | .nop g => Sys2Proof.Machine.execNop g s
  | .nopLong g => Sys2Proof.Machine.execNopLong g s
  | .brk g => Sys2Proof.Machine.execBrk g s
  | .trap g a => Sys2Proof.Machine.execTrap g a s
  | .trapExt g imm => Sys2Proof.Machine.execTrapExt g imm s
  | .eret g => Sys2Proof.Machine.execEret g s
  | .sysrd g n d => Sys2Proof.Machine.execSysrd g n d s
  | .syswr g n a => Sys2Proof.Machine.execSyswr g n a s
  | .rdclk g d => Sys2Proof.Machine.execRdclk g d s
  | .rdid g k d => Sys2Proof.Machine.execRdid g k d s
  | .wfe g => Sys2Proof.Machine.execWfe g s
  | .yield g => Sys2Proof.Machine.execYield g s
  | .hbind g h a => Sys2Proof.Machine.execHbind g h a s
  | .hunbind g h => Sys2Proof.Machine.execHunbind g h s
  | .hinfo g d h k => Sys2Proof.Machine.execHinfo g d h k s
  | .seal g h => Sys2Proof.Machine.execSeal g h s
  | .ld g d h x0 => Sys2Proof.Machine.execLd g d h x0 s
  | .ldLong g ty ord sc d h x0 x1 => Sys2Proof.Machine.execLdLong g ty ord sc d h x0 x1 s
  | .ldExt g ty ord sc d h x0 x1 x2 x3 x4 x5 => Sys2Proof.Machine.execLdExt g ty ord sc d h x0 x1 x2 x3 x4 x5 s
  | .st g d h x0 => Sys2Proof.Machine.execSt g d h x0 s
  | .stLong g ty ord sc d h x0 x1 => Sys2Proof.Machine.execStLong g ty ord sc d h x0 x1 s
  | .stExt g ty ord sc d h x0 x1 x2 x3 x4 x5 => Sys2Proof.Machine.execStExt g ty ord sc d h x0 x1 x2 x3 x4 x5 s
  | .lda g d h x0 => Sys2Proof.Machine.execLda g d h x0 s
  | .ldaLong g ty ord sc d h x0 lc => Sys2Proof.Machine.execLdaLong g ty ord sc d h x0 lc s
  | .ldaExt g ty ord sc d h x0 lc x1 x2 x3 x4 x5 => Sys2Proof.Machine.execLdaExt g ty ord sc d h x0 lc x1 x2 x3 x4 x5 s
  | .waitc g lc k => Sys2Proof.Machine.execWaitc g lc k s
  | .waitcLong g lc k => Sys2Proof.Machine.execWaitcLong g lc k s
  | .vld g d h x0 => Sys2Proof.Machine.execVld g d h x0 s
  | .vldLong g ord sc d h x0 x1 => Sys2Proof.Machine.execVldLong g ord sc d h x0 x1 s
  | .vldExt g ord sc d h x0 x1 x2 x3 x4 x5 => Sys2Proof.Machine.execVldExt g ord sc d h x0 x1 x2 x3 x4 x5 s
  | .vst g d h x0 => Sys2Proof.Machine.execVst g d h x0 s
  | .vstLong g ord sc d h x0 x1 => Sys2Proof.Machine.execVstLong g ord sc d h x0 x1 s
  | .vstExt g ord sc d h x0 x1 x2 x3 x4 x5 => Sys2Proof.Machine.execVstExt g ord sc d h x0 x1 x2 x3 x4 x5 s
  | .vlda g ord sc d h x0 lc => Sys2Proof.Machine.execVlda g ord sc d h x0 lc s
  | .vldaExt g ord sc d h x0 lc x1 x2 x3 x4 x5 => Sys2Proof.Machine.execVldaExt g ord sc d h x0 lc x1 x2 x3 x4 x5 s
  | .atom g ty ord sc op d h x0 x1 => Sys2Proof.Machine.execAtom g ty ord sc op d h x0 x1 s
  | .atomExt g ty ord sc op d h x0 x1 x2 x3 x4 x5 => Sys2Proof.Machine.execAtomExt g ty ord sc op d h x0 x1 x2 x3 x4 x5 s
  | .cas g ty ord sc d h x0 x1 => Sys2Proof.Machine.execCas g ty ord sc d h x0 x1 s
  | .casExt g ty ord sc d h x0 x1 x2 x3 x4 x5 => Sys2Proof.Machine.execCasExt g ty ord sc d h x0 x1 x2 x3 x4 x5 s
  | .red g ty ord sc op d h x0 x1 => Sys2Proof.Machine.execRed g ty ord sc op d h x0 x1 s
  | .redExt g ty ord sc op d h x0 x1 x2 x3 x4 x5 => Sys2Proof.Machine.execRedExt g ty ord sc op d h x0 x1 x2 x3 x4 x5 s
  | .fence g ord sc => Sys2Proof.Machine.execFence g ord sc s
  | .binit g x a b => Sys2Proof.Machine.execBinit g x a b s
  | .barv g d x => Sys2Proof.Machine.execBarv g d x s
  | .barvLong g d x => Sys2Proof.Machine.execBarvLong g d x s
  | .bwait g x b => Sys2Proof.Machine.execBwait g x b s
  | .bwaitLong g x b => Sys2Proof.Machine.execBwaitLong g x b s
  | .bsync g x b => Sys2Proof.Machine.execBsync g x b s
  | .btest g pt pf x b => Sys2Proof.Machine.execBtest g pt pf x b s
  | .rinit g x a b => Sys2Proof.Machine.execRinit g x a b s
  | .rfreew g d x => Sys2Proof.Machine.execRfreew g d x s
  | .rpub g x b => Sys2Proof.Machine.execRpub g x b s
  | .rfillw g d x => Sys2Proof.Machine.execRfillw g d x s
  | .rret g x b => Sys2Proof.Machine.execRret g x b s
  | .rqry g d x k => Sys2Proof.Machine.execRqry g d x k s
  | .qpush g q a => Sys2Proof.Machine.execQpush g q a s
  | .qpushLong g q a => Sys2Proof.Machine.execQpushLong g q a s
  | .qpop g d q => Sys2Proof.Machine.execQpop g d q s
  | .qpopLong g d q => Sys2Proof.Machine.execQpopLong g d q s
  | .qtst g pt pf q k => Sys2Proof.Machine.execQtst g pt pf q k s
  | .waitt g t b => Sys2Proof.Machine.execWaitt g t b s
  | .waittLong g t b => Sys2Proof.Machine.execWaittLong g t b s
  | .rdtl g d t b => Sys2Proof.Machine.execRdtl g d t b s
  | .sbind g v x k => Sys2Proof.Machine.execSbind g v x k s
  | .sunbind g v => Sys2Proof.Machine.execSunbind g v s
  | .tspawn g d a b => Sys2Proof.Machine.execTspawn g d a b s
  | .req g a b => Sys2Proof.Machine.execReq g a b s
  | .ectl g eng item d => Sys2Proof.Machine.execEctl g eng item d s
  | .zstat g pt pf z k => Sys2Proof.Machine.execZstat g pt pf z k s
  | .vshape g a => Sys2Proof.Machine.execVshape g a s
  | .vshapeExt g imm => Sys2Proof.Machine.execVshapeExt g imm s
  | .vmov g d a => Sys2Proof.Machine.execVmov g d a s
  | .vmovLong g d a => Sys2Proof.Machine.execVmovLong g d a s
  | .vbcast g d a => Sys2Proof.Machine.execVbcast g d a s
  | .vbcastExt g d imm => Sys2Proof.Machine.execVbcastExt g d imm s
  | .vext g d a b => Sys2Proof.Machine.execVext g d a b s
  | .vins g d a b => Sys2Proof.Machine.execVins g d a b s
  | .vadd g d a b => Sys2Proof.Machine.execVadd g d a b s
  | .vaddLong g rnd d a b => Sys2Proof.Machine.execVaddLong g rnd d a b s
  | .vsub g d a b => Sys2Proof.Machine.execVsub g d a b s
  | .vsubLong g rnd d a b => Sys2Proof.Machine.execVsubLong g rnd d a b s
  | .vmul g d a b => Sys2Proof.Machine.execVmul g d a b s
  | .vmulLong g rnd d a b => Sys2Proof.Machine.execVmulLong g rnd d a b s
  | .vfma g d a b => Sys2Proof.Machine.execVfma g d a b s
  | .vfmaLong g rnd d a b c => Sys2Proof.Machine.execVfmaLong g rnd d a b c s
  | .vmin g d a b => Sys2Proof.Machine.execVmin g d a b s
  | .vmax g d a b => Sys2Proof.Machine.execVmax g d a b s
  | .vabs g d a => Sys2Proof.Machine.execVabs g d a s
  | .vneg g d a => Sys2Proof.Machine.execVneg g d a s
  | .vrcp g rnd d a => Sys2Proof.Machine.execVrcp g rnd d a s
  | .vrsq g rnd d a => Sys2Proof.Machine.execVrsq g rnd d a s
  | .vdiv g rnd d a b => Sys2Proof.Machine.execVdiv g rnd d a b s
  | .vsqrt g rnd d a => Sys2Proof.Machine.execVsqrt g rnd d a s
  | .viadd g sat d a b => Sys2Proof.Machine.execViadd g sat d a b s
  | .visub g sat d a b => Sys2Proof.Machine.execVisub g sat d a b s
  | .vimul g sat d a b => Sys2Proof.Machine.execVimul g sat d a b s
  | .vimin g d a b => Sys2Proof.Machine.execVimin g d a b s
  | .vimax g d a b => Sys2Proof.Machine.execVimax g d a b s
  | .vand g d a b => Sys2Proof.Machine.execVand g d a b s
  | .vor g d a b => Sys2Proof.Machine.execVor g d a b s
  | .vxor g d a b => Sys2Proof.Machine.execVxor g d a b s
  | .vshl g d a b => Sys2Proof.Machine.execVshl g d a b s
  | .vshr g d a b => Sys2Proof.Machine.execVshr g d a b s
  | .vsra g d a b => Sys2Proof.Machine.execVsra g d a b s
  | .vcmp g cond pt pf a b c => Sys2Proof.Machine.execVcmp g cond pt pf a b c s
  | .vsel g d a b c => Sys2Proof.Machine.execVsel g d a b c s
  | .vred g rnd d a col op => Sys2Proof.Machine.execVred g rnd d a col op s
  | .vscan g rnd d a col op => Sys2Proof.Machine.execVscan g rnd d a col op s
  | .vtrn g d a => Sys2Proof.Machine.execVtrn g d a s
  | .vperm g d a b => Sys2Proof.Machine.execVperm g d a b s
  | .vrot g d a b => Sys2Proof.Machine.execVrot g d a b s
  | .vdot g d a b c => Sys2Proof.Machine.execVdot g d a b c s
  | .vcvt g ty rnd sat d a => Sys2Proof.Machine.execVcvt g ty rnd sat d a s
  | .vqmx g ty d a => Sys2Proof.Machine.execVqmx g ty d a s
  | .vqdx g ty d a => Sys2Proof.Machine.execVqdx g ty d a s
  | .vresc g d a imm => Sys2Proof.Machine.execVresc g d a imm s
  | .vzld g d z b => Sys2Proof.Machine.execVzld g d z b s
  | .vzst g z a b => Sys2Proof.Machine.execVzst g z a b s
  | .pfload g x h b => Sys2Proof.Machine.execPfload g x h b s
  | .pfeval g d a x => Sys2Proof.Machine.execPfeval g d a x s
  | .mma h body => Sys2Proof.Machine.execMma h body s
  | .ocon h body => Sys2Proof.Machine.execOcon h body s
  | .mdrain h body => Sys2Proof.Machine.execMdrain h body s
  | .mclr h body => Sys2Proof.Machine.execMclr h body s
  | .cpy h body => Sys2Proof.Machine.execCpy h body s
  | .cpys h body => Sys2Proof.Machine.execCpys h body s
  | .cfill h body => Sys2Proof.Machine.execCfill h body s
  | .gath h body => Sys2Proof.Machine.execGath h body s
  | .scat h body => Sys2Proof.Machine.execScat h body s
  | .merg h body => Sys2Proof.Machine.execMerg h body s
  | .topk h body => Sys2Proof.Machine.execTopk h body s
  | .cmpt h body => Sys2Proof.Machine.execCmpt h body s
  | .nbin h body => Sys2Proof.Machine.execNbin h body s
  | .nstrm h body => Sys2Proof.Machine.execNstrm h body s
  | .chain h body => Sys2Proof.Machine.execChain h body s
  | .rnop h body => Sys2Proof.Machine.execRnop h body s
  | .powerOn => Sys2Proof.Machine.execPowerOn s
  | .fundamentalReset => Sys2Proof.Machine.execFundamentalReset s
  | .powerRemoval => Sys2Proof.Machine.execPowerRemoval s
  | .startStepComplete res => Sys2Proof.Machine.execStartStepComplete res s
  | .functionLevelReset f => Sys2Proof.Machine.execFunctionLevelReset f s
  | .heartbeatTick => Sys2Proof.Machine.execHeartbeatTick s
  | .powerEvaluation readings => Sys2Proof.Machine.execPowerEvaluation readings s
  | .supplyCurrentAlarm die => Sys2Proof.Machine.execSupplyCurrentAlarm die s
  | .junctionHot die temp => Sys2Proof.Machine.execJunctionHot die temp s
  | .thermalTrip die temp => Sys2Proof.Machine.execThermalTrip die temp s
  | .qpiWrite f n v => Sys2Proof.Machine.execQpiWrite f n v s
  | .evqCtlWrite f v => Sys2Proof.Machine.execEvqCtlWrite f v s
  | .evqHeadWrite f v => Sys2Proof.Machine.execEvqHeadWrite f v s
  | .registerWrite f hub off size v => Sys2Proof.Machine.execRegisterWrite f hub off size v s
  | .getStatus f => Sys2Proof.Machine.execGetStatus f s
  | .getLog f => Sys2Proof.Machine.execGetLog f s
  | .getAttest f => Sys2Proof.Machine.execGetAttest f s
  | .openTransport f => Sys2Proof.Machine.execOpenTransport f s
  | .loadKey f => Sys2Proof.Machine.execLoadKey f s
  | .revokeKey f => Sys2Proof.Machine.execRevokeKey f s
  | .assignFn f => Sys2Proof.Machine.execAssignFn f s
  | .warmStart f => Sys2Proof.Machine.execWarmStart f s
  | .coldStart f => Sys2Proof.Machine.execColdStart f s
  | .mbxUnknownCommand f cmd => Sys2Proof.Machine.execMbxUnknownCommand f cmd s
  | .mbxDone f => Sys2Proof.Machine.execMbxDone f s
  | .pkctlRetry f idx => Sys2Proof.Machine.execPkctlRetry f idx s
  | .pkctlDeliver f idx => Sys2Proof.Machine.execPkctlDeliver f idx s
  | .pkctlAbort f idx => Sys2Proof.Machine.execPkctlAbort f idx s
  | .shootdown f v => Sys2Proof.Machine.execShootdown f v s
  | .shootdownComplete => Sys2Proof.Machine.execShootdownComplete s
  | .savecfgWrite f v => Sys2Proof.Machine.execSavecfgWrite f v s
  | .lpoolWrite f t v => Sys2Proof.Machine.execLpoolWrite f t v s
  | .lquotaWrite f t v => Sys2Proof.Machine.execLquotaWrite f t v s
  | .lwmapWrite f d v => Sys2Proof.Machine.execLwmapWrite f d v s
  | .qcfgWrite f n v => Sys2Proof.Machine.execQcfgWrite f n v s
  | .idle p flit => Sys2Proof.Machine.execIdle p flit s
  | .data p flit => Sys2Proof.Machine.execData p flit s
  | .credit p flit => Sys2Proof.Machine.execCredit p flit s
  | .nak p flit => Sys2Proof.Machine.execNak p flit s
  | .train p flit => Sys2Proof.Machine.execTrain p flit s
  | .flitReservedType p flit => Sys2Proof.Machine.execFlitReservedType p flit s
  | .laneLockLoss p => Sys2Proof.Machine.execLaneLockLoss p s
  | .retrain p => Sys2Proof.Machine.execRetrain p s
  | .retrainDone p width peer => Sys2Proof.Machine.execRetrainDone p width peer s
  | .pSpaceRequest p peer req => Sys2Proof.Machine.execPSpaceRequest p peer req s
  | .pSpaceResponse tag data poisoned => Sys2Proof.Machine.execPSpaceResponse tag data poisoned s
  | .podBarrierArrival task msg => Sys2Proof.Machine.execPodBarrierArrival task msg s
  | .reserve p peer task attempt rec tenant prio => Sys2Proof.Machine.execReserve p peer task attempt rec tenant prio s
  | .ack peer task attempt => Sys2Proof.Machine.execAck peer task attempt s
  | .gangNak peer task attempt => Sys2Proof.Machine.execGangNak peer task attempt s
  | .go peer task attempt => Sys2Proof.Machine.execGo peer task attempt s
  | .abort peer task attempt => Sys2Proof.Machine.execAbort peer task attempt s
  | .late peer task attempt => Sys2Proof.Machine.execLate peer task attempt s
  | .gangDone peer task => Sys2Proof.Machine.execGangDone peer task s
  | .ackTimerExpiry task => Sys2Proof.Machine.execAckTimerExpiry task s
  | .reservationTimerExpiry task => Sys2Proof.Machine.execReservationTimerExpiry task s
  | .task n => Sys2Proof.Machine.execTask n s
  | .graph n => Sys2Proof.Machine.execGraph n s
  | .qfence n => Sys2Proof.Machine.execQfence n s
  | .signal n => Sys2Proof.Machine.execSignal n s
  | .placementPatienceExpiry task => Sys2Proof.Machine.execPlacementPatienceExpiry task s
  | .coreClearDone c => Sys2Proof.Machine.execCoreClearDone c s
  | .coreDone c => Sys2Proof.Machine.execCoreDone c s
  | .preemptionComplete task => Sys2Proof.Machine.execPreemptionComplete task s
  | .chunkRequest c => Sys2Proof.Machine.execChunkRequest c s
  | .digestDone task part => Sys2Proof.Machine.execDigestDone task part s
  | .watchNotice granule => Sys2Proof.Machine.execWatchNotice granule s
  | .hitCopyDone task => Sys2Proof.Machine.execHitCopyDone task s
  | .captureDone task => Sys2Proof.Machine.execCaptureDone task s
  | .recordStart c e => Sys2Proof.Machine.execRecordStart c e s
  | .engineIteration c e => Sys2Proof.Machine.execEngineIteration c e s
  | .recordCompletion c e => Sys2Proof.Machine.execRecordCompletion c e s
  | .ldaCompletion c k lc => Sys2Proof.Machine.execLdaCompletion c k lc s
  | .writePerformed c j => Sys2Proof.Machine.execWritePerformed c j s
  | .strandHoldRelease c k => Sys2Proof.Machine.execStrandHoldRelease c k s
  | .watchdog c k => Sys2Proof.Machine.execWatchdog c k s
  | .softError u correctable => Sys2Proof.Machine.execSoftError u correctable s
  | .patrolScrub unit res => Sys2Proof.Machine.execPatrolScrub unit res s
  | .atsInvalidation f page pages => Sys2Proof.Machine.execAtsInvalidation f page pages s
  | .dieClkStatRead f d => Sys2Proof.Machine.execDieClkStatRead f d s
  | .hostMemoryWrite f pa bytes => Sys2Proof.Machine.execHostMemoryWrite f pa bytes s
  | .retryDelayExpiry task => Sys2Proof.Machine.execRetryDelayExpiry task s

end Sys2Proof.Machine
end

