-- ==== Sys2Proof/Machine/Step.lean ====
section
/-! DEFINITION. One step of the package: what happens next (Policy), executed. -/

namespace Sys2Proof.Machine

/-- One step. -/
def step (s : State) : Host.Outcome State Fault Refusal :=
  match plan exec s with
  | .run i t => exec i t
  | .done t => .next t
  | .fault => .fault .noSuchUnit

/-- `s` with an instruction whose bits are `w` where the next step fetches (log 16): 64 bytes from the pc of the strand that
issues next, those of `w` first. -/
def State.withFetchWord (s : State) (nbits w : Nat) : State := s.placeCode (leBytes 64 (w % 2 ^ nbits))

end Sys2Proof.Machine
end

