-- ==== Sys2Proof/Safety.lean ====
section
/-! DEFINITION. What claims are stated in: runs, states in which every byte space has its one form, states whose part the
manual allows (R16, R37, R42, R44, R78, R211), when an instruction runs its effect (R207, R235, R297), and frames. -/

namespace Sys2Proof

open Machine

/-- The stores of a core are in canonical form. -/
def Machine.Core.storesWf (q : Machine.Core) : Bool := Bytes.wf q.w && Bytes.wf q.a && Bytes.wf q.s

/-- Package memory, host memory and every local store are in canonical form. -/
def Machine.State.memoryWf (s : State) : Bool :=
  Bytes.wf s.hbm && Bytes.wf s.hostMem && s.coreTab.all fun p => p.2.storesWf

/-- The part is in a state the manual names: starting, ready or safe (R37), with at most three retries of a start (R42), and a
firmware version and a rollback counter of at most 64 (R44). -/
def Machine.State.partWf (s : State) : Bool :=
  decide (s.mbxState ≤ 2) && decide (s.boot.retries ≤ 3) && decide (s.fwVersion ≤ 64) && decide (s.rollback ≤ 64)

/-- `t` is reached from `s` by steps of the machine. -/
inductive Reaches : State → State → Prop where
  | refl (s : State) : Reaches s s
  | step {s t u : State} : Reaches s t → Machine.step t = .next u → Reaches s u

/-- A run from `s` is safe when every state it reaches has another step to take. -/
def SafeFrom (s : State) : Prop := ∀ t, Reaches s t → ∃ u, Machine.step t = .next u

/-! ## When a strand instruction runs its effect -/

/-- The executing strand is one of the strands of its core. -/
def Machine.State.seated (s : State) : Prop := s.cur.2 < s.here.strands.length

/-- An instruction with guard `g` that names the registers `u` runs its effect: its guard is true (R235), no register it
names awaits an outstanding load (R297), and none it reads holds an uncorrectable error (R216). -/
def Machine.State.runs (s : State) (g : Guard) (u : Uses) : Prop :=
  s.seated ∧ s.rP g.g ≠ g.n ∧ s.me.loadPending u = false ∧ s.registerCheck u = none

/-! ## Frames -/

/-- Every byte of package memory, of host memory and of every local store reads as before. -/
def sameBytes (s t : State) : Prop :=
  ∀ a, byteAt t.hbm a = byteAt s.hbm a ∧ byteAt t.hostMem a = byteAt s.hostMem a ∧
    ∀ c, byteAt (t.core c).w a = byteAt (s.core c).w a ∧ byteAt (t.core c).a a = byteAt (s.core c).a a ∧
      byteAt (t.core c).s a = byteAt (s.core c).s a

/-- Poison of every unit is as before but of the scalar registers `ws` of the executing strand, which have none (R215). -/
def poisonOnly (ws : List Nat) (s t : State) : Prop :=
  ∀ u, t.isPoisoned u = (s.isPoisoned u && !(ws.any fun r => u == .sreg s.cur.1 s.cur.2 r))

/-- Nothing of the package changes but the executing core and the poison of the scalar registers `ws`; no byte changes. -/
def onlyCore (ws : List Nat) (s t : State) : Prop :=
  t = { s with coreTab := t.coreTab, poison := t.poison } ∧ (∀ c, c ≠ s.cur.1 → t.core c = s.core c) ∧
    poisonOnly ws s t ∧ sameBytes s t

/-- Nothing of the package changes but the executing strand and the poison of the scalar registers `ws`. -/
def onlyStrand (ws : List Nat) (s t : State) : Prop :=
  onlyCore ws s t ∧ t.here = s.here.setStrand s.cur.2 t.me

/-- An instruction of `len` bytes whose whole effect is to write `v` to s[d] and to set the FPST bits `f`; a write of s0 is
discarded. -/
def wroteScalar (len d : Nat) (v : Word) (f : Nat) (s t : State) : Prop :=
  onlyStrand [d] s t ∧
    t.me = { s.me with pc := s.me.pc + len, s := t.me.s, fpst := s.me.fpst ||| BitVec.ofNat 32 f } ∧
    t.rS d = (if d = 0 then 0 else v) ∧ ∀ r, r ≠ d → t.rS r = s.rS r

/-- An instruction of `len` bytes whose whole effect is on the predicates: `v k` is p[k] after it. -/
def wrotePreds (len : Nat) (v : Nat → Bool) (s t : State) : Prop :=
  onlyStrand [] s t ∧ t.me = { s.me with pc := s.me.pc + len, p := t.me.p } ∧ ∀ k, k < 16 → t.rP k = v k

/-- An instruction of `len` bytes that completes and changes nothing of its strand but the pc. -/
def wentOn (len : Nat) (s t : State) : Prop := onlyStrand [] s t ∧ t.me = { s.me with pc := s.me.pc + len }

/-- A transfer: the pc alone changes. -/
def wentTo (pc : Nat) (s t : State) : Prop := onlyStrand [] s t ∧ t.me = { s.me with pc := pc }

/-- The strand is held and its pc stays (R101). -/
def heldBy (h : Hold) (s t : State) : Prop := onlyStrand [] s t ∧ t.me = { s.me with hold := some h }

/-- An instruction of `len` bytes whose whole effect is to write `v` to b[x], which starts its window (R276). -/
def wroteTarget (len x : Nat) (v : Word) (s t : State) : Prop :=
  onlyStrand [] s t ∧ t.me = { s.me with pc := s.me.pc + len, b := t.me.b, window := t.me.window } ∧
    ∀ y, t.me.target y = (if y = x then v else s.me.target y) ∧
      mapGet t.me.window y 0 = (if y = x then s.here.clk + 6 else mapGet s.me.window y 0)

/-- TRAPINFO of a strand instruction's exception that concerns no handle slot (R209): CODE, SUB and DONE given, ENG 0xF, SLOT
0xFF, SRC 0 and INH 1. -/
def trapInfo (code sub : Nat) (done : Bool) : Word :=
  BitVec.ofNat 64 (code + 2 ^ 8 * done.toNat + 2 ^ 9 + 2 ^ 12 * 15 + 2 ^ 16 * sub + 2 ^ 24 * 255)

/-- The strand entered its handler (R208): nothing else of it or of the package changes. -/
def tookException (code sub : Nat) (done : Bool) (arg : Word) (ret : Nat) (s t : State) : Prop :=
  onlyStrand [] s t ∧ t.me.pc = s.me.trapvec.toNat ∧ t.me.trappc = BitVec.ofNat 64 ret ∧
    t.me.trapinfo = trapInfo code sub done ∧ t.me.traparg = arg ∧
    t.me = { s.me with pc := t.me.pc, trappc := t.me.trappc, trapinfo := t.me.trapinfo, traparg := t.me.traparg,
                       hold := none, heldTicks := 0, scStage := 0, waiting := none, answer := none }

/-- The executing core became `q`, but that the pc of its executing strand moved on by `len`; nothing else of the package
changes but the poison of the scalar registers `ws`, and no byte of memory or of a store. -/
def coreBecame (len : Nat) (ws : List Nat) (q : Machine.Core) (s t : State) : Prop :=
  onlyCore ws s t ∧ t.here = q.setStrand s.cur.2 { q.strand s.cur.2 with pc := s.me.pc + len }

/-- The same for a core held at its instruction. -/
def coreHeld (h : Hold) (q : Machine.Core) (s t : State) : Prop :=
  onlyCore [] s t ∧ t.here = q.setStrand s.cur.2 { q.strand s.cur.2 with hold := some h }

/-- A core with s[d] of strand `k` written. -/
def Machine.Core.withReg (q : Machine.Core) (k d : Nat) (v : Word) : Machine.Core :=
  q.setStrand k ((q.strand k).setReg d v)

/-- Nothing of the package changes but the executing core's vector file, its executing strand, and the poison of v[d] and of
the scalar registers `ws`. -/
def onlyVector (ws : List Nat) (d : Nat) (s t : State) : Prop :=
  t = { s with coreTab := t.coreTab, poison := t.poison } ∧ (∀ c, c ≠ s.cur.1 → t.core c = s.core c) ∧ sameBytes s t ∧
    t.here = { s.here with v := t.here.v, side := t.here.side, strands := s.here.strands.set s.cur.2 t.me } ∧
    (∀ e, e ≠ d → t.here.vec e = s.here.vec e ∧ t.here.sidecar e = s.here.sidecar e) ∧
    ∀ u, (∀ w, u ≠ .vreg s.cur.1 d w) → (∀ r, r ∈ ws → u ≠ .sreg s.cur.1 s.cur.2 r) → t.isPoisoned u = s.isPoisoned u

end Sys2Proof
end

