-- ==== Sys2Proof/Certificates/Slice0/Obligations.lean ====
section
/-! DEFINITION. The statements for the provers.  Each says which rules of the manual it formalises; `runs`, `wroteScalar`, the
frames and the other words they are stated in stand in Safety.lean. -/

open Sys2Proof Sys2Proof.Machine

/-! ## Integers, moves, compares and predicates (chapter 12) -/

/-- Some next state of `i` in `s` in which its whole effect is `v` in s[d] and FPST bits `f`. -/
def Sys2Proof.Claims.gives (i : Instr) (s : State) (len d : Nat) (v : Word) (f : Nat := 0) : Prop :=
  ∃ t, exec i s = .next t ∧ wroteScalar len d v f s t

/-- An operation over the low `w` bits of two registers, its result sign-extended (R259, R260). -/
def Sys2Proof.Claims.atType (ty : Ty) (f : {w : Nat} → BitVec w → BitVec w → BitVec w) (x y : Word) : Word :=
  match ty with
  | .i32 => (f (x.setWidth 32) (y.setWidth 32)).signExtend 64
  | _ => f x y

open Sys2Proof.Claims

/-- R259, R260: the S forms of the integer family compute on 64 bits. -/
def Sys2Proof.Claims.integerShortForms : Prop :=
  ∀ (g : Guard) (d a b : Nat) (s : State), s.runs g (Uses.scalar [a, b] [d]) →
    gives (.add g d a b) s 4 d (s.rS a + s.rS b) ∧
    gives (.sub g d a b) s 4 d (s.rS a - s.rS b) ∧
    gives (.and g d a b) s 4 d (s.rS a &&& s.rS b) ∧
    gives (.or g d a b) s 4 d (s.rS a ||| s.rS b) ∧
    gives (.xor g d a b) s 4 d (s.rS a ^^^ s.rS b) ∧
    gives (.min g d a b) s 4 d (if (s.rS a).toInt ≤ (s.rS b).toInt then s.rS a else s.rS b) ∧
    gives (.max g d a b) s 4 d (if (s.rS a).toInt ≤ (s.rS b).toInt then s.rS b else s.rS a)

/-- R259, R260: sums, differences, products and bitwise operations of the L forms, without .SAT. -/
def Sys2Proof.Claims.integerLongForms : Prop :=
  ∀ (g : Guard) (ty : Ty) (d a b : Nat) (s : State), s.runs g (Uses.scalar [a, b] [d]) →
    gives (.addLong g ty false d a b) s 8 d (atType ty (fun x y => x + y) (s.rS a) (s.rS b)) ∧
    gives (.subLong g ty false d a b) s 8 d (atType ty (fun x y => x - y) (s.rS a) (s.rS b)) ∧
    gives (.mul g ty false d a b) s 8 d (atType ty (fun x y => x * y) (s.rS a) (s.rS b)) ∧
    gives (.mulh g ty d a b) s 8 d
      (atType ty (fun {w} x y => (x.signExtend (2 * w) * y.signExtend (2 * w)).extractLsb' w w) (s.rS a) (s.rS b)) ∧
    gives (.mulhu g ty d a b) s 8 d
      (atType ty (fun {w} x y => (x.setWidth (2 * w) * y.setWidth (2 * w)).extractLsb' w w) (s.rS a) (s.rS b)) ∧
    gives (.andLong g ty d a b) s 8 d (atType ty (fun x y => x &&& y) (s.rS a) (s.rS b)) ∧
    gives (.orLong g ty d a b) s 8 d (atType ty (fun x y => x ||| y) (s.rS a) (s.rS b)) ∧
    gives (.xorLong g ty d a b) s 8 d (atType ty (fun x y => x ^^^ y) (s.rS a) (s.rS b)) ∧
    gives (.andn g ty d a b) s 8 d (atType ty (fun x y => x &&& ~~~y) (s.rS a) (s.rS b)) ∧
    gives (.orn g ty d a b) s 8 d (atType ty (fun x y => x ||| ~~~y) (s.rS a) (s.rS b))

/-- R259, R260: shifts by an amount in a register, taken modulo w, rotation, and minimum and maximum. -/
def Sys2Proof.Claims.integerShifts : Prop :=
  ∀ (g : Guard) (ty : Ty) (d a b : Nat) (s : State), s.runs g (Uses.scalar [a, b] [d]) →
    gives (.shl g ty d a b) s 8 d (atType ty (fun {w} x y => x <<< (y.toNat % w)) (s.rS a) (s.rS b)) ∧
    gives (.shr g ty d a b) s 8 d (atType ty (fun {w} x y => x >>> (y.toNat % w)) (s.rS a) (s.rS b)) ∧
    gives (.sra g ty d a b) s 8 d (atType ty (fun {w} x y => x.sshiftRight (y.toNat % w)) (s.rS a) (s.rS b)) ∧
    gives (.rotl g ty d a b) s 8 d (atType ty (fun {w} x y => x.rotateLeft (y.toNat % w)) (s.rS a) (s.rS b)) ∧
    gives (.minLong g ty d a b) s 8 d (atType ty (fun x y => if x.toInt ≤ y.toInt then x else y) (s.rS a) (s.rS b)) ∧
    gives (.maxLong g ty d a b) s 8 d (atType ty (fun x y => if x.toInt ≤ y.toInt then y else x) (s.rS a) (s.rS b)) ∧
    gives (.minu g ty d a b) s 8 d (atType ty (fun x y => if x ≤ y then x else y) (s.rS a) (s.rS b)) ∧
    gives (.maxu g ty d a b) s 8 d (atType ty (fun x y => if x ≤ y then y else x) (s.rS a) (s.rS b))

/-- R259, R260: the integer family: S forms, L forms, shifts, minima and maxima. -/
def Obligations.IntegerArithmetic : Prop := integerShortForms ∧ integerLongForms ∧ integerShifts

/-- R259, R260: division truncates towards zero; a zero divisor gives all ones or the dividend, and the most negative
quotient wraps. -/
def Sys2Proof.Claims.integerDivision : Prop :=
  ∀ (g : Guard) (ty : Ty) (d a b : Nat) (s : State), s.runs g (Uses.scalar [a, b] [d]) →
    gives (.div g ty d a b) s 8 d
      (atType ty (fun {w} x y => if y = 0 then BitVec.allOnes w else BitVec.ofInt w (Int.tdiv x.toInt y.toInt)) (s.rS a) (s.rS b)) ∧
    gives (.divu g ty d a b) s 8 d
      (atType ty (fun {w} x y => if y = 0 then BitVec.allOnes w else x / y) (s.rS a) (s.rS b)) ∧
    gives (.rem g ty d a b) s 8 d
      (atType ty (fun {w} x y => if y = 0 then x else BitVec.ofInt w (Int.tmod x.toInt y.toInt)) (s.rS a) (s.rS b)) ∧
    gives (.remu g ty d a b) s 8 d (atType ty (fun x y => if y = 0 then x else x % y) (s.rS a) (s.rS b))

/-- A source as .SAT reads it: unsigned for .U64, two's complement otherwise (R260). -/
def Sys2Proof.Claims.satSource (ty : Ty) (x : Word) : Int :=
  match ty with
  | .u64 => (x.toNat : Int)
  | .i32 => (x.setWidth 32).toInt
  | _ => x.toInt

/-- The range that .SAT clamps to (R260). -/
def Sys2Proof.Claims.satRange : Ty → Int × Int
  | .u64 => (0, 2 ^ 64 - 1)
  | .i32 => (-(2 ^ 31), 2 ^ 31 - 1)
  | _ => (-(2 ^ 63), 2 ^ 63 - 1)

/-- The clamped result, and FPST.SAT (bit 5) where the exact one lies outside the range. -/
def Sys2Proof.Claims.givesSat (i : Instr) (s : State) (len d : Nat) (ty : Ty) (e : Int) : Prop :=
  let r := satRange ty
  gives i s len d (BitVec.ofInt 64 (Max.max r.1 (Min.min r.2 e))) (if r.1 ≤ e ∧ e ≤ r.2 then 0 else 2 ^ 5)

/-- R260: .SAT clamps the exact sum, difference or product and sets FPST.SAT where it does. -/
def Sys2Proof.Claims.integerSaturation : Prop :=
  ∀ (g : Guard) (ty : Ty) (d a b : Nat) (s : State), s.runs g (Uses.scalar [a, b] [d]) →
    let x := satSource ty (s.rS a)
    let y := satSource ty (s.rS b)
    givesSat (.addLong g ty true d a b) s 8 d ty (x + y) ∧
    givesSat (.subLong g ty true d a b) s 8 d ty (x - y) ∧
    givesSat (.mul g ty true d a b) s 8 d ty (x * y)

/-- R259, R260: division, remainder and .SAT. -/
def Obligations.QuotientsAndSaturation : Prop := integerDivision ∧ integerSaturation

/-- R259 to R261: the immediate forms; an immediate is sign-extended before it enters. -/
def Obligations.IntegerImmediates : Prop :=
  ∀ (g : Guard) (ty : Ty) (d a : Nat) (imm : Int) (n : Nat) (s : State), s.runs g (Uses.scalar [a] [d]) →
    (n < 64 ∧ (ty = .i32 → n < 32)) →
    let y : Word := BitVec.ofInt 64 imm
    gives (.addi g d a imm) s 4 d (s.rS a + y) ∧
    gives (.addiLong g ty false d a imm) s 8 d (atType ty (fun x y => x + y) (s.rS a) y) ∧
    gives (.addiExt g ty false d a imm) s 12 d (atType ty (fun x y => x + y) (s.rS a) y) ∧
    givesSat (.addiLong g ty true d a imm) s 8 d ty (satSource ty (s.rS a) + satSource ty y) ∧
    givesSat (.addiExt g ty true d a imm) s 12 d ty (satSource ty (s.rS a) + satSource ty y) ∧
    gives (.shli g d a n) s 4 d (s.rS a <<< n) ∧
    gives (.shri g d a n) s 4 d (s.rS a >>> n) ∧
    gives (.srai g d a n) s 4 d ((s.rS a).sshiftRight n) ∧
    gives (.shliLong g ty d a n) s 8 d (atType ty (fun x _ => x <<< n) (s.rS a) 0) ∧
    gives (.shriLong g ty d a n) s 8 d (atType ty (fun x _ => x >>> n) (s.rS a) 0) ∧
    gives (.sraiLong g ty d a n) s 8 d (atType ty (fun x _ => x.sshiftRight n) (s.rS a) 0)

/-- The low `w` bits of `x` that R262 counts or reverses. -/
def Sys2Proof.Claims.countWidth : Ty → Nat
  | .i32 => 32
  | _ => 64

/-- R262: the counts, each said by the bits it counts, and the reversal. -/
def Sys2Proof.Claims.bitCounts : Prop :=
  ∀ (g : Guard) (ty : Ty) (d a : Nat) (s : State), s.runs g (Uses.scalar [a] [d]) →
    let w := countWidth ty
    let x := s.rS a
    (∃ n, gives (.clz g ty d a) s 8 d (BitVec.ofNat 64 n) ∧ n ≤ w ∧ (∀ k, w - n ≤ k → k < w → x.getLsbD k = false) ∧
      (n < w → x.getLsbD (w - 1 - n) = true)) ∧
    (∃ n, gives (.ctz g ty d a) s 8 d (BitVec.ofNat 64 n) ∧ n ≤ w ∧ (∀ k, k < n → x.getLsbD k = false) ∧
      (n < w → x.getLsbD n = true)) ∧
    gives (.popc g ty d a) s 8 d (BitVec.ofNat 64 ((List.range w).countP fun k => x.getLsbD k)) ∧
    (∃ v, gives (.brev g ty d a) s 8 d v ∧ ∀ k, k < 64 → v.getLsbD k = x.getLsbD (if k < w then w - 1 - k else 0))

/-- R263: extracted and inserted fields and extensions, bit by bit. -/
def Sys2Proof.Claims.bitFields : Prop :=
  ∀ (g : Guard) (pos len k d a : Nat) (s : State), s.runs g (Uses.scalar [a] [d]) → s.runs g (Uses.scalar [d, a] [d]) →
    1 ≤ len → pos + len ≤ 64 → 1 ≤ k → k ≤ 64 →
    let x := s.rS a
    gives (.bfx g pos len d a) s 8 d ((x.extractLsb' pos len).signExtend 64) ∧
    gives (.bfxu g pos len d a) s 8 d ((x.extractLsb' pos len).setWidth 64) ∧
    (∃ v, gives (.bfi g pos len d a) s 8 d v ∧
      ∀ j, j < 64 → v.getLsbD j = if pos ≤ j ∧ j < pos + len then x.getLsbD (j - pos) else (s.rS d).getLsbD j) ∧
    gives (.sext g k d a) s 8 d ((x.setWidth k).signExtend 64) ∧
    gives (.zext g k d a) s 8 d ((x.setWidth k).setWidth 64)

/-- R262, R263: bit counts and bit fields. -/
def Obligations.BitOperations : Prop := bitCounts ∧ bitFields

/-- R264, R265: moves and selections. -/
def Obligations.MovesAndSelects : Prop :=
  ∀ (g : Guard) (d a b c : Nat) (imm : Int) (s : State), s.runs g (Uses.scalar [a, b] [d]) →
    s.runs g (Uses.scalar [a] [d]) → s.runs g (Uses.scalar [] [d]) → s.runs g (Uses.scalar [d] [d]) →
    let high := BitVec.append (BitVec.ofInt 32 imm) ((s.rS d).setWidth 32)
    gives (.mov g d a) s 4 d (s.rS a) ∧ gives (.movLong g d a) s 8 d (s.rS a) ∧
    gives (.movi g d imm) s 8 d (BitVec.ofInt 64 imm) ∧ gives (.moviExt g d imm) s 12 d (BitVec.ofInt 64 imm) ∧
    gives (.movhi g d imm) s 8 d high ∧ gives (.movhiExt g d imm) s 12 d high ∧
    gives (.sel g d a b) s 4 d (if s.rP 1 then s.rS a else s.rS b) ∧
    gives (.selLong g d a b c) s 8 d (if s.rP c then s.rS a else s.rS b)

/-- The conditions of R266 on two values of one width. -/
def Sys2Proof.Claims.condHolds {w : Nat} (c : Cond) (x y : BitVec w) : Bool :=
  match c with
  | .eq => x == y
  | .ne => x != y
  | .lt => decide (x.toInt < y.toInt)
  | .le => decide (x.toInt ≤ y.toInt)
  | .gt => decide (x.toInt > y.toInt)
  | .ge => decide (x.toInt ≥ y.toInt)
  | .ltu => decide (x < y)
  | .leu => decide (x ≤ y)
  | .gtu => decide (x > y)
  | .geu => decide (x ≥ y)
  | .ord => false
  | .uno => false

/-- The condition at a type. -/
def Sys2Proof.Claims.condAt (ty : Ty) (c : Cond) (x y : Word) : Bool :=
  match ty with
  | .i32 => condHolds c (x.setWidth 32) (y.setWidth 32)
  | _ => condHolds c x y

/-- Some next state of `i` whose whole effect is that p[T] takes `v` and p[F] its complement (R266). -/
def Sys2Proof.Claims.givesPair (i : Instr) (s : State) (len pt pf : Nat) (v : Bool) : Prop :=
  ∃ t, exec i s = .next t ∧
    wrotePreds len (fun k => if k = 0 then true else if k = pf then !v else if k = pt then v else s.rP k) s t

/-- R266: compares write a pair of predicates; p0 discards. -/
def Sys2Proof.Claims.compares : Prop :=
  ∀ (g : Guard) (ty : Ty) (c : Cond) (pt pf a b : Nat) (imm : Int) (s : State),
    wellFormed (.cmp g ty c pt pf a b) = true →
    s.runs g (Uses.scalar [a, b] []) → s.runs g (Uses.scalar [a] []) →
    givesPair (.cmp g ty c pt pf a b) s 8 pt pf (condAt ty c (s.rS a) (s.rS b)) ∧
    givesPair (.cmpExt g ty c pt pf a imm) s 12 pt pf (condAt ty c (s.rS a) (BitVec.ofInt 64 imm))

/-- R267, R268: predicate logic; PGET reads all sixteen, PSET writes those under its mask, and neither touches p0. -/
def Sys2Proof.Claims.predicateLogic : Prop :=
  ∀ (g : Guard) (d a b : Nat) (s : State), d < 16 → a < 16 → b < 16 → s.runs g Uses.none →
    s.runs g (Uses.scalar [a, b] []) → s.runs g (Uses.scalar [] [d]) →
    let puts := fun (i : Instr) (v : Bool) =>
      ∃ t, exec i s = .next t ∧ wrotePreds 8 (fun k => if k = 0 then true else if k = d then v else s.rP k) s t
    puts (.pand g d a b) (s.rP a && s.rP b) ∧ puts (.por g d a b) (s.rP a || s.rP b) ∧
    puts (.pxor g d a b) (s.rP a ^^ s.rP b) ∧ puts (.pandn g d a b) (s.rP a && !s.rP b) ∧
    (∃ t, exec (.pset g a b) s = .next t ∧
      wrotePreds 8 (fun k => if k ≠ 0 ∧ (s.rS b).getLsbD k then (s.rS a).getLsbD k else s.rP k) s t) ∧
    (∃ v, gives (.pget g d) s 8 d v ∧ ∀ k, k < 64 → v.getLsbD k = (decide (k < 16) && s.rP k))

/-- R266 to R268: compares and predicate logic. -/
def Obligations.ComparesAndPredicates : Prop := compares ∧ predicateLogic

/-! ## Numbers and scalar floating point (chapters 09 and 12) -/

/-- The rational number that an exact finite value stands for. -/
def Sys2Proof.Claims.ratOf : Machine.Num → Option Rat
  | .fin neg m e false => some ((if neg then -1 else 1) * (m : Rat) * (2 : Rat) ^ e)
  | _ => none

/-- A rational rounded to an integer in a mode (R195). -/
def Sys2Proof.Claims.roundRat (rm : Rnd) (q : Rat) : Int :=
  match rm with
  | .rtz => if 0 ≤ q then q.floor else q.ceil
  | .rup => q.ceil
  | .rdn => q.floor
  | _ =>
    let f := q.floor
    let d := q - f
    if d < 1 / 2 then f else if 1 / 2 < d then f + 1 else if f % 2 = 0 then f else f + 1

/-- The largest finite value of a format (R188). -/
def Sys2Proof.Claims.largest (f : FloatFmt) : Rat := ((ratOf (f.value f.maxCode)).getD 0)

/-- R195, R197, R198: a finite value that is not 0 is rounded once, to a multiple of the last place of its binade or of the
subnormals; NX is set where that is inexact, UF where it is also below the least normal; beyond the largest value it
overflows with OF.
The manual leaves part of it open: log 24. -/
def Obligations.RoundingOnce : Prop :=
  ∀ (ty : Ty) (f : FloatFmt) (rm : Rnd) (sat neg : Bool) (m : Nat) (e k : Int), floatFmt? ty = some f → m ≠ 0 →
    (2 : Rat) ^ k ≤ (m : Rat) * (2 : Rat) ^ e → (m : Rat) * (2 : Rat) ^ e < (2 : Rat) ^ (k + 1) →
    let v : Rat := (if neg then -1 else 1) * (m : Rat) * (2 : Rat) ^ e
    let q : Int := Max.max (k - f.man) (1 - f.bias - f.man)
    let r : Rat := (roundRat rm (v * (2 : Rat) ^ (-q)) : Rat) * (2 : Rat) ^ q
    let out := f.convert rm sat (.fin neg m e false)
    (r.abs ≤ largest f → ratOf (f.value out.1) = some r ∧ f.withSign neg 0 ≤ out.1 ∧
      out.2 = (if r = v then 0 else 1) + (if r ≠ v ∧ r.abs < (2 : Rat) ^ ((1 : Int) - f.bias) then 2 else 0)) ∧
    (largest f < r.abs → out = f.overflow rm sat neg ∧ out.2.testBit 2 = true)

/-- R198: what an overflow delivers.  `f.top` tells the rows of its table apart. -/
def Sys2Proof.Claims.overflowTable : Prop :=
  ∀ (f : FloatFmt) (rm : Rnd) (sat neg : Bool), rm ≠ .dyn →
    let towards := rm = .rtz ∨ (rm = .rup ∧ neg = true) ∨ (rm = .rdn ∧ neg = false)
    ((sat = true ∨ f.top = .finite) → f.overflow rm sat neg = (f.withSign neg f.maxCode, 4 + 1 + 32)) ∧
    (sat = false → f.top ≠ .finite → towards → f.overflow rm sat neg = (f.withSign neg f.maxCode, 4 + 1)) ∧
    (sat = false → f.top = .ieee → ¬ towards →
      f.overflow rm sat neg = (f.withSign neg ((2 ^ f.exp - 1) * 2 ^ f.man), 4 + 1)) ∧
    (sat = false → f.top = .e4m3 → ¬ towards → f.overflow rm sat neg = (2 ^ (f.exp + f.man) - 1, 4 + 16)) ∧
    (f.top = .ieee → f.convert rm sat (.inf neg) = (f.withSign neg ((2 ^ f.exp - 1) * 2 ^ f.man), 0)) ∧
    (f.top ≠ .ieee → f.convert rm sat (.inf neg) = f.overflow rm sat neg)

/-- R203's and R270's exact values before the one rounding: sums and products are exact, and quotients and roots are known to
a tail: between m·2^e and (m + 1)·2^e, at the lower end exactly when nothing is cut off. -/
def Sys2Proof.Claims.exactValues : Prop :=
  ∀ (rm : Rnd) (na nb : Bool) (ma mb : Nat) (ea eb : Int),
    let x : Machine.Num := .fin na ma ea false
    let y : Machine.Num := .fin nb mb eb false
    let p : Rat := (ratOf x).getD 0
    let q : Rat := (ratOf y).getD 0
    (addNum rm x y).2 = false ∧ ratOf (addNum rm x y).1 = some (p + q) ∧
    (mulNum x y).2 = false ∧ ratOf (mulNum x y).1 = some (p * q) ∧
    (mb ≠ 0 → ma ≠ 0 → ∃ (n : Nat) (e : Int) (tail : Bool), divNum x y = (.fin (na != nb) n e tail, 0) ∧ 2 ^ 128 ≤ n ∧
      (n : Rat) * (2 : Rat) ^ e ≤ (p / q).abs ∧ (p / q).abs < ((n : Rat) + 1) * (2 : Rat) ^ e ∧
      (tail = false ↔ (n : Rat) * (2 : Rat) ^ e = (p / q).abs)) ∧
    (ma ≠ 0 → na = false → ∃ (n : Nat) (e : Int) (tail : Bool), sqrtNum x = (.fin false n e tail, 0) ∧ 2 ^ 128 ≤ n ∧
      ((n : Rat) * (2 : Rat) ^ e) * ((n : Rat) * (2 : Rat) ^ e) ≤ p ∧
      p < (((n : Rat) + 1) * (2 : Rat) ^ e) * (((n : Rat) + 1) * (2 : Rat) ^ e) ∧
      (tail = false ↔ ((n : Rat) * (2 : Rat) ^ e) * ((n : Rat) * (2 : Rat) ^ e) = p))

/-- R198, R203, R270: what overflow gives, and exact results. -/
def Obligations.OverflowAndExactness : Prop := overflowTable ∧ exactValues

/-- R269, R270, R201: the arithmetic members round the exact value of their operands once, at the type and the rounding of the
instruction, and set NV or DZ where the operation itself is invalid or divides by zero. -/
def Obligations.FloatArithmetic : Prop :=
  ∀ (g : Guard) (ty : Ty) (rnd : Rnd) (d a b c : Nat) (s : State), tyF4 ty = true →
    s.runs g (Uses.scalar [a, b] [d]) → s.runs g (Uses.scalar [a, b, c] [d]) → s.runs g (Uses.scalar [a] [d]) →
    let x := s.rF ty a
    let y := s.rF ty b
    let z := s.rF ty c
    let out := fun (i : Instr) (e : Machine.Num) (status : Nat) =>
      let r := floatResult ty rnd false s.me.ftz e status
      gives i s 8 d (BitVec.ofNat 64 r.1) r.2
    let nv := fun (invalid : Bool) => if invalid then 16 else 0
    out (.fadd g ty rnd d a b) (addNum rnd x y).1 (nv (addNum rnd x y).2) ∧
    out (.fsub g ty rnd d a b) (addNum rnd x y.neg).1 (nv (addNum rnd x y.neg).2) ∧
    out (.fmul g ty rnd d a b) (mulNum x y).1 (nv (mulNum x y).2) ∧
    out (.ffma g ty rnd d a b c) (addNum rnd (mulNum x y).1 z).1
      (nv ((mulNum x y).2 || (addNum rnd (mulNum x y).1 z).2)) ∧
    out (.fdiv g ty rnd d a b) (divNum x y).1 (divNum x y).2 ∧
    out (.fsqrt g ty rnd d a) (sqrtNum x).1 (sqrtNum x).2

/-- The place of a value in the order of R202, with −0 equal to +0: an infinity, or a rational. -/
def Sys2Proof.Claims.inOrder : Machine.Num → Option (Int × Rat)
  | .nan => none
  | .inf neg => some (if neg then (-1, 0) else (1, 0))
  | .fin neg m e _ => some (0, (if neg then -1 else 1) * (m : Rat) * (2 : Rat) ^ e)

/-- A condition on two places. -/
def Sys2Proof.Claims.floatHolds (c : Cond) (x y : Machine.Num) : Bool :=
  match inOrder x, inOrder y with
  | some p, some q =>
    let lt := decide (p.1 < q.1 ∨ p.1 = q.1 ∧ p.2 < q.2)
    let gt := decide (q.1 < p.1 ∨ q.1 = p.1 ∧ q.2 < p.2)
    match c with
    | .eq => !lt && !gt
    | .ne => lt || gt
    | .lt => lt
    | .le => !gt
    | .gt => gt
    | .ge => !lt
    | .ord => true
    | _ => false
  | _, _ => c == .ne || c == .uno

/-- R202, R272: FCMP; FPST stays. -/
def Sys2Proof.Claims.floatCompares : Prop :=
  ∀ (g : Guard) (ty : Ty) (c : Cond) (pt pf a b : Nat) (s : State), wellFormed (.fcmp g ty c pt pf a b) = true →
    s.runs g (Uses.scalar [a, b] []) →
    givesPair (.fcmp g ty c pt pf a b) s 8 pt pf (floatHolds c (s.rF ty a) (s.rF ty b))

/-- The bits of s[r] at a type, with a subnormal flushed to a zero of its sign where FTZ acts (R201). -/
def Sys2Proof.Claims.flushedBits (ty : Ty) (s : State) (r : Nat) : Nat :=
  let w := tyBits ty
  let v := (s.rS r).toNat % 2 ^ w
  let sign := v / 2 ^ (w - 1) * 2 ^ (w - 1)
  if s.me.ftz && flushes ty && decide (v - sign ≠ 0 ∧ v - sign < 2 ^ (fmtOf ty).man) then sign else v

/-- R202, R271: minimum, maximum and the sign operations; none sets an FPST bit. -/
def Sys2Proof.Claims.floatSignsAndMinMax : Prop :=
  ∀ (g : Guard) (ty : Ty) (d a b : Nat) (s : State), tyF4 ty = true →
    s.runs g (Uses.scalar [a, b] [d]) → s.runs g (Uses.scalar [a] [d]) →
    let x := s.rF ty a
    let y := s.rF ty b
    let w := tyBits ty
    let pick := fun (i : Instr) (first : Bool) => ∃ v, gives i s 8 d v ∧
      (x = .nan → y = .nan → some v.toNat = (fmtOf ty).nanCode?) ∧
      (x = .nan → y ≠ .nan → v.toNat = flushedBits ty s b) ∧ (x ≠ .nan → y = .nan → v.toNat = flushedBits ty s a) ∧
      (x ≠ .nan → y ≠ .nan → v.toNat = if first then flushedBits ty s a else flushedBits ty s b)
    let below := floatHolds .lt x y || (floatHolds .eq x y && (x.isZero && y.isZero && x.sign && !y.sign))
    let above := floatHolds .gt x y || (floatHolds .eq x y && (x.isZero && y.isZero && !x.sign && y.sign))
    pick (.fmin g ty d a b) (!above) ∧ pick (.fmax g ty d a b) (!below) ∧
    (∃ v, gives (.fabs g ty d a) s 8 d v ∧
      ∀ j, j < 64 → v.getLsbD j = (decide (j + 1 < w) && (s.rS a).getLsbD j)) ∧
    (∃ v, gives (.fneg g ty d a) s 8 d v ∧
      ∀ j, j < 64 → v.getLsbD j = (decide (j < w) && ((s.rS a).getLsbD j ^^ decide (j + 1 = w))))

/-- R202, R271, R272: floating-point compares, sign operations, minima and maxima. -/
def Obligations.FloatComparesAndSigns : Prop := floatCompares ∧ floatSignsAndMinMax

/-- R198, R199, R273: conversions between floating formats and from and to integers. -/
def Sys2Proof.Claims.floatConversions : Prop :=
  ∀ (g : Guard) (ty src : Ty) (rnd : Rnd) (sat : Bool) (d a : Nat) (s : State), s.runs g (Uses.scalar [a] [d]) →
    (wellFormed (.fcvt g ty rnd sat d a src) = true →
      let r := floatResult ty rnd sat s.me.ftz (s.rF src a) 0
      gives (.fcvt g ty rnd sat d a src) s 8 d (BitVec.ofNat 64 r.1) r.2) ∧
    (wellFormed (.icvt g ty rnd sat d a src) = true →
      let i : Int := match src with
        | .i32 => ((s.rS a).setWidth 32).toInt
        | .uint32 => (((s.rS a).setWidth 32).toNat : Int)
        | .u64 => ((s.rS a).toNat : Int)
        | _ => (s.rS a).toInt
      let r := floatResult ty rnd sat s.me.ftz (Machine.Num.ofInt i) 0
      gives (.icvt g ty rnd sat d a src) s 8 d (BitVec.ofNat 64 r.1) r.2)

/-- The range of an integer destination of FCVTI (R186). -/
def Sys2Proof.Claims.intLimits : Ty → Int × Int
  | .i32 => (-(2 ^ 31), 2 ^ 31 - 1)
  | .uint32 => (0, 2 ^ 32 - 1)
  | .u64 => (0, 2 ^ 64 - 1)
  | _ => (-(2 ^ 63), 2 ^ 63 - 1)

/-- R197, R199, R273: FCVTI rounds, then clamps; a clamp and a NaN set NV, and a result that differs from the exact one NX, a clamped
one among them (log 24). -/
def Sys2Proof.Claims.floatToInteger : Prop :=
  ∀ (g : Guard) (ty src : Ty) (rnd : Rnd) (d a : Nat) (s : State), s.runs g (Uses.scalar [a] [d]) →
    wellFormed (.fcvti g ty rnd d a src) = true →
    let i := Instr.fcvti g ty rnd d a src
    let lim := intLimits ty
    (s.rF src a = .nan → gives i s 8 d 0 16) ∧
    (∀ neg, s.rF src a = .inf neg → gives i s 8 d (BitVec.ofInt 64 (if neg then lim.1 else lim.2)) 17) ∧
    (∀ q : Rat, ratOf (s.rF src a) = some q →
      let n := roundRat rnd q
      let nx := if (n : Rat) = q then 0 else 1
      if n < lim.1 then gives i s 8 d (BitVec.ofInt 64 lim.1) 17
      else if lim.2 < n then gives i s 8 d (BitVec.ofInt 64 lim.2) 17
      else gives i s 8 d (BitVec.ofInt 64 n) nx)

/-- R198, R199, R273: conversions of scalars.
The manual leaves part of it open: log 24. -/
def Obligations.FloatConverts : Prop := floatConversions ∧ floatToInteger

/-! ## Branches, traps and system registers (chapters 10 and 12) -/

/-- Some next state of `i` in `s`, of which `p` holds. -/
def Sys2Proof.Claims.does (i : Instr) (s : State) (p : State → State → Prop) : Prop := ∃ t, exec i s = .next t ∧ p s t

/-- The strand has a handler to enter (R208). -/
def Sys2Proof.Claims.handled (s : State) : Prop := s.me.trapvec ≠ 0 ∧ s.me.trapinfo.getLsbD 9 = false

/-- R274, R276: writes of branch-target registers; a PBRS or MOVB of a bad address raises ILLOP, SUB 9. -/
def Obligations.BranchTargets : Prop :=
  ∀ (g : Guard) (x a d : Nat) (imm : Int) (s : State), s.runs g Uses.none → s.runs g (Uses.scalar [a] []) →
    s.runs g (Uses.scalar [] [d]) →
    let v : Word := BitVec.ofInt 64 ((s.me.pc : Int) + imm)
    does (.pbr g x imm) s (wroteTarget 8 x v) ∧ does (.pbrExt g x imm) s (wroteTarget 12 x v) ∧
    gives (.movsb g d x) s 8 d (s.me.target x) ∧
    ((s.rS a).toNat % 4 = 0 → (s.rS a).toNat < 2 ^ 57 →
      does (.pbrs g x a) s (wroteTarget 8 x (s.rS a)) ∧ does (.movb g x a) s (wroteTarget 8 x (s.rS a))) ∧
    (((s.rS a).toNat % 4 ≠ 0 ∨ 2 ^ 57 ≤ (s.rS a).toNat) → handled s →
      does (.pbrs g x a) s (tookException 1 9 false 0 s.me.pc) ∧ does (.movb g x a) s (tookException 1 9 false 0 s.me.pc))

/-- The effect of CALL from an instruction of `len` bytes (R275): b7 takes the link, after b[x] was read. -/
def Sys2Proof.Claims.called (len x : Nat) (s t : State) : Prop :=
  onlyStrand [] s t ∧
    t.me = { s.me with pc := (s.me.target x).toNat, b := t.me.b, window := t.me.window } ∧
    ∀ y, t.me.target y = (if y = 7 then BitVec.ofNat 64 (s.me.pc + len) else s.me.target y) ∧
      mapGet t.me.window y 0 = (if y = 7 then s.here.clk + 6 else mapGet s.me.window y 0)

/-- R275 to R277: BR, CALL and LOOP transfer once the window of their target is over, and are held before. -/
def Obligations.Transfers : Prop :=
  ∀ (g : Guard) (x d : Nat) (s : State), s.runs g Uses.none → s.runs g (Uses.scalar [d] [d]) →
    let w := mapGet s.me.window x 0
    let v := s.rS d - 1
    (w ≤ s.here.clk →
      does (.br g x) s (wentTo (s.me.target x).toNat) ∧ does (.brLong g x) s (wentTo (s.me.target x).toNat) ∧
      does (.call g x) s (called 4 x) ∧ does (.callLong g x) s (called 8 x) ∧
      does (.loop g d x) s (fun s t => onlyStrand [d] s t ∧
        t.me = { s.me with s := t.me.s, pc := if v = 0 then s.me.pc + 8 else (s.me.target x).toNat } ∧
        t.rS d = (if d = 0 then 0 else v) ∧ ∀ r, r ≠ d → t.rS r = s.rS r)) ∧
    (s.here.clk < w →
      does (.br g x) s (heldBy (.branch w)) ∧ does (.brLong g x) s (heldBy (.branch w)) ∧
      does (.call g x) s (heldBy (.branch w)) ∧ does (.callLong g x) s (heldBy (.branch w)) ∧
      does (.loop g d x) s (heldBy (.branch w)))

/-- R280: NOP changes the pc alone.  R298: WAITC of a counter that is low enough does too, and is held otherwise.  R285: WFE
takes the latch, or is held.  R286: YIELD with no other strand ready goes on. -/
def Obligations.NopsAndWaits : Prop :=
  ∀ (g : Guard) (lc k : Nat) (s : State), s.runs g Uses.none →
    let n := (s.me.loads.filter fun l => l.lc == lc).length
    does (.nop g) s (wentOn 4) ∧ does (.nopLong g) s (wentOn 8) ∧
    (n ≤ k → does (.waitc g lc k) s (wentOn 4) ∧ does (.waitcLong g lc k) s (wentOn 8)) ∧
    (k < n → does (.waitc g lc k) s (heldBy (.counter lc k)) ∧ does (.waitcLong g lc k) s (heldBy (.counter lc k))) ∧
    (s.me.latch = true → does (.wfe g) s fun s t =>
      onlyStrand [] s t ∧ t.me = { s.me with pc := s.me.pc + 8, latch := false }) ∧
    (s.me.latch = false → does (.wfe g) s (heldBy .event)) ∧
    ((∀ j, j < s.here.strands.length → j ≠ s.cur.2 → (s.here.strand j).hold ≠ none ∨ (s.here.strand j).tdone = true) →
      does (.yield g) s (wentOn 8)) ∧
    (∀ j, j < s.here.strands.length → j ≠ s.cur.2 → (s.here.strand j).hold = none → (s.here.strand j).tdone = false →
      ∃ others, j ∈ others ∧ does (.yield g) s fun s t => onlyStrand [] s t ∧
        t.me = { s.me with pc := s.me.pc + 8, hold := some (.yielded others (s.here.clk + 16)) })

/-- R208, R209, R280: BRK and TRAP enter the handler, BRK with TRAPPC its own address, TRAP with the address after it. -/
def Sys2Proof.Claims.softwareTraps : Prop :=
  ∀ (g : Guard) (a : Nat) (imm : Int) (s : State), s.runs g Uses.none → s.runs g (Uses.scalar [a] []) → handled s →
    does (.brk g) s (tookException 0x0E 0 false 0 s.me.pc) ∧
    does (.trap g a) s (tookException 0x0F 0 true (s.rS a) (s.me.pc + 8)) ∧
    does (.trapExt g imm) s (tookException 0x0F 0 true (BitVec.ofInt 64 imm) (s.me.pc + 12))

/-- R209: an exception without a handler, or within one, aborts the task of the core: it is marked with the code, and no
record of its cores is left. -/
def Sys2Proof.Claims.unhandledAbort : Prop :=
  ∀ (g : Guard) (a id : Nat) (k : Machine.Task) (s : State), s.runs g Uses.none → s.runs g (Uses.scalar [a] []) → ¬ handled s →
    s.here.task = some id → s.task? id = some k → k.id.toNat = id → k.aborted = none →
    let aborts := fun (i : Instr) (code : Nat) => does i s fun s t =>
      (∃ k', t.task? id = some k' ∧ k'.aborted = some (code, 0)) ∧ (∀ j, j ≠ id → t.task? j = s.task? j) ∧
      (∀ c, c ∈ k.cores → ∀ e, ((t.core c).engine e).queue = []) ∧ (∀ c, c ∉ k.cores → t.core c = s.core c) ∧
      sameBytes s t ∧ t.queues = s.queues ∧ t.fns = s.fns
    aborts (.brk g) 0x0E ∧ aborts (.trap g a) 0x0F

/-- R208, R280: ERET returns to TRAPPC and clears INH; outside a handler it raises PRIV. -/
def Sys2Proof.Claims.exceptionReturn : Prop :=
  ∀ (g : Guard) (s : State), s.runs g Uses.none →
    (s.me.trapinfo.getLsbD 9 = true → does (.eret g) s fun s t => onlyStrand [] s t ∧
      t.me = { s.me with pc := s.me.trappc.toNat, trapinfo := t.me.trapinfo } ∧
      ∀ j, j < 64 → t.me.trapinfo.getLsbD j = (decide (j ≠ 9) && s.me.trapinfo.getLsbD j)) ∧
    (handled s → does (.eret g) s (tookException 0x02 0 false 0 s.me.pc))

/-- R208, R209, R280: software traps, traps without a handler, and the return from a handler. -/
def Obligations.TrapsAndReturn : Prop := softwareTraps ∧ unhandledAbort ∧ exceptionReturn

/-- The task of the executing core, where there is one. -/
def Sys2Proof.Claims.taskHere (s : State) (k : Machine.Task) : Prop := ∃ id, s.here.task = some id ∧ s.task? id = some k

/-- R281, R283, R284: reads of the system registers, the core's clock and the identities, outside PURE tasks. -/
def Sys2Proof.Claims.systemReads : Prop :=
  ∀ (g : Guard) (d : Nat) (k : Machine.Task) (s : State), s.runs g (Uses.scalar [] [d]) → taskHere s k → k.pure = false →
    let reads := fun n v => gives (.sysrd g n d) s 8 d v
    let id := fun n v => gives (.rdid g n d) s 8 d (BitVec.ofNat 64 v)
    let packages := if k.scope = 2 then ((List.range 64).countP fun p => k.podmask.getLsbD p) else 1
    reads 0x000 (s.me.fpctl.setWidth 64) ∧ reads 0x001 (s.me.fpst.setWidth 64) ∧ reads 0x002 (s.me.vshape.setWidth 64) ∧
    reads 0x010 s.me.trapvec ∧ reads 0x011 s.me.trappc ∧ reads 0x012 s.me.trapinfo ∧ reads 0x013 s.me.traparg ∧
    reads 0x021 (BitVec.ofNat 64 s.here.clk) ∧ reads 0x030 k.id ∧ reads 0x031 (BitVec.ofNat 64 k.tenant) ∧
    gives (.rdclk g d) s 8 d (BitVec.ofNat 64 s.here.clk) ∧
    id 0 s.cur.2 ∧ id 1 s.here.rank ∧ id 2 (k.width * packages) ∧ id 3 s.here.strands.length ∧
    id 4 (s.cur.1 % 64) ∧ id 5 (s.cur.1 % 64 / 4) ∧ id 6 (s.cur.1 / 64) ∧ id 7 s.podId.toNat

/-- R15, R282: CLKCNT never falls and stays within the tick it is read in; where in the tick is free (log 9). -/
def Sys2Proof.Claims.clockReads : Prop :=
  ∀ (g : Guard) (d : Nat) (k : Machine.Task) (s : State), s.runs g (Uses.scalar [] [d]) → taskHere s k → k.pure = false →
    does (.sysrd g 0x020 d) s fun s t =>
      t.rS d = (if d = 0 then 0 else BitVec.ofNat 64 t.clkcnt) ∧ s.clkcnt ≤ t.clkcnt ∧ 32 * s.tick ≤ t.clkcnt ∧
      t.clkcnt ≤ Max.max s.clkcnt (32 * s.tick + 31) ∧ t.me = { s.me with pc := s.me.pc + 8, s := t.me.s } ∧
      (∀ r, r ≠ d → t.rS r = s.rS r) ∧
      t = { s with clkcnt := t.clkcnt, free := s.free + 1, coreTab := t.coreTab, poison := t.poison } ∧
      (∀ c, c ≠ s.cur.1 → t.core c = s.core c) ∧ t.here = s.here.setStrand s.cur.2 t.me

/-- R92, R281, R283, R284: in a PURE task the clocks and the placement raise PURITY, which taints the task. -/
def Sys2Proof.Claims.purityOfClocks : Prop :=
  ∀ (g : Guard) (d n : Nat) (k : Machine.Task) (s : State), s.runs g (Uses.scalar [] [d]) → taskHere s k → k.pure = true →
    handled s → 4 ≤ n → n ≤ 7 →
    let pure := fun i => does i s fun s t =>
      t.me.pc = s.me.trapvec.toNat ∧ t.me.trappc = BitVec.ofNat 64 s.me.pc ∧ t.me.trapinfo = trapInfo 0x0C 0 false ∧
      t.me.traparg = 0 ∧ (∀ r, t.rS r = s.rS r) ∧ sameBytes s t ∧ ∃ k', t.task? k.id.toNat = some k' ∧ k'.tainted = true
    pure (.sysrd g 0x020 d) ∧ pure (.sysrd g 0x021 d) ∧ pure (.rdclk g d) ∧ pure (.rdid g n d)

/-- R15, R92, R281 to R284: reads of system registers, clocks and identities. -/
def Obligations.SystemRegisterReads : Prop := systemReads ∧ clockReads ∧ purityOfClocks

/-- R7, R209, R281: writes of the system registers; reserved bits and INH ignore them, and the read-only ones raise ILLOP. -/
def Obligations.SystemWrites : Prop :=
  ∀ (g : Guard) (a : Nat) (s : State), s.runs g (Uses.scalar [a] []) →
    let v := s.rS a
    let writes := fun n (m : Strand) => does (.syswr g n a) s fun s t =>
      onlyStrand [] s t ∧ t.me = { m with pc := s.me.pc + 8 }
    writes 0x000 { s.me with fpctl := v.setWidth 32 &&& 7 } ∧ writes 0x001 { s.me with fpst := v.setWidth 32 &&& 0x7F } ∧
    writes 0x010 { s.me with trapvec := v &&& 0x01FFFFFFFFFFFFFC } ∧
    writes 0x011 { s.me with trappc := v &&& 0x01FFFFFFFFFFFFFC } ∧
    writes 0x012 { s.me with trapinfo := (v &&& 0xFFFFFDFF) ||| (s.me.trapinfo &&& 0x200) } ∧
    writes 0x013 { s.me with traparg := v } ∧
    (handled s → ∀ n, n = 0x002 ∨ n = 0x020 ∨ n = 0x021 ∨ n = 0x030 ∨ n = 0x031 →
      does (.syswr g n a) s (tookException 1 9 false 0 s.me.pc))

/-- R279: TDONE ends its strand in a PLAIN task and in an epilogue, and is ILLOP, SUB 9 before.  A PURE task that is not a hit
may start its capture with it, which R88 says. -/
def Sys2Proof.Claims.strandEnds : Prop :=
  ∀ (g : Guard) (k : Machine.Task) (s : State), s.runs g Uses.none → taskHere s k → k.pure = false →
    (k.loop = false ∨ s.here.place = .epilogue →
      (does (.tdone g) s fun s t => onlyStrand [] s t ∧ t.me = { s.me with pc := s.me.pc + 4, tdone := true }) ∧
      (does (.tdoneLong g) s fun s t => onlyStrand [] s t ∧ t.me = { s.me with pc := s.me.pc + 8, tdone := true })) ∧
    (k.loop = true → s.here.place ≠ .epilogue → handled s →
      does (.tdone g) s (tookException 1 9 false 0 s.me.pc) ∧ does (.tdoneLong g) s (tookException 1 9 false 0 s.me.pc))

/-- R278: KNEXT of the last strand steps the core to its next iteration; every strand has the new index and count and runs on
at KERNEL.  A strand before the last is held.  In a PLAIN task and in an epilogue KNEXT is ILLOP, SUB 9. -/
def Sys2Proof.Claims.iterationSteps : Prop :=
  ∀ (g : Guard) (k : Machine.Task) (s : State), s.runs g Uses.none → taskHere s k →
    let last := ∀ j, j < s.here.strands.length → j ≠ s.cur.2 → (s.here.strand j).knext = true
    let both := fun (p : State → State → Prop) => does (.knext g) s p ∧ does (.knextLong g) s p
    (k.loop = true → s.here.place ≠ .epilogue → ¬ last → both fun s t => onlyStrand [] s t ∧
      t.me = { s.me with knext := true, hold := some .iteration }) ∧
    (k.loop = true → s.here.place = .kernel → 1 < s.here.count → k.phase = .running → last → both fun s t =>
      onlyCore [] s t ∧ t.here.index = s.here.index + 1 ∧ t.here.count = s.here.count - 1 ∧ t.here.place = .kernel ∧
      ∀ j, j < s.here.strands.length →
        (t.here.strand j).reg 4 = BitVec.ofNat 64 (s.here.index + 1) ∧
        (t.here.strand j).reg 5 = BitVec.ofNat 64 (s.here.count - 1) ∧
        (t.here.strand j).pc = k.kernel ∧ (t.here.strand j).knext = false ∧ (t.here.strand j).hold = none ∧
        ∀ r, 5 < r → (t.here.strand j).reg r = (s.here.strand j).reg r) ∧
    (k.loop = true → s.here.place = .kernel → s.here.count = 1 → k.phase = .running → last → both fun s t =>
      onlyCore [] s t ∧ t.here.index = s.here.index + 1 ∧ t.here.count = 0 ∧ t.here.place = .awaiting ∧
      ∀ j, j < s.here.strands.length →
        (t.here.strand j).reg 4 = BitVec.ofNat 64 (s.here.index + 1) ∧ (t.here.strand j).reg 5 = 0) ∧
    (k.loop = false ∨ s.here.place = .epilogue → handled s → both (tookException 1 9 false 0 s.me.pc))

/-- R278, R279: KNEXT and TDONE.
The manual leaves part of it open: log 23. -/
def Obligations.IterationsAndEnds : Prop := strandEnds ∧ iterationSteps

/-! ## Loads, stores, atomics and fences (chapters 06, 08 and 13) -/

/-- How a load fills a register (R290). -/
def Sys2Proof.Claims.filled (ty : Ty) (v : Nat) : Word :=
  match ty with
  | .i32 => (BitVec.ofNat 32 v).signExtend 64
  | .int16 => (BitVec.ofNat 16 v).signExtend 64
  | .int8 => (BitVec.ofNat 8 v).signExtend 64
  | .uint8 | .e4m3 | .e5m2 => (BitVec.ofNat 8 v).setWidth 64
  | .uint16 | .f16 | .bf16 => (BitVec.ofNat 16 v).setWidth 64
  | .uint32 | .f32 => (BitVec.ofNat 32 v).setWidth 64
  | _ => BitVec.ofNat 64 v

/-- The memory as the executing core sees it: its own writes before they are performed (R167). -/
def Sys2Proof.Claims.sight (s : State) : State := s.seenBy s.cur.1

/-- A scalar read of `ty` through a slot at the coordinates in the registers `xs` meets none of the faults of R289 to R291, and
no poison. -/
def Sys2Proof.Claims.readable (s : State) (slot : Nat) (h : Handle) (ty : Ty) (xs : List Nat) : Prop :=
  s.here.handle slot = some h ∧ h.desc.space ≠ 6 ∧
    (sight s).scalarFaults s.cur.1 s.cur.2 slot h ty false true (s.coords xs) [] = none ∧
    (sight s).scalarPoison h ty (s.coords xs) = []

/-- The value such a read gives. -/
def Sys2Proof.Claims.readValue (s : State) (h : Handle) (ty : Ty) (xs : List Nat) : Word :=
  filled ty ((sight s).scalarRead h ty (s.coords xs))

/-- R289, R290, R295: LD in its three forms, with the orders that wait for nothing. -/
def Sys2Proof.Claims.scalarLoads : Prop :=
  ∀ (g : Guard) (ty : Ty) (o : Ord) (sc : Scope) (d slot x0 x1 x2 x3 x4 x5 : Nat) (h : Handle) (s : State),
    tyMem ty = true → o ≠ .sc →
    let loads := fun (i : Instr) (len : Nat) (ty : Ty) (xs : List Nat) =>
      s.runs g ⟨xs, [d], [], []⟩ → readable s slot h ty xs → gives i s len d (readValue s h ty xs)
    loads (.ld g d slot x0) 4 .i64 [x0] ∧ loads (.ldLong g ty o sc d slot x0 x1) 8 ty [x0, x1] ∧
    loads (.ldExt g ty o sc d slot x0 x1 x2 x3 x4 x5) 12 ty [x0, x1, x2, x3, x4, x5]

/-- A handle of the S store whose elements are whole bytes, without a symmetry group, swizzle, codec or ring. -/
def Sys2Proof.Claims.plainS (h : Handle) : Prop :=
  h.desc.space = 2 ∧ h.desc.sym = [] ∧ h.desc.swz = 0 ∧ h.desc.codec = 0 ∧ h.desc.ring = none ∧
    tyBits h.desc.fmt % 8 = 0 ∧ h.desc.rank ≤ 6

/-- The byte of the store at which the element at window coordinates `x` starts (R131). -/
def Sys2Proof.Claims.elemByte (h : Handle) (x : List Nat) : Nat :=
  let at_ := fun i => x.getD i 0 + h.lo.getD i 0
  h.desc.base + (if 0 < h.desc.rank then at_ 0 * (tyBits h.desc.fmt / 8) else 0) +
    (((List.range h.desc.rank).drop 1).map fun i => at_ i * h.desc.pitch.getD i 0).sum

/-- R5, R131, R290: through a plain handle of the S store a load reads the little-endian bytes of its element. -/
def Sys2Proof.Claims.loadedBytes : Prop :=
  ∀ (ty : Ty) (slot : Nat) (xs : List Nat) (h : Handle) (s : State), tyMem ty = true → readable s slot h ty xs → plainS h →
    s.here.writes = [] → s.poison = [] →
    readValue s h ty xs = filled ty (leNat (bytesAt (s.core h.target).s (elemByte h (s.coords xs)) (memBytes ty)))

/-- R297: LDA and its false-guarded form count on their counter at issue, with the value read; at 63 they are held. -/
def Sys2Proof.Claims.asynchronousLoads : Prop :=
  ∀ (g : Guard) (ty : Ty) (o : Ord) (sc : Scope) (d slot lc x0 x1 x2 x3 x4 x5 : Nat) (h : Handle) (s : State),
    tyMem ty = true → o ≠ .sc → s.seated →
    let n := fun c => (s.me.loads.filter fun l => l.lc == c).length
    let adds := fun (len c : Nat) (ws : List Nat) (dst : LoadDst) (s t : State) => onlyStrand ws s t ∧
      t.me = { s.me with pc := s.me.pc + len, loads := s.me.loads ++ [⟨c, dst⟩] }
    let loads := fun (i : Instr) (len c : Nat) (ty : Ty) (xs : List Nat) =>
      (n c < 63 → s.runs g ⟨xs, [d], [], []⟩ → readable s slot h ty xs →
        does i s (adds len c [d] (.scalar d (readValue s h ty xs)))) ∧
      (n c < 63 → s.rP g.g = g.n → does i s (adds len c [] .nothing)) ∧
      (63 ≤ n c → s.me.scStage < 3 → does i s (heldBy (.counterFull c)))
    loads (.lda g d slot x0) 4 0 .i64 [x0] ∧ loads (.ldaLong g ty o sc d slot x0 lc) 8 lc ty [x0] ∧
    loads (.ldaExt g ty o sc d slot x0 lc x1 x2 x3 x4 x5) 12 lc ty [x0, x1, x2, x3, x4, x5]

/-- R289, R290, R295, R297: LD and LDA.
The manual leaves part of it open: log 7, log 10. -/
def Obligations.Loads : Prop := scalarLoads ∧ asynchronousLoads

/-- A scalar write of `ty` meets none of the faults of R289 to R291. -/
def Sys2Proof.Claims.writable (s : State) (slot : Nat) (h : Handle) (ty : Ty) (xs : List Nat) : Prop :=
  s.here.handle slot = some h ∧ s.scalarFaults s.cur.1 s.cur.2 slot h ty true false (s.coords xs) [] = none

/-- The writes that a scalar store leaves pending at its home port, and whether CHECK met a mismatch (R144). -/
def Sys2Proof.Claims.storeWrites (s : State) (h : Handle) (ty : Ty) (xs : List Nat) (v : Word) : List PendingWrite × Bool :=
  let r := (sight s).storeElems h (scalarDelivers h ty (s.coords xs) v.toNat)
  ((joinBytes ((sight s).gatheredBytes h r.1)).map fun w => ⟨s.cur.2, w.1, .bytes w.2⟩, r.2)

/-- R167, R289, R295: ST leaves its writes pending; no byte changes before they are performed.
The manual leaves part of it open: log 8. -/
def Obligations.ScalarStores : Prop :=
  ∀ (g : Guard) (ty : Ty) (sc : Scope) (d slot x0 x1 x2 x3 x4 x5 : Nat) (h : Handle) (s : State),
    tyMem ty = true → s.me.relNext = none →
    let stores := fun (i : Instr) (len : Nat) (ty : Ty) (xs : List Nat) =>
      s.runs g ⟨d :: xs, [], [], []⟩ → writable s slot h ty xs →
      let w := storeWrites s h ty xs (s.rS d)
      does i s fun s t => onlyCore [] s t ∧
        t.me = { s.me with pc := s.me.pc + len, fpst := s.me.fpst ||| (if w.2 then 0x40 else 0) } ∧
        t.here = ({ s.here with writes := s.here.writes ++ w.1 }).setStrand s.cur.2 t.me
    stores (.st g d slot x0) 4 .i64 [x0] ∧ stores (.stLong g ty .rlx sc d slot x0 x1) 8 ty [x0, x1] ∧
    stores (.stLong g ty .rel .core d slot x0 x1) 8 ty [x0, x1] ∧
    stores (.stExt g ty .rlx sc d slot x0 x1 x2 x3 x4 x5) 12 ty [x0, x1, x2, x3, x4, x5] ∧
    stores (.stExt g ty .rel .core d slot x0 x1 x2 x3 x4 x5) 12 ty [x0, x1, x2, x3, x4, x5]

/-- R170, R171: a store that releases at a scope wider than its core performs every earlier write of its core first. -/
def Sys2Proof.Claims.releasesPerformWrites : Prop :=
  ∀ (g : Guard) (ty : Ty) (sc : Scope) (d slot x0 x1 : Nat) (h : Handle) (s : State), tyMem ty = true → s.me.relNext = none →
    sc ≠ .core → sc ≠ .st → s.runs g ⟨[d, x0, x1], [], [], []⟩ → writable s slot h ty [x0, x1] →
    let u := s.drainCore s.cur.1
    (sc = .pod → u.awaitingAcks = false) →
    does (.stLong g ty .rel sc d slot x0 x1) s fun s t =>
      u.here.writes = [] ∧ t.here.writes = (storeWrites u h ty [x0, x1] (s.rS d)).1 ∧ sameBytes u t ∧
      t.me.pc = s.me.pc + 8

/-- R131, R166, R290: through a plain handle of the S store, a store whose bytes lie in one granule of 32 leaves one write: the
low bytes of s[d], lowest first, at the element's byte. -/
def Sys2Proof.Claims.storedBytes : Prop :=
  ∀ (ty : Ty) (slot : Nat) (xs : List Nat) (h : Handle) (v : Word) (s : State), tyMem ty = true → writable s slot h ty xs →
    plainS h → elemByte h (s.coords xs) % 32 + memBytes ty ≤ 32 →
    storeWrites s h ty xs v =
      ([⟨s.cur.2, .store h.target 2 (elemByte h (s.coords xs)), .bytes (leBytes (memBytes ty) v.toNat)⟩], false)

/-- R5, R131, R166, R290: the bytes of a scalar access through a plain handle. -/
def Obligations.PlainBytes : Prop := loadedBytes ∧ storedBytes

/-- The new bits of a location (R299), for an integer type, from the old ones and the operand. -/
def Sys2Proof.Claims.updated (op : RmwOp) (ty : Ty) (old v : Nat) : Nat :=
  let go := fun {w : Nat} (signed : Bool) (x y : BitVec w) =>
    let below := if signed then decide (y.toInt < x.toInt) else decide (y < x)
    let above := if signed then decide (x.toInt < y.toInt) else decide (x < y)
    match op with
    | .swap => y.toNat
    | .add => (x + y).toNat
    | .and => (x &&& y).toNat
    | .or => (x ||| y).toNat
    | .xor => (x ^^^ y).toNat
    | .min => if below then y.toNat else x.toNat
    | .max => if above then y.toNat else x.toNat
  match ty with
  | .i64 => go true (BitVec.ofNat 64 old) (BitVec.ofNat 64 v)
  | .u64 => go false (BitVec.ofNat 64 old) (BitVec.ofNat 64 v)
  | .i32 => go true (BitVec.ofNat 32 old) (BitVec.ofNat 32 v)
  | _ => go false (BitVec.ofNat 32 old) (BitVec.ofNat 32 v)

/-- A RMW on `ty` in the S store of the core that the slot means meets no fault, and nothing of it waits or is poisoned: the
operand and the bytes `a` to `a + n - 1` of the store. -/
def Sys2Proof.Claims.updatable (s : State) (slot : Nat) (h : Handle) (ty : Ty) (o : Ord) (sc : Scope) (hostOk : Bool)
    (xs : List Nat) : Prop :=
  s.here.handle slot = some h ∧ h.desc.space = 2 ∧ (o = .rlx ∨ o = .acq ∨ sc = .core ∧ o ≠ .sc) ∧ s.me.relNext = none ∧
    s.here.writes = [] ∧ s.poison = [] ∧ s.memoryWf = true ∧
    s.scalarFaults s.cur.1 s.cur.2 slot h ty true true (s.coords xs) (rmwChecks s slot h hostOk) = none

/-- The S store of core `c` holds the `n` low bytes of `v` at `a`, and every other byte of the package is as before. -/
def Sys2Proof.Claims.storeHas (c a n v : Nat) (s t : State) : Prop :=
  bytesAt (t.core c).s a n = leBytes n v ∧
    ∀ b, byteAt t.hbm b = byteAt s.hbm b ∧ byteAt t.hostMem b = byteAt s.hostMem b ∧
      ∀ e, byteAt (t.core e).w b = byteAt (s.core e).w b ∧ byteAt (t.core e).a b = byteAt (s.core e).a b ∧
        (e ≠ c ∨ b < a ∨ a + n ≤ b → byteAt (t.core e).s b = byteAt (s.core e).s b)

/-- R178, R299, R300: ATOM and CAS on the S store return the old value and write the new one at the address of their operand
in one step; a CAS that fails writes nothing. -/
def Obligations.AtomicUpdates : Prop :=
  ∀ (g : Guard) (ty : Ty) (o : Ord) (sc : Scope) (op : RmwOp) (d slot x0 x1 x2 x3 x4 x5 : Nat) (h : Handle) (s : State),
    tyI4 ty = true → d < 64 →
    let n := tyBits ty / 8
    let rmw := fun (i : Instr) (len : Nat) (rs : List Nat) (hostOk : Bool) (xs : List Nat) (new : Nat → Option Nat) =>
      s.runs g ⟨rs ++ xs, [d], [], []⟩ → updatable s slot h ty o sc hostOk xs →
      let a := h.address (s.coords xs)
      let old := leNat (bytesAt (s.core h.target).s a n)
      does i s fun s t =>
        t.rS d = (if d = 0 then 0 else filled ty old) ∧ (∀ r, r ≠ d → t.rS r = s.rS r) ∧
        t.me = { s.me with pc := s.me.pc + len, s := t.me.s } ∧
        (∀ v, new old = some v → storeHas h.target a n v s t) ∧ (new old = none → sameBytes s t) ∧
        (∀ c, c ≠ s.cur.1 → c ≠ h.target → t.core c = s.core c) ∧ t = { s with coreTab := t.coreTab }
    let cas := fun old => if old = (s.rS d).toNat % 2 ^ tyBits ty then some (s.rS (d + 1)).toNat else none
    rmw (.atom g ty o sc op d slot x0 x1) 8 [d] (hostAtomic op ty) [x0, x1]
      (fun old => some (updated op ty old (s.rS d).toNat)) ∧
    rmw (.atomExt g ty o sc op d slot x0 x1 x2 x3 x4 x5) 12 [d] (hostAtomic op ty) [x0, x1, x2, x3, x4, x5]
      (fun old => some (updated op ty old (s.rS d).toNat)) ∧
    rmw (.cas g ty o sc d slot x0 x1) 8 [d, d + 1] true [x0, x1] cas ∧
    rmw (.casExt g ty o sc d slot x0 x1 x2 x3 x4 x5) 12 [d, d + 1] true [x0, x1, x2, x3, x4, x5] cas

/-- R179, R300: RED returns nothing; its update becomes pending at the address of its operand.
The manual leaves part of it open: log 8. -/
def Obligations.Reductions : Prop :=
  ∀ (g : Guard) (ty : Ty) (o : Ord) (sc : Scope) (op : RmwOp) (d slot x0 x1 x2 x3 x4 x5 : Nat) (h : Handle) (s : State),
    tyAtom op ty = true → (o = .rlx ∨ o = .rel ∧ sc = .core) → s.me.relNext = none →
    let reds := fun (i : Instr) (len : Nat) (xs : List Nat) =>
      s.runs g ⟨d :: xs, [], [], []⟩ → s.here.handle slot = some h →
      s.scalarFaults s.cur.1 s.cur.2 slot h ty true false (s.coords xs) (rmwChecks s slot h (hostAtomic op ty)) = none →
      let target := s.locate h (h.address (s.coords xs) - h.desc.base)
      does i s (coreBecame len []
        { s.here with writes := s.here.writes ++ [⟨s.cur.2, target, .red op ty (tyBits ty / 8) (s.rS d)⟩] })
    reds (.red g ty o sc op d slot x0 x1) 8 [x0, x1] ∧
    reds (.redExt g ty o sc op d slot x0 x1 x2 x3 x4 x5) 12 [x0, x1, x2, x3, x4, x5]

/-- R172, R177, R301: FENCE.ACQ waits for nothing; FENCE.REL and .AR are carried by the next write at the wider scope;
FENCE.SC first performs the core's writes and waits for a tick, then completes. -/
def Sys2Proof.Claims.fences : Prop :=
  ∀ (g : Guard) (sc : Scope) (s : State), s.runs g Uses.none →
    let carries := fun (o : Ord) => does (.fence g o sc) s fun s t => onlyStrand [] s t ∧
      t.me = { s.me with pc := s.me.pc + 8, relNext := t.me.relNext } ∧
      ∃ r, t.me.relNext = some r ∧ sc.code ≤ r.code ∧ (∀ p, s.me.relNext = some p → p.code ≤ r.code) ∧
        (r = sc ∨ s.me.relNext = some r)
    does (.fence g .acq sc) s (wentOn 8) ∧ carries .rel ∧ carries .ar ∧
    (s.me.scStage = 0 → s.here.writes = [] → does (.fence g .sc sc) s fun s t => onlyStrand [] s t ∧
      t.me = { s.me with scStage := 1, hold := some (.fence s.here.clk) }) ∧
    (s.me.scStage = 2 → does (.fence g .sc sc) s fun s t => onlyStrand [] s t ∧
      t.me = { s.me with scStage := 0, pc := s.me.pc + 8 })

/-- TRAPINFO of a strand instruction's fault that concerns a slot (R209), kind F. -/
def Sys2Proof.Claims.slotFault (i : Instr) (s : State) (slot code sub : Nat) (arg : Word) : Prop :=
  does i s fun s t => onlyStrand [] s t ∧ t.me.pc = s.me.trapvec.toNat ∧ t.me.trappc = BitVec.ofNat 64 s.me.pc ∧
    t.me.trapinfo = BitVec.ofNat 64 (code + 2 ^ 9 + 2 ^ 12 * 15 + 2 ^ 16 * sub + 2 ^ 24 * slot) ∧ t.me.traparg = arg ∧
    ∀ r, t.rS r = s.rS r

/-- R109, R111, R131, R147, R289, R290: what the accesses of a scalar raise, in the order of R206: an unbound slot HFAULT; a
wrong space PERM, SUB 1; missing rights PERM, SUB 2; a codec COMPRESSED; a coordinate outside the extents BOUNDS with its
dimension and value. -/
def Obligations.AccessFaults : Prop :=
  ∀ (g : Guard) (ty : Ty) (o : Ord) (sc : Scope) (d slot x0 x1 : Nat) (s : State), handled s → slot < 256 → o ≠ .sc →
    s.runs g ⟨[x0, x1], [d], [], []⟩ → s.runs g ⟨[d, x0, x1], [], [], []⟩ →
    let both := fun code sub arg =>
      slotFault (.ldLong g ty o sc d slot x0 x1) s slot code sub arg ∧
      slotFault (.stLong g ty o sc d slot x0 x1) s slot code sub arg
    let xs := s.coords [x0, x1]
    (s.here.handle slot = none → both 0x03 0 0) ∧
    (∀ h, s.here.handle slot = some h → h.isArgs = false → s.inPure = false → s.here.writes = [] →
      (h.desc.fmt = .i64 ∧ ty = .i64) →
      (h.desc.space ≠ 2 ∧ h.desc.space ≠ 4 ∧ h.desc.space ≠ 5 ∧ h.desc.space ≠ 6 → both 0x05 1 0) ∧
      (h.desc.space = 2 → h.desc.rd = false → slotFault (.ldLong g ty o sc d slot x0 x1) s slot 0x05 2 0) ∧
      (h.desc.space = 2 → h.desc.wr = false → slotFault (.stLong g ty o sc d slot x0 x1) s slot 0x05 2 0) ∧
      (h.desc.space = 2 → h.desc.rd = true → h.desc.wr = true → h.desc.codec ≠ 0 → both 0x09 0 0) ∧
      (h.desc.space = 2 → h.desc.rd = true → h.desc.wr = true → h.desc.codec = 0 → h.sealed = false →
        ∀ k, k < 6 → h.ext.getD k 1 ≤ xs.getD k 0 → (∀ j, j < k → xs.getD j 0 < h.ext.getD j 1) →
        both 0x04 0 (BitVec.ofNat 64 (k + (xs.getD k 0 % 2 ^ 32) * 2 ^ 32))))

/-- R165, R167: the write at place `j` of a core's list is performed at its home port: for a store of a core, its
bytes are there and every other byte stays. -/
def Sys2Proof.Claims.writesPerformed : Prop :=
  ∀ (c j e off k : Nat) (bs : List Byte) (s : State), s.ready = true → s.memoryWf = true → s.poison = [] →
    (s.core c).writeFree j = true → (s.core c).writes[j]? = some ⟨k, .store e 2 off, .bytes bs⟩ →
    does (.writePerformed c j) s fun s t =>
      bytesAt (t.core e).s off bs.length = bs ∧ (t.core c).writes = (s.core c).writes.eraseIdx j ∧
      (∀ b, byteAt t.hbm b = byteAt s.hbm b ∧ byteAt t.hostMem b = byteAt s.hostMem b ∧
        ∀ x, byteAt (t.core x).w b = byteAt (s.core x).w b ∧ byteAt (t.core x).a b = byteAt (s.core x).a b ∧
          (x ≠ e ∨ b < off ∨ off + bs.length ≤ b → byteAt (t.core x).s b = byteAt (s.core x).s b)) ∧
      ∀ x, x ≠ c → x ≠ e → t.core x = s.core x

/-- The shape of the executing strand (R315): element type, rows and columns of VSHAPE. -/
def Sys2Proof.Claims.tileTy (s : State) : Ty := tyOf (s.me.vshape.extractLsb' 0 5).toNat
def Sys2Proof.Claims.tileRows (s : State) : Nat := (s.me.vshape.extractLsb' 5 9).toNat
def Sys2Proof.Claims.tileCols (s : State) : Nat := (s.me.vshape.extractLsb' 16 13).toNat

/-- The handle element of register element (r, c) of a tile (R296). -/
def Sys2Proof.Claims.tileElem (x : List Nat) (r c : Nat) : List Nat :=
  (x.set 0 (x.getD 0 0 + c)).set 1 (x.getD 1 0 + r)

/-- A request of one access of P space has left towards `peer`, at most through the port that leads there (R23, R27). -/
def Sys2Proof.Claims.asked (s : State) (peer : Nat) (t : State) : Prop :=
  t = { s with coreTab := t.coreTab, pOut := s.pOut ++ [(s.pTag, peer, false)], pTag := s.pTag + 1, ports := t.ports } ∧
    ∀ p, s.routePort peer ≠ some p → t.port p = s.port p

/-- R27, R50, R101, R135, R143, R291: a scalar load from P space sends its request and holds the strand; the response is its value,
with the sign of its element; a forced zero makes no access; an access of a package that no port leads to has poisoned data.
The manual leaves part of it open: log 10. -/
def Sys2Proof.Claims.peerScalars : Prop :=
  ∀ (g : Guard) (ty : Ty) (o : Ord) (sc : Scope) (d slot x0 x1 : Nat) (h : Handle) (s : State), tyMem ty = true → o ≠ .sc →
    s.runs g ⟨[x0, x1], [d], [], []⟩ → s.here.handle slot = some h → h.desc.space = 6 →
    (sight s).scalarFaults s.cur.1 s.cur.2 slot h ty false true (s.coords [x0, x1]) [] = none →
    let i := Instr.ldLong g ty o sc d slot x0 x1
    let x := s.coords [x0, x1]
    (h.crosses x = false → gives i s 8 d 0) ∧
    (h.crosses x = true → s.me.answer = none → s.podReachable h.desc.peer = true →
      does i s fun s t => asked s h.desc.peer t ∧ t.me = { s.me with hold := some (.response s.pTag) }) ∧
    (h.crosses x = true → ∀ v, s.me.answer = some (v, false) → does i s fun s t => onlyStrand [d] s t ∧
      t.me = { s.me with pc := s.me.pc + 8, s := t.me.s, answer := none } ∧ (∀ r, r ≠ d → t.rS r = s.rS r) ∧
      t.rS d = (if d = 0 then 0 else
        filled ty (if h.negated x then negBits h.desc.fmt (v.toNat % 2 ^ tyBits ty) else v.toNat))) ∧
    (h.crosses x = true → h.desc.trap = true → handled s →
      ((∃ v, s.me.answer = some (v, true)) ∨ s.me.answer = none ∧ s.podReachable h.desc.peer = false) →
      does i s fun s t => t.me.pc = s.me.trapvec.toNat ∧ t.me.trappc = BitVec.ofNat 64 s.me.pc ∧ (∀ r, t.rS r = s.rS r) ∧
        t.me.trapinfo = BitVec.ofNat 64 (0x10 + 2 ^ 9 + 2 ^ 12 * 15 + 2 ^ 16 + 2 ^ 24 * (slot % 256)) ∧
        t.me.traparg = BitVec.ofNat 64 (h.address x) ∧ t.me.answer = none) ∧
    (h.crosses x = true → h.desc.trap = false → s.me.answer = none → s.podReachable h.desc.peer = false →
      does i s fun s t => t.me.pc = s.me.pc + 8 ∧ ∀ r, t.rS r = if r = d then 0 else s.rS r)

/-- R296, R297: VLD and VLDA send one request for a tile of P space; LDA and VLDA go on, where the handle has not the TRAP policy.
The model's choice: log 10. -/
def Sys2Proof.Claims.peerTiles : Prop :=
  ∀ (g : Guard) (ty : Ty) (o : Ord) (sc : Scope) (d slot lc x0 x1 x2 x3 x4 x5 : Nat) (h : Handle) (s : State),
    tyMem ty = true → o ≠ .sc → s.here.handle slot = some h → h.desc.space = 6 → s.me.answer = none →
    s.podReachable h.desc.peer = true →
    let xs := [x0, x1, x2, x3, x4, x5]
    let x := s.coords xs
    let free := (s.me.loads.filter fun l => l.lc == lc).length < 63
    (s.runs g ⟨xs, [d], [], []⟩ → free → h.desc.trap = false → h.crosses x = true →
      (sight s).scalarFaults s.cur.1 s.cur.2 slot h ty false true x [] = none →
      does (.ldaExt g ty o sc d slot x0 lc x1 x2 x3 x4 x5) s fun s t => asked s h.desc.peer t ∧
        t.me = { s.me with pc := s.me.pc + 12, loads := s.me.loads ++
          [⟨lc, .peerScalar s.pTag (h.address x) d h.desc.fmt ty (h.negated x)⟩] }) ∧
    (s.runs g ⟨xs, [], [], [d]⟩ → s.here.streamOf d = none →
      (sight s).tileFaults s.cur.1 s.cur.2 slot h (tileTy s) (tileRows s) (tileCols s) false x = none →
      (∃ r c, r < tileRows s ∧ c < tileCols s ∧ h.crosses (tileElem x r c) = true) →
      (does (.vldExt g o sc d slot x0 x1 x2 x3 x4 x5) s fun s t => asked s h.desc.peer t ∧
        t.me = { s.me with hold := some (.response s.pTag) }) ∧
      (free → h.desc.trap = false → does (.vldaExt g o sc d slot x0 lc x1 x2 x3 x4 x5) s fun s t =>
        t.me.pc = s.me.pc + 12 ∧ t.pOut = s.pOut ++ [(s.pTag, h.desc.peer, false)] ∧
        t.me.loads.length = s.me.loads.length + 1 ∧ t.here.vec d = s.here.vec d))

/-- R27, R50, R101, R135, R143, R291, R296, R297: loads from P space.
The manual leaves part of it open: log 10. -/
def Obligations.PeerLoads : Prop := peerScalars ∧ peerTiles

/-- A tile read through a slot meets no fault of R296 and no poison, and its tile lies within a vector register. -/
def Sys2Proof.Claims.tileReadable (s : State) (slot : Nat) (h : Handle) (xs : List Nat) : Prop :=
  s.here.handle slot = some h ∧ h.desc.space ≠ 6 ∧
    (sight s).tileFaults s.cur.1 s.cur.2 slot h (tileTy s) (tileRows s) (tileCols s) false (s.coords xs) = none ∧
    ((sight s).readTile s.here h (tileTy s) (tileRows s) (tileCols s) (s.coords xs)).2.2 = [] ∧
    tyBits (tileTy s) * (tileRows s * tileCols s) ≤ 16384

/-- R296, R321: VLD fills the register element by element and keeps the bits beyond the tile; the sidecar takes the scales of
a block format, and is zero for other formats. -/
def Sys2Proof.Claims.tileLoads : Prop :=
  ∀ (g : Guard) (o : Ord) (sc : Scope) (d slot x0 x1 x2 x3 x4 x5 : Nat) (h : Handle) (s : State), o ≠ .sc →
    s.here.streamOf d = none →
    let loads := fun (i : Instr) (len : Nat) (xs : List Nat) =>
      s.runs g ⟨xs, [], [], [d]⟩ → tileReadable s slot h xs →
      let x := s.coords xs
      let w := tyBits (tileTy s)
      let scales := ((sight s).readTile s.here h (tileTy s) (tileRows s) (tileCols s) x).2.1
      does i s fun s t => onlyVector [] d s t ∧ t.me = { s.me with pc := s.me.pc + len } ∧
        (∀ r c, r < tileRows s → c < tileCols s →
          ((t.here.vec d).extractLsb' (w * (r * tileCols s + c)) w).toNat =
            (sight s).readElem h (tileElem x r c) % 2 ^ w) ∧
        (∀ j, w * (tileRows s * tileCols s) ≤ j → j < 16384 →
          (t.here.vec d).getLsbD j = (s.here.vec d).getLsbD j) ∧
        (isBlockTy (tileTy s) = false → t.here.sidecar d = 0) ∧
        (isBlockTy (tileTy s) = true → scales.length ≤ 256 →
          (∀ k, k < scales.length → ((t.here.sidecar d).extractLsb' (8 * k) 8).toNat = scales.getD k 0 % 256) ∧
          ∀ j, 8 * scales.length ≤ j → j < 2048 → (t.here.sidecar d).getLsbD j = (s.here.sidecar d).getLsbD j)
    loads (.vld g d slot x0) 4 [x0] ∧ loads (.vldLong g o sc d slot x0 x1) 8 [x0, x1] ∧
    loads (.vldExt g o sc d slot x0 x1 x2 x3 x4 x5) 12 [x0, x1, x2, x3, x4, x5]

/-- R297: VLDA counts at issue, and its register changes at completion alone. -/
def Sys2Proof.Claims.asynchronousTiles : Prop :=
  ∀ (g : Guard) (o : Ord) (sc : Scope) (d slot lc x0 x1 x2 x3 x4 x5 : Nat) (h : Handle) (s : State), o ≠ .sc →
    s.here.streamOf d = none → (s.me.loads.filter fun l => l.lc == lc).length < 63 →
    let loads := fun (i : Instr) (len : Nat) (xs : List Nat) =>
      s.runs g ⟨xs, [], [], [d]⟩ → tileReadable s slot h xs →
      let tile := (sight s).readTile s.here h (tileTy s) (tileRows s) (tileCols s) (s.coords xs)
      does i s fun s t => onlyStrand [] s t ∧
        t.me = { s.me with pc := s.me.pc + len, loads := s.me.loads ++ [⟨lc, tileDst d (tileTy s) tile⟩] }
    loads (.vlda g o sc d slot x0 lc) 8 [x0] ∧ loads (.vldaExt g o sc d slot x0 lc x1 x2 x3 x4 x5) 12 [x0, x1, x2, x3, x4, x5]

/-- R296, R297, R321: VLD and VLDA.
The manual leaves part of it open: log 7. -/
def Obligations.TileReads : Prop := tileLoads ∧ asynchronousTiles

/-- The elements of the tile of v[d], row by row, with their coordinates. -/
def Sys2Proof.Claims.tileOf (s : State) (d : Nat) (x : List Nat) : List (List Nat × Nat) :=
  let n := tileCols s
  (List.range (tileRows s * n)).map fun k =>
    (tileElem x (k / n) (k % n), ((s.here.vec d).extractLsb' (tyBits (tileTy s) * k) (tyBits (tileTy s))).toNat)

/-- R167, R296: VST leaves the writes of its elements pending, for a format without scales.
The manual leaves part of it open: log 8. -/
def Obligations.TileStores : Prop :=
  ∀ (g : Guard) (sc : Scope) (d slot x0 x1 x2 x3 x4 x5 : Nat) (h : Handle) (s : State), s.me.relNext = none →
    s.here.streamOf d = none → isBlockTy (tileTy s) = false →
    let stores := fun (i : Instr) (len : Nat) (xs : List Nat) =>
      s.runs g ⟨xs, [], [d], []⟩ → s.here.handle slot = some h →
      s.tileFaults s.cur.1 s.cur.2 slot h (tileTy s) (tileRows s) (tileCols s) true (s.coords xs) = none →
      let r := (sight s).storeElems h (tileOf s d (s.coords xs))
      let ws := (joinBytes ((sight s).gatheredBytes h r.1)).map fun w => (⟨s.cur.2, w.1, .bytes w.2⟩ : PendingWrite)
      does i s fun s t => onlyCore [] s t ∧
        t.me = { s.me with pc := s.me.pc + len, fpst := s.me.fpst ||| (if r.2 then 0x40 else 0) } ∧
        t.here = ({ s.here with writes := s.here.writes ++ ws }).setStrand s.cur.2 t.me
    stores (.vst g d slot x0) 4 [x0] ∧ stores (.vstLong g .rlx sc d slot x0 x1) 8 [x0, x1] ∧
    stores (.vstExt g .rlx sc d slot x0 x1 x2 x3 x4 x5) 12 [x0, x1, x2, x3, x4, x5] ∧
    stores (.vstLong g .rel .core d slot x0 x1) 8 [x0, x1] ∧
    stores (.vstExt g .rel .core d slot x0 x1 x2 x3 x4 x5) 12 [x0, x1, x2, x3, x4, x5]

/-- R171, R177: an access with .SC takes its value between two FENCE.SC: it first performs the core's writes and is held; after
the first fence it acts and is held again; after the second it completes. -/
def Sys2Proof.Claims.sequentialAccesses : Prop :=
  ∀ (g : Guard) (ty : Ty) (sc : Scope) (d slot x0 x1 : Nat) (h : Handle) (s : State), tyMem ty = true →
    s.runs g ⟨[x0, x1], [d], [], []⟩ → s.runs g ⟨[d, x0, x1], [], [], []⟩ → s.here.writes = [] →
    let stage := fun (n : Nat) (s t : State) => onlyStrand [] s t ∧ t.me = { s.me with scStage := n, hold := some (.fence s.here.clk) }
    let ends := fun (s t : State) => t.me = { s.me with scStage := 0, pc := s.me.pc + 8 } ∧ sameBytes s t
    (s.me.scStage = 0 → does (.ldLong g ty .sc sc d slot x0 x1) s (stage 1) ∧
      does (.stLong g ty .sc sc d slot x0 x1) s (stage 1)) ∧
    (s.me.scStage = 2 → readable s slot h ty [x0, x1] → does (.ldLong g ty .sc sc d slot x0 x1) s fun s t =>
      t.me = { s.me with scStage := 3, hold := some (.fence s.here.clk), s := t.me.s } ∧
      t.rS d = (if d = 0 then 0 else readValue s h ty [x0, x1]) ∧ (∀ r, r ≠ d → t.rS r = s.rS r) ∧ sameBytes s t) ∧
    (s.me.scStage = 4 → does (.ldLong g ty .sc sc d slot x0 x1) s ends ∧ does (.stLong g ty .sc sc d slot x0 x1) s ends)

/-- R170 to R172, R177, R301: fences, releases, and accesses with .SC.
The manual leaves part of it open: log 7, log 8. -/
def Obligations.OrderedAccesses : Prop := releasesPerformWrites ∧ fences ∧ sequentialAccesses

/-! ## The vector engine and the piecewise function unit (chapter 14) -/

/-- Element `i` of `w` bits of a register (R316). -/
def Sys2Proof.Claims.elemOf (v : BitVec 16384) (w i : Nat) : Nat := (v.extractLsb' (w * i) w).toNat

/-- Elements of the executing strand's shape, and bits of one. -/
def Sys2Proof.Claims.tileCount (s : State) : Nat := tileRows s * tileCols s
def Sys2Proof.Claims.tileBits (s : State) : Nat := tyBits (tileTy s)

/-- The shape is one that R315 allows. -/
def Sys2Proof.Claims.legalTile (s : State) : Prop :=
  1 ≤ tileRows s ∧ tileRows s ≤ 256 ∧ 1 ≤ tileCols s ∧ tileCols s ≤ 4096 ∧ tileBits s * tileCount s ≤ 16384 ∧
    (isBlockTy (tileTy s) = true → tileCols s % 32 = 0)

/-- The vector instruction runs its effect on `srcs` and `d`, of which none is bound to a ring (R116), and no source holds an
uncorrectable error (R216). -/
def Sys2Proof.Claims.runsOn (s : State) (g : Guard) (rs srcs dsts : List Nat) : Prop :=
  s.runs g ⟨rs, [], srcs, dsts⟩ ∧ (∀ v, v ∈ srcs ++ dsts → s.here.streamOf v = none) ∧
    ∀ v, v ∈ srcs → ∀ w, s.isPoisoned (.vreg s.cur.1 v w) = false

/-- `t` differs from `s` in v[d] alone: its first `n` elements of `w` bits are the low bits of `f`, the bits after them are as
before, and its sidecar is zero (R321). -/
def Sys2Proof.Claims.wroteElems (d w n : Nat) (f : Nat → Nat) (s t : State) : Prop :=
  onlyVector [] d s t ∧ (∀ k, k < n → elemOf (t.here.vec d) w k = f k % 2 ^ w) ∧
    (∀ j, w * n ≤ j → j < 16384 → (t.here.vec d).getLsbD j = (s.here.vec d).getLsbD j) ∧ t.here.sidecar d = 0

/-- FPST with the status of the elements put together. -/
def Sys2Proof.Claims.collects (n : Nat) (f : Nat → Nat) (s t : State) : Prop :=
  ∀ j, j < 32 → t.me.fpst.getLsbD j = (s.me.fpst.getLsbD j || (List.range n).any fun k => (f k).testBit j)

/-- Some next state of `i` whose whole effect is elements and their status: `f k` is the code and the status of element `k`. -/
def Sys2Proof.Claims.fillsWith (i : Instr) (s : State) (len d w n : Nat) (f : Nat → Nat × Nat) : Prop :=
  does i s fun s t => wroteElems d w n (fun k => (f k).1) s t ∧ collects n (fun k => (f k).2) s t ∧
    t.me = { s.me with pc := s.me.pc + len, fpst := t.me.fpst }

/-- The same without status. -/
def Sys2Proof.Claims.fills (i : Instr) (s : State) (len d w n : Nat) (f : Nat → Nat) : Prop :=
  does i s fun s t => wroteElems d w n f s t ∧ t.me = { s.me with pc := s.me.pc + len }

/-- The values that R315 lets VSHAPE take. -/
def Sys2Proof.Claims.legalShape (v : Nat) : Prop :=
  let rows := v / 2 ^ 5 % 2 ^ 9
  let cols := v / 2 ^ 16
  v < 2 ^ 29 ∧ v / 2 ^ 14 % 4 = 0 ∧ 1 ≤ rows ∧ rows ≤ 256 ∧ 1 ≤ cols ∧ cols ≤ 4096 ∧
    ∃ ty, tyOf? (v % 32) = some ty ∧ rows * cols * tyBits ty ≤ 16384 ∧ (isBlockTy ty = true → cols % 32 = 0)

/-- The classes RAW and FLT of R320. -/
def Sys2Proof.Claims.rawTy (ty : Ty) : Prop := isBlockTy ty = false
def Sys2Proof.Claims.fltTy (ty : Ty) : Prop := ty = .f64 ∨ ty = .f32 ∨ ty = .f16 ∨ ty = .bf16

/-- R315, R317: VSHAPE loads a legal value and refuses every other. -/
def Sys2Proof.Claims.shapeLoads : Prop :=
  ∀ (g : Guard) (a v : Nat) (s : State), s.runs g (Uses.scalar [a] []) → s.runs g Uses.none →
    let x := (s.rS a).toNat
    let loads := fun (i : Instr) (len v : Nat) =>
      (legalShape v → does i s fun s t => onlyStrand [] s t ∧
        t.me = { s.me with pc := s.me.pc + len, vshape := BitVec.ofNat 32 v }) ∧
      (¬ legalShape v → handled s → does i s (tookException 1 9 false 0 s.me.pc))
    loads (.vshape g a) 8 x ∧ loads (.vshapeExt g v) 12 v

/-- R323, R327, R330: copies, broadcasts, single elements, selection and the moves of elements within a register. -/
def Sys2Proof.Claims.vectorMoves : Prop :=
  ∀ (g : Guard) (d a b c row col : Nat) (imm : Int) (s : State), legalTile s →
    let w := tileBits s
    let n := tileCount s
    let m := tileCols s
    let x := fun v i => elemOf (s.here.vec v) w i
    let copies := fun (i : Instr) (len : Nat) => runsOn s g [] [a] [d] → does i s fun s t => onlyVector [] d s t ∧
      t.me = { s.me with pc := s.me.pc + len } ∧ t.here.vec d = s.here.vec a ∧ t.here.sidecar d = s.here.sidecar a
    copies (.vmov g d a) 4 ∧ copies (.vmovLong g d a) 8 ∧
    (s.rS b = BitVec.ofNat 64 (col + 2 ^ 16 * row) → row < tileRows s → col < m →
      (s.runs g ⟨[b], [d], [a], []⟩ → s.here.streamOf a = none →
        gives (.vext g d a b) s 8 d (match tileTy s with
          | .i64 | .i32 | .int16 | .int8 | .int4 => (BitVec.ofNat w (x a (row * m + col))).signExtend 64
          | _ => BitVec.ofNat 64 (x a (row * m + col)))) ∧
      (s.runs g ⟨[a, b], [], [], [d]⟩ → s.here.streamOf d = none → does (.vins g d a b) s fun s t =>
        onlyVector [] d s t ∧ t.me = { s.me with pc := s.me.pc + 8 } ∧ t.here.sidecar d = s.here.sidecar d ∧
        ∀ j, j < 16384 → (t.here.vec d).getLsbD j =
          if w * (row * m + col) ≤ j ∧ j < w * (row * m + col) + w then (s.rS a).getLsbD (j - w * (row * m + col))
          else (s.here.vec d).getLsbD j)) ∧
    (rawTy (tileTy s) →
      (runsOn s g [a] [] [d] → fills (.vbcast g d a) s 8 d w n fun _ => (s.rS a).toNat) ∧
      (runsOn s g [] [] [d] → fills (.vbcastExt g d imm) s 12 d w n fun _ => (BitVec.ofInt 64 imm).toNat) ∧
      (runsOn s g [] [a, b, c] [d] →
        fills (.vsel g d a b c) s 8 d w n fun i => if x c i ≠ 0 then x a i else x b i) ∧
      (runsOn s g [] [a] [d] → m ≤ 256 →
        fills (.vtrn g d a) s 8 d w n fun i => x a (i % tileRows s * m + i / tileRows s)) ∧
      (runsOn s g [] [a, b] [d] → fills (.vperm g d a b) s 8 d w n fun i =>
        if x b i < m then x a (i / m * m + x b i) else 0) ∧
      (runsOn s g [b] [a] [d] → fills (.vrot g d a b) s 8 d w n fun i =>
        x a (i / m * m + (i % m + (s.rS b).toNat) % m)))

/-- R315, R317, R323, R327, R330: shapes and moves of vectors. -/
def Obligations.ShapesAndMoves : Prop := shapeLoads ∧ vectorMoves

/-- The value of element `i` of v[v] at a floating format, flushed under FTZ (R201). -/
def Sys2Proof.Claims.laneF (s : State) (v i : Nat) : Machine.Num :=
  flushOperand s.me.ftz (tileTy s) (fmtOf (tileTy s)) (elemOf (s.here.vec v) (tileBits s) i)

/-- A rounding field, with .DYN as FPCTL.RM (R319). -/
def Sys2Proof.Claims.roundingOf (s : State) (rnd : Rnd) : Rnd := match rnd with | .dyn => s.me.rm | r => r

/-- Element bits with a subnormal flushed to a zero of its sign where FTZ acts (R201). -/
def Sys2Proof.Claims.flushedElem (ty : Ty) (ftz : Bool) (v : Nat) : Nat :=
  let w := tyBits ty
  let sign := v / 2 ^ (w - 1) % 2 * 2 ^ (w - 1)
  if ftz && flushes ty && decide (v - sign ≠ 0 ∧ v - sign < 2 ^ (fmtOf ty).man) then sign else v

/-- Minimum or maximum of two codes (R202). -/
def Sys2Proof.Claims.extremum (ty : Ty) (isMax ftz : Bool) (v u : Nat) : Nat :=
  let x := flushOperand ftz ty (fmtOf ty) v
  let y := flushOperand ftz ty (fmtOf ty) u
  let less := fun x y => floatHolds .lt x y || (floatHolds .eq x y && x.isZero && y.isZero && x.sign && !y.sign)
  if x = .nan ∧ y = .nan then ((fmtOf ty).nanCode?).getD 0
  else if x = .nan then flushedElem ty ftz u
  else if y = .nan then flushedElem ty ftz v
  else if (if isMax then less x y else less y x) then flushedElem ty ftz u else flushedElem ty ftz v

/-- R324 for FLT formats: every element is the scalar result, rounded once at the format of the shape. -/
def Obligations.VectorFloats : Prop :=
  ∀ (g : Guard) (rnd : Rnd) (d a b c : Nat) (s : State), legalTile s → fltTy (tileTy s) →
    let ty := tileTy s
    let w := tileBits s
    let n := tileCount s
    let x := laneF s a
    let y := laneF s b
    let z := laneF s c
    let code := fun v i => elemOf (s.here.vec v) w i
    let nv := fun (invalid : Bool) => if invalid then 16 else 0
    let out := fun (i : Instr) (len : Nat) (srcs : List Nat) (rm : Rnd) (e : Nat → Machine.Num × Nat) => runsOn s g [] srcs [d] →
      fillsWith i s len d w n fun k => floatResult ty rm false s.me.ftz (e k).1 (e k).2
    let rm := roundingOf s rnd
    let sum := fun rm (p q : Nat → Machine.Num) k => ((addNum rm (p k) (q k)).1, nv (addNum rm (p k) (q k)).2)
    let product := fun k => ((mulNum (x k) (y k)).1, nv (mulNum (x k) (y k)).2)
    let fused := fun rm (z : Nat → Machine.Num) k => ((addNum rm (mulNum (x k) (y k)).1 (z k)).1,
      nv ((mulNum (x k) (y k)).2 || (addNum rm (mulNum (x k) (y k)).1 (z k)).2))
    let bits := fun (i : Instr) (srcs : List Nat) (f : Nat → Nat) => runsOn s g [] srcs [d] → fills i s 8 d w n f
    out (.vadd g d a b) 4 [a, b] s.me.rm (sum s.me.rm x y) ∧
    out (.vaddLong g rnd d a b) 8 [a, b] rm (sum rm x y) ∧
    out (.vsub g d a b) 4 [a, b] s.me.rm (sum s.me.rm x fun k => (y k).neg) ∧
    out (.vsubLong g rnd d a b) 8 [a, b] rm (sum rm x fun k => (y k).neg) ∧
    out (.vmul g d a b) 4 [a, b] s.me.rm product ∧
    out (.vmulLong g rnd d a b) 8 [a, b] rm product ∧
    out (.vfma g d a b) 4 [a, b, d] s.me.rm (fused s.me.rm (laneF s d)) ∧
    out (.vfmaLong g rnd d a b c) 8 [a, b, c] rm (fused rm z) ∧
    out (.vdiv g rnd d a b) 8 [a, b] rm (fun k => divNum (x k) (y k)) ∧
    out (.vsqrt g rnd d a) 8 [a] rm (fun k => sqrtNum (x k)) ∧
    out (.vrcp g rnd d a) 8 [a] rm (fun k => divNum (.fin false 1 0 false) (x k)) ∧
    out (.vrsq g rnd d a) 8 [a] rm (fun k => rsqrtNum (x k)) ∧
    bits (.vmin g d a b) [a, b] (fun k => extremum ty false s.me.ftz (code a k) (code b k)) ∧
    bits (.vmax g d a b) [a, b] (fun k => extremum ty true s.me.ftz (code a k) (code b k)) ∧
    bits (.vabs g d a) [a] (fun k => code a k % 2 ^ (w - 1)) ∧
    bits (.vneg g d a) [a] (fun k => (code a k + 2 ^ (w - 1)) % 2 ^ w)

/-- The signed integer formats, and all of them (R320, R325). -/
def Sys2Proof.Claims.signedTy (ty : Ty) : Prop := ty = .i64 ∨ ty = .i32 ∨ ty = .int16 ∨ ty = .int8 ∨ ty = .int4
def Sys2Proof.Claims.intTy (ty : Ty) : Prop := signedTy ty ∨ ty = .u64 ∨ ty = .uint32 ∨ ty = .uint16 ∨ ty = .uint8

/-- Element bits as an integer of the format. -/
def Sys2Proof.Claims.laneInt (ty : Ty) (v : Nat) : Int :=
  match ty with
  | .i64 | .i32 | .int16 | .int8 | .int4 => (BitVec.ofNat (tyBits ty) v).toInt
  | _ => (v : Int)

/-- The least and the greatest integer of a format (R186). -/
def Sys2Proof.Claims.laneLimits (ty : Ty) : Int × Int :=
  match ty with
  | .i64 | .i32 | .int16 | .int8 | .int4 => (-(2 ^ (tyBits ty - 1)), 2 ^ (tyBits ty - 1) - 1)
  | _ => (0, 2 ^ tyBits ty - 1)

/-- An exact result with .SAT, and FPST.SAT where it was clamped. -/
def Sys2Proof.Claims.clampedLane (ty : Ty) (e : Int) : Nat × Nat :=
  let lim := laneLimits ty
  ((BitVec.ofInt (tyBits ty) (Max.max lim.1 (Min.min lim.2 e))).toNat, if lim.1 ≤ e ∧ e ≤ lim.2 then 0 else 2 ^ 5)

/-- R325: integer and bitwise arithmetic by element. -/
def Sys2Proof.Claims.vectorIntegers : Prop :=
  ∀ (g : Guard) (d a b : Nat) (s : State), legalTile s → runsOn s g [] [a, b] [d] →
    let ty := tileTy s
    let w := tileBits s
    let n := tileCount s
    let code := fun v i => elemOf (s.here.vec v) w i
    let x := fun i => laneInt ty (code a i)
    let y := fun i => laneInt ty (code b i)
    let wraps := fun (i : Instr) (e : Nat → Int) => fills i s 8 d w n fun k => (BitVec.ofInt w (e k)).toNat
    let clamps := fun (i : Instr) (e : Nat → Int) => fillsWith i s 8 d w n fun k => clampedLane ty (e k)
    let bits := fun (i : Instr) (f : BitVec w → BitVec w → BitVec w) =>
      fills i s 8 d w n fun k => (f (BitVec.ofNat w (code a k)) (BitVec.ofNat w (code b k))).toNat
    (intTy ty →
      wraps (.viadd g false d a b) (fun k => x k + y k) ∧ clamps (.viadd g true d a b) (fun k => x k + y k) ∧
      wraps (.visub g false d a b) (fun k => x k - y k) ∧ clamps (.visub g true d a b) (fun k => x k - y k) ∧
      wraps (.vimul g false d a b) (fun k => x k * y k) ∧ clamps (.vimul g true d a b) (fun k => x k * y k) ∧
      wraps (.vimin g d a b) (fun k => Min.min (x k) (y k)) ∧ wraps (.vimax g d a b) (fun k => Max.max (x k) (y k)) ∧
      bits (.vshl g d a b) (fun x y => x <<< (y.toNat % w)) ∧ bits (.vshr g d a b) (fun x y => x >>> (y.toNat % w)) ∧
      bits (.vsra g d a b) (fun x y => x.sshiftRight (y.toNat % w))) ∧
    (rawTy ty →
      bits (.vand g d a b) (fun x y => x &&& y) ∧ bits (.vor g d a b) (fun x y => x ||| y) ∧
      bits (.vxor g d a b) (fun x y => x ^^^ y))

/-- R326: VCMP writes its mask and the pair of predicates; a condition that does not belong to the format is ILLOP, SUB 9. -/
def Sys2Proof.Claims.vectorCompares : Prop :=
  ∀ (g : Guard) (cond : Cond) (pt pf m a b : Nat) (s : State), legalTile s → runsOn s g [] [a, b] [m] →
    wellFormed (.vcmp g cond pt pf a b m) = true →
    let w := tileBits s
    let code := fun v i => elemOf (s.here.vec v) w i
    let unsigned := cond = .ltu ∨ cond = .leu ∨ cond = .gtu ∨ cond = .geu
    let order := cond = .ord ∨ cond = .uno
    let writes := fun (holds : Nat → Bool) => does (.vcmp g cond pt pf a b m) s fun s t =>
      let any := (List.range (tileCount s)).any holds
      wroteElems m w (tileCount s) (fun k => if holds k then 2 ^ w - 1 else 0) s t ∧
      t.me = { s.me with pc := s.me.pc + 8, p := t.me.p } ∧
      ∀ k, k < 16 → t.rP k = if k = 0 then true else if k = pf then !any else if k = pt then any else s.rP k
    (fltTy (tileTy s) → ¬ unsigned → writes fun k => floatHolds cond (laneF s a k) (laneF s b k)) ∧
    (intTy (tileTy s) → ¬ order → writes fun k => condHolds cond (BitVec.ofNat w (code a k)) (BitVec.ofNat w (code b k))) ∧
    ((fltTy (tileTy s) ∧ unsigned ∨ intTy (tileTy s) ∧ order ∨ ¬ (fltTy (tileTy s) ∨ intTy (tileTy s))) → handled s →
      does (.vcmp g cond pt pf a b m) s (tookException 1 9 false 0 s.me.pc))

/-- R325, R326: integer arithmetic and compares of vectors. -/
def Obligations.VectorIntegersAndCompares : Prop := vectorIntegers ∧ vectorCompares

/-- One step of a reduction (R328): its code and status. -/
def Sys2Proof.Claims.reduceOne (op : Nat) (ty : Ty) (rm : Rnd) (ftz : Bool) (v u : Nat) : Nat × Nat :=
  let w := tyBits ty
  let val := flushOperand ftz ty (fmtOf ty)
  let float := ty = .f64 ∨ ty = .f32 ∨ ty = .f16 ∨ ty = .bf16
  match op with
  | 0 =>
    let r := addNum rm (val v) (val u)
    if float then floatResult ty rm false ftz r.1 (if r.2 then 16 else 0) else ((v + u) % 2 ^ w, 0)
  | 1 => if float then (extremum ty false ftz v u, 0) else (if laneInt ty v ≤ laneInt ty u then v else u, 0)
  | 2 => if float then (extremum ty true ftz v u, 0) else (if laneInt ty u ≤ laneInt ty v then v else u, 0)
  | 3 => (v &&& u, 0)
  | 4 => (v ||| u, 0)
  | _ => (v ^^^ u, 0)

/-- The pairwise tree over `n` values (R328): place `i` of level `l`, with the status of the steps below it. -/
def Sys2Proof.Claims.treeNode (f : Nat → Nat → Nat × Nat) (x : Nat → Nat) (n : Nat) : Nat → Nat → Nat × Nat
  | 0, i => (x i, 0)
  | l + 1, i =>
    let p := treeNode f x n l (2 * i)
    let q := treeNode f x n l (2 * i + 1)
    let r := f p.1 q.1
    if 2 * i + 1 < (n + 2 ^ l - 1) / 2 ^ l then (r.1, p.2 ||| q.2 ||| r.2) else p

/-- Place `k` of the inclusive scan (R328), with the status of the steps up to it. -/
def Sys2Proof.Claims.scanAt (f : Nat → Nat → Nat × Nat) (x : Nat → Nat) : Nat → Nat × Nat
  | 0 => (x 0, 0)
  | k + 1 =>
    let p := scanAt f x k
    let r := f p.1 (x (k + 1))
    (r.1, p.2 ||| r.2)

/-- R328: VRED writes the value of the pairwise tree to the first place of each row or column, VSCAN the inclusive scan to
every place; an operation that the format does not have is ILLOP, SUB 9. -/
def Obligations.VectorReductions : Prop :=
  ∀ (g : Guard) (rnd : Rnd) (d a op : Nat) (col : Bool) (s : State), legalTile s → runsOn s g [] [a] [d] → op ≤ 5 →
    rnd ≠ .dyn →
    let ty := tileTy s
    let w := tileBits s
    let lines := if col then tileCols s else tileRows s
    let size := if col then tileRows s else tileCols s
    let place := fun line k => if col then k * tileCols s + line else line * tileCols s + k
    let x := fun line k => elemOf (s.here.vec a) w (place line k)
    let f := reduceOne op ty rnd s.me.ftz
    (fltTy ty ∧ op ≤ 2 ∨ intTy ty →
      (does (.vred g rnd d a col op) s fun s t => onlyVector [] d s t ∧
        t.me = { s.me with pc := s.me.pc + 8, fpst := t.me.fpst } ∧ t.here.sidecar d = 0 ∧
        (∀ line, line < lines →
          elemOf (t.here.vec d) w (place line 0) = (treeNode f (x line) size 13 0).1 % 2 ^ w) ∧
        (∀ j, j < 16384 → (∀ line, line < lines → j < w * place line 0 ∨ w * place line 0 + w ≤ j) →
          (t.here.vec d).getLsbD j = (s.here.vec d).getLsbD j) ∧
        collects lines (fun line => (treeNode f (x line) size 13 0).2) s t) ∧
      (does (.vscan g rnd d a col op) s fun s t => onlyVector [] d s t ∧
        t.me = { s.me with pc := s.me.pc + 8, fpst := t.me.fpst } ∧ t.here.sidecar d = 0 ∧
        (∀ line k, line < lines → k < size →
          elemOf (t.here.vec d) w (place line k) = (scanAt f (x line) k).1 % 2 ^ w) ∧
        (∀ j, w * tileCount s ≤ j → j < 16384 → (t.here.vec d).getLsbD j = (s.here.vec d).getLsbD j) ∧
        collects lines (fun line => (scanAt f (x line) (size - 1)).2) s t)) ∧
    (¬ (fltTy ty ∧ op ≤ 2 ∨ intTy ty) → handled s →
      does (.vred g rnd d a col op) s (tookException 1 9 false 0 s.me.pc) ∧
      does (.vscan g rnd d a col op) s (tookException 1 9 false 0 s.me.pc))

/-- The scale bytes of block `b` of v[v] (R316). -/
def Sys2Proof.Claims.scalesOf (s : State) (v b : Nat) : List Nat :=
  let k := scalesPerBlock (tileTy s)
  (List.range k).map fun j => ((s.here.sidecar v).extractLsb' (8 * (k * b + j)) 8).toNat

/-- The exact value of element `i` of v[v], scales applied, flushed where R201 flushes it. -/
def Sys2Proof.Claims.laneNum (s : State) (v i : Nat) : Machine.Num :=
  match tileTy s with
  | .f64 | .f32 | .f16 | .bf16 => laneF s v i
  | ty => elemValue ty (scalesOf s v (i / 32)) (elemOf (s.here.vec v) (tileBits s) i)

/-- v[d] takes blocks: elements and scales by block, the bits and the scale bytes after them as before (R321). -/
def Sys2Proof.Claims.wroteBlocks (d : Nat) (ty : Ty) (n : Nat) (block : Nat → Block) (s t : State) : Prop :=
  let w := tyBits ty
  let k := scalesPerBlock ty
  onlyVector [] d s t ∧
    (∀ b j, b < n / 32 → j < 32 → elemOf (t.here.vec d) w (32 * b + j) = (block b).elems.getD j 0 % 2 ^ w) ∧
    (∀ b j, b < n / 32 → j < k →
      ((t.here.sidecar d).extractLsb' (8 * (k * b + j)) 8).toNat = (block b).scales.getD j 0 % 256) ∧
    (∀ j, w * n ≤ j → j < 16384 → (t.here.vec d).getLsbD j = (s.here.vec d).getLsbD j) ∧
    ∀ j, 8 * (k * (n / 32)) ≤ j → j < 2048 → (t.here.sidecar d).getLsbD j = (s.here.sidecar d).getLsbD j

/-- Some next state of `i` in which the values of v[d] are quantised by blocks (R192, R194), with the status of both steps. -/
def Sys2Proof.Claims.fillsBlocks (i : Instr) (s : State) (d : Nat) (ty : Ty) (len : Nat) (vals : Nat → Machine.Num × Nat) : Prop :=
  let n := tileCount s
  let block := fun b => quantBlock ty ((List.range 32).map fun j => (vals (32 * b + j)).1)
  does i s fun s t => wroteBlocks d ty n block s t ∧ t.me = { s.me with pc := s.me.pc + len, fpst := t.me.fpst } ∧
    ∀ j, j < 32 → t.me.fpst.getLsbD j = (s.me.fpst.getLsbD j || ((List.range n).any fun k => (vals k).2.testBit j) ||
      (List.range (n / 32)).any fun b => (block b).flags.testBit j)

/-- R204, R324: floating arithmetic on MX and DX formats rounds each exact result to the precision of FP32 and quantises each
block; VABS and VNEG change the sign bits alone. -/
def Obligations.BlockArithmetic : Prop :=
  ∀ (g : Guard) (rnd : Rnd) (d a b c : Nat) (s : State), legalTile s →
    let ty := tileTy s
    let w := tileBits s
    let n := tileCount s
    let x := laneNum s a
    let y := laneNum s b
    let nv := fun (invalid : Bool) => if invalid then 16 else 0
    let out := fun (i : Instr) (len : Nat) (srcs : List Nat) (rm : Rnd) (e : Nat → Machine.Num × Nat) => runsOn s g [] srcs [d] →
      fillsBlocks i s d ty len fun k => ((roundWide rm (e k).1).1, (e k).2 ||| if (roundWide rm (e k).1).2 then 1 else 0)
    let rm := roundingOf s rnd
    let sum := fun rm (p q : Nat → Machine.Num) k => ((addNum rm (p k) (q k)).1, nv (addNum rm (p k) (q k)).2)
    let product := fun k => ((mulNum (x k) (y k)).1, nv (mulNum (x k) (y k)).2)
    let fused := fun rm (z : Nat → Machine.Num) k => ((addNum rm (mulNum (x k) (y k)).1 (z k)).1,
      nv ((mulNum (x k) (y k)).2 || (addNum rm (mulNum (x k) (y k)).1 (z k)).2))
    let less := fun x y => floatHolds .lt x y || (floatHolds .eq x y && x.isZero && y.isZero && x.sign && !y.sign)
    let pick := fun (isMax : Bool) k =>
      (if x k = .nan then y k else if y k = .nan then x k
       else if (if isMax then less (x k) (y k) else less (y k) (x k)) then y k else x k, 0)
    let code := fun k => elemOf (s.here.vec a) w k
    let flip := fun (v bit : Nat) => if v / 2 ^ bit % 2 = 1 then v - 2 ^ bit else v + 2 ^ bit
    let signs := fun (i : Instr) (f : Nat → Nat) => runsOn s g [] [a] [d] →
      does i s fun s t => wroteBlocks d ty n (fun b => ⟨scalesOf s a b, (List.range 32).map fun j => f (32 * b + j), 0⟩) s t ∧
        t.me = { s.me with pc := s.me.pc + 8 }
    (isBlockTy ty = true →
      out (.vadd g d a b) 4 [a, b] s.me.rm (sum s.me.rm x y) ∧
      out (.vaddLong g rnd d a b) 8 [a, b] rm (sum rm x y) ∧
      out (.vsub g d a b) 4 [a, b] s.me.rm (sum s.me.rm x fun k => (y k).neg) ∧
      out (.vsubLong g rnd d a b) 8 [a, b] rm (sum rm x fun k => (y k).neg) ∧
      out (.vmul g d a b) 4 [a, b] s.me.rm product ∧ out (.vmulLong g rnd d a b) 8 [a, b] rm product ∧
      out (.vfma g d a b) 4 [a, b, d] s.me.rm (fused s.me.rm (laneNum s d)) ∧
      out (.vfmaLong g rnd d a b c) 8 [a, b, c] rm (fused rm (laneNum s c)) ∧
      out (.vdiv g rnd d a b) 8 [a, b] rm (fun k => divNum (x k) (y k)) ∧
      out (.vsqrt g rnd d a) 8 [a] rm (fun k => sqrtNum (x k)) ∧
      out (.vrcp g rnd d a) 8 [a] rm (fun k => divNum (.fin false 1 0 false) (x k)) ∧
      out (.vrsq g rnd d a) 8 [a] rm (fun k => rsqrtNum (x k)) ∧
      out (.vmin g d a b) 8 [a, b] .rne (pick false) ∧ out (.vmax g d a b) 8 [a, b] .rne (pick true) ∧
      let bit := if ty = .dx8 ∨ ty = .dx6 ∨ ty = .dx4 then w - 2 else w - 1
      signs (.vabs g d a) (fun k => code k - code k / 2 ^ bit % 2 * 2 ^ bit) ∧
      signs (.vneg g d a) (fun k => flip (code k) bit)) ∧
    (ty = .e4m3 ∨ ty = .e5m2 ∨ ty = .e3m2 ∨ ty = .e2m3 ∨ ty = .e2m1 → runsOn s g [] [a] [d] →
      fills (.vabs g d a) s 8 d w n (fun k => code k % 2 ^ (w - 1)) ∧
      fills (.vneg g d a) s 8 d w n (fun k => flip (code k) (w - 1)))

/-- An exact value converted to an integer format (R199): rounded, then clamped, with NV for a clamp and a NaN, and
NX where the result differs from the exact one (R197), a clamped one among them. -/
def Sys2Proof.Claims.toIntLane (ty : Ty) (rm : Rnd) (x : Machine.Num) : Nat × Nat :=
  let lim := laneLimits ty
  let code := fun i => (BitVec.ofInt (tyBits ty) i).toNat
  match x with
  | .nan => (0, 16)
  | .inf neg => (code (if neg then lim.1 else lim.2), 17)
  | x =>
    let q := (ratOf x).getD 0
    let n := roundRat rm q
    let nx := if (n : Rat) = q then 0 else 1
    if n < lim.1 then (code lim.1, 17) else if lim.2 < n then (code lim.2, 17) else (code n, nx)

/-- R331 to R333: VCVT converts each element at its own width; VQMX and VQDX quantise rows by blocks of 32; VRESC adds to the
scales where they allow it, and quantises the scaled values otherwise. The NX of a clamped conversion to an integer is the
model's reading: log 24. -/
def Obligations.VectorConversions : Prop :=
  ∀ (g : Guard) (dst : Ty) (rnd : Rnd) (sat : Bool) (d a : Nat) (k : Int) (s : State), legalTile s → runsOn s g [] [a] [d] →
    let ty := tileTy s
    let n := tileCount s
    let x := laneNum s a
    let int := fun i => laneInt ty (elemOf (s.here.vec a) (tileBits s) i)
    let half := ty = .f32 ∨ ty = .f16 ∨ ty = .bf16
    let clampedTo := fun (i : Int) =>
      let r := clampedLane dst i
      if sat then r else ((BitVec.ofInt (tyBits dst) i).toNat, 0)
    (wellFormed (.vcvt g dst rnd sat d a) = true → n * tyBits dst ≤ 16384 →
      (intTy dst → intTy ty → fillsWith (.vcvt g dst rnd sat d a) s 8 d (tyBits dst) n fun i => clampedTo (int i)) ∧
      (intTy dst → ¬ intTy ty →
        (sat = false → fillsWith (.vcvt g dst rnd sat d a) s 8 d (tyBits dst) n fun i => toIntLane dst rnd (x i)) ∧
        (sat = true → handled s → does (.vcvt g dst rnd sat d a) s (tookException 1 8 false 0 s.me.pc))) ∧
      (floatFmt? dst ≠ none → fillsWith (.vcvt g dst rnd sat d a) s 8 d (tyBits dst) n fun i =>
        floatResult dst rnd sat s.me.ftz (x i) 0)) ∧
    (half → tileCols s % 32 = 0 → n * tyBits dst ≤ 16384 →
      (wellFormed (.vqmx g dst d a) = true → fillsBlocks (.vqmx g dst d a) s d dst 8 fun i => (x i, 0)) ∧
      (wellFormed (.vqdx g dst d a) = true → fillsBlocks (.vqdx g dst d a) s d dst 8 fun i => (x i, 0))) ∧
    (isBlockTy ty = true → ∃ block : Nat → Block,
      (does (.vresc g d a k) s fun s t => wroteBlocks d ty n block s t ∧
        t.me = { s.me with pc := s.me.pc + 8, fpst := t.me.fpst } ∧
        ∀ j, j < 32 → t.me.fpst.getLsbD j =
          (s.me.fpst.getLsbD j || (List.range (n / 32)).any fun b => (block b).flags.testBit j)) ∧
      ∀ b, b < n / 32 →
        let scales := scalesOf s a b
        let codes := (List.range 32).map fun j => elemOf (s.here.vec a) (tileBits s) (32 * b + j)
        let fits := ∀ e : Nat, e ∈ scales → 0 ≤ (e : Int) + k ∧ (e : Int) + k ≤ 254
        (0xFF ∈ scales → block b = ⟨scales, codes, 0⟩) ∧
        (0xFF ∉ scales → fits → block b = ⟨scales.map fun (e : Nat) => ((e : Int) + k).toNat, codes, 0⟩) ∧
        (0xFF ∉ scales → ¬ fits →
          block b = quantBlock ty ((List.range 32).map fun j => (x (32 * b + j)).scale k)))

/-- One group into an accumulator (R203): its code and status.  `ts` are the products with whether each is invalid. -/
def Sys2Proof.Claims.dotGroup (f : FloatFmt) (acc : Nat) (ts : List (Machine.Num × Bool)) : Nat × Nat :=
  let c := f.value acc
  let xs := c :: ts.map fun t => t.1
  let anyNan := xs.any fun x => x == .nan
  let invalid := ts.any fun t => t.2
  let up := xs.any fun x => x == .inf false
  let down := xs.any fun x => x == .inf true
  let nan := (f.nanCode?).getD 0
  let inf := (2 ^ f.exp - 1) * 2 ^ f.man
  if anyNan then (nan, if invalid then 16 else 0)
  else if up && down then (nan, 16)
  else if up then (inf, 0)
  else if down then (f.withSign true inf, 0)
  else
    let x := xs.foldl (fun a x => (addNum .rne a x).1) (.fin false 0 0 false)
    if x.isZero then (if xs.all fun x => x.isZero && x.sign then f.withSign true 0 else 0, 0)
    else f.convert .rne false x

/-- The accumulator after `k` groups of a row, with the status of their roundings. -/
def Sys2Proof.Claims.dotAfter (f : FloatFmt) (size : Nat) (acc : Nat) (ts : List (Machine.Num × Bool)) : Nat → Nat × Nat
  | 0 => (acc, 0)
  | k + 1 =>
    let p := dotAfter f size acc ts k
    let r := dotGroup f p.1 ((ts.drop (size * k)).take size)
    (r.1, p.2 ||| r.2)

/-- R203, R329: VDOT accumulates each row in groups of the matrix engine's sizes.
The manual leaves part of it open: log 24. -/
def Obligations.RowDotProducts : Prop :=
  ∀ (g : Guard) (d a b c : Nat) (s : State), legalTile s → runsOn s g [] [a, b, c] [d] →
    let ty := tileTy s
    let m := tileCols s
    let wide := ty = .f64
    let size := match ty with | .f64 => 1 | .f32 => 4 | .f16 | .bf16 => 16 | _ => 32
    let wideTy := if wide then Ty.f64 else .f32
    let acc := fun r => flushedElem wideTy s.me.ftz (elemOf (s.here.vec c) (tyBits wideTy) r)
    let ts := fun r => (List.range m).map fun k => mulNum (laneNum s a (r * m + k)) (laneNum s b (r * m + k))
    (ty = .int8 ∨ ty = .uint8 ∨ ty = .int4 → fills (.vdot g d a b c) s 8 d 32 (tileRows s) fun r =>
      (BitVec.ofInt 32 ((BitVec.ofNat 32 (elemOf (s.here.vec c) 32 r)).toInt + ((List.range m).map fun k =>
        laneInt ty (elemOf (s.here.vec a) (tileBits s) (r * m + k)) *
          laneInt ty (elemOf (s.here.vec b) (tileBits s) (r * m + k))).sum)).toNat) ∧
    (fltTy ty ∨ isBlockTy ty = true ∨ ty = .e4m3 ∨ ty = .e5m2 ∨ ty = .e3m2 ∨ ty = .e2m3 ∨ ty = .e2m1 →
      fillsWith (.vdot g d a b c) s 8 d (tyBits wideTy) (tileRows s) fun r =>
        flushResult s.me.ftz wideTy (fmtOf wideTy) (dotAfter (fmtOf wideTy) size (acc r) (ts r) ((m + size - 1) / size)))

/-- Word `k` of segment `i` of a PFU table (R336). -/
def Sys2Proof.Claims.tableWord (q : Machine.Core) (x i k : Nat) : Nat := (mapGet q.pf (x * 320 + 5 * i + k) 0).toNat

/-- A step of R337: rounded to the nearest, never flushed. -/
def Sys2Proof.Claims.cubicStep (r : Machine.Num × Bool) : Nat × Nat := floatResult .f32 .rne false false r.1 (if r.2 then 16 else 0)

/-- R337 for one element: its code and status. -/
def Sys2Proof.Claims.cubicAt (q : Machine.Core) (x : Nat) (ftz : Bool) (v : Nat) : Nat × Nat :=
  let value := (fmtOf .f32).value
  let p := flushOperand ftz .f32 (fmtOf .f32) v
  let i := ((List.range 64).filter fun i => floatHolds .le (value (tableWord q x i 0)) p).getLastD 0
  let c := fun k => value (tableWord q x i (k + 1))
  let fma := fun a b z => cubicStep ((addNum .rne (mulNum a b).1 z).1, (mulNum a b).2 || (addNum .rne (mulNum a b).1 z).2)
  let u := cubicStep (addNum .rne p (value (tableWord q x i 0)).neg)
  let y2 := fma (c 3) (value u.1) (c 2)
  let y1 := fma (value y2.1) (value u.1) (c 1)
  let y0 := fma (value y1.1) (value u.1) (c 0)
  if p = .nan then (0x7FC00000, 0)
  else flushResult ftz .f32 (fmtOf .f32) (y0.1, u.2 ||| y2.2 ||| y1.2 ||| y0.2)

/-- R336, R337: PFLOAD fills a table from memory; PFEVAL evaluates it at every element. -/
def Sys2Proof.Claims.piecewiseFunctions : Prop :=
  ∀ (g : Guard) (d a b x slot : Nat) (h : Handle) (s : State), x < 4 →
    (legalTile s → tileTy s = .f32 → runsOn s g [] [a] [d] →
      fillsWith (.pfeval g d a x) s 8 d 32 (tileCount s) fun k => cubicAt s.here x s.me.ftz (elemOf (s.here.vec a) 32 k)) ∧
    (s.runs g (Uses.scalar [b] []) → s.here.handle slot = some h → s.poison = [] →
      let at_ := (s.rS b).toNat
      let byte := fun k => BitVec.ofNat 8 ((sight s).readElem h [at_ + k, 0, 0, 0, 0, 0])
      let word := fun i => leNat ((List.range 4).map fun k => byte (4 * i + k))
      let bp := fun i => (fmtOf .f32).value (word (5 * i))
      h.desc.rank = 1 → h.desc.fmt = .uint8 → h.desc.space ≠ 6 → at_ % 4 = 0 →
      (sight s).accessFaults (.strand s.cur.1 s.cur.2) s.cur.1 slot h false true [1, 2, 4, 5, 6]
        ((List.range 1280).map fun k => [at_ + k, 0, 0, 0, 0, 0]) = [] →
      let ordered := ∀ i, i < 64 → bp i ≠ .nan ∧ (i + 1 < 64 → floatHolds .le (bp i) (bp (i + 1)) = true)
      (ordered → does (.pfload g x slot b) s fun s t =>
        coreBecame 8 [] { s.here with pf := t.here.pf } s t ∧
        (∀ i, i < 320 → mapGet t.here.pf (x * 320 + i) 0 = BitVec.ofNat 32 (word i)) ∧
        ∀ j, j < x * 320 ∨ x * 320 + 320 ≤ j → mapGet t.here.pf j 0 = mapGet s.here.pf j 0) ∧
      (¬ ordered → handled s → does (.pfload g x slot b) s (tookException 1 9 false 0 s.me.pc)))

/-- R313, R334, R335: tiles of a patch move as raw words once the ME records that name it have completed; VZST leaves its status
and sets its group tag to no generators. -/
def Sys2Proof.Claims.patchTiles : Prop :=
  ∀ (g : Guard) (a b d z row col : Nat) (s : State), legalTile s → tileTy s = .f32 ∨ tileTy s = .i32 ∨ tileTy s = .uint32 →
    runsOn s g [b] [] [d] → runsOn s g [b] [a] [] → s.me.waiting = none → s.poison = [] →
    s.rS b = BitVec.ofNat 64 (row + 2 ^ 16 * col) → row + tileRows s ≤ 96 → col + tileCols s ≤ 128 →
    let m := tileCols s
    let cell := fun (q : Machine.Core) (z r c : Nat) => ((q.zRow z r).extractLsb' (32 * c) 32).toNat
    let names := ∃ r, r ∈ (s.here.engine 0).queue ∧ z ∈ r.patches ∧ r.num ≤ (s.here.engine 0).last
    let held := fun (s t : State) => onlyStrand [] s t ∧
      t.me = { s.me with waiting := some (z, (s.here.engine 0).last), hold := some (.patch (s.here.engine 0).last false z) }
    (¬ names →
      fills (.vzld g d z b) s 8 d 32 (tileCount s) (fun i => cell s.here z (row + i / m) (col + i % m)) ∧
      does (.vzst g z a b) s fun s t =>
        coreBecame 8 [] { s.here with z := t.here.z, patches := t.here.patches } s t ∧
        (∀ y, t.here.patch y = if y = z then { s.here.patch z with tag := .gens [], written := true } else s.here.patch y) ∧
        ∀ y r c, r < 96 → c < 128 → cell t.here y r c =
          if y = z ∧ row ≤ r ∧ r < row + tileRows s ∧ col ≤ c ∧ c < col + m then
            elemOf (s.here.vec a) 32 ((r - row) * m + (c - col))
          else cell s.here y r c) ∧
    (names → does (.vzld g d z b) s held ∧ does (.vzst g z a b) s held)

/-- R313, R334 to R337: piecewise functions, and tiles of Z patches.
The manual leaves part of it open: log 7. -/
def Obligations.FunctionsAndPatches : Prop := piecewiseFunctions ∧ patchTiles

/-! ## Handles, barriers, rings, queues, timelines and records (chapters 05, 06, 13 and 15) -/

/-- R111, R112, R129, R134, R211, R292 to R294: HBIND binds the descriptor it reads from the next clock on, and parks on a PAGE;
HUNBIND unbinds from the next clock on; slot 0 is PERM, SUB 6; HINFO reads a slot; SEAL seals it.
The manual leaves part of it open: log 10. -/
def Obligations.HandleSlots : Prop :=
  ∀ (g : Guard) (h a d k : Nat) (task : Machine.Task) (s : State), s.runs g (Uses.scalar [a] []) → s.runs g Uses.none →
    taskHere s task → h < 256 →
    let bytes := (sight s).descriptorBytes task s.cur.1 s.cur.2 (s.rS a)
    (∀ bs x, h ≠ 0 → bytes = .ok bs → descOf? false bs = some x →
      let b := s.bindDesc task s.cur.1 x [0, 0, 0, 0, 0, 0] x.ext false
      let s' := { s with free := s.free + if x.space = 6 then 1 else 0 }
      (b.1 = [] → does (.hbind g h a) s fun _ t => ∃ y : Handle, y.desc = x ∧ y.lo = [0, 0, 0, 0, 0, 0] ∧ y.ext = x.ext ∧
        y.sealed = x.sealed ∧ y.window = false ∧ y.isArgs = false ∧
        coreBecame 8 [] { s.here with bindNew := mapPut s.here.bindNew h (some y) } s' t) ∧
      (∀ va i, b.1 = [⟨0x06, 0, va⟩] → s.freePark = some i → does (.hbind g h a) s fun s t =>
        t.me = { s.me with hold := some (.parked i) } ∧ mapFind t.parks i = some ⟨s.cur.1, s.cur.2, h, va.toNat⟩)) ∧
    (∀ bs, h ≠ 0 → bytes = .ok bs → descOf? false bs = none → handled s → slotFault (.hbind g h a) s h 0x03 0 0) ∧
    (h ≠ 0 → does (.hunbind g h) s (coreBecame 8 [] { s.here with bindNew := mapPut s.here.bindNew h none })) ∧
    (handled s → slotFault (.hunbind g 0) s 0 0x05 6 0) ∧
    (s.runs g (Uses.scalar [] [d]) →
      (s.here.handle h = none → gives (.hinfo g d h k) s 8 d 0) ∧
      (∀ x, s.here.handle h = some x →
        let bit := fun (b : Bool) => if b then 1 else 0
        gives (.hinfo g d h 0) s 8 d (BitVec.ofNat 64 (1 + 2 * bit x.pwinIn + 2 ^ 2 * bit x.pwinOut + 2 ^ 3 * bit x.sealed +
          2 ^ 4 * bit x.desc.rd + 2 ^ 5 * bit x.desc.wr + 2 ^ 8 * x.desc.space + 2 ^ 12 * fmtCode x.desc.fmt +
          2 ^ 20 * x.desc.rank + 2 ^ 24 * x.desc.codec)) ∧
        (1 ≤ k → k ≤ 6 → gives (.hinfo g d h k) s 8 d (BitVec.ofNat 64 (x.ext.getD (k - 1) 1))) ∧
        gives (.hinfo g d h 7) s 8 d (BitVec.ofNat 64 (if x.desc.space < 3 then x.desc.tgt else 0)))) ∧
    (s.here.handle h = none → handled s → slotFault (.seal g h) s h 0x03 0 0) ∧
    ∀ x, s.here.handle h = some x →
      (x.sealed = true → does (.seal g h) s (wentOn 8)) ∧
      (x.sealed = false → s.writtenByRecord s.here.task (s.handleRanges x) = false →
        does (.seal g h) s (coreBecame 8 [] { s.here with handles := mapPut s.here.handles h { x with sealed := true } })) ∧
      (x.sealed = false → s.writtenByRecord s.here.task (s.handleRanges x) = true → handled s →
        slotFault (.seal g h) s h 0x0B 0 0)

/-- A barrier phase has passed a token: 1 to 2^31 − 1 beyond it, modulo 2^32 (R302). -/
def Sys2Proof.Claims.passed (phase token : BitVec 32) : Prop := 1 ≤ (phase - token).toNat ∧ (phase - token).toNat < 2 ^ 31

/-- The barrier that field `x` names: one of the core, or the gang barrier of a task of more than one core (R123). -/
def Sys2Proof.Claims.barrierIs (s : State) (x : Nat) (b : Barrier) : Prop :=
  x < 16 ∧ mapFind s.here.barriers x = some b ∨
    x = 16 ∧ ∃ k, taskHere s k ∧ 1 < k.gangSize ∧ k.broken = false ∧ k.bg = b

/-- R123 to R125, R176, R214, R302, R303, R314: BINIT, BARV, BWAIT, BSYNC and BTEST.  A BINIT is RACE where a decrement of the same
clock stands before it or is still to come; BARV at pod scope waits for the acknowledgements of its P writes.
The manual leaves part of it open: log 25, log 46. -/
def Obligations.Barriers : Prop :=
  ∀ (g : Guard) (x a d pt pf : Nat) (b : Barrier) (s : State), s.runs g (Uses.scalar [a] []) → s.runs g (Uses.scalar [] [d]) →
    let token : BitVec 32 := (s.rS a).setWidth 32
    let puts := fun (y : Barrier) => { s.here with barriers := mapPut s.here.barriers x y }
    let all := fun (code sub : Nat) =>
      does (.barv g d x) s (tookException code sub false 0 s.me.pc) ∧ does (.barvLong g d x) s (tookException code sub false 0 s.me.pc) ∧
      does (.bwait g x a) s (tookException code sub false 0 s.me.pc) ∧ does (.bwaitLong g x a) s (tookException code sub false 0 s.me.pc) ∧
      does (.btest g pt pf x a) s (tookException code sub false 0 s.me.pc)
    (x < 16 → mapFind s.here.barriers x = some b →
      let arrives := fun len => coreBecame len [d] ((puts { b with arrivals := b.arrivals + 1 }).withReg s.cur.2 d (b.phase.setWidth 64))
      does (.barv g d x) s (arrives 4) ∧ does (.barvLong g d x) s (arrives 8) ∧
      does (.bsync g x a) s (coreBecame 8 [] (puts { b with bytes := b.bytes + token.toNat }))) ∧
    (∀ k, x = 16 → taskHere s k → s.here.task = some k.id.toNat → 1 < k.gangSize → k.broken = false → 1 ≤ k.bgLevel →
      k.bgLevel ≤ 4 → s.here.writes = [] →
      let arrives := fun len (s t : State) => t.task? k.id.toNat = some { k with bg := { k.bg with arrivals := k.bg.arrivals + 1 } } ∧
        (∀ j, j ≠ k.id.toNat → t.task? j = s.task? j) ∧ (∀ c, c ≠ s.cur.1 → t.core c = s.core c) ∧
        t = { s with coreTab := t.coreTab, tasks := t.tasks, poison := t.poison } ∧
        t.here = s.here.setStrand s.cur.2 t.me ∧ t.me = { s.me with pc := s.me.pc + len, s := t.me.s } ∧
        t.rS d = (if d = 0 then 0 else k.bg.phase.setWidth 64) ∧ ∀ r, r ≠ d → t.rS r = s.rS r
      (k.bgLevel ≤ 3 ∨ s.awaitingAcks = false → does (.barv g d x) s (arrives 4) ∧ does (.barvLong g d x) s (arrives 8)) ∧
      (k.bgLevel = 4 → s.awaitingAcks = true → does (.barv g d x) s (heldBy .acks) ∧ does (.barvLong g d x) s (heldBy .acks))) ∧
    (barrierIs s x b →
      (passed b.phase token → does (.bwait g x a) s (wentOn 4) ∧ does (.bwaitLong g x a) s (wentOn 8)) ∧
      (¬ passed b.phase token → does (.bwait g x a) s (heldBy (.barrier x token 4)) ∧
        does (.bwaitLong g x a) s (heldBy (.barrier x token 8))) ∧
      ∀ v, (v = true ↔ passed b.phase token) → (pt = pf → pt = 0) → givesPair (.btest g pt pf x a) s 8 pt pf v) ∧
    (handled s → (x < 16 → mapFind s.here.barriers x = none → all 0x03 0) ∧
      (∀ k, x = 16 → taskHere s k → (k.gangSize ≤ 1 → all 0x05 1) ∧ (1 < k.gangSize → k.broken = true → all 0x11 0))) ∧
    (s.runs g (Uses.scalar [a, d] []) →
      let ea := (s.rS a).toNat
      let eb := (s.rS d).toNat
      let bad := 65535 < ea ∨ 2 ^ 32 ≤ eb ∨ ea = 0 ∧ eb = 0
      let comes := ∃ j g' d', j ∈ s.here.picks.getD [] ∧ (s.here.strand j).pred g'.g = !g'.n ∧
        ∃ n, s.nextOf s.cur.1 j = some n ∧ (n = .barv g' d' x ∨ n = .barvLong g' d' x ∨ n = .bsync g' x d')
      let free := (∀ o, mapFind s.here.barriers x = some o → o.arrivals = 0 ∧ o.bytes = 0) ∧ ¬ comes ∧
        (∀ j, j < s.here.strands.length → ∀ w n, (s.here.strand j).hold ≠ some (.barrier x w n)) ∧
        s.namedByRecord s.cur.1 [3] x = false
      (x < 16 → ¬ bad → free → does (.binit g x a d) s (coreBecame 8 [] (puts
        { ea := ea, eb := eb, ca := ea, cb := eb, phase := 0, arrivals := 0, bytes := 0 }))) ∧
      (x < 16 → ¬ bad → ¬ free → handled s → does (.binit g x a d) s (tookException 0x0B 0 false 0 s.me.pc)) ∧
      (x < 16 → bad → handled s → does (.binit g x a d) s (tookException 1 9 false 0 s.me.pc)) ∧
      (x = 16 → ¬ bad → handled s → does (.binit g x a d) s (tookException 0x05 1 false 0 s.me.pc)))

/-- The event latch of every strand of a core is set (R285). -/
def Sys2Proof.Claims.woken (q : Machine.Core) : Machine.Core :=
  { q with strands := q.strands.map fun t => { t with latch := true } }

/-- R116, R118 to R120, R304 to R306, R309: rings are set up, their slots claimed in order, released by their holder alone and
read, and bound to vector registers.
The manual leaves part of it open: log 25. -/
def Obligations.Rings : Prop :=
  ∀ (g : Guard) (x a b d v dir : Nat) (s : State), s.runs g (Uses.scalar [a] []) → s.runs g (Uses.scalar [] [d]) →
    s.runs g (Uses.scalar [a, b] []) → s.runs g Uses.none → x < 32 → dir ≤ 1 →
    let puts := fun (r : Ring) => { s.here with rings := mapPut s.here.rings x r }
    let race := fun slot => tookException 0x0B 0 false (BitVec.ofNat 64 (x + 256 * (slot % 256))) s.me.pc
    (∀ r, mapFind s.here.rings x = some r →
      let n := 2 ^ (r.shape.toNat % 16)
      let slot := fun i => r.slots.getD i ⟨.free, none, none⟩
      let claims := fun (i : Instr) (next : Nat) (need got : SlotState) (full : Hold) (out : Bool) (r' : Ring) =>
        ((∀ u, r.bound ≠ some (u, out)) → (slot next).state = need → does i s (coreBecame 8 [d]
          ((puts { r' with slots := r.slots.set next ⟨got, some (.strand s.cur.2), none⟩ }).withReg s.cur.2 d (BitVec.ofNat 64 next)))) ∧
        ((∀ u, r.bound ≠ some (u, out)) → (slot next).state ≠ need → does i s (heldBy full)) ∧
        (∀ u, r.bound = some (u, out) → handled s → does i s (race 0))
      claims (.rfreew g d x) (r.fh.toNat % n) .free .filling (.ringFree x) true { r with fh := r.fh + 1 } ∧
      claims (.rfillw g d x) (r.ch.toNat % n) .full .draining (.ringFull x) false { r with ch := r.ch + 1 } ∧
      (let i := ((s.rS a).setWidth 32 : BitVec 32).toNat
       let mine := fun st => (slot i).holder = some (.strand s.cur.2) ∧ (slot i).next = none ∧ (slot i).state = st
       let released := fun st => coreBecame 8 [] (woken (puts { r with slots := r.slots.set i { slot i with next := some st } }))
       (i < n → s.here.writes = [] →
         (mine .filling → does (.rpub g x a) s (released .full)) ∧ (mine .draining → does (.rret g x a) s (released .free))) ∧
       (i < n → handled s →
         (¬ mine .filling → does (.rpub g x a) s (race i)) ∧ (¬ mine .draining → does (.rret g x a) s (race i))) ∧
       (n ≤ i → handled s → does (.rpub g x a) s (tookException 1 9 false 0 s.me.pc) ∧
         does (.rret g x a) s (tookException 1 9 false 0 s.me.pc))) ∧
      gives (.rqry g d x 0) s 8 d (r.fh.setWidth 64) ∧ gives (.rqry g d x 1) s 8 d (r.ch.setWidth 64) ∧
      gives (.rqry g d x 2) s 8 d (BitVec.ofNat 64 (r.slots.countP fun t => t.state == .full)) ∧
      gives (.rqry g d x 3) s 8 d (BitVec.ofNat 64 (r.slots.countP fun t => t.state == .free)) ∧
      (∃ w, gives (.rqry g d x 4) s 8 d w ∧ w.toNat = r.place.toNat % 2 ^ 33 + 2 ^ 40 * (r.shape.toNat % 16) +
        2 ^ 48 * (r.shape.toNat / 2 ^ 16 % 2 ^ 10)) ∧
      (r.shape.toNat / 2 ^ 16 % 2 ^ 10 = 32 → s.here.streamOf v = none → r.bound = none →
        (∀ t, t ∈ r.slots → t.holder ≠ none → t.state ≠ if dir = 1 then .filling else .draining) →
        does (.sbind g v x dir) s (coreBecame 8 [] (puts { r with bound := some (v, dir == 1) }))) ∧
      (r.shape.toNat / 2 ^ 16 % 2 ^ 10 ≠ 32 → handled s → does (.sbind g v x dir) s (tookException 0x03 0 false 0 s.me.pc)) ∧
      (r.shape.toNat / 2 ^ 16 % 2 ^ 10 = 32 → r.bound ≠ none → handled s → does (.sbind g v x dir) s (race 0))) ∧
    (s.here.streamOf v = none → does (.sunbind g v) s (wentOn 8)) ∧
    (s.here.streamOf v ≠ none →
      does (.sunbind g v) s (coreBecame 8 [] { s.here with unbindStream := setPut s.here.unbindStream v })) ∧
    (mapFind s.here.rings x = none → handled s →
      ∀ i, i ∈ [Instr.rfreew g d x, .rfillw g d x, .rpub g x a, .rret g x a, .rqry g d x 0, .sbind g v x dir] →
        does i s (tookException 0x03 0 false 0 s.me.pc)) ∧
    (let place := (s.rS a).toNat
     let shape := (s.rS b).toNat
     let n := 2 ^ (shape % 16)
     let size := if shape / 2 ^ 16 % 2 ^ 10 = 0 then 65536 else shape / 2 ^ 16 % 2 ^ 10 * 64
     let base := place % 2 ^ 22
     let store := if place / 2 ^ 32 % 2 = 1 then 1 else 2
     place < 2 ^ 33 → place / 2 ^ 22 % 2 ^ 10 = 0 → shape / 2 ^ 4 % 2 ^ 12 = 0 → shape < 2 ^ 26 → shape % 16 ≤ 8 →
     n * size ≤ 2 ^ 20 → base % 64 = 0 → base + n * size ≤ storeBytes store → s.here.rings = [] →
     does (.rinit g x a b) s (coreBecame 8 [] (puts ⟨s.rS a, s.rS b, 0, 0, List.replicate n ⟨.free, none, none⟩, none⟩)))

/-- R117, R307: an entry pushed is taken up at the end of the clock; a pop takes the oldest entry; both set the latches; a full
queue and an empty one hold. -/
def Obligations.QueueRegisters : Prop :=
  ∀ (g : Guard) (n a d pt pf : Nat) (s : State), n < 16 → s.poison = [] → s.runs g Uses.none → (pt = pf → pt = 0) →
    let scalar := n < 8
    let len := if n < 8 then (mapGet s.here.qs n []).length + (mapGet s.here.qsNew n []).length
      else (mapGet s.here.qv n []).length + (mapGet s.here.qvNew n []).length
    let room := if n < 8 then 16 else 4
    let both := fun (p : Nat → State → State → Prop) => does (.qpush g n a) s (p 4) ∧ does (.qpushLong g n a) s (p 8)
    let pops := fun (p : Nat → State → State → Prop) => does (.qpop g d n) s (p 4) ∧ does (.qpopLong g d n) s (p 8)
    (scalar → s.runs g (Uses.scalar [a] []) → len < room → both fun l => coreBecame l []
      (woken { s.here with qsNew := mapPut s.here.qsNew n (mapGet s.here.qsNew n [] ++ [s.rS a]) })) ∧
    (¬ scalar → runsOn s g [] [a] [] → len < room → both fun l => coreBecame l []
      (woken { s.here with qvNew := mapPut s.here.qvNew n (mapGet s.here.qvNew n [] ++ [(s.here.vec a, s.here.sidecar a)]) })) ∧
    (s.runs g (Uses.scalar [a] []) → runsOn s g [] [a] [] → room ≤ len → both fun _ => heldBy (.queueFull n)) ∧
    (∀ v rest, scalar → s.runs g (Uses.scalar [] [d]) → mapGet s.here.qs n [] = v :: rest → pops fun l => coreBecame l [d]
      ((woken { s.here with qs := mapPut s.here.qs n rest }).withReg s.cur.2 d v)) ∧
    (∀ v rest, ¬ scalar → runsOn s g [] [] [d] → mapGet s.here.qv n [] = v :: rest → pops fun l s t =>
      coreBecame l [] (woken { s.here with qv := mapPut s.here.qv n rest, v := t.here.v, side := t.here.side }) s t ∧
      t.here.vec d = v.1 ∧ t.here.sidecar d = v.2 ∧
      ∀ e, e ≠ d → t.here.vec e = s.here.vec e ∧ t.here.sidecar e = s.here.sidecar e) ∧
    (s.runs g (Uses.scalar [] [d]) → runsOn s g [] [] [d] →
      (if n < 8 then mapGet s.here.qs n [] = [] else mapGet s.here.qv n [] = []) → pops fun _ => heldBy (.queueEmpty n)) ∧
    givesPair (.qtst g pt pf n 0) s 8 pt pf (decide (0 < len)) ∧ givesPair (.qtst g pt pf n 1) s 8 pt pf (decide (len < room))

/-- R106, R212, R285, R308, R312, R313: WAITT, RDTL, ECTL and ZSTAT.  A pending MCHECK is taken once. -/
def Obligations.EngineStatus : Prop :=
  ∀ (g : Guard) (e a d pt pf z k item : Nat) (s : State), s.runs g (Uses.scalar [a] []) → s.runs g (Uses.scalar [a] [d]) →
    s.runs g (Uses.scalar [] [d]) → s.runs g Uses.none → e < 5 → (pt = pf → pt = 0) →
    let v := (s.rS a).toNat
    let x := s.here.engine e
    let waits := fun (p : Nat → State → State → Prop) => does (.waitt g e a) s (p 4) ∧ does (.waittLong g e a) s (p 8)
    (x.tl < v → waits fun _ => heldBy (.timeline e v)) ∧
    (v ≤ x.tl → (∀ n sub, (n, sub) ∈ x.pend → v < n) → waits wentOn) ∧
    (∀ n sub rest, v ≤ x.tl → x.pend = (n, sub) :: rest → n ≤ v → handled s → sub < 256 → waits fun _ s t =>
      onlyCore [] s t ∧ t.here.engine e = { x with pend := mapDel x.pend n } ∧
      (∀ f, f ≠ e → t.here.engine f = s.here.engine f) ∧ t.me.pc = s.me.trapvec.toNat ∧
      t.me.trappc = BitVec.ofNat 64 s.me.pc ∧ t.me.traparg = BitVec.ofNat 64 n ∧
      t.me.trapinfo = BitVec.ofNat 64 (0x10 + 2 ^ 9 + 2 ^ 10 * 2 + 2 ^ 12 * e + 2 ^ 16 * sub + 2 ^ 24 * 255) ∧
      ∀ r, t.rS r = s.rS r) ∧
    (v = 0 → handled s → does (.rdtl g d e a) s (tookException 1 9 false 0 s.me.pc)) ∧
    let completed := v ≤ x.tl ∨ v ≤ x.last ∧ ∀ r, r ∈ x.queue → r.num ≠ v
    (v ≠ 0 → ¬ completed → does (.rdtl g d e a) s (heldBy (.word e v))) ∧
    (v ≠ 0 → completed → (∀ w, mapFind x.words v = some w → gives (.rdtl g d e a) s 8 d w) ∧
      (mapFind x.words v = none → handled s → does (.rdtl g d e a) s (tookException 1 9 false 0 s.me.pc))) ∧
    gives (.ectl g e 0 d) s 8 d (BitVec.ofNat 64 (x.queue.countP fun r => !r.member)) ∧
    gives (.ectl g e 8 d) s 8 d (BitVec.ofNat 64 x.last) ∧
    (let running := x.queue.find? fun r => r.started && !r.ended
     gives (.ectl g e 1 d) s 8 d (BitVec.ofNat 64 (match running with | some r => r.num | none => 0)) ∧
     (2 ≤ item → item ≤ 7 → gives (.ectl g e item d) s 8 d
       (BitVec.ofNat 64 (match running with | some r => r.upc.getD (item - 2) 0 | none => 0)))) ∧
    (s.me.waiting = none →
      let names := ∃ r, r ∈ (s.here.engine 0).queue ∧ z ∈ r.patches ∧ r.num ≤ (s.here.engine 0).last
      let early := ∃ c, (s.here.patch z).drained = some c ∧ s.here.clk < c + Config.drainDelay
      (¬ names → ¬ early → givesPair (.zstat g pt pf z k) s 8 pt pf (decide ((s.here.patch z).status.toNat &&& k ≠ 0))) ∧
      (names ∨ early → does (.zstat g pt pf z k) s fun s t => onlyStrand [] s t ∧
        t.me = { s.me with waiting := some (z, (s.here.engine 0).last), hold := some (.patch (s.here.engine 0).last true z) }))

/-- The op of an N record's instruction, with its header and its body. -/
def Sys2Proof.Claims.recordOp : RecOp → RecHdr → BitVec 384 → Instr
  | .mma => .mma | .ocon => .ocon | .mdrain => .mdrain | .mclr => .mclr
  | .cpy => .cpy | .cpys => .cpys | .cfill => .cfill
  | .gath => .gath | .scat => .scat | .merg => .merg | .topk => .topk | .cmpt => .cmpt
  | .nbin => .nbin | .nstrm => .nstrm | .chain => .chain | .rnop => .rnop

/-- The engine of an op: 0 ME, 1 and 2 the copy engines, 3 IE, 4 NE; CHAIN and RNOP name theirs (R242). -/
def Sys2Proof.Claims.engineOf (op : RecOp) (qsel : Nat) : Nat :=
  match op with
  | .mma | .ocon | .mdrain | .mclr => 0
  | .cpy | .cpys | .cfill => 1 + qsel
  | .gath | .scat | .merg | .topk | .cmpt => 3
  | .nbin | .nstrm => 4
  | .chain | .rnop => qsel

/-- The body with the low words of the captured registers of its capture spec (R244). -/
def Sys2Proof.Claims.capturedWord (h : RecHdr) (s : State) (body : BitVec 384) (k : Nat) : BitVec 32 :=
  match (match k with | 2 => h.capt0 | 3 => h.capt1 | 4 => h.capt2 | 5 => h.capt3 | _ => none) with
  | some r => (s.rS r).setWidth 32
  | none => body.extractLsb' (32 * k) 32

/-- R103, R104, R106, R244: every record dispatched by a strand that passes its check (R340) enters the queue of its engine with
the next number and its captured words, and the strand goes on by 64 bytes; a full queue holds it; a fault of the check is
raised precisely and nothing is dispatched.  CHAIN enters with the records of its list before it.
The manual leaves part of it open: log 26. -/
def Obligations.RecordDispatch : Prop :=
  ∀ (op : RecOp) (h : RecHdr) (body : BitVec 384) (s : State),
    s.runs h.guard (Uses.scalar ([h.capt0, h.capt1, h.capt2, h.capt3].filterMap id) []) →
    let i := recordOp op h body
    let c := s.cur.1
    let e := engineOf op h.qsel
    let x := s.here.engine e
    let places := match e with | 0 | 1 | 2 => 16 | 3 => 8 | _ => 4
    let full := places ≤ x.queue.countP (fun r => !r.member) ∨ e = 4 ∧ 64 ≤ s.neLength (dieOf c)
    let held := captured h s.rS body
    (∀ k, k < 12 → held.extractLsb' (32 * k) 32 = capturedWord h s body k) ∧
    (full → does i s (heldBy (.engineQueue c e))) ∧
    (¬ full → ∀ u, s.place c c op h held = .ok u → does i s fun s t => t = u.setPc (s.me.pc + 64) ∧
      (∃ r rs, (u.here.engine e).queue = x.queue ++ rs ++ [r] ∧ r.op = op ∧ r.hdr = h ∧ r.body = held ∧
        r.started = false ∧ r.member = false ∧ (∀ y, y ∈ rs → y.member = true) ∧ (op ≠ .chain → rs = []) ∧
        r.num = x.last + 1 + rs.length) ∧
      (∀ f, f ≠ e → u.here.engine f = s.here.engine f) ∧ u.here.strands = s.here.strands ∧
      ∀ d, d ≠ c → u.core d = s.core d) ∧
    (¬ full → ∀ f, s.place c c op h held = .error f → handled s → f.code ≠ 0x0C → f.priority ≤ 16 → does i s fun s t =>
      onlyStrand [] s t ∧ t.me = s.me.enterHandler { f with src := 1, eng := e } (if f.kindC then s.me.pc + 64 else s.me.pc))

/-- R60, R310: TSPAWN writes its record to the slot at PI of the queue and is answered 0; a full ring answers 1 and a queue that
is disabled or halted 2, with nothing written; its checks are taken in the order of R206.  TRAPARG of a record outside S is the model's
choice: log 52. -/
def Sys2Proof.Claims.taskSpawns : Prop :=
  ∀ (g : Guard) (d a b : Nat) (k : Machine.Task) (s : State), s.runs g (Uses.scalar [a, b] [d]) → taskHere s k → k.pure = false →
    s.here.writes = [] → s.poison = [] →
    let n := (s.rS a).toNat
    let off := (s.rS b).toNat
    let q := s.queue n
    let i := Instr.tspawn g d a b
    let may := tableAllows (mapGet s.queueTables n 0) (.tenant k.tenant) true = true ∧ q.spawn = true
    let answers := fun (v : Word) (s t : State) => t.me = { s.me with pc := s.me.pc + 8, s := t.me.s } ∧
      t.rS d = (if d = 0 then 0 else v) ∧ (∀ r, r ≠ d → t.rS r = s.rS r) ∧ t.here = s.here.setStrand s.cur.2 t.me ∧
      (∀ c, c ≠ s.cur.1 → t.core c = s.core c) ∧ ∀ m, m ≠ n → t.queue m = s.queue m
    (n ≤ 127 → may → off + 64 ≤ Config.sBytes → off % 64 = 0 → s.ringRace (.strand s.cur.1 s.cur.2) (.store s.cur.1 2 off) = none →
      let full := (q.pi - q.ci).toNat = q.slots
      (q.en = false ∨ q.halted = true → gives i s 8 d 2) ∧
      (q.en = true → q.halted = false → full → does i s fun s t => answers 1 s t ∧ sameBytes s t ∧
        t.queue n = { q with full := true } ∧ t = { s with coreTab := t.coreTab, queues := t.queues }) ∧
      (q.en = true → q.halted = false → ¬ full → ∀ u, s.writeSlot n q.pi (bytesAt s.here.s off 64) = some u →
        does i s fun s t => answers 0 s t ∧ sameBytes u t ∧ t = { u with coreTab := t.coreTab, queues := t.queues } ∧
          t.queue n = { q with pi := q.pi + 1, spawnDie := mapPut q.spawnDie q.pi.toNat (dieOf s.cur.1) })) ∧
    (handled s →
      (127 < n → does i s (tookException 1 9 false 0 s.me.pc)) ∧
      (n ≤ 127 → ¬ may → does i s (tookException 0x05 4 false 0 s.me.pc)) ∧
      (n ≤ 127 → may → Config.sBytes < off + 64 →
        does i s (tookException 0x04 0 false (BitVec.ofNat 64 (Max.max off Config.sBytes % 2 ^ 32 * 2 ^ 32)) s.me.pc)) ∧
      (n ≤ 127 → may → off + 64 ≤ Config.sBytes → off % 64 ≠ 0 →
        does i s (tookException 0x07 0 false (BitVec.ofNat 64 off) s.me.pc)))

/-- R104, R311: REQ places a record from S into a queue of another core of its gang, where it takes the next number; the fault
of the check there is precise on the REQ; a full queue holds it, and so does the clock of that core while its own dispatches are not
all numbered; a rank that is not of the gang or not on the die is PERM, SUB 5. -/
def Sys2Proof.Claims.recordRequests : Prop :=
  ∀ (g : Guard) (a b d : Nat) (op : RecOp) (hdr : RecHdr) (body : BitVec 384) (k : Machine.Task) (s : State),
    s.runs g (Uses.scalar [a, b] []) → taskHere s k → k.pure = false → s.here.writes = [] → s.poison = [] →
    let v := (s.rS a).toNat
    let off := (s.rS b).toNat
    let queue := v / 2 ^ 16 % 8
    let c := s.cur.1
    let word := leNat (bytesAt s.here.s off 64)
    let i := Instr.req g a b
    v < 2 ^ 25 → v / 2 ^ 19 % 2 ^ 5 = 0 → queue ≤ 4 → off + 64 ≤ Config.sBytes → off % 64 = 0 →
    s.ringRace (.strand c s.cur.2) (.store c 2 off) = none →
    word % 4 = 3 → word / 4 % 32 = 0 → word.testBit 16 = false → decodeN 0 word = .ok (recordOp op hdr body) →
    engineOf op hdr.qsel = queue → hdr.capt0 = none → hdr.capt1 = none → hdr.capt2 = none → hdr.capt3 = none →
    (s.coreOfRank k (v % 2 ^ 16) = some d → dieOf d = dieOf c → d ≠ c →
      let placed := s.place d (if v.testBit 24 then c else d) op hdr body
      (s.clockOpen d = true → does i s (heldBy (.request d))) ∧
      (s.clockOpen d = false → s.queueFull d queue = true → does i s (heldBy (.engineQueue d queue))) ∧
      (s.clockOpen d = false → s.queueFull d queue = false → ∀ u, placed = .ok u → does i s fun s t =>
        t = (u.setCore d (woken (u.core d))).setPc (s.me.pc + 8)) ∧
      (s.clockOpen d = false → s.queueFull d queue = false → ∀ f, placed = .error f → handled s → f.code ≠ 0x0C → does i s fun s t =>
        onlyStrand [] s t ∧ t.me = s.me.enterHandler { f with src := 1, eng := queue } (if f.kindC then s.me.pc + 8 else s.me.pc))) ∧
    ((s.coreOfRank k (v % 2 ^ 16) = none ∨ ∃ d, s.coreOfRank k (v % 2 ^ 16) = some d ∧ dieOf d ≠ dieOf c) → handled s →
      does i s (tookException 0x05 5 false 0 s.me.pc))


/-- R60, R104, R310, R311: TSPAWN and REQ.
The manual leaves part of it open: log 26. -/
def Obligations.SpawnsAndRequests : Prop := taskSpawns ∧ recordRequests

/-! ## Power, clocks, starts and the mailbox (chapters 01 and 02) -/

/-- Nothing changes. -/
def Sys2Proof.Claims.same (s t : State) : Prop := t = s

/-- Only one host function changes. -/
def Sys2Proof.Claims.onlyFn (f : Nat) (x : Fn) (s t : State) : Prop :=
  t = { s with fns := t.fns } ∧ t.fn f = x ∧ ∀ g, g ≠ f → t.fn g = s.fn g

/-- Only one compute die's registers change. -/
def Sys2Proof.Claims.onlyDie (d : Nat) (x : Die) (s t : State) : Prop :=
  t = { s with dies := t.dies } ∧ t.die d = x ∧ ∀ e, e ≠ d → t.die e = s.die e

/-- The part at step 1 of a cold start (R40, R42): no task, key, queue or core state is left; HBM, which only power removal
clears, and the fuses stay. -/
def Sys2Proof.Claims.coldStart (s t : State) : Prop :=
  t.power = true ∧ t.mbxState = 0 ∧ t.boot = ⟨0, 0, 0, false, 1⟩ ∧ t.startLog = [] ∧ t.tasks = [] ∧ t.graphs = [] ∧
    t.queues = [] ∧ t.coreTab = [] ∧ t.keys = [] ∧ t.results = [] ∧ t.fns = [] ∧ t.ports = [] ∧ t.dies = [] ∧
    t.hbm = s.hbm ∧ t.rollback = s.rollback

/-- The step after step 2: 3, and in a warm start 5, or 6 with every port up (R40). -/
def Sys2Proof.Claims.afterStepTwo (s : State) (n : Nat) : Prop :=
  (s.boot.warm = false → n = 3) ∧
    (s.boot.warm = true → (∀ p, p < 12 → (s.port p).state = 2) → n = 6) ∧
    (s.boot.warm = true → (∃ p, p < 12 ∧ (s.port p).state ≠ 2) → n = 5)

/-- The step of a start fails (R42): a new cold start with one more retry, or after the third the safe state. -/
def Sys2Proof.Claims.stepFailed (k code : Nat) (s t : State) : Prop :=
  (s.boot.retries < 3 → t.mbxState = 0 ∧ t.boot = ⟨k, code, s.boot.retries + 1, false, 1⟩ ∧ t.keys = []) ∧
    (3 ≤ s.boot.retries → t.mbxState = 2 ∧ t.boot = { s.boot with failStep := k, failCode := code }) ∧
    t.coreTab = [] ∧ t.tasks = [] ∧ t.hbm = s.hbm ∧ t.rollback = s.rollback

/-- R18, R26, R40 to R44: power, fundamental reset, and the steps of a start, each with its outcome: step 2 ends with an image alone,
which the part checks; step 5 trains the ports, and those that did not come up are down.
The manual leaves part of it open: log 11, log 12, log 17, log 44. -/
def Obligations.PowerAndStart : Prop :=
  ∀ (code detail : Nat) (w : FwImage) (u : LinkUp) (s : State),
    (s.power = false → does .powerOn s coldStart) ∧
    (s.power = true → s.mbxState ≠ 2 → does .fundamentalReset s coldStart) ∧
    (s.mbxState = 2 → does .fundamentalReset s same) ∧
    (s.power = true → does .powerRemoval s fun s t => t.power = false ∧ t.hbm = [] ∧ t.hbmGen = [] ∧ t.coreTab = [] ∧
      t.keys = [] ∧ t.tasks = [] ∧ t.queues = [] ∧ t.results = [] ∧ t.fns = [] ∧ t.ports = [] ∧ t.dies = [] ∧
      t.poison = [] ∧ t.rollback = s.rollback ∧ t.hostMem = s.hostMem) ∧
    (s.power = true → s.mbxState = 0 → ∀ k, s.boot.step = k →
      (k ≠ 0 → k ≠ 2 → k ≠ 6 → s.boot.warm = false → does (.startStepComplete .done) s fun s t =>
        t = { s with boot := { s.boot with step := k + 1 }, startLog := t.startLog, ports := t.ports } ∧
        (s.startLog.length < 4096 → ∃ e, t.startLog = s.startLog ++ [e]) ∧
        (k ≠ 4 → k ≠ 5 → t.ports = s.ports) ∧
        ∀ p, t.port p =
          if 12 ≤ p ∨ (s.port p).state = 2 then s.port p
          else if k = 4 then { s.port p with state := 1 }
          else if k = 5 then { s.port p with state := 0, width := 0 } else s.port p) ∧
      (k = 2 → does (.startStepComplete .done) s same) ∧
      (k = 6 → does (.startStepComplete .done) s fun s t => t.mbxState = 1 ∧ t.boot.step = 7 ∧ t.tick = 0 ∧ t.clkcnt = 0 ∧
        t.rollback = Max.max s.rollback s.fwVersion ∧ (∀ n, (t.keySlot n).loaded = decide (n = 0)) ∧ t.results = [] ∧
        t.digestCache = [] ∧ (∀ n, (t.queue n).ci = (t.queue n).pi ∧ (t.queue n).fifo = []) ∧
        ∀ f, (t.fn f).session = none) ∧
      (k ≠ 0 → does (.startStepComplete (.failed code detail)) s (stepFailed k code)) ∧
      (k = 2 →
        let keys := Config.sha384 w.rsaPub = Config.fuseF0 ∧ Config.sha384 w.slhPub = Config.fuseF1
        let whole := w.magic = 0x4C475846 ∧ w.length = w.body.length ∧ Config.sha384 w.body = w.digest
        let rsa := Config.rsaVerify w.rsaPub w.rsaSig (FwImage.signed w) = true
        let slh := Config.slhVerify w.slhPub w.slhSig (FwImage.signed w) = true
        let i := Instr.startStepComplete (.image w)
        (¬ keys → does i s (stepFailed 2 4)) ∧ (keys → ¬ rsa → does i s (stepFailed 2 1)) ∧
        (keys → rsa → ¬ slh → does i s (stepFailed 2 2)) ∧ (keys → rsa → slh → ¬ whole → does i s (stepFailed 2 8)) ∧
        (keys → rsa → slh → whole → (w.version < s.rollback ∨ 64 < w.version) → does i s (stepFailed 2 3)) ∧
        (keys → rsa → slh → whole → s.rollback ≤ w.version → w.version ≤ 64 → does i s fun s t =>
          t.fwVersion = w.version ∧ t.fwDigest = w.digest ∧ afterStepTwo s t.boot.step ∧ t.mbxState = 0)) ∧
      (k = 5 → u.port < 12 → u.width ≠ 0 → (s.port u.port).state ≠ 2 → does (.startStepComplete (.links [u])) s fun s t =>
        t.boot.step = 6 ∧ (t.port u.port).state = 2 ∧ (t.port u.port).width = u.width ∧ (t.port u.port).peer = u.peer ∧
        ∀ p, p ≠ u.port → t.port p =
          if 12 ≤ p ∨ (s.port p).state = 2 then s.port p else { s.port p with state := 0, width := 0 }))

/-- The limit that a die takes at the next tick: the least of those decided since the last (R19). -/
def Sys2Proof.Claims.planned (x : Die) (k : Nat) : Option Nat :=
  some (match x.nextK with | some j => Min.min j k | none => k)

/-- A value of `p` among the ratios 4 to 16: the greatest that has it, 4 where none does (R16, R19). -/
def Sys2Proof.Claims.greatestRatio (p : Nat → Prop) (k : Nat) : Prop :=
  4 ≤ k ∧ k ≤ 16 ∧ (p k ∨ k = 4) ∧ ∀ j, k < j → j ≤ 16 → ¬ p j

/-- What an evaluation finds (R19): the ratio of each die's share, and the one of a package limit. -/
def Sys2Proof.Claims.shareRatios (rs : List PowerReading) (own : Nat → Nat) : Prop :=
  ∀ e r, rs[e]? = some r → greatestRatio (fun k => r.draw.getD (k - 4) 0 ≤ Config.dieWatts) (own e)
def Sys2Proof.Claims.limitRatio (rs : List PowerReading) (other : Nat) (own : Nat → Nat) (limit k : Nat) : Prop :=
  greatestRatio (fun j =>
    other + ((List.range 4).map fun e => ((rs[e]?.map fun r => r.draw).getD []).getD (Min.min j (own e) - 4) 0).sum ≤ limit) k

/-- R19, R21: the limit of a die after an evaluation that found `own` and `pkg` for it, `full` at 3,200 W. -/
def Sys2Proof.Claims.evaluated (x : Die) (temp own pkg full : Nat) (y : Die) : Prop :=
  let need := Min.min own pkg
  let hot := fun (z : Die) => if 100 ≤ temp then
    { z with nextK := planned z (Min.min x.limitK 8), causes := z.causes ||| 2 } else z
  let why : BitVec 5 := (if own < x.limitK then 1 else 0) ||| (if pkg < x.limitK then 8 else 0) |||
    (if pkg < x.limitK ∧ pkg < full then 16 else 0)
  (need < x.limitK → y = hot { x with temp := temp, nextK := planned x need, causes := x.causes ||| why }) ∧
    (x.limitK < need → y = hot { x with temp := temp, nextK := planned x (x.limitK + 1) }) ∧
    (x.limitK = need → y = hot { x with temp := temp })

/-- R15, R16, R19 to R21, R42, R177, R213: the heartbeat applies every die's planned limit to its cores, ends the wait of a
fence whose drain ended in an earlier clock and counts the ticks of the others that are held, but does not come before an evaluation that
is due; an evaluation plans the limits that the shares of the dies and the package limit need, and the sensors plan theirs; the trip
enters the safe state.
The manual leaves part of it open: log 11, log 19, log 44. -/
def Obligations.ClocksAndLimits : Prop :=
  ∀ (d temp other : Nat) (rs : List PowerReading) (own : Nat → Nat) (pkg full : Nat) (s : State),
    let due := s.power = true ∧ s.evalTick + 1024 ≤ s.tick
    (s.ready = false ∨ due → does .heartbeatTick s same) ∧
    (s.ready = true → ¬ due → does .heartbeatTick s fun s t => t.tick = s.tick + 1 ∧
      (∀ e, e < 4 → (t.die e).limitK = (s.die e).nextK.getD (s.die e).limitK ∧ (t.die e).nextK = none ∧
        (t.die e).causes = (s.die e).causes) ∧
      (∀ c, mapFind s.coreTab c ≠ none →
        (s.taskOf c = none → (t.core c).ratio = (t.die (dieOf c)).limitK) ∧
        ∀ k, s.taskOf c = some k → (t.core c).ratio = (k.cores.map fun e => (t.die (dieOf e)).limitK).foldl Min.min 16) ∧
      ∀ c j, j < (s.core c).strands.length →
        let x := (s.core c).strand j
        (t.core c).strand j = match x.hold with
          | some (.fence n) =>
            if n < (s.core c).clk then { x with hold := none, heldTicks := 0, scStage := x.scStage + x.scStage % 2 }
            else { x with heldTicks := x.heldTicks + 1 }
          | some _ => { x with heldTicks := x.heldTicks + 1 }
          | none => x) ∧
    (¬ due → does (.powerEvaluation ⟨rs, other⟩) s same) ∧
    (due → rs.length = 4 →
      ((∀ r, r ∈ rs → r.temp < 110) → shareRatios rs own → limitRatio rs other own 3200 full →
        limitRatio rs other own (Min.min (Max.max s.watts.toNat 1200) 3200) pkg →
        does (.powerEvaluation ⟨rs, other⟩) s fun s t => t = { s with evalTick := s.tick, dies := t.dies } ∧
          (∀ e r, rs[e]? = some r → evaluated (s.die e) r.temp (own e) pkg full (t.die e)) ∧
          ∀ e, 4 ≤ e → t.die e = s.die e) ∧
      ((∃ r, r ∈ rs ∧ 110 ≤ r.temp) → does (.powerEvaluation ⟨rs, other⟩) s fun s t => t.mbxState = 2 ∧
        t.boot = { s.boot with failStep := 0, failCode := 9 } ∧ t.coreTab = [] ∧ t.tasks = [])) ∧
    (s.power = true →
      let x := s.die d
      let k := planned x (Min.min x.limitK 8)
      does (.supplyCurrentAlarm d) s (onlyDie d { x with nextK := k, causes := x.causes ||| 4 }) ∧
      (100 ≤ temp → does (.junctionHot d temp) s (onlyDie d { x with temp := temp, nextK := k, causes := x.causes ||| 2 })) ∧
      (110 ≤ temp → does (.thermalTrip d temp) s fun s t => t.mbxState = 2 ∧
        t.boot = { s.boot with failStep := 0, failCode := 9 } ∧ t.coreTab = [] ∧ t.tasks = [] ∧
        (∀ p, (t.port p).state = 0) ∧ t.hbm = s.hbm))

/-- Byte `a` of HBM lies in an enabled watch region, which holds the watch bits (R85, R97). -/
def Sys2Proof.Claims.watchByte (s : State) (a : Nat) : Prop :=
  ∃ d, (mapGet s.watchRegions d ⟨0, false⟩).en = true ∧ (mapGet s.watchRegions d ⟨0, false⟩).base ≤ a ∧
    a < (mapGet s.watchRegions d ⟨0, false⟩).base + 2 ^ 23

/-- Every byte of HBM outside the watch regions is as before. -/
def Sys2Proof.Claims.sameUnwatched (s t : State) : Prop :=
  s.memoryWf = true → ∀ a, ¬ watchByte s a → byteAt t.hbm a = byteAt s.hbm a

/-- A command is taken with its RESULT and results, which MBX_DONE will show (R37). -/
def Sys2Proof.Claims.issued (cmd result : Nat) (bs : List Byte) (x : Fn) : Fn :=
  { x with cmd := BitVec.ofNat 8 cmd, busy := some ⟨cmd, result, BitVec.ofNat 2048 (leNat bs)⟩ }

/-- The command instructions of R38 with their codes. -/
def Sys2Proof.Claims.commandIs (f : Nat) (i : Instr) (c : Nat) : Prop :=
  i = .getStatus f ∧ c = 0x01 ∨ i = .getLog f ∧ c = 0x02 ∨ i = .getAttest f ∧ c = 0x10 ∨ i = .openTransport f ∧ c = 0x11 ∨
    i = .loadKey f ∧ c = 0x20 ∨ i = .revokeKey f ∧ c = 0x21 ∨ i = .assignFn f ∧ c = 0x22 ∨ i = .warmStart f ∧ c = 0x30 ∨
    i = .coldStart f ∧ c = 0x31

/-- R37 to R41, R45, R49: each mailbox command is checked and has its effect when it is taken; MBX_DONE then shows its result.
The manual leaves part of it open: log 5, log 6, log 12, log 18. -/
def Obligations.MailboxCommands : Prop :=
  ∀ (f cmd : Nat) (s : State), s.power = true → f < 64 → cmd < 256 →
    let x := s.fn f
    let arg := fun off n => (x.data.extractLsb' (8 * off) (8 * n)).toNat
    let takes := fun (i : Instr) code result bs => does i s (onlyFn f (issued code result bs x))
    (∀ i c, commandIs f i c →
      (x.busy.isSome = true → does i s (onlyFn f { x with errBusy := true })) ∧
      (x.busy = none → s.mbxState = 2 → c ≠ 0x01 → c ≠ 0x02 → c ≠ 0x31 → takes i c 2 []) ∧
      (x.busy = none → f ≠ 0 → 0x20 ≤ c → takes i c 2 [])) ∧
    (x.busy = none →
      takes (.getStatus f) 0x01 0 (leBytes 4 s.boot.stat.toNat ++ leBytes 4 s.fwVersion ++ leBytes 48 s.fwDigest.toNat ++
        leBytes 1 s.rollback ++ leBytes 1 s.mbxState) ∧
      (let off := arg 0 4
       (off % 256 = 0 → off < 65536 → takes (.getLog f) 0x02 0
         ((List.range 16).flatMap fun i => leBytes 16 (s.startLog.getD (off / 16 + i) 0).toNat)) ∧
       (off % 256 ≠ 0 ∨ 65536 ≤ off → takes (.getLog f) 0x02 3 [])) ∧
      (cmd ∉ [0x01, 0x02, 0x10, 0x11, 0x20, 0x21, 0x22, 0x30, 0x31] → takes (.mbxUnknownCommand f cmd) cmd (if s.mbxState = 2 then 2 else 1) [])) ∧
    (x.busy = none → s.mbxState ≠ 2 →
      (arg 32 8 % 4096 = 0 → reportLength ≤ arg 40 4 → does (.getAttest f) s fun s t =>
        t.fn f = issued 0x10 0 (leBytes 4 reportLength) x ∧
        t = { s.hostWrite f (arg 32 8) (s.report f (leBytes 32 (arg 0 32))) with fns := t.fns }) ∧
      (arg 32 8 % 4096 ≠ 0 ∨ arg 40 4 < reportLength → takes (.getAttest f) 0x10 3 []) ∧
      (let off := arg 0 4
       let bytes := leBytes (Min.min 240 (1568 - off)) (arg 8 (Min.min 240 (1568 - off)))
       (off = 0 → arg 4 4 = 0 → does (.openTransport f) s (onlyFn f { issued 0x11 0 [] x with part := bytes })) ∧
       (off = 1440 → arg 4 4 = 0 → x.part.length = 1440 → does (.openTransport f) s fun s t =>
         t.sessions = s.sessions + 1 ∧ (t.fn f).part = [] ∧
         (t.fn f).session = some (s.sessions + 1, Config.kmac256 (Config.decapsulate s.tkey (x.part ++ bytes))
           (leBytes 8 (s.sessions + 1) ++ leBytes 1 f) [0x4C, 0x44, 0x52, 0x54]) ∧
         ∀ g, g ≠ f → t.fn g = s.fn g) ∧
       (off % 240 ≠ 0 ∨ 1568 ≤ off ∨ arg 4 4 ≠ 0 → takes (.openTransport f) 0x11 3 []))) ∧
    (x.busy = none → s.mbxState ≠ 2 → f = 0 →
      let g := arg 0 2
      let n := arg 2 2
      (g ≠ 0 → g < 64 → n ≠ 0 → n < 512 → does (.assignFn f) s fun s t => t = { s with fns := t.fns } ∧
        t.fn f = issued 0x22 0 [] x ∧ t.fn g = { s.fn g with tenant := n } ∧ ∀ h, h ≠ f → h ≠ g → t.fn h = s.fn h) ∧
      (g = 0 ∨ 64 ≤ g ∨ n = 0 ∨ 512 ≤ n → takes (.assignFn f) 0x22 3 []) ∧
      (g = 0 ∨ 512 ≤ g → takes (.revokeKey f) 0x21 3 []) ∧
      (g ≠ 0 → g < 512 → s.tenantBusy g = true → takes (.revokeKey f) 0x21 4 []) ∧
      (g ≠ 0 → g < 512 → s.tenantBusy g = false → does (.revokeKey f) s fun s t => t.keys = mapDel s.keys g ∧
        t.fn f = issued 0x21 0 [] x ∧ (∀ r, r ∈ t.results → r.tenant ≠ g) ∧ sameUnwatched s t) ∧
      (∀ key kek, g ≠ 0 → g < 512 → n < 64 → (s.fn n).session = some (arg 4 8, kek) →
        let unwrapped := Config.unwrapKeys kek (leBytes 104 (arg 16 104))
        let ends := fun (result : Nat) (t : State) => (t.fn n).session = none ∧
          (t.fn f).busy = some ⟨0x20, result, 0⟩ ∧ t = { s with fns := t.fns, keys := t.keys }
        (unwrapped = none → does (.loadKey f) s fun s t => ends 5 t ∧ t.keys = s.keys) ∧
        (unwrapped = some key → (s.keySlot g).loaded = true → does (.loadKey f) s fun s t => ends 3 t ∧ t.keys = s.keys) ∧
        (unwrapped = some key → (s.keySlot g).loaded = false → does (.loadKey f) s fun s t => ends 0 t ∧
          t.keySlot g = ⟨true, 2 * (key.extractLsb' 0 512).toNat + 1, key.extractLsb' 0 512, key.extractLsb' 512 256⟩ ∧
          ∀ h, h ≠ g → t.keySlot h = s.keySlot h)) ∧
      (s.mbxState ≠ 1 → takes (.warmStart f) 0x30 2 []) ∧
      (s.mbxState = 1 → does (.warmStart f) s fun _ t => t.mbxState = 0 ∧ t.boot.step = 1 ∧ t.boot.warm = true ∧
        t.boot.retries = 0 ∧ t.startLog = [] ∧ t.tasks = [] ∧ t.graphs = [] ∧ (t.fn f).busy = some ⟨0x30, 0, 0⟩ ∧
        ∀ c, c < 256 → (t.core c).task = none ∧ (t.core c).clean = false ∧ (t.core c).writes = [])) ∧
    (x.busy = none → f = 0 → does (.coldStart f) s coldStart) ∧
    (x.busy = none → does (.mbxDone f) s same) ∧
    (∀ r, x.busy = some r → does (.mbxDone f) s fun s t => (t.fn f).busy = none ∧
      (t.fn f).result = BitVec.ofNat 8 r.result ∧ (t.fn f).data = r.data ∧ (∀ g, g ≠ f → t.fn g = s.fn g) ∧
      t = { s with fns := t.fns, hostMem := t.hostMem } ∧
      (s.memoryWf = true → x.en = true → x.backlog = [] → x.ringFull = false →
        (t.fn f).tail = x.tail + 1 ∧ bytesAt t.hostMem (f * 2 ^ 64 + x.evqBase.toNat + 32 * (x.tail % x.entries)) 32 =
          leBytes 2 (2 * 4096 + f) ++ leBytes 2 1 ++ leBytes 4 (mapGet x.seqs (2 * 4096 + f) 0).toNat ++ leBytes 8 0 ++
            leBytes 1 r.cmd ++ leBytes 1 r.result ++ leBytes 13 0 ++ leBytes 1 (1 - x.tail / x.entries % 2)))

/-! ## Host registers, park entries, shootdowns and host memory (chapters 01 to 06 and 10) -/

/-- Only one queue changes. -/
def Sys2Proof.Claims.onlyQueue (n : Nat) (q : Queue) (s t : State) : Prop :=
  t = { s with queues := t.queues } ∧ t.queue n = q ∧ ∀ m, m ≠ n → t.queue m = s.queue m

/-- The spawning dies of the records that wait in a queue whose producer index is `p` (R71). -/
def Sys2Proof.Claims.waitingSpawns (q : Queue) (p : BitVec 32) : Map Nat :=
  q.spawnDie.filter fun e => decide ((BitVec.ofNat 32 e.1 - q.ci).toNat < (p - q.ci).toNat)

/-- The access table of the hub register block grants function `f` reads, or writes (R50, R52). -/
def Sys2Proof.Claims.hubGrants (s : State) (f : Nat) (write : Bool) : Prop :=
  s.hubTable.getLsbD (1024 + 2 * f + write.toNat) = true

/-- An access is refused, and counted in DENIED (R50). -/
def Sys2Proof.Claims.deniedTo (f : Nat) (s t : State) : Prop :=
  onlyFn f { s.fn f with denied := if (s.fn f).denied = 0xFFFF then 0xFFFF else (s.fn f).denied + 1 } s t

/-- A malformed access is dropped, and counted in BADACC (R29). -/
def Sys2Proof.Claims.malformed (f : Nat) (s t : State) : Prop :=
  onlyFn f { s.fn f with badacc := if (s.fn f).badacc = 0xFFFF then 0xFFFF else (s.fn f).badacc + 1 } s t

/-- R7, R21, R27, R29 to R31, R33, R34, R36, R50, R58, R59, R77, R221: writes of registers by the host functions, the producer
index of a queue among them, and function-level reset. -/
def Sys2Proof.Claims.hostRegisters : Prop :=
  ∀ (f n off size : Nat) (hub : Bool) (v : BitVec 64) (w : BitVec 32) (s : State), s.power = true → f < 64 →
    let x := s.fn f
    let q := s.queue n
    let writes := fun off size => Instr.registerWrite f true off size v
    let field := fun {m : Nat} (y : BitVec m) lo k => (y.extractLsb' lo k).toNat
    (does (.functionLevelReset f) s fun s t => t = { s with fns := t.fns } ∧ (t.fn f).en = false ∧ (t.fn f).backlog = [] ∧
      (t.fn f).seqs = [] ∧ (t.fn f).busy = none ∧ (x.busy.isSome = true → (t.fn f).result = 6) ∧
      ∀ g, g ≠ f → t.fn g = s.fn g) ∧
    (n < 128 →
      let may := tableAllows (s.accessTable (.queue n)) (.func f) true = true ∧ q.spawn = false ∧ field v 32 32 = 0
      let p : BitVec 32 := v.setWidth 32
      let ahead := (p - q.ci).toNat
      (¬ may → does (.qpiWrite f n v) s (deniedTo f)) ∧
      (n ≠ 0 ∨ s.notices = [] → may → q.en = false ∨ p = q.pi ∨ ahead ≤ (q.pi - q.ci).toNat ∨ ahead ≤ 2 ^ (Min.min (Max.max q.size 4) 16) →
        does (.qpiWrite f n v) s (onlyQueue n { q with pi := p, spawnDie := waitingSpawns q p })) ∧
      (n ≠ 0 ∨ s.notices = [] → may → q.en = true → p ≠ q.pi → (q.pi - q.ci).toNat < ahead → 2 ^ (Min.min (Max.max q.size 4) 16) < ahead →
        does (.qpiWrite f n v) s fun s t => t.queue n = { q with pi := p, halted := true, ovr := true, spawnDie := waitingSpawns q p } ∧
          (∀ m, m ≠ n → t.queue m = s.queue m) ∧
          t = { s with queues := t.queues, fns := t.fns, hostMem := t.hostMem })) ∧
    (does (.evqCtlWrite f w) s fun s t => (t.fn f).en = w.getLsbD 31 ∧ (t.fn f).vec = field w 10 6 ∧
      (t.fn f).size = (if x.en then x.size else field w 0 5) ∧
      (x.backlog = [] → onlyFn f { x with en := (t.fn f).en, vec := (t.fn f).vec, size := (t.fn f).size } s t)) ∧
    (x.backlog = [] → does (.evqHeadWrite f w) s (onlyFn f { x with head := w, armed := true })) ∧
    (∀ e, x.backlog = [e] → x.en = true → s.memoryWf = true → ({ x with head := w } : Fn).ringFull = false →
      does (.evqHeadWrite f w) s fun s t => (t.fn f).backlog = [] ∧ (t.fn f).head = w ∧ (t.fn f).tail = x.tail + 1 ∧
        (t.fn f).raised = x.raised + 1 ∧ t = { s with fns := t.fns, hostMem := t.hostMem } ∧
        bytesAt t.hostMem (f * 2 ^ 64 + x.evqBase.toNat + 32 * (x.tail % x.entries)) 32 =
          e.bytes (1 - x.tail / x.entries % 2)) ∧
    (size ≠ 4 ∧ size ≠ 8 ∨ off % size ≠ 0 → does (.registerWrite f hub off size v) s (malformed f)) ∧
    (¬ hubGrants s f true →
      does (writes 0x68 8) s (deniedTo f) ∧ (n < 128 → does (.qcfgWrite f n w) s (deniedTo f)) ∧
      does (.savecfgWrite f v) s (deniedTo f)) ∧
    (hubGrants s f true →
      (0x39C00 ≤ off → off % 8 = 0 → does (writes off 8) s same) ∧
      does (writes 0x00 4) s (fun s t => t = { s with watts := v.setWidth 16 }) ∧
      does (writes 0x50 8) s (fun s t => t = { s with sdBase := field v 12 45 * 4096 }) ∧
      does (writes 0x68 8) s (fun s t => t = { s with evtab := v &&& 0x01FFFFFFFFFFF000 }) ∧
      does (writes 0x1300 4) s (fun s t => t = { s with podId := v.setWidth 6 }) ∧
      (n < 64 → does (writes (0x1100 + 8 * n) 8) s fun s t =>
        t = { s with routes := t.routes } ∧ mapGet t.routes n 0xFF = v.setWidth 8) ∧
      (f ≠ 0 → (n < 128 → does (.qcfgWrite f n w) s (deniedTo f)) ∧ does (.savecfgWrite f v) s (deniedTo f)) ∧
      (f = 0 → n < 128 → (n ≠ 0 ∨ s.notices = []) →
        let en := w.getLsbD 31
        let left := waitingSpawns q q.pi
        let tenant := if n = 0 then 0 else field w 18 9
        (q.en = true → does (.qcfgWrite f n w) s (onlyQueue n { q with
          en := en, halted := en && q.halted, spawnDie := left })) ∧
        (q.en = false → does (.qcfgWrite f n w) s (onlyQueue n { q with
          en := en, halted := en && q.halted, space := w.getLsbD 30, tenant := tenant
          prio := if n = 0 then 0 else if field w 27 3 = 0 ∧ tenant ≠ 0 then 1 else field w 27 3
          func := if n = 0 then 0 else field w 12 6, spawn := n != 0 && w.getLsbD 11, size := field w 0 5
          spawnDie := left }))) ∧
      (f = 0 → (∃ p, p ∈ s.tasks ∧ p.2.saved ≠ []) → does (.savecfgWrite f v) s same) ∧
      (f = 0 → (∀ p, p ∈ s.tasks → p.2.saved = []) → does (.savecfgWrite f v) s fun s t =>
        t = { s with saveSlots := field v 52 12, saveFree := field v 52 12, saveBase := field v 16 24 * 2 ^ 16 }))

/-- A slot's virtual bytes meet a range of them. -/
def Sys2Proof.Claims.inRange (h : Handle) (first last : Nat) : Prop :=
  ∃ a b, h.vaRange = some (a, b) ∧ a < last ∧ first < b

/-- An access of [pa, pa + n) in a page of key id `k` is allowed to function `f`: by the tables, granule by granule, and by the key id,
whose slot is loaded (R48, R50). -/
def Sys2Proof.Claims.hostMay (s : State) (f k pa n : Nat) (write : Bool) : Prop :=
  (∀ g, g % 256 = 0 → pa / 256 * 256 ≤ g → g < pa + n → tableAllows (s.hbmTable g) (.func f) write = true) ∧
    (k = s.tenantOfFn f ∨ s.tenantOfFn f = 0) ∧ (s.keySlot k).loaded = true

/-- R12, R21, R48, R50, R94 to R97, R137, R139, R211: parked binds are resolved; a shootdown unbinds the slots of its range at
once and ends when their records have drained; the Larder's registers; reads of DIE_CLK_STAT; host writes and ATS. -/
def Sys2Proof.Claims.hostServices : Prop :=
  ∀ (f i n key pa page pages : Nat) (v : BitVec 64) (bs : List Byte) (s : State), s.power = true → f < 64 →
    let field := fun lo k => (v.extractLsb' lo k).toNat
    let granted := hubGrants s f true
    let chose := fun (a : Nat) (t : State) => t.pkAction = a ∧ t.pkIndex = i ∧ t.parks = mapDel s.parks i
    (f ≠ 0 ∨ ¬ granted → i < 256 →
      does (.pkctlRetry f i) s (deniedTo f) ∧ does (.pkctlDeliver f i) s (deniedTo f) ∧ does (.pkctlAbort f i) s (deniedTo f)) ∧
    (f ≠ 0 ∨ ¬ granted → n < 512 → does (.lpoolWrite f n v) s (deniedTo f) ∧ does (.lquotaWrite f n v) s (deniedTo f)) ∧
    (f ≠ 0 ∨ ¬ granted → n < 4 → does (.lwmapWrite f n v) s (deniedTo f)) ∧
    (¬ granted → does (.shootdown f v) s (deniedTo f)) ∧
    (granted → f = 0 → i < 256 → mapFind s.parks i = none →
      does (.pkctlRetry f i) s same ∧ does (.pkctlDeliver f i) s same ∧ does (.pkctlAbort f i) s same) ∧
    (∀ x, granted → f = 0 → i < 256 → mapFind s.parks i = some x → x.strand < (s.core x.core).strands.length →
      let k := (s.core x.core).strand x.strand
      let others := fun (t : State) => (∀ c, c ≠ x.core → t.core c = s.core c) ∧
        ∀ j, j ≠ x.strand → (t.core x.core).strand j = (s.core x.core).strand j
      does (.pkctlRetry f i) s (fun _ t => chose 0 t ∧ others t ∧
        (t.core x.core).strand x.strand = { k with hold := none, heldTicks := 0 }) ∧
      (k.trapvec ≠ 0 → k.trapinfo.getLsbD 9 = false → x.slot < 256 → does (.pkctlDeliver f i) s fun _ t => chose 1 t ∧ others t ∧
        let y := (t.core x.core).strand x.strand
        y.pc = k.trapvec.toNat ∧ y.trappc = BitVec.ofNat 64 k.pc ∧ y.traparg = BitVec.ofNat 64 x.va ∧ y.hold = none ∧
          y.trapinfo = BitVec.ofNat 64 (0x06 + 2 ^ 9 + 2 ^ 12 * 15 + 2 ^ 24 * x.slot) ∧ y.s = k.s) ∧
      (∀ id task, (s.core x.core).task = some id → s.task? id = some task → task.id.toNat = id → task.aborted = none →
        does (.pkctlAbort f i) s fun _ t => t.pkAction = 2 ∧ t.pkIndex = i ∧ ∃ u, t.task? id = some u ∧ u.aborted = some (0x06, 0))) ∧
    (granted → s.sdBusy = false → v.getLsbD 31 = true → does (.shootdown f v) s fun s t => t.sdBusy = true ∧ t.sdTenant = field 20 9 ∧
      t.sdPages.toNat = field 32 32 ∧
      let first := s.sdBase
      let last := s.sdBase + field 32 32 * 4096
      ∀ c k, s.taskOf c = some k →
        (k.tenant ≠ field 20 9 → t.core c = s.core c) ∧
        (k.tenant = field 20 9 →
          (∀ p, p ∈ (t.core c).handles ↔ p ∈ (s.core c).handles ∧ ¬ inRange p.2 first last) ∧
          ∀ e r, r ∈ ((s.core c).engine e).queue → (∃ b, b ∈ r.binds ∧ inRange b.2 first last) →
            (r.core, r.eng, r.num) ∈ t.sdWait)) ∧
    (granted → (s.sdBusy = true ∨ v.getLsbD 31 = false) → does (.shootdown f v) s fun s t =>
      t = { s with sdPages := v.extractLsb' 32 32, sdTenant := field 20 9 }) ∧
    (let drained := ∀ w, w ∈ s.sdWait → ∀ e, e ∈ (s.core w.1).engines → ∀ r, r ∈ e.2.queue → (r.core, r.eng, r.num) ≠ w
     (s.sdBusy = true → drained → does .shootdownComplete s fun s t => t = { s with sdBusy := false, sdWait := [] }) ∧
     (s.sdBusy = false ∨ ¬ drained → does .shootdownComplete s same)) ∧
    (granted → f = 0 → n < 512 →
      let u := s.dropResults n
      let p := s.pool n
      let desc := field 7 50 * 128
      let others := fun (t : State) => (∀ r, r ∈ t.results → r.tenant ≠ n) ∧ (∀ m, m ≠ n → t.pool m = s.pool m) ∧ sameUnwatched s t
      (v.getLsbD 0 = false → does (.lpoolWrite f n v) s fun _ t => others t ∧
        t.pool n = { p with desc := desc, en := false, runs := [], bytes := 0 }) ∧
      (v.getLsbD 0 = true → u.bindPool n desc = none → does (.lpoolWrite f n v) s fun _ t => others t ∧
        t.pool n = { p with desc := desc, bad := true, en := false, runs := [], bytes := 0 }) ∧
      (∀ rs k, v.getLsbD 0 = true → u.bindPool n desc = some (rs, k) → does (.lpoolWrite f n v) s fun _ t => others t ∧
        t.pool n = { p with desc := desc, bad := false, en := true, runs := rs, bytes := k }) ∧
      (let quotas := ((s.pools.filter fun p => p.1 != n).map fun p => p.2.quota).sum
       (131072 < field 0 18 + quotas → does (.lquotaWrite f n v) s fun s t => t = { s with pools := t.pools } ∧
         t.pool n = { p with qerr := true } ∧ ∀ m, m ≠ n → t.pool m = s.pool m) ∧
       (field 0 18 + quotas ≤ 131072 → does (.lquotaWrite f n v) s fun s t =>
         t.pool n = { p with quota := field 0 18, qerr := p.qerr && !(v.getLsbD 31) } ∧
         (∀ m, m ≠ n → t.pool m = s.pool m) ∧ (∀ r, r ∈ t.results → r ∈ s.results) ∧
         ((∀ r, r ∈ s.results → r.readers = []) → (t.results.countP fun r => r.tenant == n) ≤ field 0 18)))) ∧
    (granted → f = 0 → n < 4 →
      let x := mapGet s.watchRegions n ⟨0, false⟩
      (field 38 2 ≠ n ∨ x.en = true ∧ v.getLsbD 0 = false ∧ s.results ≠ [] → does (.lwmapWrite f n v) s same) ∧
      (field 38 2 = n → x.en = false ∨ v.getLsbD 0 = true → does (.lwmapWrite f n v) s fun s t =>
        t = { s with watchRegions := t.watchRegions } ∧
        mapGet t.watchRegions n ⟨0, false⟩ = ⟨field 23 17 * 2 ^ 23, v.getLsbD 0⟩)) ∧
    (n < 4 → hubGrants s f false → does (.dieClkStatRead f n) s fun s t =>
      t = { s with fns := t.fns, dies := t.dies } ∧ t.die n = { s.die n with minK := (s.die n).limitK } ∧
      (∀ d, d ≠ n → t.die d = s.die d) ∧ (∀ g, g ≠ f → t.fn g = s.fn g) ∧
      t.fn f = { s.fn f with readData := BitVec.ofNat 64 ((s.die n).temp % 256 * 2 ^ 24 + (s.die n).causes.toNat * 2 ^ 16 +
        (s.die n).limitK * 2 ^ 8 + (s.die n).minK) }) ∧
    (n < 4 → ¬ hubGrants s f false → does (.dieClkStatRead f n) s fun s t => t = { s with fns := t.fns } ∧
      (t.fn f).readData = 0xFFFFFFFF ∧ (t.fn f).denied = if (s.fn f).denied = 0xFFFF then 0xFFFF else (s.fn f).denied + 1) ∧
    (s.ready = true → bs ≠ [] →
      (¬ hostMay s f key pa bs.length true → does (.hostMemoryWrite f ⟨key, pa⟩ bs) s (deniedTo f)) ∧
      (hostMay s f key pa bs.length true → s.memoryWf = true → does (.hostMemoryWrite f ⟨key, pa⟩ bs) s fun s t =>
        let outside := fun a => a < pa ∨ pa + bs.length ≤ a
        bytesAt t.hbm pa bs.length = bs ∧ (∀ a, outside a → ¬ watchByte s a → byteAt t.hbm a = byteAt s.hbm a) ∧
        ((∀ g, pa / 4096 ≤ g → g * 4096 < pa + bs.length → s.watched g = false) →
          ∀ a, outside a → byteAt t.hbm a = byteAt s.hbm a) ∧
        t.coreTab = s.coreTab ∧ t.hostMem = s.hostMem ∧ t.fns = s.fns)) ∧
    (let first := f * 2 ^ 52 + page
     let uses := ∃ p, p ∈ s.coreTab ∧ ∃ e, e ∈ p.2.engines ∧ ∃ r, r ∈ e.2.queue ∧ ∃ b, b ∈ r.binds ∧ b.2.desc.space = 5 ∧
       b.2.func = f ∧ inRange b.2 (page * 4096) ((page + pages) * 4096)
     (uses → does (.atsInvalidation f page pages) s same) ∧
     (¬ uses → does (.atsInvalidation f page pages) s fun s t => t = { s with hostPages := t.hostPages } ∧
       ∀ x, x ∈ t.hostPages ↔ x ∈ s.hostPages ∧ ¬ (first ≤ x ∧ x < first + pages)))

/-- R29, R31, R48, R50: reads by the host functions, the next of the agenda: a register's value, or the bytes of package memory; all
ones, counted, where the access is malformed or refused. -/
def Sys2Proof.Claims.hostReading : Prop :=
  ∀ (f key pa n off size : Nat) (hub : Bool) (rest : List Act) (s : State), s.power = true → f < 64 →
    let x := s.fn f
    let ones := BitVec.ofNat 64 (2 ^ (8 * Min.min size 8) - 1)
    let up := fun (c : BitVec 16) => if c = 0xFFFF then 0xFFFF else c + 1
    let reads := fun (a : Act) (p : State → Prop) => s.agenda = a :: rest → ∃ t, step s = .next t ∧ p t
    let only := fun (y : Fn) (t : State) => onlyFn f y { s with agenda := rest } t
    let word := fun (hub : Bool) off size (v : Nat) =>
      reads (.registerRead f hub off size) (only { x with readData := BitVec.ofNat 64 v })
    (size ≠ 4 ∧ size ≠ 8 ∨ off % size ≠ 0 →
      reads (.registerRead f hub off size) (only { x with badacc := up x.badacc, readData := ones })) ∧
    (¬ hubGrants s f false → 0x39C00 ≤ off → size = 8 → off % 8 = 0 →
      reads (.registerRead f true off size) (only { x with denied := up x.denied, readData := ones })) ∧
    (hubGrants s f false →
      word true 0x00 4 s.watts.toNat ∧ word true 0xA0 4 s.boot.stat.toNat ∧ word true 0x1300 4 s.podId.toNat ∧
      word true 0x68 8 s.evtab.toNat ∧
      (n < 12 → word true (0x1000 + 8 * n) 4 (let p := s.port n
        (if p.state = 2 then p.peer else 0) * 2 ^ 26 + p.retrains * 2 ^ 18 + p.width * 2 ^ 10 + p.state)) ∧
      (n < 128 → word true (0x4010 + 32 * n) 4 (s.queue n).pi.toNat ∧ word true (0x4014 + 32 * n) 4 (s.queue n).ci.toNat)) ∧
    word false 0x1000 4 (s.tenantOfFn f * 2 ^ 17 + f) ∧ word false 0x1008 4 (x.denied.toNat * 2 ^ 16 + x.badacc.toNat) ∧
    (n < 32 → word false (0xC00 + 8 * n) 8 (x.data.extractLsb' (64 * n) 64).toNat) ∧
    (s.ready = true → n ≠ 0 → key < 512 → pa + n ≤ Config.hbmBytes →
      (hostMay s f key pa n false →
        reads (.memoryRead f key pa n) (only { x with readBytes := s.hbmRead (s.keySlot key).gen pa n })) ∧
      (¬ hostMay s f key pa n false →
        reads (.memoryRead f key pa n) (only { x with denied := up x.denied, readBytes := List.replicate n 0xFF })))

/-- R7, R12, R21, R27, R29 to R31, R33, R34, R36, R48, R50, R58, R59, R77, R94 to R97, R137, R139, R211, R221: what the host's
register and memory accesses and its invalidations do.
The manual leaves part of it open: log 18, log 37, log 44, log 46. -/
def Obligations.HostAccesses : Prop := hostRegisters ∧ hostServices ∧ hostReading

/-! ## Links, P space and gangs on several packages (chapters 01 and 03) -/

/-- Only one port changes. -/
def Sys2Proof.Claims.onlyPort (p : Nat) (x : Port) (s t : State) : Prop :=
  t = { s with ports := t.ports } ∧ t.port p = x ∧ ∀ q, q ≠ p → t.port q = s.port q

/-- Only one port changes, to one of which `q` holds. -/
def Sys2Proof.Claims.portBecame (p : Nat) (q : Port → Prop) (s t : State) : Prop :=
  t = { s with ports := t.ports } ∧ q (t.port p) ∧ ∀ r, r ≠ p → t.port r = s.port r

/-- A flit of a type that carries no route, as port `x` sends it (R22): its SEQ, its ACK, and a CRC that holds. -/
def Sys2Proof.Claims.sentBy (x : Port) (typ ack : Nat) (f : BitVec 2048) : Prop :=
  Flit.typ f = typ ∧ Flit.seq f = x.sendSeq ∧ Flit.ack f = ack ∧ Flit.vc f = 0 ∧ Flit.dest f = 0 ∧ Flit.src f = 0 ∧
    Flit.hops f = 0 ∧ Flit.crcOk f = true

/-- The flit taken last, which every flit acknowledges (R22). -/
def Sys2Proof.Claims.lastTaken (x : Port) : Nat := (x.expect + 4095) % 4096

/-- Port `x` has answered a flit with IDLE; with NAK for the flit it expects, discarding from here on; with a TRAIN as it begins to
retrain (R22, R24 to R26). -/
def Sys2Proof.Claims.idled (x y : Port) : Prop := ∃ f, sentBy x 0 (lastTaken x) f ∧ y = { x with wire := x.wire ++ [f] }
def Sys2Proof.Claims.discards (x y : Port) : Prop :=
  ∃ f, sentBy x 3 x.expect f ∧ y = { x with discarding := true, wire := x.wire ++ [f] }
def Sys2Proof.Claims.retraining (x y : Port) : Prop :=
  ∃ f, sentBy x 4 (lastTaken x) f ∧ y = { x with state := 1, retrains := Min.min (x.retrains + 1) 255, attempts := 0,
                                                 badReplays := 0, wire := x.wire ++ [f] }

/-- Port `x` has returned one credit of channel `vc` with a CREDIT flit, which stays in its replay buffer (R22, R23). -/
def Sys2Proof.Claims.returned (x : Port) (vc : Nat) (y : Port) : Prop :=
  ∃ f, sentBy x 2 (lastTaken x) f ∧ (∀ v, v < 4 → (f.extractLsb' (64 + 16 * v) 16).toNat = if v = vc then 1 else 0) ∧
    y = { x with sendSeq := (x.sendSeq + 1) % 4096, replay := x.replay ++ [(x.sendSeq, f)], wire := x.wire ++ [f] }

/-- A port after ACK `a`: the flits up to it leave the replay buffer (R22, R24). -/
def Sys2Proof.Claims.afterAck (x : Port) (a : Nat) : Port :=
  let rest := x.replay.filter fun f => decide (2048 ≤ (a + 4096 - f.1 % 4096) % 4096)
  { x with replay := rest, badReplays := if rest.length < x.replay.length then 0 else x.badReplays }

/-- The DATA flit `w` with one more hop at port `x` (R27): it waits for the end of training or a credit of its channel, or has left. -/
def Sys2Proof.Claims.forwarded (w : BitVec 2048) (x y : Port) : Prop :=
  let o : Outgoing :=
    { typ := 1, vc := Flit.vc w, dest := Flit.dest w, src := Flit.src w, hops := Flit.hops w + 1, payload := Flit.payload w }
  let room := 1 ≤ x.credits.getD o.vc 0 ∧ x.replay.length < 256
  (x.state = 1 → y = { x with tx := x.tx ++ [o] }) ∧
    (x.state = 2 → x.tx = [] → x.owed = [0, 0, 0, 0] →
      (¬ room → y = { x with tx := [o] }) ∧
      (room → x.sendSeq < 4096 → x.expect < 4096 → ∃ f, Flit.typ f = 1 ∧ Flit.seq f = x.sendSeq ∧ Flit.ack f = lastTaken x ∧
        Flit.vc f = o.vc ∧ Flit.dest f = o.dest ∧ Flit.src f = o.src ∧ Flit.hops f = o.hops ∧ Flit.payload f = o.payload ∧
        Flit.crcOk f = true ∧
        y = { x with sendSeq := (x.sendSeq + 1) % 4096, replay := x.replay ++ [(x.sendSeq, f)], wire := x.wire ++ [f]
                     credits := x.credits.set o.vc (x.credits.getD o.vc 0 - 1) }))

/-- R22 to R27, R35: a flit is corrected, taken in its turn and delivered, forwarded or, at the fifth hop, discarded, and its credit is
returned as it leaves the receive buffer; one that failed is discarded with a NAK; a NAK starts the replay, and after 8 of one flit the
port retrains; retraining ends up, or failed at the third time.  The port has nothing waiting to be sent and owes no credit. -/
def Sys2Proof.Claims.linkFlits : Prop :=
  ∀ (p width peer : Nat) (raw : BitVec 2048) (s : State), s.power = true →
    let x := s.port p
    let w := Flit.corrected raw
    let field := fun lo n => (w.extractLsb' lo n).toNat
    let typ := field 0 4
    let seq := field 4 12
    let ack := field 16 12
    let vc := field 28 2
    let dest := field 32 6
    let hops := field 44 3
    let next := afterAck { x with expect := (x.expect + 1) % 4096, discarding := false } ack
    let quiet := x.tx = [] ∧ x.owed = [0, 0, 0, 0] ∧ x.sendSeq < 4096 ∧ x.expect < 4096 ∧ x.replay.length < 256
    let flits := [(0, Instr.idle p raw), (1, .data p raw), (2, .credit p raw), (3, .nak p raw), (4, .train p raw)]
    (∀ i, i ∈ flits → (typ ≠ i.1 ∨ x.state ≠ 2) → does i.2 s same) ∧
    ((typ < 5 ∨ x.state ≠ 2) → does (.flitReservedType p raw) s same) ∧
    (x.state = 2 → quiet →
      (∀ i, i ∈ flits → typ = i.1 → Flit.crcOk w = false → does i.2 s (portBecame p (discards x))) ∧
      (5 ≤ typ → does (.flitReservedType p raw) s (portBecame p (discards x)))) ∧
    (x.state = 2 → quiet → Flit.crcOk w = true →
      (typ = 0 → does (.idle p raw) s (portBecame p (idled (afterAck x ack)))) ∧
      (typ = 4 → does (.train p raw) s (portBecame p (idled x))) ∧
      (typ = 2 → seq = x.expect → does (.credit p raw) s (portBecame p (idled { next with
        credits := (List.range 4).map fun v => x.credits.getD v 0 + field (64 + 16 * v) 16 }))) ∧
      (typ = 1 → seq = x.expect →
        (dest = s.podId.toNat →
          (vc ≠ 3 → does (.data p raw) s (portBecame p (idled { next with rx := x.rx ++ [(vc, field 38 6, Flit.payload w)] }))) ∧
          (vc = 3 → does (.data p raw) s (portBecame p (returned next 3)))) ∧
        (dest ≠ s.podId.toNat → 4 ≤ hops → does (.data p raw) s fun s t =>
          t = { s with ports := t.ports, hopDrops := s.hopDrops + 1 } ∧ returned next vc (t.port p) ∧
          ∀ q, q ≠ p → t.port q = s.port q) ∧
        (dest ≠ s.podId.toNat → hops < 4 →
          (s.routePort dest = none → does (.data p raw) s (portBecame p (returned next vc))) ∧
          ∀ q, s.routePort dest = some q → q ≠ p → does (.data p raw) s fun s t => t = { s with ports := t.ports } ∧
            returned next vc (t.port p) ∧ forwarded w (s.port q) (t.port q) ∧ ∀ r, r ≠ p → r ≠ q → t.port r = s.port r)) ∧
      (∀ i, i ∈ flits → i.1 = 1 ∨ i.1 = 2 → typ = i.1 → seq ≠ x.expect → does i.2 s (portBecame p (
        if x.discarding = true ∨ (x.expect + 4096 - seq) % 4096 < 2048 then idled x else discards x))) ∧
      (typ = 3 →
        let y := afterAck x ((ack + 4095) % 4096)
        (y.replay = [] → does (.nak p raw) s (portBecame p (idled y))) ∧
        (y.replay ≠ [] → y.badReplays < 8 → does (.nak p raw) s (onlyPort p
          { y with badReplays := y.badReplays + 1, wire := x.wire ++ y.replay.map fun f => f.2 })) ∧
        (y.replay ≠ [] → 8 ≤ y.badReplays → does (.nak p raw) s (portBecame p (retraining y))))) ∧
    (x.sendSeq < 4096 →
      (x.state = 2 → does (.laneLockLoss p) s (portBecame p (retraining x))) ∧ (x.state ≠ 2 → does (.laneLockLoss p) s same) ∧
      (x.state ≠ 1 → s.mbxState ≠ 2 → does (.retrain p) s (portBecame p (retraining x))) ∧
      (x.state = 1 ∨ s.mbxState = 2 → does (.retrain p) s same)) ∧
    (x.state ≠ 1 ∨ s.starting = true → does (.retrainDone p width peer) s same) ∧
    (x.state = 1 → s.starting = false →
      (x.attempts + 1 < 3 → does (.retrainDone p 0 peer) s (onlyPort p { x with attempts := x.attempts + 1 })) ∧
      (3 ≤ x.attempts + 1 → s.tasks = [] → does (.retrainDone p 0 peer) s fun s t => (t.port p).state = 3 ∧ (t.port p).width = 0 ∧
        ∀ q, q ≠ p → t.port q = s.port q) ∧
      (width ≠ 0 → does (.retrainDone p width peer) s fun s t => (∀ q, q ≠ p → t.port q = s.port q) ∧
        let y := t.port p
        y.state = 2 ∧ y.width = width ∧ y.peer = peer ∧ y.attempts = 0 ∧ y.badReplays = 0 ∧ y.retrains = x.retrains ∧
          y.expect = x.expect ∧ y.discarding = x.discarding ∧ y.rx = x.rx))

/-- The port's access table and the HBM tables allow peer `peer` an access of [pa, pa + n) for tenant `tenant`, and so does the key id of
the page, whose slot is loaded (R48, R50). -/
def Sys2Proof.Claims.peerMay (s : State) (p peer tenant key pa n : Nat) (write : Bool) : Prop :=
  tableAllows (mapGet s.portTables p 0) (.peer peer) write = true ∧ (key = tenant ∨ tenant = 0) ∧ (s.keySlot key).loaded = true ∧
    ∀ g, g % 256 = 0 → pa / 256 * 256 ≤ g → g < pa + n → tableAllows (s.hbmTable g) (.peer peer) write = true

/-- Package memory holds `bs` at `pa` and every other byte outside the watch regions is as before; no core, host byte, register of a
function or queue changed. -/
def Sys2Proof.Claims.hbmHas (pa : Nat) (bs : List Byte) (s t : State) : Prop :=
  bytesAt t.hbm pa bs.length = bs ∧
    (∀ a, a < pa ∨ pa + bs.length ≤ a → ¬ watchByte s a → byteAt t.hbm a = byteAt s.hbm a) ∧
    t.coreTab = s.coreTab ∧ t.hostMem = s.hostMem ∧ t.fns = s.fns ∧ t.queues = s.queues

/-- The receive buffer of port `p` holds a payload of channel `vc` from `peer`, the first of its channel, between `pre` and `post` (R23). -/
def Sys2Proof.Claims.buffered (s : State) (p vc peer : Nat) (pre post : List (Nat × Nat × BitVec 1856)) : Prop :=
  ∃ load, (s.port p).rx = pre ++ (vc, peer, load) :: post ∧ ∀ y, y ∈ pre → y.1 ≠ vc

/-- R12, R23, R27, R47, R48, R50, R178, R299: accesses of peers to this package, each from the receive buffer, checked and then performed
in one step at its home port, and answered on virtual channel 2; a response goes to the strand, or to the load, that awaits it.  The
payload of an answer is laid out by a free function: log 20. -/
def Sys2Proof.Claims.peerAccesses : Prop :=
  ∀ (p peer tenant key pa tag : Nat) (bs : List Byte) (op : RmwOp) (ty : Ty) (v e d : BitVec 64) (bad : Bool)
    (pre post : List (Nat × Nat × BitVec 1856)) (s : State),
    let i := fun r => Instr.pSpaceRequest p peer ⟨tenant, key, pa, r⟩
    (∀ r, s.ready = false ∨ (∀ y, y ∈ (s.port p).rx → y.1 ≠ 1) → does (i r) s same) ∧
    (s.ready = true → bs ≠ [] → buffered s p 1 peer pre post →
      let may := peerMay s p peer tenant key pa
      let n := tyBits ty / 8
      let old := fun n => leNat (s.hbmRead (s.keySlot key).gen pa n)
      let answers := fun (r : PeerOp) (words : List Nat) (q : State → State → Prop) => does (i r) s fun s t =>
        ∃ u, t = u.sendTo 2 peer words ∧ (u.port p).rx = pre ++ post ∧ (∀ r, r ≠ p → u.port r = s.port r) ∧ q s u
      let kept := fun (s u : State) => u = { s with ports := u.ports }
      let refused := fun (r : PeerOp) => answers r [1] fun s u => u = { s with ports := u.ports, peerDenied := s.peerDenied + 1 }
      (may bs.length false → answers (.read bs.length) [0, old bs.length] kept) ∧
      (¬ may bs.length false → refused (.read bs.length)) ∧ (¬ may bs.length true → refused (.write bs)) ∧
      (may bs.length true → s.memoryWf = true → answers (.write bs) [0, 0] (hbmHas pa bs)) ∧
      (tyI4 ty = true →
        (¬ (may n true ∧ may n false) → refused (.rmw n op ty v) ∧ refused (.cas n e d)) ∧
        (may n true → may n false → s.memoryWf = true → s.poison = [] →
          answers (.rmw n op ty v) [0, old n] (hbmHas pa (leBytes n (updated op ty (old n) v.toNat))) ∧
          (old n = e.toNat % 2 ^ (8 * n) → answers (.cas n e d) [0, old n] (hbmHas pa (leBytes n d.toNat))) ∧
          (old n ≠ e.toNat % 2 ^ (8 * n) → answers (.cas n e d) [0, old n] kept)))) ∧
    ((∀ y, y ∈ s.pOut → y.1 ≠ tag) → does (.pSpaceResponse tag v bad) s same) ∧
    (∀ q w, s.pOut.find? (fun y => y.1 == tag) = some (tag, q, w) →
      (s.take 2 q = none → bad = false → does (.pSpaceResponse tag v bad) s same) ∧
      ∀ u, s.take 2 q = some u ∨ s.take 2 q = none ∧ bad = true ∧ u = s →
        let rest := s.pOut.filter fun y => y.1 != tag
        (∀ c k, s.awaiting tag = some (c, k) → k < (s.core c).strands.length →
          (∀ b j l, l ∈ ((s.core b).strand j).loads → l.dst.answer tag v bad = none) → does (.pSpaceResponse tag v bad) s fun s t =>
            t = { u with coreTab := t.coreTab, pOut := rest } ∧
            t.core c = (s.core c).setStrand k { (s.core c).strand k with answer := some (v, bad), hold := none, heldTicks := 0 } ∧
            ∀ b, b ≠ c → t.core b = s.core b) ∧
        (∀ c k lc a d fmt ty neg before after, s.awaiting tag = none → k < (s.core c).strands.length → bad = false →
          ((s.core c).strand k).loads = before ++ ⟨lc, .peerScalar tag a d fmt ty neg⟩ :: after →
          (∀ l, l ∈ before ++ after → l.dst.answer tag v bad = none) →
          (∀ b j l, (b, j) ≠ (c, k) → l ∈ ((s.core b).strand j).loads → l.dst.answer tag v bad = none) →
          does (.pSpaceResponse tag v bad) s fun s t =>
            let got := LoadDst.scalar d (filled ty (if neg then negBits fmt (v.toNat % 2 ^ tyBits ty) else v.toNat))
            t = { u with coreTab := t.coreTab, pOut := rest } ∧
            t.core c = (s.core c).setStrand k { (s.core c).strand k with loads := before ++ ⟨lc, got⟩ :: after } ∧
            ∀ b, b ≠ c → t.core b = s.core b))

/-- R12, R22 to R27, R35, R47, R48, R50, R178: the flits of a port, its retraining, and accesses through P space.
The manual leaves part of it open: log 5, log 13, log 20, log 21, log 44. -/
def Obligations.LinksAndPeers : Prop := linkFlits ∧ peerAccesses

/-- The dispatch decisions (R70) are taken in a state `u` in which `p` holds. -/
def Sys2Proof.Claims.dispatches (p : State → State → Prop) (s t : State) : Prop := ∃ u, t = u.dispatch ∧ p s u

/-- Only one task changes. -/
def Sys2Proof.Claims.onlyTask (k : Machine.Task) (s t : State) : Prop :=
  t = { s with tasks := t.tasks } ∧ t.task? k.id.toNat = some k ∧ ∀ j, j ≠ k.id.toNat → t.task? j = s.task? j

/-- Cores that no task holds. -/
def Sys2Proof.Claims.freed (cs : List Nat) (t : State) : Prop :=
  ∀ c, c ∈ cs → (t.core c).task = none ∧ (t.core c).strands = [] ∧ (t.core c).engines = []

/-- Every core of a task runs it from its entry, with the registers of R113. -/
def Sys2Proof.Claims.entered (k : Machine.Task) (t : State) : Prop :=
  ∀ c, c ∈ k.cores → (t.core c).task = some k.id.toNat ∧ (t.core c).strands.length = k.strands ∧
    ∀ j, j < k.strands → let x := (t.core c).strand j
      x.pc = k.entry ∧ x.reg 1 = BitVec.ofNat 64 j ∧ x.reg 2 = BitVec.ofNat 64 (t.core c).rank ∧
      x.reg 3 = BitVec.ofNat 64 k.gangSize ∧ x.reg 4 = 0 ∧ x.reg 5 = 0 ∧ x.vshape = 0x00200204 ∧ x.hold = none

/-- The messages `ms` have left in order (R75): each goes to the port that leads to its package, and to no other. -/
def Sys2Proof.Claims.told (ms : List PodMsg) (s t : State) : Prop :=
  t = { s with podOut := s.podOut ++ ms, ports := t.ports } ∧
    ∀ q, (∀ m, m ∈ ms → s.routePort m.dest ≠ some q) → t.port q = s.port q

/-- R65, R72, R75, R76, R123, R209, R212: the two-phase start of a pod gang at its launcher and at its peers, its end, its loss, its
pre-emption, and its barrier.  A message is acted on as it is taken from the receive buffer, from state `r` on; without one nothing
happens.  The messages that leave are told in order.  What the messages carry is the model's choice: log 36. -/
def Obligations.PodGangs : Prop :=
  ∀ (p peer attempt tenant prio cause code : Nat) (check : Bool) (task : Word) (rec : BitVec 512) (k : Machine.Task)
    (rest : List Act) (s r : State),
    let msg := fun (dest : Nat) (kind : PodKind) => (⟨dest, kind, task, attempt⟩ : PodMsg)
    let live := (s.peersOf k).filter fun q => !(k.peersDone.contains q)
    let all := fun (kind : PodKind) => live.map fun q => msg q kind
    let heard := fun (i : Instr) (q : State → State → Prop) => ∃ t, exec i s = .next t ∧ q r t
    let gone := fun (t : State) => t.task? task.toNat = none ∧ freed k.cores t
    let heldCores := ∀ c, c ∈ k.cores → (s.core c).task = some task.toNat
    let messages := [Instr.ack peer task attempt, .gangNak peer task attempt, .go peer task attempt,
      .abort peer task ⟨attempt, cause, code⟩, .late peer task attempt, .gangDone peer ⟨task, check⟩]
    (s.take 0 peer = none → ∀ i, i ∈ messages → does i s same) ∧
    (s.take 0 peer = some r → r = { s with ports := r.ports } ∧
      ∃ q pre post, buffered s q 0 peer pre post ∧ (r.port q).rx = pre ++ post) ∧
    (s.task? task.toNat = none → s.peerGangs = [] →
      (s.take 0 peer = some r →
        heard (.ack peer task attempt) (told [msg peer (.abort 0 0)]) ∧ heard (.late peer task attempt) (told [msg peer (.abort 0 0)]) ∧
        heard (.go peer task attempt) (told [msg peer .late]) ∧ heard (.gangNak peer task attempt) same ∧
        heard (.abort peer task ⟨attempt, cause, code⟩) same ∧ heard (.gangDone peer ⟨task, check⟩) same) ∧
      does (.ackTimerExpiry task) s same ∧ does (.reservationTimerExpiry task) s same ∧ does (.retryDelayExpiry task) s same ∧
      ∀ m, does (.podBarrierArrival task m) s fun s t => t = { s with ports := t.ports }) ∧
    (let i := Instr.reserve p peer task attempt rec tenant prio
     let may := tableAllows (mapGet s.portTables p 0) (.peer peer) true = true
     ((s.ready = false ∨ s.takeFrom p 0 peer = none ∨ ∃ x, s.task? task.toNat = some x ∧ x.phase = .stopping) → does i s same) ∧
     (s.ready = true → s.takeFrom p 0 peer = some r →
       (s.task? task.toNat = none →
         (¬ may → heard i (told [msg peer .nak])) ∧
         (may → r.memberTask task attempt rec tenant prio = none → heard i (told [msg peer .nak])) ∧
         (may → r.memberTask task attempt rec tenant prio = some k → k.id = task →
           (k.scope ≠ 2 → heard i (told [msg peer .nak])) ∧
           (k.scope = 2 → heard i (dispatches fun r u =>
             u.task? task.toNat = some k ∧ u.peerGangs = r.peerGangs ++ [⟨peer, task, attempt, 0, false⟩] ∧
             u = { r with tasks := u.tasks, peerGangs := u.peerGangs })))) ∧
       (∀ gang, may → s.task? task.toNat = some k → k.id = task → k.phase ≠ .stopping → s.peerGangs = [gang] → gang.task = task →
         (gang.state = 4 → heard i (dispatches fun r u => u = { r with tasks := u.tasks, peerGangs := u.peerGangs } ∧
           u.peerGangs = [{ gang with attempt := attempt, state := 0 }] ∧ u.task? task.toNat = some { k with attempt := attempt })) ∧
         (gang.state ≠ 4 → heard i same)))) ∧
    (s.task? task.toNat = some k → k.id = task → k.attempt = attempt → k.node = none → mapSorted none s.tasks = true →
      (k.queue < 128 → k.phase = .reserving → s.take 0 peer = some r → peer ∈ live →
        ((∃ q, q ∈ live ∧ q ≠ peer ∧ q ∉ k.acks) →
          heard (.ack peer task attempt) (onlyTask { k with acks := setPut k.acks peer })) ∧
        ((∀ q, q ∈ live → q ≠ peer → q ∈ k.acks) → k.saved = [] → heldCores → heard (.ack peer task attempt) fun r t =>
          t.podOut = r.podOut ++ all .go ∧ entered k t ∧ ∃ u, t.task? task.toNat = some u ∧ u.phase = .running) ∧
        heard (.gangNak peer task attempt) (dispatches fun r u => gone u ∧ u.podOut = r.podOut ++ all (.abort 0x21 0)) ∧
        ((∀ g, g ∈ s.peerGangs → g.task ≠ task) → heard (.abort peer task ⟨attempt, cause, code⟩) (dispatches fun r u =>
          gone u ∧ u.podOut = r.podOut ++ all (.abort cause code)))) ∧
      (k.queue < 128 → k.phase = .reserving → k.ackTimer = true → k.saved = [] →
        does (.ackTimerExpiry task) s (dispatches fun s u =>
          freed k.cores u ∧ u.podOut = s.podOut ++ all (.abort 0 0) ∧ (u.queue k.queue).fifo = task.toNat :: (s.queue k.queue).fifo ∧
          ∃ x, u.task? task.toNat = some x ∧ x.phase = .ready ∧ x.cores = [] ∧ x.acks = [] ∧ x.delayed = true ∧
            x.attempt = (attempt + 1) % 256)) ∧
      (k.delayed = true → does (.retryDelayExpiry task) s (dispatches (onlyTask { k with delayed := false }))) ∧
      (k.queue < 128 → k.phase = .running → s.take 0 peer = some r → peer ∈ live →
        let done := ∀ c, c ∈ k.cores → c ∈ k.doneCores
        (k.broken = false → heldCores → ¬ done → heard (.late peer task attempt) (dispatches fun r u =>
          (∃ x, u.task? task.toNat = some x ∧ x.broken = true ∧ peer ∈ x.peersDone) ∧ ∀ c, c ∉ k.cores → u.core c = r.core c)) ∧
        (done → live = [peer] → heard (.late peer task attempt) (dispatches fun _ u => gone u)) ∧
        (¬ done → heard (.gangDone peer ⟨task, check⟩)
          (dispatches (onlyTask { k with peersDone := setPut k.peersDone peer, peerCheck := k.peerCheck || check }))) ∧
        (done → live = [peer] → heard (.gangDone peer ⟨task, check⟩) (dispatches fun _ u => gone u)) ∧
        ((∀ g, g ∈ s.peerGangs → g.task ≠ task) → heard (.abort peer task ⟨attempt, cause, code⟩) (dispatches fun r u =>
          gone u ∧ u.podOut = r.podOut ++ all (.abort cause code)))) ∧
      (∀ gang, s.peerGangs = [gang] → gang.task = task → gang.attempt = attempt → 128 ≤ k.queue → gang.launcher = peer →
        (s.take 0 peer = some r →
          (gang.state = 1 → k.saved = [] → heldCores → heard (.go peer task attempt) fun _ t =>
            t.peerGangs = [{ gang with state := 2, timer := false }] ∧ entered k t) ∧
          (gang.state ≠ 1 → heard (.go peer task attempt) same) ∧
          (cause ≠ 0 ∨ gang.state ≤ 1 ∧ k.saved = [] → heard (.abort peer task ⟨attempt, cause, code⟩) (dispatches fun _ u =>
            gone u ∧ u.peerGangs = [])) ∧
          (cause = 0 → 2 ≤ gang.state → heard (.abort peer task ⟨attempt, cause, code⟩) same)) ∧
        (gang.state = 1 → gang.timer = true → k.saved = [] → does (.reservationTimerExpiry task) s (dispatches fun _ u =>
          gone u ∧ u.peerGangs = [])) ∧
        (s.agenda = .gangStop peer task :: rest → State.take { s with agenda := rest } 0 peer = some r → peer < 64 →
          gang.state = 2 → k.phase = .running → k.aborted = none →
          ∃ t, step s = .next t ∧ onlyTask { k with phase := .stopping } r t)) ∧
      (k.bgLevel = 4 →
        ((s.peersOf k).findSome? (fun q => s.take 0 q) = none → ∀ m, does (.podBarrierArrival task m) s same) ∧
        ((s.peersOf k).findSome? (fun q => s.take 0 q) = some r →
          (∀ ph, heard (.podBarrierArrival task (.phase ph)) fun r t =>
            t.task? task.toNat = some { k with bg := { k.bg with phase := ph, ca := k.bg.ea, cb := k.bg.eb } } ∧
            ∀ c, c ∈ k.cores → t.core c = woken (r.core c)) ∧
          (∀ n : Nat, k.queue < 128 → n ≠ 0 → k.bg.bytes = 0 → (k.bg.arrivals + n : Int) < k.bg.ca →
            heard (.podBarrierArrival task (.arrivals n))
              (onlyTask { k with bg := { k.bg with ca := k.bg.ca - (k.bg.arrivals + n : Nat), arrivals := 0 } })) ∧
          (∀ n : Nat, k.queue < 128 → n ≠ 0 → k.bg.bytes = 0 → k.bg.ca ≤ (k.bg.arrivals + n : Int) → k.bg.cb ≤ 0 →
            heard (.podBarrierArrival task (.arrivals n)) fun r t =>
              (∃ x, t.task? task.toNat = some x ∧ x.bg.phase = k.bg.phase + 1 ∧ x.bg.arrivals = 0) ∧
              (∀ c, c ∈ k.cores → t.core c = woken (r.core c)) ∧
              t.podOut = r.podOut ++ (s.peersOf k).map fun q => msg q (.barrier (.phase (k.bg.phase + 1)))))))

/-! ## Launches, tasks and the Larder (chapters 03, 04 and 10) -/

/-- The record `bs` waits at the head of queue `n`, which may start its next launch (R61, R62). -/
def Sys2Proof.Claims.waits (s : State) (n : Nat) (bs : List Byte) : Prop :=
  s.ready = true ∧ n < 128 ∧ (s.queue n).en = true ∧ (s.queue n).halted = false ∧ (s.queue n).pi ≠ (s.queue n).ci ∧
    s.readSlot n (s.queue n).ci = some bs ∧ s.notices = []

/-- The queue halts with BADREC (R64, R77). -/
def Sys2Proof.Claims.haltedBad (n : Nat) (s u : State) : Prop :=
  u.queue n = { s.queue n with halted := true, badrec := true } ∧ (∀ m, m ≠ n → u.queue m = s.queue m) ∧
    u = { s with queues := u.queues, fns := u.fns, hostMem := u.hostMem }

/-- The next record of a queue is consumed. -/
def Sys2Proof.Claims.consumed (q : Queue) : Queue :=
  { q with ci := q.ci + 1, taken := q.taken + 1, spawnDie := mapDel q.spawnDie q.ci.toNat }

/-- R57, R61 to R64, R67 to R69, R77: the records of a queue start in order or halt it.  A task enters its FIFO and is in flight;
a graph with a root that can be read enters it; QFENCE and SIGNAL retire as they start.
The manual leaves part of it open: log 34. -/
def Obligations.LaunchRecords : Prop :=
  ∀ (n : Nat) (bs : List Byte) (k : Machine.Task) (g : Graph) (s : State), waits s n bs →
    let q := s.queue n
    let kind := bytesField bs 0 1
    let flags := bytesField bs 1 1
    let id := s.taskId n q.taken 0
    let free := q.flight.length < 64 ∧ (flags.testBit 0 = true ∨ q.flight = [])
    (kind = 1 ∨ kind = 2 ∨ kind = 3 → does (.task n) s (dispatches same)) ∧
    (3 < kind → does (.task n) s (dispatches (haltedBad n)) ∧ does (.graph n) s (dispatches (haltedBad n)) ∧
      does (.qfence n) s (dispatches (haltedBad n)) ∧ does (.signal n) s (dispatches (haltedBad n))) ∧
    (kind = 0 →
      (s.taskOfRecord n id none bs = none → does (.task n) s (dispatches (haltedBad n))) ∧
      (s.taskOfRecord n id none bs = some k → k.id = id → k.queue = n → k.pure = false →
        (¬ free → does (.task n) s (dispatches same)) ∧
        (free → does (.task n) s (dispatches fun s u =>
          u.queue n = { consumed q with flight := q.flight ++ [⟨id, flags.testBit 0⟩], fifo := q.fifo ++ [id.toNat] } ∧
          (∀ m, m ≠ n → u.queue m = s.queue m) ∧
          u.task? id.toNat = some { k with spawnDie := mapFind q.spawnDie q.ci.toNat } ∧
          (∀ j, j ≠ id.toNat → u.task? j = s.task? j) ∧ u = { s with queues := u.queues, tasks := u.tasks })))) ∧
    (kind = 1 →
      (s.graphOfRecord n bs = none → does (.graph n) s (dispatches (haltedBad n))) ∧
      (s.graphOfRecord n bs = some g → ¬ free → does (.graph n) s (dispatches same)) ∧
      (s.graphOfRecord n bs = some g → g.id = id → g.queue = n → free → s.countersFree g.nnodes = true → s.graphs = [] →
        let taken := (s.consume n).launch n id (flags.testBit 0)
        let first := { g with counters := [] }
        (∀ deps, taken.graphDeps g = some deps → (∀ d, d ∈ deps → d ≠ 0) →
          does (.graph n) s (dispatches fun s u => u.graphs = [] ∧
            u.queue n = { consumed q with flight := q.flight.filter fun l => l.id != id } ∧
            u = { s with queues := u.queues, fns := u.fns, hostMem := u.hostMem })) ∧
        (∀ x, taken.graphDeps g = some [0] → (taken.setGraph first).nodeTask first 0 = some x → x.id = id → x.queue = n →
          x.pure = false → does (.graph n) s (dispatches fun _ u => u.task? id.toNat = some x ∧
            u.graphs = [(id.toNat, { first with entered := [0], live := [0] })] ∧
            u.queue n = { consumed q with flight := q.flight ++ [⟨id, flags.testBit 0⟩], fifo := q.fifo ++ [id.toNat] })))) ∧
    (kind = 2 →
      let form := (flags = 0 ∨ flags = 2) ∧ bytesField bs 2 62 = 0
      (¬ form → does (.qfence n) s (dispatches (haltedBad n))) ∧
      (form → q.flight ≠ [] → does (.qfence n) s (dispatches same)) ∧
      (form → q.flight = [] → flags = 0 → does (.qfence n) s (dispatches (onlyQueue n (consumed q)))) ∧
      (form → q.flight = [] → flags = 2 → does (.qfence n) s (dispatches fun s u => u.queue n = consumed q ∧
        mapGet (u.fn q.func).seqs n 0 = mapGet (s.fn q.func).seqs n 0 + 1 ∧
        u = { s with queues := u.queues, fns := u.fns, hostMem := u.hostMem }))) ∧
    (kind = 3 →
      let addr := bytesField bs 8 8
      let form := (flags = 0 ∨ flags = 2) ∧ bytesField bs 2 6 = 0 ∧ bytesField bs 24 40 = 0 ∧ addr % 8 = 0 ∧
        (addr = 0 ∨ s.reachable q.tenant addr 8 false true = true)
      (¬ form → does (.signal n) s (dispatches (haltedBad n))) ∧
      (form → q.flight ≠ [] → does (.signal n) s (dispatches same)) ∧
      (form → q.flight = [] → addr = 0 → flags = 0 → does (.signal n) s (dispatches (onlyQueue n (consumed q)))) ∧
      (∀ v, form → q.flight = [] → addr ≠ 0 → flags = 0 → s.gWrite q.tenant addr ((bs.drop 16).take 8) = .ok v →
        does (.signal n) s (dispatches fun _ u => u.hbm = v.hbm ∧ u.queue n = consumed q)))

/-- R61, R68, R70 to R75, R77, R176, R185, R219, R221, R222, R225, R278, R279: what the scheduler does with tasks that wait, run,
are pre-empted into save slots and end; a member of a pod gang is done only when its P writes are acknowledged. -/
def Sys2Proof.Claims.taskEvents : Prop :=
  ∀ (c : Nat) (task : Word) (k : Machine.Task) (s : State), s.task? task.toNat = some k → k.id = task → k.node = none →
    mapSorted none s.tasks = true →
    let retires := fun (u : State) => u.task? task.toNat = none ∧ freed k.cores u ∧
      (∀ l, l ∈ (u.queue k.queue).flight → l.id ≠ task) ∧ ∀ i, i ∈ (u.queue k.queue).fifo → i ≠ task.toNat
    let released := fun (d : Nat) => k.scope = 2 → (s.core d).writes = [] ∧ s.awaitingAcks = false
    (k.patience = false → (s.queue k.queue).fifo.head? = some task.toNat →
      does (.placementPatienceExpiry task) s (dispatches (onlyTask { k with patience := true }))) ∧
    (k.patience = true → does (.placementPatienceExpiry task) s same) ∧
    does (.coreClearDone c) s (fun s t => t.core c = { s.core c with clearing := false } ∧ t = { s with coreTab := t.coreTab } ∧
      ∀ d, d ≠ c → t.core d = s.core d) ∧
    ((s.core c).task = none → does (.coreDone c) s same ∧ does (.chunkRequest c) s same) ∧
    ((s.core c).task = some task.toNat → k.phase = .running →
      (k.aborted = none → s.peersOf k = [] → c ∉ k.doneCores → (s.core c).strands ≠ [] →
        (∀ x, x ∈ (s.core c).strands → x.tdone = true) → (∀ e, e ∈ (s.core c).engines → e.2.queue = []) →
        (¬ released c → does (.coreDone c) s same) ∧
        (released c → (∃ d, d ∈ k.cores ∧ d ≠ c ∧ d ∉ k.doneCores) →
          does (.coreDone c) s (onlyTask { k with doneCores := setPut k.doneCores c })) ∧
        (released c → (∀ d, d ∈ k.cores → d ≠ c → d ∈ k.doneCores) → k.queue < 128 →
          does (.coreDone c) s (dispatches fun _ u => retires u))) ∧
      (∀ cause code, k.aborted = some (cause, code) → k.queue < 128 → does (.coreDone c) s (dispatches fun _ u => retires u)) ∧
      (k.aborted = none → k.loop = true → (s.core c).place = .awaiting →
        let grants := fun (start n : Nat) (place : LoopPlace) (pc : Nat) (u : Machine.Task) =>
          does (.chunkRequest c) s fun s t => t.task? task.toNat = some u ∧ (t.core c).place = place ∧
            (t.core c).index = start ∧ (t.core c).count = n ∧ (∀ d, d ≠ c → t.core d = s.core d) ∧
            ∀ j, j < (s.core c).strands.length → let x := (t.core c).strand j
              x.pc = pc ∧ x.hold = none ∧ x.knext = false ∧ x.reg 4 = BitVec.ofNat 64 start ∧ x.reg 5 = BitVec.ofNat 64 n ∧
              ∀ r, 5 < r → x.reg r = ((s.core c).strand j).reg r
        (∀ first n rest, k.returned = (first, n) :: rest → grants first n .kernel k.kernel { k with returned := rest }) ∧
        (k.returned = [] → k.rem = 0 → grants 0 0 .epilogue k.epilogue k) ∧
        (k.returned = [] → 0 < k.rem →
          let n := Min.min k.rem (Max.max (Max.max k.minch 1) ((k.rem + 2 * k.gangSize - 1) / (2 * k.gangSize)))
          grants k.next n .kernel k.kernel { k with next := k.next + n, rem := k.rem - n }))) ∧
    (k.phase = .stopping → k.aborted = none → k.queue < 128 → k.cores.length ≤ s.freeSlots.length →
      (∀ d, d ∈ k.cores → released d ∧
        (∀ x, x ∈ (s.core d).strands → (∀ tag, x.hold ≠ some (.response tag)) ∧ ∀ l, l ∈ x.loads → l.dst.pending = false) ∧
        (k.loop = true → (∀ x, x ∈ (s.core d).strands → x.knext = true ∨ x.tdone = true) ∧
          ∀ e, e ∈ (s.core d).engines → e.2.queue = [])) →
      does (.preemptionComplete task) s (dispatches fun s u => freed k.cores u ∧
        (u.queue k.queue).fifo = task.toNat :: (s.queue k.queue).fifo ∧
        (∃ x, u.task? task.toNat = some x ∧ x.phase = .saved ∧ x.cores = [] ∧ x.former = k.cores ∧
          x.saved.length = k.cores.length ∧ ∀ p, p ∈ x.saved → p.2.slot ∈ s.freeSlots) ∧
        ∀ d, k.cores = [d] → s.memoryWf = true →
          bytesAt u.hbm (s.saveBase + 0xC00000 * s.freeSlots.getD 0 0) 12 =
            leBytes 8 task.toNat ++ leBytes 2 k.tenant ++ leBytes 2 (s.core d).rank)) ∧
    (k.phase ≠ .stopping → does (.preemptionComplete task) s same) ∧
    (k.phase = .copying → k.queue < 128 → does (.hitCopyDone task) s (dispatches fun s u => retires u ∧
      (u.pool k.tenant).hits = (let h := (s.pool k.tenant).hits; if h = 0xFFFFFF then h else h + 1))) ∧
    (k.phase ≠ .copying → does (.hitCopyDone task) s same) ∧
    (k.phase = .capture → (∀ d, d ∈ k.cores → d ∈ k.doneCores) → k.void = true → k.queue < 128 → k.windows = [] → s.poison = [] →
      (∀ d, d ∈ k.cores → ∀ e, e ∈ (s.core d).engines → e.2.pend = []) →
      does (.captureDone task) s (dispatches fun s u => retires u ∧
        (u.pool k.tenant).drops = (let h := (s.pool k.tenant).drops; if h = 0xFFFF then h else h + 1))) ∧
    (k.phase ≠ .capture → does (.captureDone task) s same)

/-- R83, R86 to R88: a digest that ends well is the task's and voids nothing; a watch notice in one cycle discards every digest
and entry that covers its granule and voids the keys of the tasks that read it. -/
def Sys2Proof.Claims.larderEvents : Prop :=
  ∀ (task : Word) (part granule : Nat) (d : Digest) (k : Machine.Task) (s : State),
    (s.digestOf task part = none → does (.digestDone task part) s same) ∧
    (s.digestOf task part = some d → s.task? task.toNat = some k → k.id = task → k.void = false → s.poison = [] →
      does (.digestDone task part) s fun s t => d ∉ t.digests ∧ sameUnwatched s t ∧ t.coreTab = s.coreTab ∧
        ∃ x, t.task? task.toNat = some x ∧ mapGet x.digests part 0 = s.digestValue k.tenant d ∧ x.void = false ∧
          x.phase = k.phase) ∧
    (s.digestOf task part = some d → s.task? task.toNat = some k → k.id = task → s.digestPoison d ≠ [] →
      does (.digestDone task part) s fun _ t => d ∉ t.digests ∧ ∃ x, t.task? task.toNat = some x ∧ x.void = true) ∧
    (s.watched granule = false → does (.watchNotice granule) s same) ∧
    (s.watched granule = true → does (.watchNotice granule) s fun s t =>
      (∀ x, x ∈ t.digests ↔ x ∈ s.digests ∧ granule ∉ x.granules) ∧
      (∀ x, x ∈ t.digestCache ↔ x ∈ s.digestCache ∧ granule ∉ x.granules) ∧
      (∀ r, r ∈ t.results ↔ r ∈ s.results ∧ granule ∉ s.extentGranules r.tenant r.block r.blocks) ∧
      (∀ j x, s.task? j = some x → t.task? j =
        some (if granule ∈ x.granules ∧ x.phase ≠ .copying then { x with void := true } else x)) ∧
      (∀ w, w ∈ t.watch → w ∈ s.watch) ∧ sameUnwatched s t ∧
      t = { s with digests := t.digests, digestCache := t.digestCache, results := t.results, tasks := t.tasks, watch := t.watch
                   hbm := t.hbm, hbmGen := t.hbmGen, poison := t.poison })

/-- R61, R68, R70 to R75, R77, R83, R86 to R88, R176, R185, R219, R221, R222, R225, R278, R279: the events of tasks and of the
Larder.  The manual leaves part of it open: log 14, log 23, log 33, log 35, log 46. -/
def Obligations.TasksAndLarder : Prop := taskEvents ∧ larderEvents

/-! ## Engines, holds, loads and errors (chapters 05, 06, 08 and 10) -/

/-- Only one core changes. -/
def Sys2Proof.Claims.onlyCoreIs (c : Nat) (q : Machine.Core) (s t : State) : Prop :=
  t = { s with coreTab := t.coreTab } ∧ t.core c = q ∧ ∀ d, d ≠ c → t.core d = s.core d

/-! ## Iterations of engine records (chapters 07 and 15) -/

/-- Record `r` of kind `op` is the first of engine `e` of core `c`, which runs it; no unit is poisoned. -/
def Sys2Proof.Claims.recordRuns (c e : Nat) (op : RecOp) (r : Rec) (rest : List Rec) (s : State) : Prop :=
  s.enginesRun c = true ∧ ((s.core c).engine e).queue = r :: rest ∧ (∀ y, y ∈ rest → r.num < y.num) ∧ r.core = c ∧ r.eng = e ∧
    r.op = op ∧ r.started = true ∧ r.ended = false ∧ s.neServes r = true ∧ s.poison = []

/-- The first record of an engine becomes one at micro-PC `next` with `count` done, ended if `stops`; no other record changes. -/
def Sys2Proof.Claims.advanced (c e : Nat) (r : Rec) (rest : List Rec) (next : List Nat) (count : Nat) (stops : Bool)
    (also : Rec → Prop) (s t : State) : Prop :=
  (∃ r', (t.core c).engine e = { (s.core c).engine e with queue := r' :: rest } ∧ r'.num = r.num ∧ r'.started = true ∧
    r'.upc = next ∧ r'.count = count ∧ r'.ended = stops ∧ also r') ∧
  (∀ f, f ≠ e → (t.core c).engine f = (s.core c).engine f) ∧ ∀ d, d ≠ c → (t.core d).engines = (s.core d).engines

/-- The iteration leaves the package as `u`, but for the record, which moves on. -/
def Sys2Proof.Claims.iterated (c e : Nat) (r : Rec) (rest : List Rec) (next : List Nat) (count : Nat) (stops : Bool)
    (also : Rec → Prop) (u t : State) : Prop :=
  advanced c e r rest next count stops also u t ∧ t = { u with coreTab := t.coreTab } ∧
    ∀ d, t.core d = { u.core d with engines := (t.core d).engines }

/-- Memory as the engine of a record sees it (R167, R169). -/
def Sys2Proof.Claims.engineSight (r : Rec) (s : State) : State := if r.eng = 4 then s else s.seenBy r.core

/-- The bits of the element at coordinates `x` of a record's operand. -/
def Sys2Proof.Claims.elemIn (r : Rec) (s : State) (h : Handle) (x : List Nat) : Nat := (engineSight r s).readElem h (r.through h x)

/-- Elements delivered through a handle in turn: the bytes that its policy stores are written at once (R144, R167). -/
def Sys2Proof.Claims.elemsPut (r : Rec) (ws : List (Handle × List (List Nat × Nat))) (s : State) : State :=
  ws.foldl (fun s w =>
    let v := engineSight r s
    let es := w.2.map fun y => (r.through w.1 y.1, y.2)
    s.engineWrite r.core (joinBytes (v.gatheredBytes w.1 (v.storeElems w.1 es).1))) s

/-- The byte that elements put at byte `a` of their store through a plain handle: that of the last that covers it. -/
def Sys2Proof.Claims.byteOf (h : Handle) (es : List (List Nat × Nat)) (old : Byte) (a : Nat) : Byte :=
  let n := tyBits h.desc.fmt / 8
  match es.reverse.find? fun x => decide (elemByte h x.1 ≤ a) && decide (a < elemByte h x.1 + n) with
  | some x => (leBytes n x.2).getD (a - elemByte h x.1) 0
  | none => old

/-- R131, R144, R167: what such elements are in bytes, through plain handles of the S store: those read are little-endian, and
those written change the bytes they cover and nothing else. -/
def Sys2Proof.Claims.plainElements : Prop :=
  ∀ (r : Rec) (h : Handle) (es : List (List Nat × Nat)) (x : List Nat) (s : State), plainS h → s.poison = [] →
    (s.core r.core).writes = [] → s.memoryWf = true →
    elemIn r s h x = leNat (bytesAt (s.core h.target).s (elemByte h x) (tyBits h.desc.fmt / 8)) ∧
    let t := elemsPut r [(h, es)] s
    (∀ a, byteAt (t.core h.target).s a = byteOf h es (byteAt (s.core h.target).s a) a) ∧
      t = { s with coreTab := t.coreTab } ∧
      ∀ d, t.core d = { s.core d with s := (t.core d).s } ∧ (d ≠ h.target → (t.core d).s = (s.core d).s)

/-- R353 to R357: one unit of a CFILL or of a CPY is delivered, its elements converted once, those of a block format in whole blocks
with their scales, and the last leaves the result block; a CPY of a compressed source first checks its frames. -/
def Sys2Proof.Claims.copyIterations : Prop :=
  ∀ (c e : Nat) (r : Rec) (rest : List Rec) (sh dh : Handle) (s : State),
    let b := r.body
    let next := nextIndex (copyTrips b) r.upc
    let done := iterated c e r rest (next.getD r.upc) (r.count + 1) next.isNone fun _ => True
    let ys := copyUnitAt b true r.upc
    (recordRuns c e .cfill r rest s → r.bind (bodyAt b 17 1) = some dh →
      does (.engineIteration c e) s fun s t =>
        done (elemsPut r [(dh, ys.map fun y => (y, bodyAt b 24 8 % 2 ^ tyBits dh.desc.fmt))] s) t) ∧
    (recordRuns c e .cpy r rest s → r.bind (bodyAt b 16 1) = some sh → r.bind (bodyAt b 17 1) = some dh → sh.desc.space ≠ 6 →
      let checks := sh.desc.codec ≠ 0 ∨ copyCchk b = true
      (checks → r.val auxSkip = 0 → copyCchk b = false → does (.engineIteration c e) s fun s t =>
        iterated c e r rest r.upc r.count false (fun r' => r'.val auxSkip = 1) s t) ∧
      (¬ checks ∨ r.val auxSkip ≠ 0 → (∀ x, r.scaleOf sh = some x → x.desc.space ≠ 6) →
        (sh.desc.codec ≠ 0 → ∀ ix, next = some ix → (unitFrames b sh r.upc).getLast? ≠ (unitFrames b sh ix).head?) →
        let xs := copyUnitAt b false r.upc
        let frames := (((⟨s, r⟩ : Job).expand sh ((xs.map sh.abs).flatMap sh.desc.elemFrames).eraseDups).1)
        let bits := fun x => if sh.desc.codec = 0 then elemIn r s sh x else sh.desc.expandedElem frames (sh.abs x)
        let scales := fun x => match r.scaleOf sh with
          | some k => (scaleCoords sh.desc.fmt x).map (elemIn r s k)
          | none => []
        let value := fun x => elemValue sh.desc.fmt (scales x) (bits x)
        let blocks := quantUnit dh.desc.fmt 128 (ys.zip (xs.map value))
        let es := if isBlockTy dh.desc.fmt then blocks.elems
          else ys.zip (xs.map fun x => (engineConvert sh.desc.fmt dh.desc.fmt (copyRm b) (copySat b) (bits x) (value x)).1)
        let scaled := match r.scaleOf dh with | some k => [(k, if isBlockTy dh.desc.fmt then blocks.scales else [])] | none => []
        let crc := if copyXcrc b then
            (es.filter fun y => dh.stores (r.through dh y.1)).foldl
              (fun a y => crc32c a (leBytes (tyBits dh.desc.fmt / 8) y.2)) (r.val auxXcrc)
          else 0
        let u := elemsPut r (scaled ++ [(dh, es)]) s
        (next ≠ none ∨ copyRes b = none → does (.engineIteration c e) s fun _ t => done u t) ∧
        (∀ off, next = none → copyRes b = some off →
          (copyXcrc b = true → tyBits dh.desc.fmt % 8 = 0 ∧ r.val auxXlen = 0 ∧ r.val auxXbits = 0) →
          does (.engineIteration c e) s fun _ t => done (u.engineWrite c [(.store c 2 (off + 4),
            leBytes 4 (r.val auxCcrc) ++ leBytes 4 crc ++ leBytes 4 (r.val auxDecode) ++ leBytes 4 (r.val auxPoison) ++
            leBytes 12 0)]) t)))

/-- R122, R346, R349, R358: an iteration of a CPYS pushes one chunk, padded, into its stream, is held while that holds 8, and is
passed over where TRI leaves it out. -/
def Sys2Proof.Claims.chunkIterations : Prop :=
  ∀ (c e : Nat) (r : Rec) (rest : List Rec) (h : Handle) (s : State), recordRuns c e .cpys r rest s →
    r.bind (bodyAt r.body 16 1) = some h → h.desc.space ≠ 6 → (∀ x, r.scaleOf h = some x → x.desc.space ≠ 6) →
    feedOrbit r.body = false →
    let b := r.body
    let next := nextIndex (copyTrips b) r.upc
    let n := feedStream b
    let q := mapGet (s.core c).streams n []
    let x := coordsOf (feedBase b r.upc)
    let along := fun (y : List Nat) dim i => y.set dim (y.getD dim 0 + i)
    let left := fun dim => (r.extents h).getD dim 1 - x.getD dim 0
    let rows := if feedRdim b = 7 then 1 else Min.min (if 4 ≤ n ∧ n < 8 then 128 else 96) (left (feedRdim b))
    let pos := if 8 ≤ n then 1 else Min.min (match bodyBits b 19 2 2 with | 1 => 16 | 2 => 8 | _ => 32) (left (feedKdim b))
    let place := fun row i =>
      let y := if feedRdim b = 7 then x else along x (feedRdim b) row
      if 8 ≤ n then y else along y (feedKdim b) i
    let w := tyBits h.desc.fmt
    (feedSkips b r.upc = true → does (.engineIteration c e) s fun s t =>
      iterated c e r rest (next.getD r.upc) r.count next.isNone (fun _ => True) s t) ∧
    (feedSkips b r.upc = false → 8 ≤ q.length → (s.core c).streamsClosed = false → does (.engineIteration c e) s same) ∧
    (feedSkips b r.upc = false → q.length < 8 → does (.engineIteration c e) s fun s t =>
      advanced c e r rest (next.getD r.upc) (r.count + 1) next.isNone (fun _ => True) s t ∧ t = { s with coreTab := t.coreTab } ∧
      (∀ d, d ≠ c → t.core d = s.core d) ∧
      t.core c = { s.core c with engines := (t.core c).engines, streams := (t.core c).streams } ∧
      (∀ m, m ≠ n → mapGet (t.core c).streams m [] = mapGet (s.core c).streams m []) ∧
      ∃ k, mapGet (t.core c).streams n [] = q ++ [k] ∧
        (k.slot = bodyAt b 16 1 ∧ k.rdim = feedRdim b ∧ k.kdim = feedKdim b ∧ k.orbit = false ∧ k.chan = e ∧ k.num = r.num ∧
          k.upc = r.upc ∧ k.fmt = h.desc.fmt ∧ k.rows = rows ∧ k.pos = pos) ∧
        ∀ row i, row < rows → i < pos →
          bitsAt k.data (w * (if 8 ≤ n then row else 32 * row + i)) w = elemIn r s h (place row i))

/-- The accumulator of row `row` and column `col` of patch `z`, or of the pair from `z` on (R343). -/
def Sys2Proof.Claims.accumulator (kind : PatchKind) (q : Machine.Core) (z row col : Nat) : BitVec 64 :=
  match kind with
  | .fp64 => if col < 64 then (q.zRow z row).extractLsb' (64 * col) 64 else (q.zRow (z + 1) row).extractLsb' (64 * (col - 64)) 64
  | _ => ((q.zRow z row).extractLsb' (32 * col) 32).setWidth 64

/-- An accumulator's code in its width. -/
def Sys2Proof.Claims.accumulated (kind : PatchKind) (v : Nat) : BitVec 64 :=
  match kind with | .fp64 => BitVec.ofNat 64 v | _ => (BitVec.ofNat 32 v).setWidth 64

/-- The value at row `row`, position `i` of a chunk, its scales applied: by its source, or, where its tag is another's, by its bytes in
format `ty` with `rows` rows (R200, R349). -/
def Sys2Proof.Claims.chunkValue (k : Chunk) (mixed : Prop) [Decidable mixed] (ty : Ty) (rows row i : Nat) : Machine.Num :=
  let f := if mixed then ty else k.fmt
  let m := scalesPerBlock f
  elemValue f ((List.range m).map fun j =>
      if mixed then bitsAt k.data (tyBits f * 32 * rows + 8 * (m * row + j)) 8 else k.scales.getD (m * (32 * row + i) + j) 0)
    (bitsAt k.data (tyBits f * (32 * row + i)) (tyBits f))

/-- R122, R344 to R349: an iteration of MMA or OCON accumulates one group of the first chunks of its streams into every cell that is
no padding; it is held while a stream it needs is empty, and ends with CHUNKMIX where nothing can fill it. -/
def Sys2Proof.Claims.productIterations : Prop :=
  ∀ (c e k size : Nat) (op : RecOp) (kind : PatchKind) (ix : List Nat) (ha hb : Handle) (r : Rec) (rest : List Rec) (s : State),
    op = .mma ∨ op = .ocon → recordRuns c e op r rest s → r.bind (bodyAt r.body 17 1) = some ha →
    r.bind (bodyAt r.body 18 1) = some hb → productClass ha.desc.fmt hb.desc.fmt = some (kind, size) →
    r.upc = ix ++ [k] → ix.length = 3 →
    let b := r.body
    let kk := bodyAt b 20 4
    let spn := bodyBits b 16 6 2
    let sa := bodyBits b 16 0 2
    let sb := 4 + bodyBits b 16 2 2
    let sm := 8 + bodyBits b 16 5 1
    let stream := fun (t : State) n => mapGet (t.core c).streams n []
    let ends := fun (also : Rec → Prop) => does (.engineIteration c e) s fun s t =>
      iterated c e r rest r.upc r.count true also s t
    (kk = 0 → ends fun _ => True) ∧
    (∀ n, kk ≠ 0 → n = sa ∧ stream s sa = [] ∨ n = sb ∧ stream s sa ≠ [] ∧ stream s sb = [] ∨
        n = sm ∧ spn ≠ 0 ∧ stream s sa ≠ [] ∧ stream s sb ≠ [] ∧ stream s sm = [] →
      ((s.core c).starved n = false → does (.engineIteration c e) s same) ∧
      ((s.core c).starved n = true → ends fun r' => r'.flags.getLsbD 15 = true)) ∧
    (∀ ca cb as bs, kk ≠ 0 → stream s sa = ca :: as → stream s sb = cb :: bs → (spn ≠ 0 → stream s sm ≠ []) →
      let z := (mmaPatch b ix).toNat
      let lo := k % 32
      let hi := Min.min (lo + size) (kk - (k - lo))
      let mixA := ca.slot ≠ bodyAt b 17 1 ∨ ca.orbit ≠ decide (op = .ocon)
      let mixB := cb.slot ≠ bodyAt b 18 1 ∨ cb.orbit ≠ decide (op = .ocon)
      let mask := fun row => match stream s sm with | m :: _ => bitsAt m.data (32 * row) 32 | [] => 0
      let places := fun row => if spn = 0 then (List.range 32).map fun i => (i, i)
        else ((((List.range 32).filter fun i => (mask row).testBit i).take (match spn with | 1 => 16 | 2 => 8 | _ => 32)).zipIdx).map
          fun p => (p.2, p.1)
      let terms := fun row col =>
        ((places row).filter fun p => lo ≤ p.2 ∧ p.2 < hi ∧ p.1 < ca.pos ∧ p.2 < cb.pos).map fun p =>
          (chunkValue ca mixA ha.desc.fmt 96 row p.1, chunkValue cb mixB hb.desc.fmt 128 col p.2,
            if op = .ocon ∧ ¬ mixA ∧ ¬ mixB ∧ ca.weights ≠ [] then ca.weights.getD p.1 1 else (1 : Int))
      let turned := mmaXpose b = true ∧ (ca.rdim ≠ cb.rdim ∨ ca.kdim ≠ cb.kdim)
      let mine := fun y => y = z ∨ kind = .fp64 ∧ y = z + 1
      let last := kk ≤ k + size
      let popped := last ∨ (k + size) % 32 = 0
      let after := nextIter (mmaIters b) ix
      let next := if last then (match after with | some iy => iy ++ [0] | none => ix ++ [kk]) else ix ++ [k + size]
      does (.engineIteration c e) s fun s t =>
        advanced c e r rest next (r.count + 1) (decide last && after.isNone)
          (fun r' => mixA ∨ mixB → r'.flags.getLsbD 15 = true) s t ∧
        t = { s with coreTab := t.coreTab } ∧ (∀ d, d ≠ c → t.core d = s.core d) ∧
        t.core c = { s.core c with engines := (t.core c).engines, z := (t.core c).z, patches := (t.core c).patches
                                   streams := (t.core c).streams } ∧
        (∀ row col, row < 96 → col < 128 → accumulator kind (t.core c) z row col =
          let old := accumulator kind (s.core c) z row col
          if row < ca.rows ∧ col < cb.rows then accumulated kind (groupCell kind old.toNat (terms row col)) else old) ∧
        (∀ y row, row < 96 → ¬ mine y → (t.core c).zRow y row = (s.core c).zRow y row) ∧
        (∀ y, (t.core c).patch y =
          let p := (s.core c).patch y
          if mine y then { p with written := true, broken := p.broken || decide turned
                                  status := if turned then p.status ||| 4 else p.status } else p) ∧
        ∀ n, stream t n = if popped ∧ (n = sa ∨ n = sb ∨ n = sm ∧ spn ≠ 0) then (stream s n).drop 1 else stream s n)

/-- R313, R343, R350, R351: an iteration of an MDRAIN delivers one row of its patch, each part of a pair by itself, and sets the
status of the patch; with NANSKIP, a part that holds a NaN is passed over whole. -/
def Sys2Proof.Claims.drainIterations : Prop :=
  ∀ (c e row : Nat) (ix : List Nat) (r : Rec) (rest : List Rec) (h : Handle) (s : State), recordRuns c e .mdrain r rest s →
    r.bind (bodyAt r.body 16 1) = some h → h.desc.sym = [] ∨ h.desc.policy ≠ 2 →
    (∀ x, r.scaleOf h = some x → x.desc.sym = [] ∨ x.desc.policy ≠ 2) → r.upc = ix ++ [row] → ix.length = 3 →
    let b := r.body
    let kind := r.drainKind ix
    let z := (drainPatch b ix).toNat
    let columns := fun (n : Nat) (lo hi : Nat) => (((s.accCells kind c z n).take hi).drop lo)
    let parts := match kind with
      | .fp64 => [(z, 0, Min.min 64 (drainCols b)), (z + 1, 64, Max.max 64 (drainCols b))]
      | _ => [(z, 0, drainCols b)]
    let nan := fun (lo hi : Nat) => (List.range (drainRows b)).any fun n => (columns n lo hi).any fun v => accValue kind v == .nan
    let skips := fun (p : Nat × Nat × Nat) => drainNanSkip b && nan p.2.1 p.2.2
    let block := isBlockTy h.desc.fmt
    let places := fun (p : Nat × Nat × Nat) => ((drainRow b ix row).take p.2.2).drop p.2.1
    let out := fun (p : Nat × Nat × Nat) => (columns row p.2.1 p.2.2).map (drainElem b kind h.desc.fmt)
    let blocks := fun (p : Nat × Nat × Nat) => quantUnit h.desc.fmt 4
      ((places p).zip ((columns row p.2.1 p.2.2).map fun v => (accValue kind v).scale (drainScale b)))
    let es := fun p => if block then (blocks p).elems else (places p).zip ((out p).map fun v => v.1)
    let scaled := fun p => match r.scaleOf h with | some x => [(x, if block then (blocks p).scales else [])] | none => []
    let stats := fun p => if block then (if (blocks p).stats.any fun v => v.1 == wSAT then 8 else 0)
      else (out p).foldl (fun a v => a ||| v.2) 0
    let first := row = 0 ∧ ∀ iy, iy ∈ drainIters b → drainPatch b iy = drainPatch b ix → iy = ix ∨ indexGe ix iy = false
    let status := fun (p : Nat × Nat × Nat) (x : Patch) =>
      (if first then 0 else x.status) ||| BitVec.ofNat 4 ((if row = 0 ∧ nan p.2.1 p.2.2 = true then 1 else 0) |||
        (if row = 0 ∧ x.broken = true then 4 else 0) ||| (if skips p then 0 else stats p))
    let part := fun (u : State) (p : Nat × Nat × Nat) =>
      let v := elemsPut r (if skips p then [] else scaled p ++ [(h, es p)]) u
      v.setCore c ((v.core c).setPatch p.1 { (v.core c).patch p.1 with status := status p ((v.core c).patch p.1) })
    let stored := fun (p : Nat × Nat × Nat) =>
      if skips p then 0 else ((es p).filter fun y => h.stores (r.through h y.1)).length
    let more := parts.any (fun p => !(skips p)) && decide (row + 1 < drainRows b)
    let after := nextIter (drainIters b) ix
    let next := if more then ix ++ [row + 1] else match after with | some iy => iy ++ [0] | none => ix ++ [drainRows b]
    does (.engineIteration c e) s fun s t =>
      iterated c e r rest next (r.count + (parts.map stored).sum) (!more && after.isNone) (fun _ => True) (parts.foldl part s) t

/-- R360 to R363: an iteration of GATH or SCAT moves one row by its index, or skips it; MERG copies the record of the least key, the
lowest input first; TOPK chooses at once, the better keys first and equal ones by index; CMPT keeps a flagged row. -/
def Sys2Proof.Claims.indexIterations : Prop :=
  ∀ (c e k i : Nat) (r : Rec) (rest : List Rec) (h0 h1 h2 : Handle) (s : State),
    r.bind (bodyAt r.body 16 1) = some h0 → h0.desc.space ≠ 6 →
    let b := r.body
    let two := r.bind (bodyAt b 17 1) = some h1 ∧ h1.desc.space ≠ 6
    let elem := elemIn r s
    let row := fun (w x0 x1 : Nat) => (List.range w).map fun j => [x0 + j, x1, 0, 0, 0, 0]
    let ran := fun (ws : List (Handle × List (List Nat × Nat))) (next : List Nat) (count : Nat) (stops : Bool) (also : Rec → Prop) =>
      does (.engineIteration c e) s fun s t => iterated c e r rest next count stops also (elemsPut r ws s) t
    (two → r.bind (bodyAt b 18 1) = some h2 → h2.desc.space ≠ 6 → r.upc = [0, 0, 0, k] →
      (recordRuns c e .gath r rest s ∨ recordRuns c e .scat r rest s →
        let j := indexValue h1.desc.fmt (elem h1 [bodyWord b 0 + k, 0, 0, 0, 0, 0])
        let w := gathWidth b
        let table := row w (bodyWord b 2) j.toNat
        let side := row w (bodyWord b 3) (bodyWord b 1 + k)
        let stops := decide (gathRows b ≤ k + 1)
        let moved := r.val auxOut
        let skipped := r.val auxSkip
        let count := fun a n => a % 2 ^ 24 + 2 ^ 24 * (n % 2 ^ 24)
        (j < 0 ∨ ((r.extents h0).getD 1 1 : Int) ≤ j →
          ran [] [0, 0, 0, k + 1] (count moved (skipped + 1)) stops fun r' => r'.flags.getLsbD 6 = true) ∧
        (0 ≤ j → j < ((r.extents h0).getD 1 1 : Int) →
          (r.op = .gath → ran [(h2, side.zip (table.map (elem h0)))] [0, 0, 0, k + 1] (count (moved + 1) skipped) stops fun _ => True) ∧
          (r.op = .scat → ran [(h0, (table.zip side).map fun p =>
            (p.1, if gathAdd b then rmwResult .add h0.desc.fmt (elem h0 p.1) (elem h2 p.2) else elem h2 p.2))]
              [0, 0, 0, k + 1] (count (moved + 1) skipped) stops fun _ => True))) ∧
      (recordRuns c e .cmpt r rest s →
        let kept := (elem h1 [bodyWord b 1 + k, 0, 0, 0, 0, 0] != 0) != (bodyBits b 19 0 1 == 1)
        let out := r.val auxOut
        let w := cmptWidth b
        let stops := decide (cmptRows b ≤ k + 1)
        (kept = true → ran [(h2, (row w 0 (bodyWord b 2 + out)).zip ((row w 0 (bodyWord b 0 + k)).map (elem h0)))]
          [0, 0, 0, k + 1] (out + 1) stops fun r' => r'.val auxOut = out + 1) ∧
        (kept = false → ran [] [0, 0, 0, k + 1] r.count stops fun r' => r'.val auxOut = out))) ∧
    (recordRuns c e .merg r rest s → two →
      let w := mergBytes b
      let out := r.val auxOut
      let taken := fun j => r.val (auxInput + j)
      let live := fun j => j < mergInputs b ∧ taken j < r.val (auxCount j)
      let at_ := fun j => r.val (auxStart j) + taken j
      let key := fun j => mergKeyOf (mergKey b) (packElems 8 ((row 8 0 (at_ j)).map (elem h0)))
      let open_ := mergMax b = 0 ∨ out < mergMax b
      (open_ → live i → (∀ j, live j → keyLess (key j) (key i) = false ∧ (j < i → keyLess (key i) (key j) = true)) →
        ran [(h1, (row w 0 (bodyWord b 0 + out)).zip ((row w 0 (at_ i)).map (elem h0)))] [0, 0, 0, out + 1] (out + 1) false
          fun r' => r'.val auxOut = out + 1 ∧ ∀ j, j < 16 → r'.val (auxInput + j) = taken j + if j = i then 1 else 0) ∧
      (¬ open_ ∨ (∀ j, ¬ live j) → does (.engineIteration c e) s fun s t =>
        iterated c e r rest r.upc r.count true (fun _ => True)
          (s.engineWrite c [(.store c 2 (mergTab b + 128), (List.range (mergInputs b)).flatMap fun j => leBytes 4 (taken j))]) t)) ∧
    (recordRuns c e .topk r rest s → topkK b ≤ topkN b → (topkValues b = true → r.bind (bodyAt b 17 1) = some h1) →
      (topkIndices b = true → r.bind (bodyAt b 18 1) = some h2) →
      let bits := fun j => elem h0 [bodyWord b 0 + j, 0, 0, 0, 0, 0]
      let num := fun j => let v := elemValue h0.desc.fmt [] (bits j); if topkMag b then v.abs else v
      let better := fun i j => cmpNum (num i) (num j) = some (if topkSmallest b then .lt else .gt)
      let before := fun i j => better i j ∨ ¬ better j i ∧ i < j
      (∀ j, j < topkN b → elemValue h0.desc.fmt [] (bits j) ≠ .nan) →
      ∃ chosen : List Nat, chosen.length = topkK b ∧ (∀ j, j ∈ chosen → j < topkN b) ∧ chosen.Pairwise before ∧
        (∀ i j, i ∈ chosen → j < topkN b → j ∉ chosen → before i j) ∧
        let ys := row (topkK b) (bodyWord b 1) 0
        ran ((if topkValues b then [(h1, ys.zip (chosen.map bits))] else []) ++ (if topkIndices b then [(h2, ys.zip chosen)] else []))
          r.upc (topkK b) true fun _ => True)

/-- R151 to R157: the pair records of a particle `i` of cell `k` are those of the particles of its stencil within the cut-off. -/
def Sys2Proof.Claims.pairRecords : Prop :=
  ∀ (k i : Nat) (io : Bool) (p g : Handle) (r : Rec) (bs : List Byte) (s : State), s.poison = [] → p.desc.space = 4 →
    g.desc.space = 4 →
    let b := r.body
    let x : Job := ⟨s, r⟩
    let at_ := fun j => [[0, j, 0, 0, 0, 0], [1, j, 0, 0, 0, 0], [2, j, 0, 0, 0, 0]].map (elemIn r s p)
    (bs ∈ (x.pairsOf p g k i io).1 ↔ ∃ d m, d ∈ stencil b k ∧ m ∈ (x.members g d).1 ∧ m.1 < particles b ∧ m.1 ≠ i ∧
      (fullList b = true ∨ i < m.1) ∧
      let v := imageDist b (at_ i) (at_ m.1)
      withinSquare v.2.2.2.1 (cutSquare b) = true ∧
        bs = pairBytes i m.1 v.1 v.2.1 v.2.2.1 v.2.2.2.1 (v.2.2.2.2.toNat + 2 * io.toNat + 4 * m.2.toNat) k)

/-- R153 to R158, R163, R364, R365: an iteration of NBIN clears a cell or enters a particle, and the last writes the header, VALID
last; one of NSTRM publishes a block in the next slot of a consumer ring, and is held while that is not free. -/
def Sys2Proof.Claims.neighbourIterations : Prop :=
  ∀ (c e i : Nat) (r : Rec) (rest : List Rec) (p rf g : Handle) (s : State), r.bind (bodyAt r.body 16 1) = some p →
    r.bind (bodyAt r.body 17 1) = some rf → r.bind (bodyAt r.body 18 1) = some g → p.desc.space = 4 → rf.desc.space = 4 →
    g.desc.space = 4 →
    let b := r.body
    let words := fun (ws : List (Nat × Nat)) => (g, ws.map fun w => ([w.1, 0, 0, 0, 0, 0], w.2))
    let novf := r.val auxOut
    let st := r.val auxStatus
    let lost := r.val auxSkip
    (recordRuns c e .nbin r rest s → r.upc = [0, i, 0, 0] →
      let w := cellWord b i
      let cell := words ([(w, 0), (w + 1, 0)] ++ (List.range (cellCapacity b)).map fun j => (w + 2 + j, 0xFFFFFFFF))
      let first := words ((3, 0) :: (2, 0) :: (List.range 8).map fun j => (8 + j, 0))
      does (.engineIteration c e) s fun s t =>
        iterated c e r rest (if i + 1 < 2 ^ cellBits b then [0, i + 1, 0, 0] else [1, 0, 0, 0]) r.count false (fun _ => True)
          (elemsPut r (if i = 0 then [first, cell] else [cell]) s) t) ∧
    (recordRuns c e .nbin r rest s → r.upc = [1, i, 0, 0] →
      let axes := [[0, i, 0, 0, 0, 0], [1, i, 0, 0, 0, 0], [2, i, 0, 0, 0, 0]]
      let at_ := axes.map (elemIn r s p)
      let placed := (rf, axes.zip at_)
      let u := elemsPut r [placed] s
      let w := cellWord b (cellOf b at_)
      let grid := fun j => elemIn r u g [j, 0, 0, 0, 0, 0]
      let n := grid w
      let case : List (Nat × Nat) × Nat × Nat × Nat :=
        if n < cellCapacity b then ([(w + 2 + n, i), (w, n + 1)], novf, lost, st)
        else if novf < 4096 then
          ([(16 + 2 * novf, i), (17 + 2 * novf, cellOf b at_), (2, novf + 1), (w + 1, grid (w + 1) + 1), (3, st ||| 1)],
            novf + 1, lost, st ||| 1)
        else ([(8, lost + 1), (3, st ||| 2)], novf, lost + 1, st ||| 2)
      let stops := decide (particles b ≤ i + 1)
      let header := if stops then [words [(0, geomWord b), (1, particles b), (4, edgeBits b 0), (5, edgeBits b 1),
          (6, edgeBits b 2), (7, skinBits b)], words [(3, case.2.2.2 ||| 4)]] else []
      does (.engineIteration c e) s fun s t =>
        iterated c e r rest [1, i + 1, 0, 0] (case.2.1 % 2 ^ 13 + 2 ^ 16 * (case.2.2.1 % 2 ^ 32)) stops
          (fun r' => r'.val auxOut = case.2.1 ∧ r'.val auxSkip = case.2.2.1 ∧ r'.val auxStatus = case.2.2.2)
          (elemsPut r ([placed, words case.1] ++ header) s) t) ∧
    (recordRuns c e .nstrm r rest s → (∀ x, x ∈ r.consumers → s.claimTurn c e (x.1, x.2, true) = true) →
      let word := fun j => elemIn r s g [j, 0, 0, 0, 0, 0]
      let fits := (word 3).testBit 2 = true ∧ word 0 = geomWord b ∧ word 1 = particles b ∧ word 4 = edgeBits b 0 ∧
        word 5 = edgeBits b 1 ∧ word 6 = edgeBits b 2 ∧ word 7 = skinBits b
      let publishes := fun (ring : Nat) (block : List Byte) (next : List Nat) (count : Nat) (stops : Bool) (also : Rec → Prop) =>
        let d := r.val (auxRing ring) / 32
        let x := r.val (auxRing ring) % 32
        ∀ q, mapFind (s.core d).rings x = some q →
          (q.claim true 1 (.record c e r.num) = none → does (.engineIteration c e) s same) ∧
          (∀ q' j, q.claim true 1 (.record c e r.num) = some (q', [j]) → does (.engineIteration c e) s fun s t =>
            let u := (s.drainCore c).engineWrite c [(q.target d j, block)]
            iterated c e r rest next count stops also (u.setCore d (woken ((u.core d).setRing x (q'.release true j)))) t)
      (endCell b ≤ r.upc.getD 0 0 ∧ r.val auxSkip ≠ 0 ∨ r.val auxSkip = 0 ∧ ¬ fits →
        let n := r.val auxEnds
        publishes n (pairBlock [pairBytes 0xFFFFFFFF 0xFFFFFFFF 0 0 0 0 0x8000 (r.val (auxRingBlocks n))]) [endCell b, 0, 0, 0]
          (Min.min novf (2 ^ 28 - 1) * 2 ^ 20 + r.val auxLast % 64 * 2 ^ 14 + Min.min (r.val auxStale) 16383)
          (decide (ringCount b ≤ n + 1)) fun r' => r'.val auxEnds = n + 1 ∧ (r.val auxSkip = 0 → r'.flags.getLsbD 14 = true)) ∧
      (r.val auxSkip ≠ 0 → r.upc.getD 0 0 < endCell b →
        let x : Job := ⟨s, r⟩
        let m := x.membersFrom g r.upc
        let found := collectPairs p rf g m.1 (r.upc.getD 2 0) [] m.2
        let stale := found.2.2.r.val auxStale
        let n := novf % ringCount b
        found.1 ≠ [] → publishes n (pairBlock found.1) (found.2.1.getD [endCell b, 0, 0, 0])
          (Min.min (novf + 1) (2 ^ 28 - 1) * 2 ^ 20 + found.1.length % 64 * 2 ^ 14 + Min.min stale 16383) false
          fun r' => r'.val auxOut = novf + 1 ∧ r'.val (auxRingBlocks n) = r.val (auxRingBlocks n) + 1))

/-- R161, R366: a CHAIN ends when the records of its list, which stand before it, have completed; it has done as many.  A record of
the neighbour engine that is not served does nothing. -/
def Sys2Proof.Claims.chainIterations : Prop :=
  ∀ (c e : Nat) (r : Rec) (rest : List Rec) (s : State),
    (((s.core c).engine e).queue = r :: rest → r.started = true → r.ended = false → s.neServes r = false →
      does (.engineIteration c e) s same) ∧
    (recordRuns c e .chain r rest s → does (.engineIteration c e) s fun s t =>
      iterated c e r rest r.upc (r.val auxChain) true (fun _ => True) s t) ∧
    ∀ y, s.enginesRun c = true → ((s.core c).engine e).queue = y :: r :: rest → y.ended = true → y.num < r.num → r.core = c →
      r.eng = e → r.op = .chain → r.started = true → r.ended = false → does (.engineIteration c e) s same

/-- R122, R144, R151 to R158, R163, R167, R313, R343 to R351, R353 to R358, R360 to R366: what one iteration of a record of each
kind writes, to memory, to the patches, the streams and the consumer rings; all else stays as it is.
The manual leaves part of it open: log 8, log 48; what PURE code or poison adds is not stated here. -/
def Obligations.EngineIterations : Prop :=
  plainElements ∧ copyIterations ∧ chunkIterations ∧ productIterations ∧ drainIterations ∧ indexIterations ∧ pairRecords ∧
    neighbourIterations ∧ chainIterations

/-- R102, R104 to R106, R124, R219, R243, R340, R352, R367: the first record of a queue starts when its wait is met; RNOP ends at
once and MCLR clears its patch row by row; a record that has ended leaves its queue with its word, and the latches are set. -/
def Sys2Proof.Claims.engineEvents : Prop :=
  ∀ (c e z row : Nat) (r : Rec) (rest : List Rec) (s : State), s.enginesRun c = true →
    let q := s.core c
    let x := q.engine e
    let becomes := fun (rs : List Rec) => q.setEngine e { x with queue := rs }
    (x.queue = [] → does (.recordStart c e) s same ∧ does (.engineIteration c e) s same ∧ does (.recordCompletion c e) s same) ∧
    (x.queue = r :: rest → r.core = c → r.eng = e → r.objCore = c → (∀ y, y ∈ rest → r.num < y.num) →
      (r.started = false → r.ended = false → r.member = false → e ≠ 0 → e ≠ 4 →
        let w := r.hdr.wait
        let starts := onlyCoreIs c (becomes ({ r with started := true } :: rest))
        (w.kind = 0 → does (.recordStart c e) s starts) ∧
        (∀ b, w.kind = 3 → w.obj < 16 → mapFind q.barriers w.obj = some b →
          let d := (b.phase - r.phase).toNat
          (w.count ≤ d → d < 2 ^ 31 → does (.recordStart c e) s starts) ∧
          (d < w.count ∨ 2 ^ 31 ≤ d → does (.recordStart c e) s same)) ∧
        ((∀ y, y ∈ rest → y.ended = false) → does (.recordCompletion c e) s same)) ∧
      (r.started = true → r.ended = false → r.op = .rnop → s.neServes r = true →
        does (.engineIteration c e) s (onlyCoreIs c (becomes ({ r with ended := true } :: rest)))) ∧
      (r.started = true → r.ended = false → r.op = .mclr → s.neServes r = true → r.patches = [z] → r.upc = [0, 0, z, row] → row < 96 →
        does (.engineIteration c e) s fun s t => (t.core c).zRow z row = 0 ∧
          (∀ y i, i < 96 → (y ≠ z ∨ i ≠ row) → (t.core c).zRow y i = q.zRow y i) ∧
          (row = 0 → ((t.core c).patch z).status = 0 ∧ ((t.core c).patch z).written = true) ∧
          (∃ r', ((t.core c).engine e).queue = r' :: rest ∧ r'.num = r.num ∧ r'.started = true ∧
            r'.ended = decide (row = 95) ∧ r'.upc = [0, 0, z, row + 1] ∧
            r'.count = r.count + (if row = 95 then 1 else 0)) ∧
          ∀ d, d ≠ c → t.core d = s.core d) ∧
      (r.ended = true → r.op = .rnop → r.hdr.post.kind = 0 → r.mcheck = none → e ≠ 0 → e ≠ 4 → x.words.length < 64 →
        mapFind x.words r.num = none →
        does (.recordCompletion c e) s fun s t =>
          let y := (t.core c).engine e
          y.queue = rest ∧ y.last = x.last ∧ y.pend = x.pend ∧
          mapFind y.words r.num = some (BitVec.ofNat 64 (r.flags.toNat * 2 ^ 48 + r.count % 2 ^ 48)) ∧
          (rest = [] → y.tl = x.last) ∧ (∀ u, u ∈ rest → y.tl ≤ u.num - 1) ∧
          (∀ j, j < q.strands.length → (t.core c).strand j = { q.strand j with latch := true }) ∧
          (∀ f, f ≠ e → (t.core c).engine f = q.engine f) ∧ (∀ d, d ≠ c → t.core d = s.core d) ∧
          t = { s with coreTab := t.coreTab, sdWait := s.sdWait.filter fun w => w != (c, e, r.num) }))

/-- R100, R101, R116, R208, R213, R297: loads complete; holds end when their condition is over; a strand held too long takes
WATCHDOG, and a held KNEXT does not count (R206, R278).  The `.load` hold and its end are the model's choice: log 38. -/
def Sys2Proof.Claims.strandEvents : Prop :=
  ∀ (c k lc d n : Nat) (v w : Word) (rest : List OutLoad) (s : State), k < (s.core c).strands.length →
    let x := (s.core c).strand k
    let released := onlyCoreIs c ((s.core c).setStrand k { x with hold := none, heldTicks := 0 })
    let holds := fun (h : Hold) (met : Prop) => x.hold = some h →
      (met → does (.strandHoldRelease c k) s released) ∧ (¬ met → does (.strandHoldRelease c k) s same)
    ((∀ l, l ∈ x.loads → l.lc ≠ lc) → does (.ldaCompletion c k lc) s same) ∧
    (x.loads = ⟨lc, .scalar d v⟩ :: rest → does (.ldaCompletion c k lc) s fun s t =>
      let y := (t.core c).strand k
      y.reg d = (if d = 0 then 0 else v) ∧ (∀ r, r ≠ d → y.reg r = x.reg r) ∧ y.loads = rest ∧ y.pc = x.pc ∧
        (∀ rs vs, x.hold = some (.load rs vs) → y.hold = if loadsPending rest rs vs then x.hold else none) ∧
        (x.hold = some (.counterFull lc) → y.hold = none) ∧
        ((∀ rs vs, x.hold ≠ some (.load rs vs)) → x.hold ≠ some (.counterFull lc) → y.hold = x.hold) ∧
        (y.hold ≠ none → y.heldTicks = x.heldTicks) ∧
        t.isPoisoned (.sreg c k d) = false ∧ (∀ j, j ≠ k → (t.core c).strand j = (s.core c).strand j) ∧
        ∀ b, b ≠ c → t.core b = s.core b) ∧
    (x.loads = ⟨lc, .nothing⟩ :: rest → does (.ldaCompletion c k lc) s fun s t =>
      (t.core c).strand k = { x with loads := rest, hold := ((t.core c).strand k).hold
                                     heldTicks := ((t.core c).strand k).heldTicks } ∧ ∀ b, b ≠ c → t.core b = s.core b) ∧
    (x.hold = none → does (.strandHoldRelease c k) s same ∧ does (.watchdog c k) s same) ∧
    holds .event (x.latch = true) ∧ holds (.counter lc n) ((x.loads.filter fun l => l.lc == lc).length ≤ n) ∧
    holds (.branch n) (n ≤ (s.core c).clk) ∧ holds (.timeline lc n) (n ≤ ((s.core c).engine lc).tl) ∧
    (∀ rs vs, holds (.load rs vs) (loadsPending x.loads rs vs = false)) ∧
    holds (.counterFull lc) ((x.loads.filter fun l => l.lc == lc).length < 63) ∧ holds .acks (s.awaitingAcks = false) ∧
    holds (.word lc n) (((s.core c).engine lc).completed n = true) ∧ holds (.request d) (d ≠ c ∧ s.clockOpen d = false) ∧
    holds (.queueFull lc) ((s.core c).queueLength lc < queueCapacity lc) ∧ holds (.engineQueue d lc) (s.queueFull d lc = false) ∧
    (x.hold = some .iteration ∨ x.hold = some (.parked n) ∨ x.hold = some (.fence n) ∨ x.hold = some (.response n) →
      does (.strandHoldRelease c k) s same) ∧
    (lc < 8 → holds (.queueEmpty lc) (mapGet (s.core c).qs lc [] ≠ [])) ∧
    (∀ b, lc < 16 → mapFind (s.core c).barriers lc = some b → holds (.barrier lc (w.setWidth 32) n) (passed b.phase (w.setWidth 32))) ∧
    (s.wdlimit = 0 ∨ x.heldTicks ≤ s.wdlimit.toNat → does (.watchdog c k) s same) ∧
    (x.hold = some .event ∨ x.hold = some (.parked n) ∨ x.hold = some .acks ∨ x.hold = some (.response n) ∨
      (∃ js, x.hold = some (.yielded js n)) → does (.watchdog c k) s same) ∧
    (s.wdlimit ≠ 0 → s.wdlimit.toNat < x.heldTicks → x.hold = some (.barrier lc (w.setWidth 32) n) → x.trapvec ≠ 0 →
      x.trapinfo.getLsbD 9 = false → does (.watchdog c k) s fun s t =>
        let y := (t.core c).strand k
        y.pc = x.trapvec.toNat ∧ y.trappc = BitVec.ofNat 64 x.pc ∧ y.trapinfo = trapInfo 0x12 0 false ∧
          y.traparg = BitVec.ofNat 64 x.heldTicks ∧ y.hold = none ∧ y.knext = false ∧ y.s = x.s ∧ t = { s with coreTab := t.coreTab } ∧
          (∀ j, j ≠ k → (t.core c).strand j = (s.core c).strand j) ∧ ∀ b, b ≠ c → t.core b = s.core b)

/-- A saturating count of 16 bits (R218). -/
def Sys2Proof.Claims.counted (n : BitVec 16) : BitVec 16 := if n = 0xFFFF then 0xFFFF else n + 1

/-- R42, R79, R215 to R218: errors of stored data.  A corrected one is counted; an uncorrectable one poisons its unit, resets its
die, or leads to the safe state; patrol scrub does the same to units of HBM. -/
def Sys2Proof.Claims.errorEvents : Prop :=
  ∀ (c st w u d cause : Nat) (s : State),
    (s.ready = false → does (.softError .hub false) s same ∧ does (.patrolScrub u .corrected) s same) ∧
    (s.ready = true →
      let more := fun (x : Die) => { x with ue := if x.ue = 0xFFF then 0xFFF else x.ue + 1 }
      let poisoned := fun (y : ErrorUnit) (e : Nat) (x : Die) (s t : State) =>
        t = { s with dies := t.dies, poison := t.poison } ∧ t.die e = x ∧ (∀ f, f ≠ e → t.die f = s.die f) ∧
          ∀ z, t.isPoisoned z = (s.isPoisoned z || z == y)
      let home := homeDie (u * 32)
      (c < 256 → st < 3 → w * 8 < storeBytes st →
        let x := s.die (dieOf c)
        does (.softError (.store c st w) true) s (onlyDie (dieOf c) { x with ce := counted x.ce }) ∧
        does (.softError (.store c st w) false) s
          (poisoned (.store c st w) (dieOf c) { more x with lastSram := true })) ∧
      (u < 2 ^ 35 →
        let x := s.die home
        does (.softError (.hbm u) true) s (onlyDie home { x with ce := counted x.ce }) ∧
        does (.softError (.hbm u) false) s
          (poisoned (.hbm u) home { more x with lastUE := BitVec.ofNat 35 u, lastSram := false }) ∧
        does (.patrolScrub u .clean) s same ∧
        does (.patrolScrub u .corrected) s (onlyDie home { x with ce := counted x.ce }) ∧
        does (.patrolScrub u .uncorrectable) s fun s t =>
          (s.evtab = 0 → t.isPoisoned (.hbm u) = true) ∧ t.die home = { more x with lastUE := BitVec.ofNat 35 u, lastSram := false } ∧
          ∀ f, f ≠ home → t.die f = s.die f) ∧
      does (.softError .hub true) s same ∧
      does (.softError .hub false) s (fun s t => t.mbxState = 2 ∧ t.coreTab = [] ∧ t.tasks = [] ∧ t.hbm = s.hbm) ∧
      (d < 4 → s.tasks = [] → does (.softError (.control d cause) false) s (dispatches fun s u =>
        (∀ c, mapFind s.coreTab c ≠ none → dieOf c = d → (u.core c).task = none ∧ (u.core c).clean = false ∧
          (u.core c).strands = []) ∧
        (∀ c, dieOf c ≠ d → u.core c = s.core c) ∧ (u.die d).ue = (more (s.die d)).ue ∧ (u.die d).neQueue = [])))

/-- R102 to R106, R165, R167, R208, R213, R215 to R219, R243, R297: what engines, holds, loads, writes and errors do on their own.
The manual leaves part of it open: log 7, log 8, log 15, log 17, log 39; what ends a `.load` hold (log 38) and that a soft error
while the part is not ready changes nothing (log 55) are the model's choice. -/
def Obligations.EnginesAndErrors : Prop := engineEvents ∧ strandEvents ∧ writesPerformed ∧ errorEvents

/-! ## The machine: decoding, one step, invariants, reset -/

/-- The state in which a core's strand `k` issues, with `ks` still picked in the clock and `rest` on the agenda: the YIELDs of
the core have seen it issue (R286). -/
def Sys2Proof.Claims.issuing (c k : Nat) (ks : List Nat) (rest : List Act) (s : State) : State :=
  let seen := fun (t : Strand) => match t.hold with
    | some (.yielded others clk) => { t with hold := some (.yielded (others.filter fun j => j != k) clk) }
    | _ => t
  { s.setCore c { s.core c with picks := some ks, strands := (s.core c).strands.map seen } with cur := (c, k), agenda := rest }

/-- R99, R100, R235, R250, R322: a strand that issues executes the instruction that the bytes at its pc decode to, in its own state,
the VE occupied for as long as it takes there; an event of the agenda is executed as it is.
The manual leaves part of it open: log 1, log 22. -/
def Obligations.StepRunsDecoded : Prop :=
  ∀ (c k : Nat) (ks : List Nat) (rest : List Act) (task : Machine.Task) (w bs : List Byte) (i : Instr) (s : State),
    (s.agenda = .core c :: rest → c < 256 → (s.core c).picks = some (k :: ks) → s.taskOf c = some task → s.issues c = true →
      let u := issuing c k ks rest s
      let pc := ((s.core c).strand k).pc
      ((s.core c).strand k).ready = true → u.codeBytes task pc 4 = .ok w →
      u.codeBytes task pc (Min.min (lengthOf (leNat w)) (64 - pc % 64)) = .ok bs → decode (pc % 64) bs = .ok i →
      Machine.step s = exec i (u.setHere (u.here.occupyVe k i))) ∧
    (s.agenda = .event i :: rest → encode i = none → wellFormed i = true →
      Machine.step s = exec i { s with agenda := rest })

/-- The words of the fragments of chapter 11 and of examples in chapters 12 to 14, and the instructions they stand for. -/
def Obligations.DecodedWords : Prop :=
  let g : Guard := ⟨0, false⟩
  decodeTableWord 32 0x0810C000 = some (.add g 3 1 2) ∧ decodeTableWord 32 0xFC410100 = some (.addi g 4 4 (-1)) ∧
    decodeTableWord 32 0x0031461C = some (.mov ⟨3, true⟩ 5 3) ∧ decodeTableWord 32 0x00000800 = some (.tdone g) ∧
    decodeTableWord 32 0x1C01A000 = some (.ld g 6 0 7) ∧
    decodeTableWord 64 0x0800401C8C068201 = some (.ldLong g .i32 .rlx .core 6 70 7 8) ∧
    decodeTableWord 96 0x000000090800401C8C068202 = some (.ldExt g .i32 .rlx .core 6 70 7 8 9 0 0 0) ∧
    decodeTableWord 96 0x0000000C0000000000001E02 = some (.pbrExt g 0 12) ∧
    decodeTableWord 64 0x0000000000052001 = some (.loop g 5 0) ∧
    decodeTableWord 64 0x010000100C211381 = some (.cmp g .i64 .lt 1 2 6 4) ∧
    decodeTableWord 64 0x21006830160A1881 = some (.ffma g .f32 .rtz 10 11 12 13) ∧
    decodeTableWord 64 0x1000000807458581 = some (.atom g .u64 .rlx .core .min 5 3 2 0) ∧
    decodeTableWord 64 0x0440000000008701 = some (.fence g .sc .pkg) ∧ decodeTableWord 32 0x00222300 = some (.barv g 8 2) ∧
    decodeTableWord 32 0x0400B080 = some (.vadd g 2 0 1) ∧
    decodeTableWord 128 0x00000084C20000000000000001002103 =
      some (.cfill ⟨g, 1, ⟨0, 0, 0⟩, ⟨3, 2, 0⟩, some 4, none, none, none⟩ 0)

/-- R235 to R250: every instruction that is well formed decodes from its own encoding, wherever in a line it fits; what has no
encoding is an event. -/
def Obligations.EncodeDecode : Prop :=
  ∀ (i : Instr) (bits w off : Nat), wellFormed i = true → encode i = some (bits, w) → off % 4 = 0 → off + bits / 8 ≤ 64 →
    decode off (leBytes (bits / 8) w) = .ok i ∧ w < 2 ^ bits ∧ bits / 8 = lengthOf w

/-- An asynchronous load, which counts on its counter even under a false guard (R297). -/
def Sys2Proof.Claims.isAsynchronous : Instr → Bool
  | .lda .. | .ldaLong .. | .ldaExt .. | .vlda .. | .vldaExt .. => true
  | _ => false

/-- R235, R256: under a false guard, whose bits stand in its word, every instruction but an asynchronous load only moves the pc. -/
def Obligations.FalseGuards : Prop :=
  ∀ (i : Instr) (bits w : Nat) (s : State), wellFormed i = true → encode i = some (bits, w) → isAsynchronous i = false →
    s.seated → s.rP (w / 8 % 16) = w.testBit 2 → does i s (wentOn (bits / 8))

/-- Every byte space keeps its one form through every step. -/
def Obligations.StepKeepsMemory : Prop :=
  ∀ s t : State, s.memoryWf = true → Machine.step s = .next t → t.memoryWf = true

/-- R37, R42, R44: through every step the part is starting, ready or safe, with at most three retries and at most 64 fuses. -/
def Obligations.StepKeepsPart : Prop :=
  ∀ s t : State, s.partWf = true → Machine.step s = .next t → t.partWf = true

/-- R18, R21, R34, R37, R40, R42, R52, R58, R95, R97, R113, R177, R196, R208, R218: the state after reset meets both invariants
and has the reset values that the manual gives.
The manual leaves part of it open: log 3. -/
def Obligations.ResetState : Prop :=
  let s := State.reset
  s.memoryWf = true ∧ s.partWf = true ∧ s.agenda = [.event .powerOn] ∧ s.mbxState = 0 ∧ s.boot = ⟨0, 0, 0, false, 0⟩ ∧
    (∀ a, byteAt s.hbm a = 0) ∧ (∀ d, (s.die d).limitK = 16 ∧ (s.die d).minK = 16 ∧ (s.die d).causes = 0) ∧
    (∀ n, (s.queue n).en = false ∧ (s.queue n).prio = (if n = 0 then 0 else 7) ∧ (s.queue n).pi = 0 ∧ (s.queue n).ci = 0) ∧
    (∀ p, (s.port p).state = 0) ∧ (∀ t, (s.keySlot t).loaded = false) ∧ s.wdlimit = 0 ∧ s.evlost = 0 ∧
    (∀ f, (s.fn f).en = false ∧ (s.fn f).busy = none ∧ (s.fn f).tenant = 0) ∧
    (∀ f w, f < 64 → w < 2 → (s.hubTable.getLsbD (1024 + 2 * f + w) = true ↔ f = 0)) ∧ s.watts = 0x0C80 ∧ s.podId = 0 ∧
    (∀ i, mapGet s.routes i 0xFF = 0xFF) ∧
    (∀ c, (s.core c).task = none ∧ (s.core c).strands = []) ∧
    Strand.entry.vshape = 0x00200204 ∧ Strand.entry.fpctl = 0 ∧ Strand.entry.fpst = 0 ∧ Strand.entry.trapvec = 0 ∧
    Strand.entry.trapinfo = 0
end

