-- ==== Sys2Proof/Laws/Bits.lean ====
section
/-! SUPPORT. The laws of bit fields, sign extension and residues, each said with the operations of bit vectors. -/

namespace Sys2Proof.Machine

theorem ofSigned_eq (w : Nat) (e : Int) : ofSigned w e = (BitVec.ofInt w e).toNat := by
  simp [ofSigned, BitVec.toNat_ofInt]

theorem toSigned_eq {w : Nat} (x : BitVec w) (h : 0 < w) : toSigned w x.toNat = x.toInt := by
  have hx := x.isLt
  have hp : 2 ^ w = 2 * 2 ^ (w - 1) := by
    obtain ⟨v, rfl⟩ := Nat.exists_eq_succ_of_ne_zero (Nat.pos_iff_ne_zero.mp h)
    simp [Nat.pow_succ, Nat.mul_comm]
  simp only [toSigned, Nat.mod_eq_of_lt hx, BitVec.toInt_eq_toNat_cond]
  by_cases hc : x.toNat < 2 ^ (w - 1)
  · rw [if_pos hc, if_pos (by omega)]
  · rw [if_neg hc, if_neg (by omega)]

theorem toSigned_mod (w v : Nat) : toSigned w (v % 2 ^ w) = toSigned w v := by
  simp [toSigned]

theorem signExtend64_toNat {w : Nat} (x : BitVec w) (h : 0 < w) : signExtend64 w x.toNat = x.signExtend 64 := by
  simp [signExtend64, toSigned_eq x h, BitVec.signExtend]

/-- The result of an integer instruction: the exact value modulo 2^w, sign-extended (R187, R260). -/
theorem signExtend64_ofSigned (w : Nat) (e : Int) (h : 0 < w) :
    signExtend64 w (ofSigned w e) = (BitVec.ofInt w e).signExtend 64 := by
  rw [ofSigned_eq, signExtend64_toNat _ h]

theorem signExtend64_mod (w v : Nat) : signExtend64 w (v % 2 ^ w) = signExtend64 w v := by
  simp [signExtend64, toSigned_mod]

theorem bvField_eq {w : Nat} (x : BitVec w) (lo n : Nat) : bvField x lo n = (x.extractLsb' lo n).toNat := by
  simp [bvField, bitsAt, BitVec.extractLsb'_toNat, Nat.shiftRight_eq_div_pow]

theorem bvBit_eq {w : Nat} (x : BitVec w) (i : Nat) : bvBit x i = x.getLsbD i := rfl

theorem and_mask (v lo n : Nat) : v &&& ((2 ^ n - 1) * 2 ^ lo) = (v / 2 ^ lo % 2 ^ n) * 2 ^ lo := by
  apply Nat.eq_of_testBit_eq
  intro j
  simp only [Nat.testBit_and, Nat.mul_comm _ (2 ^ lo), Nat.testBit_two_pow_mul, Nat.testBit_two_pow_sub_one, Nat.testBit_mod_two_pow, Nat.testBit_div_two_pow]
  by_cases h : lo ≤ j
  · simp [h, Nat.sub_add_cancel h, Bool.and_comm]
  · simp [h]

/-- A field replaced: the bits of the field come from the number, the others stay. -/
theorem getLsbD_bvSetField {w : Nat} (v : BitVec w) (lo n x j : Nat) (hj : j < w) :
    (bvSetField v lo n x).getLsbD j =
      if lo ≤ j ∧ j < lo + n then x.testBit (j - lo) else v.getLsbD j := by
  have h1 : v.toNat = (v.toNat / 2 ^ (lo + n) * 2 ^ n + v.toNat / 2 ^ lo % 2 ^ n) * 2 ^ lo + v.toNat % 2 ^ lo := by
    have e1 : v.toNat / 2 ^ (lo + n) = v.toNat / 2 ^ lo / 2 ^ n := by rw [Nat.pow_add, Nat.div_div_eq_div_mul]
    rw [e1, Nat.mul_comm (v.toNat / 2 ^ lo / 2 ^ n), Nat.div_add_mod, Nat.mul_comm, Nat.div_add_mod]
  have h2 : v.toNat - (v.toNat &&& ((2 ^ n - 1) * 2 ^ lo)) + x % 2 ^ n * 2 ^ lo =
      2 ^ lo * (2 ^ n * (v.toNat / 2 ^ (lo + n)) + x % 2 ^ n) + v.toNat % 2 ^ lo := by
    rw [and_mask]
    have hd : (v.toNat / 2 ^ (lo + n) * 2 ^ n + v.toNat / 2 ^ lo % 2 ^ n) * 2 ^ lo =
      v.toNat / 2 ^ (lo + n) * 2 ^ n * 2 ^ lo + v.toNat / 2 ^ lo % 2 ^ n * 2 ^ lo := Nat.add_mul _ _ _
    have hc : 2 ^ lo * (2 ^ n * (v.toNat / 2 ^ (lo + n)) + x % 2 ^ n) =
      v.toNat / 2 ^ (lo + n) * 2 ^ n * 2 ^ lo + x % 2 ^ n * 2 ^ lo := by
      rw [Nat.mul_add, Nat.mul_comm (2 ^ lo), Nat.mul_comm (2 ^ n), Nat.mul_comm (2 ^ lo)]
    omega
  have h3 : bvSetField v lo n x = BitVec.ofNat w (v.toNat - (v.toNat &&& ((2 ^ n - 1) * 2 ^ lo)) + x % 2 ^ n * 2 ^ lo) := rfl
  rw [h3, h2, BitVec.getLsbD_ofNat]
  simp only [hj, decide_true, Bool.true_and]
  rw [Nat.testBit_two_pow_mul_add _ (Nat.mod_lt _ (Nat.two_pow_pos lo))]
  by_cases h : j < lo
  · have h' : ¬ lo ≤ j := by omega
    simp [h, h', Nat.testBit_mod_two_pow, BitVec.getLsbD]
  · have h' : lo ≤ j := by omega
    simp only [h, if_false, h', true_and]
    rw [Nat.testBit_two_pow_mul_add _ (Nat.mod_lt _ (Nat.two_pow_pos n))]
    by_cases hn : j - lo < n
    · have hn' : j < lo + n := by omega
      simp [hn, hn', Nat.testBit_mod_two_pow]
    · have hn' : ¬ j < lo + n := by omega
      simp only [hn, hn', if_false, Nat.testBit_div_two_pow, BitVec.getLsbD]
      congr 1
      omega
end Sys2Proof.Machine
end

