-- ==== Sys2Proof/Laws/Map.lean ====
section
/-! SUPPORT. Laws of sparse tables and byte spaces: a read after a write gives the value written, a write leaves every other key
alone, and every write keeps the canonical form. -/

namespace Sys2Proof.Machine

/-! ## Tables -/

theorem mapFind_mapPut_self {α : Type} (m : Map α) (k : Nat) (v : α) : mapFind (mapPut m k v) k = some v := by
  induction m with
  | nil => simp [mapPut, mapFind]
  | cons p m ih =>
    obtain ⟨j, u⟩ := p
    by_cases h1 : k < j
    · simp [mapPut, h1, mapFind]
    · by_cases h2 : k = j
      · simp [mapPut, h2, mapFind]
      · have h3 : ¬ j = k := fun h => h2 h.symm
        simp [mapPut, h1, h2, mapFind, h3, ih]

theorem mapFind_mapPut_ne {α : Type} (m : Map α) {k l : Nat} (v : α) (h : l ≠ k) :
    mapFind (mapPut m k v) l = mapFind m l := by
  induction m with
  | nil => simp [mapPut, mapFind, Ne.symm h]
  | cons p m ih =>
    obtain ⟨j, u⟩ := p
    by_cases h1 : k < j
    · simp [mapPut, h1, mapFind, Ne.symm h]
    · by_cases h2 : k = j
      · subst h2; simp [mapPut, mapFind, Ne.symm h]
      · simp [mapPut, h1, h2, mapFind, ih]

@[simp] theorem mapGet_mapPut_self {α : Type} (m : Map α) (k : Nat) (v d : α) : mapGet (mapPut m k v) k d = v := by
  simp [mapGet, mapFind_mapPut_self]

theorem mapGet_mapPut_ne {α : Type} (m : Map α) {k l : Nat} (v d : α) (h : l ≠ k) :
    mapGet (mapPut m k v) l d = mapGet m l d := by
  simp [mapGet, mapFind_mapPut_ne m v h]

theorem mapGet_mapPut {α : Type} (m : Map α) (k l : Nat) (v d : α) :
    mapGet (mapPut m k v) l d = if l = k then v else mapGet m l d := by
  by_cases h : l = k
  · simp [h]
  · simp [h, mapGet_mapPut_ne m v d h]

/-- A lower bound of the keys of a sorted table may be weakened. -/
theorem mapSorted_weaken {α : Type} {m : Map α} {a : Nat} (h : mapSorted (some a) m = true) {lo : Option Nat}
    (hl : ∀ l, lo = some l → l ≤ a) : mapSorted lo m = true := by
  cases m with
  | nil => rfl
  | cons p m =>
    simp only [mapSorted, Bool.and_eq_true, decide_eq_true_eq] at h ⊢
    refine ⟨?_, h.2⟩
    cases lo with
    | none => rfl
    | some l => have := hl l rfl; simp; omega

theorem mapSorted_mapPut {α : Type} (m : Map α) (k : Nat) (v : α) (lo : Option Nat) (hm : mapSorted lo m = true)
    (hk : ∀ l, lo = some l → l < k) : mapSorted lo (mapPut m k v) = true := by
  induction m generalizing lo with
  | nil => cases lo <;> simp_all [mapPut, mapSorted]
  | cons p m ih =>
    obtain ⟨j, u⟩ := p
    have hm' := hm
    simp only [mapSorted, Bool.and_eq_true] at hm'
    by_cases h1 : k < j
    · simp only [mapPut, h1, if_true, mapSorted, Bool.and_eq_true, decide_eq_true_eq]
      exact ⟨by cases lo <;> simp_all, trivial, hm'.2⟩
    · by_cases h2 : k = j
      · subst h2
        simp only [mapPut, h1, if_false, if_true, mapSorted, Bool.and_eq_true]
        exact hm'
      · simp only [mapPut, h1, h2, if_false, mapSorted, Bool.and_eq_true]
        refine ⟨hm'.1, ih (some j) hm'.2 ?_⟩
        intro l hl
        cases hl
        omega

theorem mapSorted_mapDel {α : Type} (m : Map α) (k : Nat) (lo : Option Nat) (hm : mapSorted lo m = true) :
    mapSorted lo (mapDel m k) = true := by
  induction m generalizing lo with
  | nil => rfl
  | cons p m ih =>
    obtain ⟨j, u⟩ := p
    simp only [mapSorted, Bool.and_eq_true] at hm
    by_cases h : j = k
    · simp only [mapDel, h, if_true]
      refine mapSorted_weaken hm.2 ?_
      intro l hl
      have := hm.1
      subst hl
      simp at this
      omega
    · simp only [mapDel, h, if_false, mapSorted, Bool.and_eq_true]
      exact ⟨hm.1, ih _ hm.2⟩

/-- Below its bound a sorted table lists nothing. -/
theorem mapFind_sorted_none {α : Type} (m : Map α) (a k : Nat) (h : mapSorted (some a) m = true) (hk : k ≤ a) :
    mapFind m k = none := by
  induction m generalizing a with
  | nil => rfl
  | cons p m ih =>
    obtain ⟨j, u⟩ := p
    simp only [mapSorted, Bool.and_eq_true, decide_eq_true_eq] at h
    have hj : ¬ j = k := by omega
    simp only [mapFind, hj, if_false]
    exact ih j h.2 (by omega)

theorem mapFind_mapDel_self {α : Type} (m : Map α) (k : Nat) (lo : Option Nat) (h : mapSorted lo m = true) :
    mapFind (mapDel m k) k = none := by
  induction m generalizing lo with
  | nil => rfl
  | cons p m ih =>
    obtain ⟨j, u⟩ := p
    simp only [mapSorted, Bool.and_eq_true] at h
    by_cases hj : j = k
    · subst hj
      simp only [mapDel, if_true]
      exact mapFind_sorted_none m j j h.2 (Nat.le_refl j)
    · simp only [mapDel, hj, if_false, mapFind]
      exact ih _ h.2

theorem mapFind_mapDel_ne {α : Type} (m : Map α) {k l : Nat} (h : l ≠ k) : mapFind (mapDel m k) l = mapFind m l := by
  induction m with
  | nil => rfl
  | cons p m ih =>
    obtain ⟨j, u⟩ := p
    by_cases hj : j = k
    · subst hj
      simp [mapDel, mapFind, Ne.symm h]
    · simp [mapDel, hj, mapFind, ih]

/-! ## Byte spaces -/

theorem Bytes.wf_nil : Bytes.wf [] = true := rfl

theorem Bytes.wf_sorted {m : Bytes} (h : Bytes.wf m = true) : mapSorted none m = true := by
  simp only [Bytes.wf, Bool.and_eq_true] at h
  exact h.1

theorem all_mapPut {α : Type} (f : Nat × α → Bool) (m : Map α) (k : Nat) (v : α) (h : m.all f = true)
    (hv : f (k, v) = true) : (mapPut m k v).all f = true := by
  induction m with
  | nil => simp [mapPut, hv]
  | cons p m ih =>
    obtain ⟨j, u⟩ := p
    simp only [List.all_cons, Bool.and_eq_true] at h
    by_cases h1 : k < j
    · simp [mapPut, h1, hv, h.1]
      simpa using h.2
    · by_cases h2 : k = j
      · subst h2
        simp [mapPut, hv]
        simpa using h.2
      · simp only [mapPut, h1, h2, if_false, List.all_cons, Bool.and_eq_true]
        exact ⟨h.1, ih h.2⟩

theorem all_mapDel {α : Type} (f : Nat × α → Bool) (m : Map α) (k : Nat) (h : m.all f = true) :
    (mapDel m k).all f = true := by
  induction m with
  | nil => rfl
  | cons p m ih =>
    obtain ⟨j, u⟩ := p
    simp only [List.all_cons, Bool.and_eq_true] at h
    by_cases hj : j = k
    · simp only [mapDel, hj, if_true]
      exact h.2
    · simp only [mapDel, hj, if_false, List.all_cons, Bool.and_eq_true]
      exact ⟨h.1, ih h.2⟩

/-- A written byte keeps the canonical form. -/
theorem Bytes.wf_putByte {m : Bytes} (h : Bytes.wf m = true) (a : Nat) (b : Byte) : Bytes.wf (putByte m a b) = true := by
  have hs := Bytes.wf_sorted h
  simp only [Bytes.wf, Bool.and_eq_true] at h
  by_cases hb : b = unlistedByte
  · simp only [putByte, hb, if_true, Bytes.wf, Bool.and_eq_true]
    exact ⟨mapSorted_mapDel m a none hs, all_mapDel _ m a h.2⟩
  · simp only [putByte, hb, if_false, Bytes.wf, Bool.and_eq_true]
    refine ⟨mapSorted_mapPut m a b none hs (by simp), all_mapPut _ m a b h.2 ?_⟩
    simpa using hb

/-- Written bytes keep the canonical form. -/
theorem Bytes.wf_putBytes (bs : List Byte) {m : Bytes} (h : Bytes.wf m = true) (a : Nat) :
    Bytes.wf (putBytes m a bs) = true := by
  induction bs generalizing m a with
  | nil => exact h
  | cons b bs ih => exact ih (Bytes.wf_putByte h a b) (a + 1)

/-- The byte written is the byte read. -/
theorem byteAt_putByte_self {m : Bytes} (h : Bytes.wf m = true) (a : Nat) (b : Byte) : byteAt (putByte m a b) a = b := by
  by_cases hb : b = unlistedByte
  · simp [putByte, hb, byteAt, mapGet, mapFind_mapDel_self m a none (Bytes.wf_sorted h)]
  · simp [putByte, hb, byteAt]

/-- Every other byte stays. -/
theorem byteAt_putByte_ne (m : Bytes) {a c : Nat} (b : Byte) (h : c ≠ a) : byteAt (putByte m a b) c = byteAt m c := by
  by_cases hb : b = unlistedByte
  · simp [putByte, hb, byteAt, mapGet, mapFind_mapDel_ne m h]
  · simp [putByte, hb, byteAt, mapGet_mapPut_ne m b unlistedByte h]

/-- Bytes outside a written run stay. -/
theorem byteAt_putBytes_outside (bs : List Byte) (m : Bytes) {a c : Nat} (h : c < a ∨ a + bs.length ≤ c) :
    byteAt (putBytes m a bs) c = byteAt m c := by
  induction bs generalizing m a with
  | nil => rfl
  | cons b bs ih =>
    simp only [List.length_cons] at h
    have hc : c ≠ a := by omega
    rw [putBytes, ih _ (by omega), byteAt_putByte_ne m b hc]

/-- Bytes of a written run are those written. -/
theorem bytesAt_putBytes_self (bs : List Byte) {m : Bytes} (h : Bytes.wf m = true) (a : Nat) :
    bytesAt (putBytes m a bs) a bs.length = bs := by
  induction bs generalizing m a with
  | nil => rfl
  | cons b bs ih =>
    simp only [putBytes, List.length_cons, bytesAt]
    rw [ih (Bytes.wf_putByte h a b), byteAt_putBytes_outside bs _ (Or.inl (by omega)), byteAt_putByte_self h]

theorem mapSorted_filter {α : Type} (f : Nat × α → Bool) (m : Map α) (lo : Option Nat) (h : mapSorted lo m = true) :
    mapSorted lo (m.filter f) = true := by
  induction m generalizing lo with
  | nil => rfl
  | cons p m ih =>
    obtain ⟨j, u⟩ := p
    simp only [mapSorted, Bool.and_eq_true] at h
    by_cases hf : f (j, u) = true
    · simp only [List.filter_cons, hf, if_true, mapSorted, Bool.and_eq_true]
      exact ⟨h.1, ih _ h.2⟩
    · simp only [List.filter_cons, hf, Bool.false_eq_true, if_false]
      refine mapSorted_weaken (ih _ h.2) fun l hl => ?_
      subst hl
      exact Nat.le_of_lt (by simpa using h.1)

theorem Bytes.wf_filter (f : Host.Cell → Bool) {m : Bytes} (h : Bytes.wf m = true) : Bytes.wf (m.filter f) = true := by
  have hs := mapSorted_filter f m none (Bytes.wf_sorted h)
  simp only [Bytes.wf, Bool.and_eq_true, List.all_eq_true, List.mem_filter] at h ⊢
  exact ⟨hs, fun c hc => h.2 c hc.1⟩

theorem Bytes.wf_putCells (cells : Bytes) {m : Bytes} (h : Bytes.wf m = true) :
    Bytes.wf (cells.foldr (fun (c : Host.Cell) m => putByte m c.1 c.2) m) = true := by
  induction cells with
  | nil => exact h
  | cons c cells ih => exact Bytes.wf_putByte ih _ _

/-- A spliced space has the canonical form. -/
theorem Bytes.wf_spliceBytes {m : Bytes} (h : Bytes.wf m = true) (lo hi : Nat) (cells : Bytes) :
    Bytes.wf (spliceBytes m lo hi cells) = true :=
  Bytes.wf_putCells _ (Bytes.wf_putCells _ (Bytes.wf_filter _ h))

/-! ## Tables of steps -/

theorem stepFrom_below {m : Map Nat} {k a v : Nat} (h : mapSorted (some k) m = true) (ha : a ≤ k) : stepFrom v m a = v := by
  cases m with
  | nil => rfl
  | cons p m =>
    simp only [mapSorted, Bool.and_eq_true, decide_eq_true_eq] at h
    have : ¬ p.1 ≤ a := by omega
    simp [stepFrom, this]

/-- Dropping entries that change nothing changes nothing. -/
theorem stepFrom_stepNorm (m : Map Nat) (lo : Option Nat) (h : mapSorted lo m = true) (v a : Nat) :
    stepFrom v (stepNorm v m) a = stepFrom v m a := by
  induction m generalizing v lo with
  | nil => rfl
  | cons p m ih =>
    obtain ⟨k, u⟩ := p
    simp only [mapSorted, Bool.and_eq_true] at h
    have e := ih (some k) h.2
    by_cases hu : u = v
    · subst hu
      simp only [stepNorm, if_true, e, stepFrom]
      split
      · rfl
      · exact stepFrom_below h.2 (by omega)
    · simp only [stepNorm, hu, if_false, stepFrom, e]

/-- Keys of a sorted table lie above its bound. -/
theorem mapSorted_keys {α : Type} {m : Map α} {k : Nat} (h : mapSorted (some k) m = true) : ∀ p ∈ m, k < p.1 := by
  induction m generalizing k with
  | nil => simp
  | cons p m ih =>
    simp only [mapSorted, Bool.and_eq_true, decide_eq_true_eq] at h
    intro q hq
    rcases List.mem_cons.mp hq with rfl | hq
    · exact h.1
    · exact Nat.lt_trans h.1 (ih h.2 q hq)

/-- Below a cut, nothing has changed. -/
theorem stepFrom_cut_below {m : Map Nat} {b : Option Nat} (h : mapSorted b m = true) {lo a : Nat} (ha : a < lo) (v g : Nat) (n : Map Nat) :
    stepFrom v ((m.filter fun p => decide (p.1 < lo)) ++ (lo, g) :: n) a = stepFrom v m a := by
  have hn : ∀ w, stepFrom w ((lo, g) :: n) a = w := fun w => by simp [stepFrom, Nat.not_le.mpr ha]
  induction m generalizing v b with
  | nil => exact hn v
  | cons p m ih =>
    obtain ⟨k, u⟩ := p
    simp only [mapSorted, Bool.and_eq_true] at h
    by_cases hk : k < lo
    · simp only [List.filter_cons, hk, decide_true, if_true, List.cons_append, stepFrom, ih h.2]
    · have e : m.filter (fun p => decide (p.1 < lo)) = [] := by
        rw [List.filter_eq_nil_iff]
        intro q hq
        have := mapSorted_keys h.2 q hq
        simp; omega
      have : ¬ k ≤ a := by omega
      simp only [List.filter_cons, hk, decide_false, e, Bool.false_eq_true, if_false, List.nil_append, hn, stepFrom, this]

/-- From a cut on, what stands there. -/
theorem stepFrom_cut_above (m : Map Nat) {lo a : Nat} (ha : lo ≤ a) (v g : Nat) (n : Map Nat) :
    stepFrom v ((m.filter fun p => decide (p.1 < lo)) ++ (lo, g) :: n) a = stepFrom g n a := by
  induction m generalizing v with
  | nil => simp [stepFrom, ha]
  | cons p m ih =>
    obtain ⟨k, u⟩ := p
    by_cases hk : k < lo
    · have : k ≤ a := by omega
      simp only [List.filter_cons, hk, decide_true, if_true, List.cons_append, stepFrom, this, ih]
    · simp only [List.filter_cons, hk, decide_false, Bool.false_eq_true, if_false, ih]

/-- From a key on, the entries above it say the rest. -/
theorem stepFrom_resume {m : Map Nat} {b : Option Nat} (h : mapSorted b m = true) {hi a : Nat} (ha : hi ≤ a) (v : Nat) :
    stepFrom (stepFrom v m hi) (m.filter fun p => decide (hi < p.1)) a = stepFrom v m a := by
  induction m generalizing v b with
  | nil => rfl
  | cons p m ih =>
    obtain ⟨k, u⟩ := p
    simp only [mapSorted, Bool.and_eq_true] at h
    by_cases hk : k ≤ hi
    · have h1 : k ≤ a := by omega
      have h2 : ¬ hi < k := by omega
      simp only [stepFrom, hk, h1, h2, if_true, List.filter_cons, decide_false, Bool.false_eq_true, if_false, ih h.2]
    · have e : m.filter (fun p => decide (hi < p.1)) = m := by
        rw [List.filter_eq_self]
        intro q hq
        have := mapSorted_keys h.2 q hq
        simp; omega
      have h2 : hi < k := by omega
      simp only [stepFrom, hk, if_false, List.filter_cons, h2, decide_true, if_true, e]

theorem mapSorted_cut {α : Type} {m n : Map α} {b : Option Nat} (h : mapSorted b m = true) {lo : Nat} (hb : ∀ l, b = some l → l < lo)
    (g : α) (hn : mapSorted (some lo) n = true) :
    mapSorted b ((m.filter fun p => decide (p.1 < lo)) ++ (lo, g) :: n) = true := by
  have base : ∀ b : Option Nat, (∀ l, b = some l → l < lo) → mapSorted b ((lo, g) :: n) = true := by
    intro b hb
    cases b with
    | none => simpa [mapSorted] using hn
    | some l => simpa [mapSorted, hb l rfl] using hn
  induction m generalizing b with
  | nil => exact base b hb
  | cons p m ih =>
    obtain ⟨k, u⟩ := p
    simp only [mapSorted, Bool.and_eq_true] at h
    by_cases hk : k < lo
    · simp only [List.filter_cons, hk, decide_true, if_true, List.cons_append, mapSorted, Bool.and_eq_true]
      exact ⟨h.1, ih h.2 fun l hl => by cases hl; exact hk⟩
    · have e : m.filter (fun p => decide (p.1 < lo)) = [] := by
        rw [List.filter_eq_nil_iff]
        intro q hq
        have := mapSorted_keys h.2 q hq
        simp; omega
      simp only [List.filter_cons, hk, decide_false, e, Bool.false_eq_true, if_false, List.nil_append]
      exact base b hb

/-- A table of steps after a write: the value over the keys written, every other key as before. -/
theorem stepAt_stepPut {m : Map Nat} (h : mapSorted none m = true) (lo n g a : Nat) :
    stepAt (stepPut m lo n g) a = if lo ≤ a ∧ a < lo + n then g else stepAt m a := by
  by_cases hn : n = 0
  · simp [stepPut, hn]
  · have ht : mapSorted (some lo) ((lo + n, stepAt m (lo + n)) :: m.filter fun p => decide (lo + n < p.1)) = true := by
      simp only [mapSorted, Bool.and_eq_true, decide_eq_true_eq]
      refine ⟨by omega, ?_⟩
      have hs := mapSorted_filter (fun p => decide (lo + n < p.1)) m none h
      cases e : m.filter (fun p => decide (lo + n < p.1)) with
      | nil => rfl
      | cons p l =>
        have hp : p ∈ m.filter (fun p => decide (lo + n < p.1)) := e ▸ List.mem_cons_self
        rw [e] at hs
        simp only [List.mem_filter, decide_eq_true_eq] at hp
        simpa [mapSorted, hp.2] using hs
    have e : stepAt (stepPut m lo n g) a = stepFrom 0 ((m.filter fun p => decide (p.1 < lo)) ++
        (lo, g) :: (lo + n, stepAt m (lo + n)) :: m.filter fun p => decide (lo + n < p.1)) a := by
      rw [stepPut, if_neg hn]
      exact stepFrom_stepNorm _ none (mapSorted_cut h (by simp) g ht) 0 a
    rw [e]
    by_cases h1 : a < lo
    · rw [stepFrom_cut_below h h1, if_neg (by omega)]
      rfl
    · rw [stepFrom_cut_above m (Nat.not_lt.mp h1)]
      by_cases h2 : a < lo + n
      · rw [if_pos (by omega)]
        simp [stepFrom, h2]
      · rw [if_neg (by omega)]
        have h3 : lo + n ≤ a := by omega
        simp only [stepFrom, h3, if_true]
        exact stepFrom_resume h h3 0

theorem bytesAt_length (m : Bytes) (a n : Nat) : (bytesAt m a n).length = n := by
  induction n generalizing a with
  | zero => rfl
  | succ n ih => simp [bytesAt, ih]

end Sys2Proof.Machine
end

