-- ==== Sys2Proof/Laws/Memory.lean ====
section
/-! SUPPORT. Every byte space of the package keeps its canonical form through each shared operation that writes one. -/

namespace Sys2Proof.Machine

theorem State.reset_memoryWf : State.reset.memoryWf = true := by decide

theorem State.memoryWf_iff (s : State) : s.memoryWf = true ↔
    Bytes.wf s.hbm = true ∧ Bytes.wf s.hostMem = true ∧ (s.coreTab.all fun p => p.2.storesWf) = true := by
  simp only [State.memoryWf, Bool.and_eq_true, and_assoc]

/-- A state with the same byte spaces. -/
theorem State.memoryWf_of_eq {s t : State} (h : s.memoryWf = true) (hb : t.hbm = s.hbm) (hm : t.hostMem = s.hostMem)
    (hc : t.coreTab = s.coreTab) : t.memoryWf = true := by
  rw [State.memoryWf_iff] at *
  rwa [hb, hm, hc]

theorem Core.storesWf_initial : Core.initial.storesWf = true := by decide

/-- The stores of every core. -/
theorem State.core_storesWf {s : State} (h : s.memoryWf = true) (c : Nat) : (s.core c).storesWf = true := by
  have all := ((State.memoryWf_iff s).mp h).2.2
  unfold State.core
  revert all
  generalize s.coreTab = m
  intro all
  induction m with
  | nil => exact Core.storesWf_initial
  | cons p m ih =>
    rw [List.all_cons, Bool.and_eq_true] at all
    simp only [mapGet, mapFind] at *
    split
    · exact all.1
    · exact ih all.2

/-- A core is replaced by one whose stores have the form. -/
theorem State.memoryWf_setCore {s : State} (h : s.memoryWf = true) {q : Core} (hq : q.storesWf = true) (c : Nat) :
    (s.setCore c q).memoryWf = true := by
  rw [State.memoryWf_iff] at *
  exact ⟨h.1, h.2.1, all_mapPut _ _ _ _ h.2.2 hq⟩

theorem Core.storesWf_setStore {q : Core} (h : q.storesWf = true) (st : Nat) {m : Bytes} (hm : Bytes.wf m = true) :
    (q.setStore st m).storesWf = true := by
  simp only [Core.storesWf, Bool.and_eq_true] at *
  unfold Core.setStore
  split <;> simp_all

theorem Core.store_wf {q : Core} (h : q.storesWf = true) (st : Nat) : Bytes.wf (q.store st) = true := by
  simp only [Core.storesWf, Bool.and_eq_true] at h
  unfold Core.store
  split <;> simp_all

theorem State.memoryWf_hostWrite {s : State} (h : s.memoryWf = true) (f iova : Nat) (bs : List Byte) :
    (s.hostWrite f iova bs).memoryWf = true := by
  rw [State.memoryWf_iff] at *
  exact ⟨h.1, Bytes.wf_putBytes bs h.2.1 _, h.2.2⟩

theorem State.memoryWf_hbmPut {s : State} (h : s.memoryWf = true) (gen pa : Nat) (bs : List Byte) :
    (s.hbmPut gen pa bs).memoryWf = true := by
  have e : (s.hbmCured pa bs.length).hostMem = s.hostMem ∧ (s.hbmCured pa bs.length).coreTab = s.coreTab := by
    unfold State.hbmCured
    split <;> exact ⟨rfl, rfl⟩
  rw [State.memoryWf_iff] at *
  simp only [State.hbmPut, e]
  exact ⟨Bytes.wf_putBytes bs h.1 _, h.2⟩

theorem State.memoryWf_markGranule {s : State} (h : s.memoryWf = true) (on : Bool) (g : Nat) :
    (State.markGranule on s g).memoryWf = true := by
  unfold State.markGranule
  split
  · exact State.memoryWf_hbmPut h _ _ _
  · exact h

/-- What keeps the form one element at a time keeps it over a list. -/
theorem State.memoryWf_foldl {α : Type} {f : State → α → State} (hf : ∀ s x, s.memoryWf = true → (f s x).memoryWf = true) (l : List α)
    {s : State} (h : s.memoryWf = true) : (l.foldl f s).memoryWf = true := by
  induction l generalizing s with
  | nil => exact h
  | cons x l ih => exact ih (hf s x h)

theorem State.memoryWf_rewatch {s : State} (h : s.memoryWf = true) (gs : List Nat) : (s.rewatch gs).memoryWf = true :=
  State.memoryWf_of_eq (State.memoryWf_foldl (fun _ _ h => State.memoryWf_markGranule h true _) _
    (State.memoryWf_foldl (fun _ _ h => State.memoryWf_markGranule h false _) _ h)) rfl rfl rfl

theorem State.memoryWf_acceptNotice {s : State} (h : s.memoryWf = true) (g : Nat) : (s.acceptNotice g).memoryWf = true := by
  unfold State.acceptNotice State.unwatch
  dsimp only
  refine State.memoryWf_rewatch ?_ _
  exact State.memoryWf_of_eq h rfl rfl rfl

theorem State.memoryWf_watchWrite {s : State} (h : s.memoryWf = true) (pa n : Nat) : (s.watchWrite pa n).memoryWf = true := by
  unfold State.watchWrite
  split
  · exact h
  · refine State.memoryWf_foldl (fun u i hu => ?_) _ h
    by_cases g : u.watched (pa / 4096 + i) = true
    · rw [if_pos g]
      exact State.memoryWf_acceptNotice hu _
    · rw [if_neg g]
      exact hu

/-- A save slot written whole. -/
theorem State.memoryWf_hbmFill {s : State} (h : s.memoryWf = true) (gen pa n : Nat) (cells : Bytes) :
    (s.hbmFill gen pa n cells).memoryWf = true := by
  have hw := State.memoryWf_watchWrite h pa n
  have e : ((s.watchWrite pa n).hbmCured pa n).hbm = (s.watchWrite pa n).hbm ∧
      ((s.watchWrite pa n).hbmCured pa n).hostMem = (s.watchWrite pa n).hostMem ∧
      ((s.watchWrite pa n).hbmCured pa n).coreTab = (s.watchWrite pa n).coreTab := by
    unfold State.hbmCured
    split <;> exact ⟨rfl, rfl, rfl⟩
  rw [State.memoryWf_iff] at *
  simp only [State.hbmFill, e]
  exact ⟨Bytes.wf_spliceBytes hw.1 _ _ _, hw.2⟩

theorem State.memoryWf_hbmWrite {s : State} (h : s.memoryWf = true) (gen pa : Nat) (bs : List Byte) :
    (s.hbmWrite gen pa bs).memoryWf = true :=
  State.memoryWf_hbmPut (State.memoryWf_watchWrite h pa bs.length) gen pa bs

theorem State.memoryWf_writeRuns {s : State} (h : s.memoryWf = true) (rs : List Run) (bs : List Byte) :
    (s.writeRuns rs bs).memoryWf = true := by
  induction rs generalizing s bs with
  | nil => exact h
  | cons r rs ih => exact ih (State.memoryWf_hbmWrite h _ _ _) _

/-! ## Events and notices -/

theorem State.memoryWf_setFn {s : State} (h : s.memoryWf = true) (f : Nat) (x : Fn) : (s.setFn f x).memoryWf = true := h

theorem State.memoryWf_setQueue {s : State} (h : s.memoryWf = true) (n : Nat) (q : Queue) : (s.setQueue n q).memoryWf = true := h

theorem State.memoryWf_writeEntry {s : State} (h : s.memoryWf = true) (f : Nat) (e : Event) : (s.writeEntry f e).memoryWf = true :=
  State.memoryWf_setFn (State.memoryWf_hostWrite h f _ _) f _

theorem State.memoryWf_postEvent {s : State} (h : s.memoryWf = true) (f cls index typ : Nat) (task : Word) (payload : BitVec 120) :
    (s.postEvent f cls index typ task payload).memoryWf = true := by
  unfold State.postEvent
  generalize s.fn f = x
  dsimp only
  split
  · exact State.memoryWf_writeEntry (State.memoryWf_setFn h f _) f _
  · split <;> exact State.memoryWf_setFn h f _

theorem State.memoryWf_drainEvents {s : State} (h : s.memoryWf = true) (f n : Nat) : (s.drainEvents f n).memoryWf = true := by
  induction n generalizing s with
  | zero => exact h
  | succ n ih =>
    unfold State.drainEvents
    dsimp only
    split
    · exact h
    · split
      · exact ih (State.memoryWf_writeEntry (State.memoryWf_setFn h f _) f _)
      · exact h

theorem State.memoryWf_gWrite {s u : State} (h : s.memoryWf = true) {tenant va : Nat} {bs : List Byte}
    (e : s.gWrite tenant va bs = .ok u) : u.memoryWf = true := by
  unfold State.gWrite at e
  split at e
  · cases e
  · cases e
    exact State.memoryWf_writeRuns h _ _

theorem State.memoryWf_writeSlot {s u : State} (h : s.memoryWf = true) {n : Nat} {i : BitVec 32} {bs : List Byte}
    (e : s.writeSlot n i bs = some u) : u.memoryWf = true := by
  unfold State.writeSlot at e
  dsimp only at e
  split at e
  · split at e
    · cases e
    · cases e
      exact State.memoryWf_hostWrite h _ _ _
  · split at e
    · rename_i g
      cases e
      exact State.memoryWf_gWrite h g
    · cases e

theorem State.memoryWf_loseNotice {s : State} (h : s.memoryWf = true) : s.loseNotice.memoryWf = true :=
  State.memoryWf_postEvent (s := { s with evlost := if s.evlost = 0xFFFFFFFF then s.evlost else s.evlost + 1 }) h _ _ _ _ _ _

theorem State.memoryWf_deliverNotice {s : State} (h : s.memoryWf = true) (x : Notice) : (s.deliverNotice x).memoryWf = true := by
  unfold State.deliverNotice
  simp only []
  split
  · exact State.memoryWf_loseNotice h
  · split
    · exact State.memoryWf_loseNotice h
    · split
      · exact State.memoryWf_loseNotice h
      · rename_i s1 e1
        split
        · exact State.memoryWf_loseNotice h
        · split
          · exact State.memoryWf_loseNotice h
          · rename_i s2 e2
            exact State.memoryWf_postEvent (State.memoryWf_setQueue (State.memoryWf_writeSlot (State.memoryWf_gWrite h e1) e2) 0 _) _ _ _ _ _ _

theorem State.memoryWf_postNotice {s : State} (h : s.memoryWf = true) (x : Notice) : (s.postNotice x).memoryWf = true := by
  unfold State.postNotice
  simp only []
  split
  · exact State.memoryWf_deliverNotice h x
  · split
    · exact State.memoryWf_of_eq h rfl rfl rfl
    · exact State.memoryWf_loseNotice h

theorem State.memoryWf_reportUnits {s : State} (h : s.memoryWf = true) (us : List ErrorUnit) (src : Nat) (reader : Word) :
    (s.reportUnits us src reader).memoryWf = true := by
  unfold State.reportUnits
  exact State.memoryWf_foldl (fun _ _ h => State.memoryWf_postNotice h _) us h

/-! ## Messages -/

theorem State.memoryWf_sendTo {s : State} (h : s.memoryWf = true) (vc dest : Nat) (words : List Nat) :
    (s.sendTo vc dest words).memoryWf = true := by
  unfold State.sendTo
  split
  · exact State.memoryWf_of_eq h rfl rfl rfl
  · exact h

theorem State.memoryWf_request {s : State} (h : s.memoryWf = true) (peer : Nat) (write : Bool) (words : List Nat) :
    (s.request peer write words).memoryWf = true :=
  State.memoryWf_sendTo (s := { s with pOut := s.pOut ++ [(s.pTag, peer, write)], pTag := s.pTag + 1 })
    (State.memoryWf_of_eq h rfl rfl rfl) _ _ _

theorem State.memoryWf_sendPod {s : State} (h : s.memoryWf = true) (dest : Nat) (kind : PodKind) (task : Word) (attempt : Nat) :
    (s.sendPod dest kind task attempt).memoryWf = true :=
  State.memoryWf_sendTo (s := { s with podOut := s.podOut ++ [⟨dest, kind, task, attempt⟩] }) (State.memoryWf_of_eq h rfl rfl rfl) _ _ _

/-- A write performed at its home port. -/
theorem State.memoryWf_writeAt {s : State} (h : s.memoryWf = true) (t : WriteTarget) (bs : List Byte) :
    (s.writeAt t bs).memoryWf = true := by
  cases t with
  | hbm pa gen => exact State.memoryWf_hbmWrite h gen pa bs
  | store c st off =>
    have hs := State.memoryWf_setCore h (Core.storesWf_setStore (State.core_storesWf h c) st
      (Bytes.wf_putBytes bs (Core.store_wf (State.core_storesWf h c) st) off)) c
    unfold State.writeAt
    simp only []
    split
    · exact hs
    · exact State.memoryWf_of_eq hs rfl rfl rfl
  | host f iova => exact State.memoryWf_hostWrite h f iova bs
  | peer p va =>
    unfold State.writeAt
    simp only []
    split
    · exact State.memoryWf_request h _ _ _
    · exact State.memoryWf_postNotice h _

/-! ## Pending writes -/

theorem State.memoryWf_performOne {s : State} (h : s.memoryWf = true) (reader : Word) (w : PendingWrite) :
    (s.performOne reader w).memoryWf = true := by
  unfold State.performOne
  split
  · exact State.memoryWf_writeAt h _ _
  · exact State.memoryWf_writeAt (State.memoryWf_reportUnits h _ _ _) _ _

theorem State.memoryWf_performNth {s : State} (h : s.memoryWf = true) (c i : Nat) : (s.performNth c i).memoryWf = true := by
  unfold State.performNth
  split
  · exact h
  · have q : Core.storesWf { s.core c with writes := (s.core c).writes.eraseIdx i } = true := State.core_storesWf h c
    exact State.memoryWf_performOne (State.memoryWf_setCore h q c) _ _

theorem State.memoryWf_drainFrom {s : State} (h : s.memoryWf = true) (c n : Nat) : (s.drainFrom c n).memoryWf = true := by
  induction n generalizing s with
  | zero => exact h
  | succ n ih => exact ih (State.memoryWf_performNth h c 0)

theorem State.memoryWf_settleRange {s : State} (h : s.memoryWf = true) (c : Nat) (t : WriteTarget) (n : Nat) :
    (s.settleRange c t n).memoryWf = true := State.memoryWf_drainFrom h c _

theorem State.memoryWf_seenBy {s : State} (h : s.memoryWf = true) (c : Nat) : (s.seenBy c).memoryWf = true := by
  unfold State.seenBy
  split
  · exact h
  · exact State.memoryWf_drainFrom h c _

theorem State.memoryWf_engineWrite {s : State} (h : s.memoryWf = true) (c : Nat) (ws : List (WriteTarget × List Byte)) :
    (s.engineWrite c ws).memoryWf = true := by
  unfold State.engineWrite
  exact State.memoryWf_foldl (fun _ w h => State.memoryWf_writeAt (State.memoryWf_settleRange h c w.1 _) _ _) ws h

end Sys2Proof.Machine
end

