-- ==== Sys2Proof/Laws/State.lean ====
section
/-! SUPPORT. The laws of the named updates of the state: one lemma for each field and update, then the reads of cores and strands
after writes. -/

namespace Sys2Proof.Machine

/-! ## Fields of the package -/

@[simp] theorem State.setCore_agenda (s : State) (c : Nat) (q : Core) : (s.setCore c q).agenda = s.agenda := rfl
@[simp] theorem State.setCore_cur (s : State) (c : Nat) (q : Core) : (s.setCore c q).cur = s.cur := rfl
@[simp] theorem State.setCore_lastCore (s : State) (c : Nat) (q : Core) : (s.setCore c q).lastCore = s.lastCore := rfl
@[simp] theorem State.setCore_free (s : State) (c : Nat) (q : Core) : (s.setCore c q).free = s.free := rfl
@[simp] theorem State.setCore_power (s : State) (c : Nat) (q : Core) : (s.setCore c q).power = s.power := rfl
@[simp] theorem State.setCore_hbm (s : State) (c : Nat) (q : Core) : (s.setCore c q).hbm = s.hbm := rfl
@[simp] theorem State.setCore_hbmGen (s : State) (c : Nat) (q : Core) : (s.setCore c q).hbmGen = s.hbmGen := rfl
@[simp] theorem State.setCore_hostMem (s : State) (c : Nat) (q : Core) : (s.setCore c q).hostMem = s.hostMem := rfl
@[simp] theorem State.setCore_hostPages (s : State) (c : Nat) (q : Core) : (s.setCore c q).hostPages = s.hostPages := rfl
@[simp] theorem State.setCore_poison (s : State) (c : Nat) (q : Core) : (s.setCore c q).poison = s.poison := rfl
@[simp] theorem State.setCore_tick (s : State) (c : Nat) (q : Core) : (s.setCore c q).tick = s.tick := rfl
@[simp] theorem State.setCore_clkcnt (s : State) (c : Nat) (q : Core) : (s.setCore c q).clkcnt = s.clkcnt := rfl
@[simp] theorem State.setCore_evalTick (s : State) (c : Nat) (q : Core) : (s.setCore c q).evalTick = s.evalTick := rfl
@[simp] theorem State.setCore_watts (s : State) (c : Nat) (q : Core) : (s.setCore c q).watts = s.watts := rfl
@[simp] theorem State.setCore_dies (s : State) (c : Nat) (q : Core) : (s.setCore c q).dies = s.dies := rfl
@[simp] theorem State.setCore_ports (s : State) (c : Nat) (q : Core) : (s.setCore c q).ports = s.ports := rfl
@[simp] theorem State.setCore_routes (s : State) (c : Nat) (q : Core) : (s.setCore c q).routes = s.routes := rfl
@[simp] theorem State.setCore_podId (s : State) (c : Nat) (q : Core) : (s.setCore c q).podId = s.podId := rfl
@[simp] theorem State.setCore_hopDrops (s : State) (c : Nat) (q : Core) : (s.setCore c q).hopDrops = s.hopDrops := rfl
@[simp] theorem State.setCore_pOut (s : State) (c : Nat) (q : Core) : (s.setCore c q).pOut = s.pOut := rfl
@[simp] theorem State.setCore_pTag (s : State) (c : Nat) (q : Core) : (s.setCore c q).pTag = s.pTag := rfl
@[simp] theorem State.setCore_fns (s : State) (c : Nat) (q : Core) : (s.setCore c q).fns = s.fns := rfl
@[simp] theorem State.setCore_mbxState (s : State) (c : Nat) (q : Core) : (s.setCore c q).mbxState = s.mbxState := rfl
@[simp] theorem State.setCore_boot (s : State) (c : Nat) (q : Core) : (s.setCore c q).boot = s.boot := rfl
@[simp] theorem State.setCore_startLog (s : State) (c : Nat) (q : Core) : (s.setCore c q).startLog = s.startLog := rfl
@[simp] theorem State.setCore_rollback (s : State) (c : Nat) (q : Core) : (s.setCore c q).rollback = s.rollback := rfl
@[simp] theorem State.setCore_fwVersion (s : State) (c : Nat) (q : Core) : (s.setCore c q).fwVersion = s.fwVersion := rfl
@[simp] theorem State.setCore_fwDigest (s : State) (c : Nat) (q : Core) : (s.setCore c q).fwDigest = s.fwDigest := rfl
@[simp] theorem State.setCore_sessions (s : State) (c : Nat) (q : Core) : (s.setCore c q).sessions = s.sessions := rfl
@[simp] theorem State.setCore_tkey (s : State) (c : Nat) (q : Core) : (s.setCore c q).tkey = s.tkey := rfl
@[simp] theorem State.setCore_keyGen (s : State) (c : Nat) (q : Core) : (s.setCore c q).keyGen = s.keyGen := rfl
@[simp] theorem State.setCore_keys (s : State) (c : Nat) (q : Core) : (s.setCore c q).keys = s.keys := rfl
@[simp] theorem State.setCore_hubTable (s : State) (c : Nat) (q : Core) : (s.setCore c q).hubTable = s.hubTable := rfl
@[simp] theorem State.setCore_queueTables (s : State) (c : Nat) (q : Core) : (s.setCore c q).queueTables = s.queueTables := rfl
@[simp] theorem State.setCore_portTables (s : State) (c : Nat) (q : Core) : (s.setCore c q).portTables = s.portTables := rfl
@[simp] theorem State.setCore_hbmTables (s : State) (c : Nat) (q : Core) : (s.setCore c q).hbmTables = s.hbmTables := rfl
@[simp] theorem State.setCore_ranges (s : State) (c : Nat) (q : Core) : (s.setCore c q).ranges = s.ranges := rfl
@[simp] theorem State.setCore_peerDenied (s : State) (c : Nat) (q : Core) : (s.setCore c q).peerDenied = s.peerDenied := rfl
@[simp] theorem State.setCore_queues (s : State) (c : Nat) (q : Core) : (s.setCore c q).queues = s.queues := rfl
@[simp] theorem State.setCore_lastQueue (s : State) (c : Nat) (q : Core) : (s.setCore c q).lastQueue = s.lastQueue := rfl
@[simp] theorem State.setCore_tasks (s : State) (c : Nat) (q : Core) : (s.setCore c q).tasks = s.tasks := rfl
@[simp] theorem State.setCore_graphs (s : State) (c : Nat) (q : Core) : (s.setCore c q).graphs = s.graphs := rfl
@[simp] theorem State.setCore_stamp (s : State) (c : Nat) (q : Core) : (s.setCore c q).stamp = s.stamp := rfl
@[simp] theorem State.setCore_peerGangs (s : State) (c : Nat) (q : Core) : (s.setCore c q).peerGangs = s.peerGangs := rfl
@[simp] theorem State.setCore_podOut (s : State) (c : Nat) (q : Core) : (s.setCore c q).podOut = s.podOut := rfl
@[simp] theorem State.setCore_evtab (s : State) (c : Nat) (q : Core) : (s.setCore c q).evtab = s.evtab := rfl
@[simp] theorem State.setCore_evarg (s : State) (c : Nat) (q : Core) : (s.setCore c q).evarg = s.evarg := rfl
@[simp] theorem State.setCore_evlost (s : State) (c : Nat) (q : Core) : (s.setCore c q).evlost = s.evlost := rfl
@[simp] theorem State.setCore_notices (s : State) (c : Nat) (q : Core) : (s.setCore c q).notices = s.notices := rfl
@[simp] theorem State.setCore_saveSlots (s : State) (c : Nat) (q : Core) : (s.setCore c q).saveSlots = s.saveSlots := rfl
@[simp] theorem State.setCore_saveFree (s : State) (c : Nat) (q : Core) : (s.setCore c q).saveFree = s.saveFree := rfl
@[simp] theorem State.setCore_saveBase (s : State) (c : Nat) (q : Core) : (s.setCore c q).saveBase = s.saveBase := rfl
@[simp] theorem State.setCore_wdlimit (s : State) (c : Nat) (q : Core) : (s.setCore c q).wdlimit = s.wdlimit := rfl
@[simp] theorem State.setCore_pkAction (s : State) (c : Nat) (q : Core) : (s.setCore c q).pkAction = s.pkAction := rfl
@[simp] theorem State.setCore_pkIndex (s : State) (c : Nat) (q : Core) : (s.setCore c q).pkIndex = s.pkIndex := rfl
@[simp] theorem State.setCore_parks (s : State) (c : Nat) (q : Core) : (s.setCore c q).parks = s.parks := rfl
@[simp] theorem State.setCore_sdBase (s : State) (c : Nat) (q : Core) : (s.setCore c q).sdBase = s.sdBase := rfl
@[simp] theorem State.setCore_sdPages (s : State) (c : Nat) (q : Core) : (s.setCore c q).sdPages = s.sdPages := rfl
@[simp] theorem State.setCore_sdTenant (s : State) (c : Nat) (q : Core) : (s.setCore c q).sdTenant = s.sdTenant := rfl
@[simp] theorem State.setCore_sdBusy (s : State) (c : Nat) (q : Core) : (s.setCore c q).sdBusy = s.sdBusy := rfl
@[simp] theorem State.setCore_sdWait (s : State) (c : Nat) (q : Core) : (s.setCore c q).sdWait = s.sdWait := rfl
@[simp] theorem State.setCore_ptroot (s : State) (c : Nat) (q : Core) : (s.setCore c q).ptroot = s.ptroot := rfl
@[simp] theorem State.setCore_pools (s : State) (c : Nat) (q : Core) : (s.setCore c q).pools = s.pools := rfl
@[simp] theorem State.setCore_watchRegions (s : State) (c : Nat) (q : Core) : (s.setCore c q).watchRegions = s.watchRegions := rfl
@[simp] theorem State.setCore_watch (s : State) (c : Nat) (q : Core) : (s.setCore c q).watch = s.watch := rfl
@[simp] theorem State.setCore_digests (s : State) (c : Nat) (q : Core) : (s.setCore c q).digests = s.digests := rfl
@[simp] theorem State.setCore_digestCache (s : State) (c : Nat) (q : Core) : (s.setCore c q).digestCache = s.digestCache := rfl
@[simp] theorem State.setCore_results (s : State) (c : Nat) (q : Core) : (s.setCore c q).results = s.results := rfl

@[simp] theorem State.setMe_agenda (s : State) (t : Strand) : (s.setMe t).agenda = s.agenda := rfl
@[simp] theorem State.setMe_cur (s : State) (t : Strand) : (s.setMe t).cur = s.cur := rfl
@[simp] theorem State.setMe_lastCore (s : State) (t : Strand) : (s.setMe t).lastCore = s.lastCore := rfl
@[simp] theorem State.setMe_free (s : State) (t : Strand) : (s.setMe t).free = s.free := rfl
@[simp] theorem State.setMe_power (s : State) (t : Strand) : (s.setMe t).power = s.power := rfl
@[simp] theorem State.setMe_hbm (s : State) (t : Strand) : (s.setMe t).hbm = s.hbm := rfl
@[simp] theorem State.setMe_hbmGen (s : State) (t : Strand) : (s.setMe t).hbmGen = s.hbmGen := rfl
@[simp] theorem State.setMe_hostMem (s : State) (t : Strand) : (s.setMe t).hostMem = s.hostMem := rfl
@[simp] theorem State.setMe_hostPages (s : State) (t : Strand) : (s.setMe t).hostPages = s.hostPages := rfl
@[simp] theorem State.setMe_poison (s : State) (t : Strand) : (s.setMe t).poison = s.poison := rfl
@[simp] theorem State.setMe_tick (s : State) (t : Strand) : (s.setMe t).tick = s.tick := rfl
@[simp] theorem State.setMe_clkcnt (s : State) (t : Strand) : (s.setMe t).clkcnt = s.clkcnt := rfl
@[simp] theorem State.setMe_evalTick (s : State) (t : Strand) : (s.setMe t).evalTick = s.evalTick := rfl
@[simp] theorem State.setMe_watts (s : State) (t : Strand) : (s.setMe t).watts = s.watts := rfl
@[simp] theorem State.setMe_dies (s : State) (t : Strand) : (s.setMe t).dies = s.dies := rfl
@[simp] theorem State.setMe_ports (s : State) (t : Strand) : (s.setMe t).ports = s.ports := rfl
@[simp] theorem State.setMe_routes (s : State) (t : Strand) : (s.setMe t).routes = s.routes := rfl
@[simp] theorem State.setMe_podId (s : State) (t : Strand) : (s.setMe t).podId = s.podId := rfl
@[simp] theorem State.setMe_hopDrops (s : State) (t : Strand) : (s.setMe t).hopDrops = s.hopDrops := rfl
@[simp] theorem State.setMe_pOut (s : State) (t : Strand) : (s.setMe t).pOut = s.pOut := rfl
@[simp] theorem State.setMe_pTag (s : State) (t : Strand) : (s.setMe t).pTag = s.pTag := rfl
@[simp] theorem State.setMe_fns (s : State) (t : Strand) : (s.setMe t).fns = s.fns := rfl
@[simp] theorem State.setMe_mbxState (s : State) (t : Strand) : (s.setMe t).mbxState = s.mbxState := rfl
@[simp] theorem State.setMe_boot (s : State) (t : Strand) : (s.setMe t).boot = s.boot := rfl
@[simp] theorem State.setMe_startLog (s : State) (t : Strand) : (s.setMe t).startLog = s.startLog := rfl
@[simp] theorem State.setMe_rollback (s : State) (t : Strand) : (s.setMe t).rollback = s.rollback := rfl
@[simp] theorem State.setMe_fwVersion (s : State) (t : Strand) : (s.setMe t).fwVersion = s.fwVersion := rfl
@[simp] theorem State.setMe_fwDigest (s : State) (t : Strand) : (s.setMe t).fwDigest = s.fwDigest := rfl
@[simp] theorem State.setMe_sessions (s : State) (t : Strand) : (s.setMe t).sessions = s.sessions := rfl
@[simp] theorem State.setMe_tkey (s : State) (t : Strand) : (s.setMe t).tkey = s.tkey := rfl
@[simp] theorem State.setMe_keyGen (s : State) (t : Strand) : (s.setMe t).keyGen = s.keyGen := rfl
@[simp] theorem State.setMe_keys (s : State) (t : Strand) : (s.setMe t).keys = s.keys := rfl
@[simp] theorem State.setMe_hubTable (s : State) (t : Strand) : (s.setMe t).hubTable = s.hubTable := rfl
@[simp] theorem State.setMe_queueTables (s : State) (t : Strand) : (s.setMe t).queueTables = s.queueTables := rfl
@[simp] theorem State.setMe_portTables (s : State) (t : Strand) : (s.setMe t).portTables = s.portTables := rfl
@[simp] theorem State.setMe_hbmTables (s : State) (t : Strand) : (s.setMe t).hbmTables = s.hbmTables := rfl
@[simp] theorem State.setMe_ranges (s : State) (t : Strand) : (s.setMe t).ranges = s.ranges := rfl
@[simp] theorem State.setMe_peerDenied (s : State) (t : Strand) : (s.setMe t).peerDenied = s.peerDenied := rfl
@[simp] theorem State.setMe_queues (s : State) (t : Strand) : (s.setMe t).queues = s.queues := rfl
@[simp] theorem State.setMe_lastQueue (s : State) (t : Strand) : (s.setMe t).lastQueue = s.lastQueue := rfl
@[simp] theorem State.setMe_tasks (s : State) (t : Strand) : (s.setMe t).tasks = s.tasks := rfl
@[simp] theorem State.setMe_graphs (s : State) (t : Strand) : (s.setMe t).graphs = s.graphs := rfl
@[simp] theorem State.setMe_stamp (s : State) (t : Strand) : (s.setMe t).stamp = s.stamp := rfl
@[simp] theorem State.setMe_peerGangs (s : State) (t : Strand) : (s.setMe t).peerGangs = s.peerGangs := rfl
@[simp] theorem State.setMe_podOut (s : State) (t : Strand) : (s.setMe t).podOut = s.podOut := rfl
@[simp] theorem State.setMe_evtab (s : State) (t : Strand) : (s.setMe t).evtab = s.evtab := rfl
@[simp] theorem State.setMe_evarg (s : State) (t : Strand) : (s.setMe t).evarg = s.evarg := rfl
@[simp] theorem State.setMe_evlost (s : State) (t : Strand) : (s.setMe t).evlost = s.evlost := rfl
@[simp] theorem State.setMe_notices (s : State) (t : Strand) : (s.setMe t).notices = s.notices := rfl
@[simp] theorem State.setMe_saveSlots (s : State) (t : Strand) : (s.setMe t).saveSlots = s.saveSlots := rfl
@[simp] theorem State.setMe_saveFree (s : State) (t : Strand) : (s.setMe t).saveFree = s.saveFree := rfl
@[simp] theorem State.setMe_saveBase (s : State) (t : Strand) : (s.setMe t).saveBase = s.saveBase := rfl
@[simp] theorem State.setMe_wdlimit (s : State) (t : Strand) : (s.setMe t).wdlimit = s.wdlimit := rfl
@[simp] theorem State.setMe_pkAction (s : State) (t : Strand) : (s.setMe t).pkAction = s.pkAction := rfl
@[simp] theorem State.setMe_pkIndex (s : State) (t : Strand) : (s.setMe t).pkIndex = s.pkIndex := rfl
@[simp] theorem State.setMe_parks (s : State) (t : Strand) : (s.setMe t).parks = s.parks := rfl
@[simp] theorem State.setMe_sdBase (s : State) (t : Strand) : (s.setMe t).sdBase = s.sdBase := rfl
@[simp] theorem State.setMe_sdPages (s : State) (t : Strand) : (s.setMe t).sdPages = s.sdPages := rfl
@[simp] theorem State.setMe_sdTenant (s : State) (t : Strand) : (s.setMe t).sdTenant = s.sdTenant := rfl
@[simp] theorem State.setMe_sdBusy (s : State) (t : Strand) : (s.setMe t).sdBusy = s.sdBusy := rfl
@[simp] theorem State.setMe_sdWait (s : State) (t : Strand) : (s.setMe t).sdWait = s.sdWait := rfl
@[simp] theorem State.setMe_ptroot (s : State) (t : Strand) : (s.setMe t).ptroot = s.ptroot := rfl
@[simp] theorem State.setMe_pools (s : State) (t : Strand) : (s.setMe t).pools = s.pools := rfl
@[simp] theorem State.setMe_watchRegions (s : State) (t : Strand) : (s.setMe t).watchRegions = s.watchRegions := rfl
@[simp] theorem State.setMe_watch (s : State) (t : Strand) : (s.setMe t).watch = s.watch := rfl
@[simp] theorem State.setMe_digests (s : State) (t : Strand) : (s.setMe t).digests = s.digests := rfl
@[simp] theorem State.setMe_digestCache (s : State) (t : Strand) : (s.setMe t).digestCache = s.digestCache := rfl
@[simp] theorem State.setMe_results (s : State) (t : Strand) : (s.setMe t).results = s.results := rfl

@[simp] theorem State.setDie_agenda (s : State) (d : Nat) (x : Die) : (s.setDie d x).agenda = s.agenda := rfl
@[simp] theorem State.setDie_cur (s : State) (d : Nat) (x : Die) : (s.setDie d x).cur = s.cur := rfl
@[simp] theorem State.setDie_lastCore (s : State) (d : Nat) (x : Die) : (s.setDie d x).lastCore = s.lastCore := rfl
@[simp] theorem State.setDie_free (s : State) (d : Nat) (x : Die) : (s.setDie d x).free = s.free := rfl
@[simp] theorem State.setDie_power (s : State) (d : Nat) (x : Die) : (s.setDie d x).power = s.power := rfl
@[simp] theorem State.setDie_hbm (s : State) (d : Nat) (x : Die) : (s.setDie d x).hbm = s.hbm := rfl
@[simp] theorem State.setDie_hbmGen (s : State) (d : Nat) (x : Die) : (s.setDie d x).hbmGen = s.hbmGen := rfl
@[simp] theorem State.setDie_hostMem (s : State) (d : Nat) (x : Die) : (s.setDie d x).hostMem = s.hostMem := rfl
@[simp] theorem State.setDie_hostPages (s : State) (d : Nat) (x : Die) : (s.setDie d x).hostPages = s.hostPages := rfl
@[simp] theorem State.setDie_poison (s : State) (d : Nat) (x : Die) : (s.setDie d x).poison = s.poison := rfl
@[simp] theorem State.setDie_tick (s : State) (d : Nat) (x : Die) : (s.setDie d x).tick = s.tick := rfl
@[simp] theorem State.setDie_clkcnt (s : State) (d : Nat) (x : Die) : (s.setDie d x).clkcnt = s.clkcnt := rfl
@[simp] theorem State.setDie_evalTick (s : State) (d : Nat) (x : Die) : (s.setDie d x).evalTick = s.evalTick := rfl
@[simp] theorem State.setDie_watts (s : State) (d : Nat) (x : Die) : (s.setDie d x).watts = s.watts := rfl
@[simp] theorem State.setDie_ports (s : State) (d : Nat) (x : Die) : (s.setDie d x).ports = s.ports := rfl
@[simp] theorem State.setDie_routes (s : State) (d : Nat) (x : Die) : (s.setDie d x).routes = s.routes := rfl
@[simp] theorem State.setDie_podId (s : State) (d : Nat) (x : Die) : (s.setDie d x).podId = s.podId := rfl
@[simp] theorem State.setDie_hopDrops (s : State) (d : Nat) (x : Die) : (s.setDie d x).hopDrops = s.hopDrops := rfl
@[simp] theorem State.setDie_pOut (s : State) (d : Nat) (x : Die) : (s.setDie d x).pOut = s.pOut := rfl
@[simp] theorem State.setDie_pTag (s : State) (d : Nat) (x : Die) : (s.setDie d x).pTag = s.pTag := rfl
@[simp] theorem State.setDie_fns (s : State) (d : Nat) (x : Die) : (s.setDie d x).fns = s.fns := rfl
@[simp] theorem State.setDie_mbxState (s : State) (d : Nat) (x : Die) : (s.setDie d x).mbxState = s.mbxState := rfl
@[simp] theorem State.setDie_boot (s : State) (d : Nat) (x : Die) : (s.setDie d x).boot = s.boot := rfl
@[simp] theorem State.setDie_startLog (s : State) (d : Nat) (x : Die) : (s.setDie d x).startLog = s.startLog := rfl
@[simp] theorem State.setDie_rollback (s : State) (d : Nat) (x : Die) : (s.setDie d x).rollback = s.rollback := rfl
@[simp] theorem State.setDie_fwVersion (s : State) (d : Nat) (x : Die) : (s.setDie d x).fwVersion = s.fwVersion := rfl
@[simp] theorem State.setDie_fwDigest (s : State) (d : Nat) (x : Die) : (s.setDie d x).fwDigest = s.fwDigest := rfl
@[simp] theorem State.setDie_sessions (s : State) (d : Nat) (x : Die) : (s.setDie d x).sessions = s.sessions := rfl
@[simp] theorem State.setDie_tkey (s : State) (d : Nat) (x : Die) : (s.setDie d x).tkey = s.tkey := rfl
@[simp] theorem State.setDie_keyGen (s : State) (d : Nat) (x : Die) : (s.setDie d x).keyGen = s.keyGen := rfl
@[simp] theorem State.setDie_keys (s : State) (d : Nat) (x : Die) : (s.setDie d x).keys = s.keys := rfl
@[simp] theorem State.setDie_hubTable (s : State) (d : Nat) (x : Die) : (s.setDie d x).hubTable = s.hubTable := rfl
@[simp] theorem State.setDie_queueTables (s : State) (d : Nat) (x : Die) : (s.setDie d x).queueTables = s.queueTables := rfl
@[simp] theorem State.setDie_portTables (s : State) (d : Nat) (x : Die) : (s.setDie d x).portTables = s.portTables := rfl
@[simp] theorem State.setDie_hbmTables (s : State) (d : Nat) (x : Die) : (s.setDie d x).hbmTables = s.hbmTables := rfl
@[simp] theorem State.setDie_ranges (s : State) (d : Nat) (x : Die) : (s.setDie d x).ranges = s.ranges := rfl
@[simp] theorem State.setDie_peerDenied (s : State) (d : Nat) (x : Die) : (s.setDie d x).peerDenied = s.peerDenied := rfl
@[simp] theorem State.setDie_queues (s : State) (d : Nat) (x : Die) : (s.setDie d x).queues = s.queues := rfl
@[simp] theorem State.setDie_lastQueue (s : State) (d : Nat) (x : Die) : (s.setDie d x).lastQueue = s.lastQueue := rfl
@[simp] theorem State.setDie_tasks (s : State) (d : Nat) (x : Die) : (s.setDie d x).tasks = s.tasks := rfl
@[simp] theorem State.setDie_graphs (s : State) (d : Nat) (x : Die) : (s.setDie d x).graphs = s.graphs := rfl
@[simp] theorem State.setDie_stamp (s : State) (d : Nat) (x : Die) : (s.setDie d x).stamp = s.stamp := rfl
@[simp] theorem State.setDie_peerGangs (s : State) (d : Nat) (x : Die) : (s.setDie d x).peerGangs = s.peerGangs := rfl
@[simp] theorem State.setDie_podOut (s : State) (d : Nat) (x : Die) : (s.setDie d x).podOut = s.podOut := rfl
@[simp] theorem State.setDie_evtab (s : State) (d : Nat) (x : Die) : (s.setDie d x).evtab = s.evtab := rfl
@[simp] theorem State.setDie_evarg (s : State) (d : Nat) (x : Die) : (s.setDie d x).evarg = s.evarg := rfl
@[simp] theorem State.setDie_evlost (s : State) (d : Nat) (x : Die) : (s.setDie d x).evlost = s.evlost := rfl
@[simp] theorem State.setDie_notices (s : State) (d : Nat) (x : Die) : (s.setDie d x).notices = s.notices := rfl
@[simp] theorem State.setDie_saveSlots (s : State) (d : Nat) (x : Die) : (s.setDie d x).saveSlots = s.saveSlots := rfl
@[simp] theorem State.setDie_saveFree (s : State) (d : Nat) (x : Die) : (s.setDie d x).saveFree = s.saveFree := rfl
@[simp] theorem State.setDie_saveBase (s : State) (d : Nat) (x : Die) : (s.setDie d x).saveBase = s.saveBase := rfl
@[simp] theorem State.setDie_wdlimit (s : State) (d : Nat) (x : Die) : (s.setDie d x).wdlimit = s.wdlimit := rfl
@[simp] theorem State.setDie_pkAction (s : State) (d : Nat) (x : Die) : (s.setDie d x).pkAction = s.pkAction := rfl
@[simp] theorem State.setDie_pkIndex (s : State) (d : Nat) (x : Die) : (s.setDie d x).pkIndex = s.pkIndex := rfl
@[simp] theorem State.setDie_parks (s : State) (d : Nat) (x : Die) : (s.setDie d x).parks = s.parks := rfl
@[simp] theorem State.setDie_sdBase (s : State) (d : Nat) (x : Die) : (s.setDie d x).sdBase = s.sdBase := rfl
@[simp] theorem State.setDie_sdPages (s : State) (d : Nat) (x : Die) : (s.setDie d x).sdPages = s.sdPages := rfl
@[simp] theorem State.setDie_sdTenant (s : State) (d : Nat) (x : Die) : (s.setDie d x).sdTenant = s.sdTenant := rfl
@[simp] theorem State.setDie_sdBusy (s : State) (d : Nat) (x : Die) : (s.setDie d x).sdBusy = s.sdBusy := rfl
@[simp] theorem State.setDie_sdWait (s : State) (d : Nat) (x : Die) : (s.setDie d x).sdWait = s.sdWait := rfl
@[simp] theorem State.setDie_ptroot (s : State) (d : Nat) (x : Die) : (s.setDie d x).ptroot = s.ptroot := rfl
@[simp] theorem State.setDie_pools (s : State) (d : Nat) (x : Die) : (s.setDie d x).pools = s.pools := rfl
@[simp] theorem State.setDie_watchRegions (s : State) (d : Nat) (x : Die) : (s.setDie d x).watchRegions = s.watchRegions := rfl
@[simp] theorem State.setDie_watch (s : State) (d : Nat) (x : Die) : (s.setDie d x).watch = s.watch := rfl
@[simp] theorem State.setDie_digests (s : State) (d : Nat) (x : Die) : (s.setDie d x).digests = s.digests := rfl
@[simp] theorem State.setDie_digestCache (s : State) (d : Nat) (x : Die) : (s.setDie d x).digestCache = s.digestCache := rfl
@[simp] theorem State.setDie_results (s : State) (d : Nat) (x : Die) : (s.setDie d x).results = s.results := rfl
@[simp] theorem State.setDie_coreTab (s : State) (d : Nat) (x : Die) : (s.setDie d x).coreTab = s.coreTab := rfl

@[simp] theorem State.setFn_agenda (s : State) (f : Nat) (x : Fn) : (s.setFn f x).agenda = s.agenda := rfl
@[simp] theorem State.setFn_cur (s : State) (f : Nat) (x : Fn) : (s.setFn f x).cur = s.cur := rfl
@[simp] theorem State.setFn_lastCore (s : State) (f : Nat) (x : Fn) : (s.setFn f x).lastCore = s.lastCore := rfl
@[simp] theorem State.setFn_free (s : State) (f : Nat) (x : Fn) : (s.setFn f x).free = s.free := rfl
@[simp] theorem State.setFn_power (s : State) (f : Nat) (x : Fn) : (s.setFn f x).power = s.power := rfl
@[simp] theorem State.setFn_hbm (s : State) (f : Nat) (x : Fn) : (s.setFn f x).hbm = s.hbm := rfl
@[simp] theorem State.setFn_hbmGen (s : State) (f : Nat) (x : Fn) : (s.setFn f x).hbmGen = s.hbmGen := rfl
@[simp] theorem State.setFn_hostMem (s : State) (f : Nat) (x : Fn) : (s.setFn f x).hostMem = s.hostMem := rfl
@[simp] theorem State.setFn_hostPages (s : State) (f : Nat) (x : Fn) : (s.setFn f x).hostPages = s.hostPages := rfl
@[simp] theorem State.setFn_poison (s : State) (f : Nat) (x : Fn) : (s.setFn f x).poison = s.poison := rfl
@[simp] theorem State.setFn_tick (s : State) (f : Nat) (x : Fn) : (s.setFn f x).tick = s.tick := rfl
@[simp] theorem State.setFn_clkcnt (s : State) (f : Nat) (x : Fn) : (s.setFn f x).clkcnt = s.clkcnt := rfl
@[simp] theorem State.setFn_evalTick (s : State) (f : Nat) (x : Fn) : (s.setFn f x).evalTick = s.evalTick := rfl
@[simp] theorem State.setFn_watts (s : State) (f : Nat) (x : Fn) : (s.setFn f x).watts = s.watts := rfl
@[simp] theorem State.setFn_dies (s : State) (f : Nat) (x : Fn) : (s.setFn f x).dies = s.dies := rfl
@[simp] theorem State.setFn_ports (s : State) (f : Nat) (x : Fn) : (s.setFn f x).ports = s.ports := rfl
@[simp] theorem State.setFn_routes (s : State) (f : Nat) (x : Fn) : (s.setFn f x).routes = s.routes := rfl
@[simp] theorem State.setFn_podId (s : State) (f : Nat) (x : Fn) : (s.setFn f x).podId = s.podId := rfl
@[simp] theorem State.setFn_hopDrops (s : State) (f : Nat) (x : Fn) : (s.setFn f x).hopDrops = s.hopDrops := rfl
@[simp] theorem State.setFn_pOut (s : State) (f : Nat) (x : Fn) : (s.setFn f x).pOut = s.pOut := rfl
@[simp] theorem State.setFn_pTag (s : State) (f : Nat) (x : Fn) : (s.setFn f x).pTag = s.pTag := rfl
@[simp] theorem State.setFn_mbxState (s : State) (f : Nat) (x : Fn) : (s.setFn f x).mbxState = s.mbxState := rfl
@[simp] theorem State.setFn_boot (s : State) (f : Nat) (x : Fn) : (s.setFn f x).boot = s.boot := rfl
@[simp] theorem State.setFn_startLog (s : State) (f : Nat) (x : Fn) : (s.setFn f x).startLog = s.startLog := rfl
@[simp] theorem State.setFn_rollback (s : State) (f : Nat) (x : Fn) : (s.setFn f x).rollback = s.rollback := rfl
@[simp] theorem State.setFn_fwVersion (s : State) (f : Nat) (x : Fn) : (s.setFn f x).fwVersion = s.fwVersion := rfl
@[simp] theorem State.setFn_fwDigest (s : State) (f : Nat) (x : Fn) : (s.setFn f x).fwDigest = s.fwDigest := rfl
@[simp] theorem State.setFn_sessions (s : State) (f : Nat) (x : Fn) : (s.setFn f x).sessions = s.sessions := rfl
@[simp] theorem State.setFn_tkey (s : State) (f : Nat) (x : Fn) : (s.setFn f x).tkey = s.tkey := rfl
@[simp] theorem State.setFn_keyGen (s : State) (f : Nat) (x : Fn) : (s.setFn f x).keyGen = s.keyGen := rfl
@[simp] theorem State.setFn_keys (s : State) (f : Nat) (x : Fn) : (s.setFn f x).keys = s.keys := rfl
@[simp] theorem State.setFn_hubTable (s : State) (f : Nat) (x : Fn) : (s.setFn f x).hubTable = s.hubTable := rfl
@[simp] theorem State.setFn_queueTables (s : State) (f : Nat) (x : Fn) : (s.setFn f x).queueTables = s.queueTables := rfl
@[simp] theorem State.setFn_portTables (s : State) (f : Nat) (x : Fn) : (s.setFn f x).portTables = s.portTables := rfl
@[simp] theorem State.setFn_hbmTables (s : State) (f : Nat) (x : Fn) : (s.setFn f x).hbmTables = s.hbmTables := rfl
@[simp] theorem State.setFn_ranges (s : State) (f : Nat) (x : Fn) : (s.setFn f x).ranges = s.ranges := rfl
@[simp] theorem State.setFn_peerDenied (s : State) (f : Nat) (x : Fn) : (s.setFn f x).peerDenied = s.peerDenied := rfl
@[simp] theorem State.setFn_queues (s : State) (f : Nat) (x : Fn) : (s.setFn f x).queues = s.queues := rfl
@[simp] theorem State.setFn_lastQueue (s : State) (f : Nat) (x : Fn) : (s.setFn f x).lastQueue = s.lastQueue := rfl
@[simp] theorem State.setFn_tasks (s : State) (f : Nat) (x : Fn) : (s.setFn f x).tasks = s.tasks := rfl
@[simp] theorem State.setFn_graphs (s : State) (f : Nat) (x : Fn) : (s.setFn f x).graphs = s.graphs := rfl
@[simp] theorem State.setFn_stamp (s : State) (f : Nat) (x : Fn) : (s.setFn f x).stamp = s.stamp := rfl
@[simp] theorem State.setFn_peerGangs (s : State) (f : Nat) (x : Fn) : (s.setFn f x).peerGangs = s.peerGangs := rfl
@[simp] theorem State.setFn_podOut (s : State) (f : Nat) (x : Fn) : (s.setFn f x).podOut = s.podOut := rfl
@[simp] theorem State.setFn_evtab (s : State) (f : Nat) (x : Fn) : (s.setFn f x).evtab = s.evtab := rfl
@[simp] theorem State.setFn_evarg (s : State) (f : Nat) (x : Fn) : (s.setFn f x).evarg = s.evarg := rfl
@[simp] theorem State.setFn_evlost (s : State) (f : Nat) (x : Fn) : (s.setFn f x).evlost = s.evlost := rfl
@[simp] theorem State.setFn_notices (s : State) (f : Nat) (x : Fn) : (s.setFn f x).notices = s.notices := rfl
@[simp] theorem State.setFn_saveSlots (s : State) (f : Nat) (x : Fn) : (s.setFn f x).saveSlots = s.saveSlots := rfl
@[simp] theorem State.setFn_saveFree (s : State) (f : Nat) (x : Fn) : (s.setFn f x).saveFree = s.saveFree := rfl
@[simp] theorem State.setFn_saveBase (s : State) (f : Nat) (x : Fn) : (s.setFn f x).saveBase = s.saveBase := rfl
@[simp] theorem State.setFn_wdlimit (s : State) (f : Nat) (x : Fn) : (s.setFn f x).wdlimit = s.wdlimit := rfl
@[simp] theorem State.setFn_pkAction (s : State) (f : Nat) (x : Fn) : (s.setFn f x).pkAction = s.pkAction := rfl
@[simp] theorem State.setFn_pkIndex (s : State) (f : Nat) (x : Fn) : (s.setFn f x).pkIndex = s.pkIndex := rfl
@[simp] theorem State.setFn_parks (s : State) (f : Nat) (x : Fn) : (s.setFn f x).parks = s.parks := rfl
@[simp] theorem State.setFn_sdBase (s : State) (f : Nat) (x : Fn) : (s.setFn f x).sdBase = s.sdBase := rfl
@[simp] theorem State.setFn_sdPages (s : State) (f : Nat) (x : Fn) : (s.setFn f x).sdPages = s.sdPages := rfl
@[simp] theorem State.setFn_sdTenant (s : State) (f : Nat) (x : Fn) : (s.setFn f x).sdTenant = s.sdTenant := rfl
@[simp] theorem State.setFn_sdBusy (s : State) (f : Nat) (x : Fn) : (s.setFn f x).sdBusy = s.sdBusy := rfl
@[simp] theorem State.setFn_sdWait (s : State) (f : Nat) (x : Fn) : (s.setFn f x).sdWait = s.sdWait := rfl
@[simp] theorem State.setFn_ptroot (s : State) (f : Nat) (x : Fn) : (s.setFn f x).ptroot = s.ptroot := rfl
@[simp] theorem State.setFn_pools (s : State) (f : Nat) (x : Fn) : (s.setFn f x).pools = s.pools := rfl
@[simp] theorem State.setFn_watchRegions (s : State) (f : Nat) (x : Fn) : (s.setFn f x).watchRegions = s.watchRegions := rfl
@[simp] theorem State.setFn_watch (s : State) (f : Nat) (x : Fn) : (s.setFn f x).watch = s.watch := rfl
@[simp] theorem State.setFn_digests (s : State) (f : Nat) (x : Fn) : (s.setFn f x).digests = s.digests := rfl
@[simp] theorem State.setFn_digestCache (s : State) (f : Nat) (x : Fn) : (s.setFn f x).digestCache = s.digestCache := rfl
@[simp] theorem State.setFn_results (s : State) (f : Nat) (x : Fn) : (s.setFn f x).results = s.results := rfl
@[simp] theorem State.setFn_coreTab (s : State) (f : Nat) (x : Fn) : (s.setFn f x).coreTab = s.coreTab := rfl

@[simp] theorem State.setQueue_agenda (s : State) (n : Nat) (q : Queue) : (s.setQueue n q).agenda = s.agenda := rfl
@[simp] theorem State.setQueue_cur (s : State) (n : Nat) (q : Queue) : (s.setQueue n q).cur = s.cur := rfl
@[simp] theorem State.setQueue_lastCore (s : State) (n : Nat) (q : Queue) : (s.setQueue n q).lastCore = s.lastCore := rfl
@[simp] theorem State.setQueue_free (s : State) (n : Nat) (q : Queue) : (s.setQueue n q).free = s.free := rfl
@[simp] theorem State.setQueue_power (s : State) (n : Nat) (q : Queue) : (s.setQueue n q).power = s.power := rfl
@[simp] theorem State.setQueue_hbm (s : State) (n : Nat) (q : Queue) : (s.setQueue n q).hbm = s.hbm := rfl
@[simp] theorem State.setQueue_hbmGen (s : State) (n : Nat) (q : Queue) : (s.setQueue n q).hbmGen = s.hbmGen := rfl
@[simp] theorem State.setQueue_hostMem (s : State) (n : Nat) (q : Queue) : (s.setQueue n q).hostMem = s.hostMem := rfl
@[simp] theorem State.setQueue_hostPages (s : State) (n : Nat) (q : Queue) : (s.setQueue n q).hostPages = s.hostPages := rfl
@[simp] theorem State.setQueue_poison (s : State) (n : Nat) (q : Queue) : (s.setQueue n q).poison = s.poison := rfl
@[simp] theorem State.setQueue_tick (s : State) (n : Nat) (q : Queue) : (s.setQueue n q).tick = s.tick := rfl
@[simp] theorem State.setQueue_clkcnt (s : State) (n : Nat) (q : Queue) : (s.setQueue n q).clkcnt = s.clkcnt := rfl
@[simp] theorem State.setQueue_evalTick (s : State) (n : Nat) (q : Queue) : (s.setQueue n q).evalTick = s.evalTick := rfl
@[simp] theorem State.setQueue_watts (s : State) (n : Nat) (q : Queue) : (s.setQueue n q).watts = s.watts := rfl
@[simp] theorem State.setQueue_dies (s : State) (n : Nat) (q : Queue) : (s.setQueue n q).dies = s.dies := rfl
@[simp] theorem State.setQueue_ports (s : State) (n : Nat) (q : Queue) : (s.setQueue n q).ports = s.ports := rfl
@[simp] theorem State.setQueue_routes (s : State) (n : Nat) (q : Queue) : (s.setQueue n q).routes = s.routes := rfl
@[simp] theorem State.setQueue_podId (s : State) (n : Nat) (q : Queue) : (s.setQueue n q).podId = s.podId := rfl
@[simp] theorem State.setQueue_hopDrops (s : State) (n : Nat) (q : Queue) : (s.setQueue n q).hopDrops = s.hopDrops := rfl
@[simp] theorem State.setQueue_pOut (s : State) (n : Nat) (q : Queue) : (s.setQueue n q).pOut = s.pOut := rfl
@[simp] theorem State.setQueue_pTag (s : State) (n : Nat) (q : Queue) : (s.setQueue n q).pTag = s.pTag := rfl
@[simp] theorem State.setQueue_fns (s : State) (n : Nat) (q : Queue) : (s.setQueue n q).fns = s.fns := rfl
@[simp] theorem State.setQueue_mbxState (s : State) (n : Nat) (q : Queue) : (s.setQueue n q).mbxState = s.mbxState := rfl
@[simp] theorem State.setQueue_boot (s : State) (n : Nat) (q : Queue) : (s.setQueue n q).boot = s.boot := rfl
@[simp] theorem State.setQueue_startLog (s : State) (n : Nat) (q : Queue) : (s.setQueue n q).startLog = s.startLog := rfl
@[simp] theorem State.setQueue_rollback (s : State) (n : Nat) (q : Queue) : (s.setQueue n q).rollback = s.rollback := rfl
@[simp] theorem State.setQueue_fwVersion (s : State) (n : Nat) (q : Queue) : (s.setQueue n q).fwVersion = s.fwVersion := rfl
@[simp] theorem State.setQueue_fwDigest (s : State) (n : Nat) (q : Queue) : (s.setQueue n q).fwDigest = s.fwDigest := rfl
@[simp] theorem State.setQueue_sessions (s : State) (n : Nat) (q : Queue) : (s.setQueue n q).sessions = s.sessions := rfl
@[simp] theorem State.setQueue_tkey (s : State) (n : Nat) (q : Queue) : (s.setQueue n q).tkey = s.tkey := rfl
@[simp] theorem State.setQueue_keyGen (s : State) (n : Nat) (q : Queue) : (s.setQueue n q).keyGen = s.keyGen := rfl
@[simp] theorem State.setQueue_keys (s : State) (n : Nat) (q : Queue) : (s.setQueue n q).keys = s.keys := rfl
@[simp] theorem State.setQueue_hubTable (s : State) (n : Nat) (q : Queue) : (s.setQueue n q).hubTable = s.hubTable := rfl
@[simp] theorem State.setQueue_queueTables (s : State) (n : Nat) (q : Queue) : (s.setQueue n q).queueTables = s.queueTables := rfl
@[simp] theorem State.setQueue_portTables (s : State) (n : Nat) (q : Queue) : (s.setQueue n q).portTables = s.portTables := rfl
@[simp] theorem State.setQueue_hbmTables (s : State) (n : Nat) (q : Queue) : (s.setQueue n q).hbmTables = s.hbmTables := rfl
@[simp] theorem State.setQueue_ranges (s : State) (n : Nat) (q : Queue) : (s.setQueue n q).ranges = s.ranges := rfl
@[simp] theorem State.setQueue_peerDenied (s : State) (n : Nat) (q : Queue) : (s.setQueue n q).peerDenied = s.peerDenied := rfl
@[simp] theorem State.setQueue_lastQueue (s : State) (n : Nat) (q : Queue) : (s.setQueue n q).lastQueue = s.lastQueue := rfl
@[simp] theorem State.setQueue_tasks (s : State) (n : Nat) (q : Queue) : (s.setQueue n q).tasks = s.tasks := rfl
@[simp] theorem State.setQueue_graphs (s : State) (n : Nat) (q : Queue) : (s.setQueue n q).graphs = s.graphs := rfl
@[simp] theorem State.setQueue_stamp (s : State) (n : Nat) (q : Queue) : (s.setQueue n q).stamp = s.stamp := rfl
@[simp] theorem State.setQueue_peerGangs (s : State) (n : Nat) (q : Queue) : (s.setQueue n q).peerGangs = s.peerGangs := rfl
@[simp] theorem State.setQueue_podOut (s : State) (n : Nat) (q : Queue) : (s.setQueue n q).podOut = s.podOut := rfl
@[simp] theorem State.setQueue_evtab (s : State) (n : Nat) (q : Queue) : (s.setQueue n q).evtab = s.evtab := rfl
@[simp] theorem State.setQueue_evarg (s : State) (n : Nat) (q : Queue) : (s.setQueue n q).evarg = s.evarg := rfl
@[simp] theorem State.setQueue_evlost (s : State) (n : Nat) (q : Queue) : (s.setQueue n q).evlost = s.evlost := rfl
@[simp] theorem State.setQueue_notices (s : State) (n : Nat) (q : Queue) : (s.setQueue n q).notices = s.notices := rfl
@[simp] theorem State.setQueue_saveSlots (s : State) (n : Nat) (q : Queue) : (s.setQueue n q).saveSlots = s.saveSlots := rfl
@[simp] theorem State.setQueue_saveFree (s : State) (n : Nat) (q : Queue) : (s.setQueue n q).saveFree = s.saveFree := rfl
@[simp] theorem State.setQueue_saveBase (s : State) (n : Nat) (q : Queue) : (s.setQueue n q).saveBase = s.saveBase := rfl
@[simp] theorem State.setQueue_wdlimit (s : State) (n : Nat) (q : Queue) : (s.setQueue n q).wdlimit = s.wdlimit := rfl
@[simp] theorem State.setQueue_pkAction (s : State) (n : Nat) (q : Queue) : (s.setQueue n q).pkAction = s.pkAction := rfl
@[simp] theorem State.setQueue_pkIndex (s : State) (n : Nat) (q : Queue) : (s.setQueue n q).pkIndex = s.pkIndex := rfl
@[simp] theorem State.setQueue_parks (s : State) (n : Nat) (q : Queue) : (s.setQueue n q).parks = s.parks := rfl
@[simp] theorem State.setQueue_sdBase (s : State) (n : Nat) (q : Queue) : (s.setQueue n q).sdBase = s.sdBase := rfl
@[simp] theorem State.setQueue_sdPages (s : State) (n : Nat) (q : Queue) : (s.setQueue n q).sdPages = s.sdPages := rfl
@[simp] theorem State.setQueue_sdTenant (s : State) (n : Nat) (q : Queue) : (s.setQueue n q).sdTenant = s.sdTenant := rfl
@[simp] theorem State.setQueue_sdBusy (s : State) (n : Nat) (q : Queue) : (s.setQueue n q).sdBusy = s.sdBusy := rfl
@[simp] theorem State.setQueue_sdWait (s : State) (n : Nat) (q : Queue) : (s.setQueue n q).sdWait = s.sdWait := rfl
@[simp] theorem State.setQueue_ptroot (s : State) (n : Nat) (q : Queue) : (s.setQueue n q).ptroot = s.ptroot := rfl
@[simp] theorem State.setQueue_pools (s : State) (n : Nat) (q : Queue) : (s.setQueue n q).pools = s.pools := rfl
@[simp] theorem State.setQueue_watchRegions (s : State) (n : Nat) (q : Queue) : (s.setQueue n q).watchRegions = s.watchRegions := rfl
@[simp] theorem State.setQueue_watch (s : State) (n : Nat) (q : Queue) : (s.setQueue n q).watch = s.watch := rfl
@[simp] theorem State.setQueue_digests (s : State) (n : Nat) (q : Queue) : (s.setQueue n q).digests = s.digests := rfl
@[simp] theorem State.setQueue_digestCache (s : State) (n : Nat) (q : Queue) : (s.setQueue n q).digestCache = s.digestCache := rfl
@[simp] theorem State.setQueue_results (s : State) (n : Nat) (q : Queue) : (s.setQueue n q).results = s.results := rfl
@[simp] theorem State.setQueue_coreTab (s : State) (n : Nat) (q : Queue) : (s.setQueue n q).coreTab = s.coreTab := rfl

@[simp] theorem State.setTask_agenda (s : State) (t : Task) : (s.setTask t).agenda = s.agenda := rfl
@[simp] theorem State.setTask_cur (s : State) (t : Task) : (s.setTask t).cur = s.cur := rfl
@[simp] theorem State.setTask_lastCore (s : State) (t : Task) : (s.setTask t).lastCore = s.lastCore := rfl
@[simp] theorem State.setTask_free (s : State) (t : Task) : (s.setTask t).free = s.free := rfl
@[simp] theorem State.setTask_power (s : State) (t : Task) : (s.setTask t).power = s.power := rfl
@[simp] theorem State.setTask_hbm (s : State) (t : Task) : (s.setTask t).hbm = s.hbm := rfl
@[simp] theorem State.setTask_hbmGen (s : State) (t : Task) : (s.setTask t).hbmGen = s.hbmGen := rfl
@[simp] theorem State.setTask_hostMem (s : State) (t : Task) : (s.setTask t).hostMem = s.hostMem := rfl
@[simp] theorem State.setTask_hostPages (s : State) (t : Task) : (s.setTask t).hostPages = s.hostPages := rfl
@[simp] theorem State.setTask_poison (s : State) (t : Task) : (s.setTask t).poison = s.poison := rfl
@[simp] theorem State.setTask_tick (s : State) (t : Task) : (s.setTask t).tick = s.tick := rfl
@[simp] theorem State.setTask_clkcnt (s : State) (t : Task) : (s.setTask t).clkcnt = s.clkcnt := rfl
@[simp] theorem State.setTask_evalTick (s : State) (t : Task) : (s.setTask t).evalTick = s.evalTick := rfl
@[simp] theorem State.setTask_watts (s : State) (t : Task) : (s.setTask t).watts = s.watts := rfl
@[simp] theorem State.setTask_dies (s : State) (t : Task) : (s.setTask t).dies = s.dies := rfl
@[simp] theorem State.setTask_ports (s : State) (t : Task) : (s.setTask t).ports = s.ports := rfl
@[simp] theorem State.setTask_routes (s : State) (t : Task) : (s.setTask t).routes = s.routes := rfl
@[simp] theorem State.setTask_podId (s : State) (t : Task) : (s.setTask t).podId = s.podId := rfl
@[simp] theorem State.setTask_hopDrops (s : State) (t : Task) : (s.setTask t).hopDrops = s.hopDrops := rfl
@[simp] theorem State.setTask_pOut (s : State) (t : Task) : (s.setTask t).pOut = s.pOut := rfl
@[simp] theorem State.setTask_pTag (s : State) (t : Task) : (s.setTask t).pTag = s.pTag := rfl
@[simp] theorem State.setTask_fns (s : State) (t : Task) : (s.setTask t).fns = s.fns := rfl
@[simp] theorem State.setTask_mbxState (s : State) (t : Task) : (s.setTask t).mbxState = s.mbxState := rfl
@[simp] theorem State.setTask_boot (s : State) (t : Task) : (s.setTask t).boot = s.boot := rfl
@[simp] theorem State.setTask_startLog (s : State) (t : Task) : (s.setTask t).startLog = s.startLog := rfl
@[simp] theorem State.setTask_rollback (s : State) (t : Task) : (s.setTask t).rollback = s.rollback := rfl
@[simp] theorem State.setTask_fwVersion (s : State) (t : Task) : (s.setTask t).fwVersion = s.fwVersion := rfl
@[simp] theorem State.setTask_fwDigest (s : State) (t : Task) : (s.setTask t).fwDigest = s.fwDigest := rfl
@[simp] theorem State.setTask_sessions (s : State) (t : Task) : (s.setTask t).sessions = s.sessions := rfl
@[simp] theorem State.setTask_tkey (s : State) (t : Task) : (s.setTask t).tkey = s.tkey := rfl
@[simp] theorem State.setTask_keyGen (s : State) (t : Task) : (s.setTask t).keyGen = s.keyGen := rfl
@[simp] theorem State.setTask_keys (s : State) (t : Task) : (s.setTask t).keys = s.keys := rfl
@[simp] theorem State.setTask_hubTable (s : State) (t : Task) : (s.setTask t).hubTable = s.hubTable := rfl
@[simp] theorem State.setTask_queueTables (s : State) (t : Task) : (s.setTask t).queueTables = s.queueTables := rfl
@[simp] theorem State.setTask_portTables (s : State) (t : Task) : (s.setTask t).portTables = s.portTables := rfl
@[simp] theorem State.setTask_hbmTables (s : State) (t : Task) : (s.setTask t).hbmTables = s.hbmTables := rfl
@[simp] theorem State.setTask_ranges (s : State) (t : Task) : (s.setTask t).ranges = s.ranges := rfl
@[simp] theorem State.setTask_peerDenied (s : State) (t : Task) : (s.setTask t).peerDenied = s.peerDenied := rfl
@[simp] theorem State.setTask_queues (s : State) (t : Task) : (s.setTask t).queues = s.queues := rfl
@[simp] theorem State.setTask_lastQueue (s : State) (t : Task) : (s.setTask t).lastQueue = s.lastQueue := rfl
@[simp] theorem State.setTask_graphs (s : State) (t : Task) : (s.setTask t).graphs = s.graphs := rfl
@[simp] theorem State.setTask_stamp (s : State) (t : Task) : (s.setTask t).stamp = s.stamp := rfl
@[simp] theorem State.setTask_peerGangs (s : State) (t : Task) : (s.setTask t).peerGangs = s.peerGangs := rfl
@[simp] theorem State.setTask_podOut (s : State) (t : Task) : (s.setTask t).podOut = s.podOut := rfl
@[simp] theorem State.setTask_evtab (s : State) (t : Task) : (s.setTask t).evtab = s.evtab := rfl
@[simp] theorem State.setTask_evarg (s : State) (t : Task) : (s.setTask t).evarg = s.evarg := rfl
@[simp] theorem State.setTask_evlost (s : State) (t : Task) : (s.setTask t).evlost = s.evlost := rfl
@[simp] theorem State.setTask_notices (s : State) (t : Task) : (s.setTask t).notices = s.notices := rfl
@[simp] theorem State.setTask_saveSlots (s : State) (t : Task) : (s.setTask t).saveSlots = s.saveSlots := rfl
@[simp] theorem State.setTask_saveFree (s : State) (t : Task) : (s.setTask t).saveFree = s.saveFree := rfl
@[simp] theorem State.setTask_saveBase (s : State) (t : Task) : (s.setTask t).saveBase = s.saveBase := rfl
@[simp] theorem State.setTask_wdlimit (s : State) (t : Task) : (s.setTask t).wdlimit = s.wdlimit := rfl
@[simp] theorem State.setTask_pkAction (s : State) (t : Task) : (s.setTask t).pkAction = s.pkAction := rfl
@[simp] theorem State.setTask_pkIndex (s : State) (t : Task) : (s.setTask t).pkIndex = s.pkIndex := rfl
@[simp] theorem State.setTask_parks (s : State) (t : Task) : (s.setTask t).parks = s.parks := rfl
@[simp] theorem State.setTask_sdBase (s : State) (t : Task) : (s.setTask t).sdBase = s.sdBase := rfl
@[simp] theorem State.setTask_sdPages (s : State) (t : Task) : (s.setTask t).sdPages = s.sdPages := rfl
@[simp] theorem State.setTask_sdTenant (s : State) (t : Task) : (s.setTask t).sdTenant = s.sdTenant := rfl
@[simp] theorem State.setTask_sdBusy (s : State) (t : Task) : (s.setTask t).sdBusy = s.sdBusy := rfl
@[simp] theorem State.setTask_sdWait (s : State) (t : Task) : (s.setTask t).sdWait = s.sdWait := rfl
@[simp] theorem State.setTask_ptroot (s : State) (t : Task) : (s.setTask t).ptroot = s.ptroot := rfl
@[simp] theorem State.setTask_pools (s : State) (t : Task) : (s.setTask t).pools = s.pools := rfl
@[simp] theorem State.setTask_watchRegions (s : State) (t : Task) : (s.setTask t).watchRegions = s.watchRegions := rfl
@[simp] theorem State.setTask_watch (s : State) (t : Task) : (s.setTask t).watch = s.watch := rfl
@[simp] theorem State.setTask_digests (s : State) (t : Task) : (s.setTask t).digests = s.digests := rfl
@[simp] theorem State.setTask_digestCache (s : State) (t : Task) : (s.setTask t).digestCache = s.digestCache := rfl
@[simp] theorem State.setTask_results (s : State) (t : Task) : (s.setTask t).results = s.results := rfl
@[simp] theorem State.setTask_coreTab (s : State) (t : Task) : (s.setTask t).coreTab = s.coreTab := rfl

@[simp] theorem State.drawFree_agenda (s : State) : (s.drawFree).agenda = s.agenda := rfl
@[simp] theorem State.drawFree_cur (s : State) : (s.drawFree).cur = s.cur := rfl
@[simp] theorem State.drawFree_lastCore (s : State) : (s.drawFree).lastCore = s.lastCore := rfl
@[simp] theorem State.drawFree_power (s : State) : (s.drawFree).power = s.power := rfl
@[simp] theorem State.drawFree_hbm (s : State) : (s.drawFree).hbm = s.hbm := rfl
@[simp] theorem State.drawFree_hbmGen (s : State) : (s.drawFree).hbmGen = s.hbmGen := rfl
@[simp] theorem State.drawFree_hostMem (s : State) : (s.drawFree).hostMem = s.hostMem := rfl
@[simp] theorem State.drawFree_hostPages (s : State) : (s.drawFree).hostPages = s.hostPages := rfl
@[simp] theorem State.drawFree_poison (s : State) : (s.drawFree).poison = s.poison := rfl
@[simp] theorem State.drawFree_tick (s : State) : (s.drawFree).tick = s.tick := rfl
@[simp] theorem State.drawFree_clkcnt (s : State) : (s.drawFree).clkcnt = s.clkcnt := rfl
@[simp] theorem State.drawFree_evalTick (s : State) : (s.drawFree).evalTick = s.evalTick := rfl
@[simp] theorem State.drawFree_watts (s : State) : (s.drawFree).watts = s.watts := rfl
@[simp] theorem State.drawFree_dies (s : State) : (s.drawFree).dies = s.dies := rfl
@[simp] theorem State.drawFree_ports (s : State) : (s.drawFree).ports = s.ports := rfl
@[simp] theorem State.drawFree_routes (s : State) : (s.drawFree).routes = s.routes := rfl
@[simp] theorem State.drawFree_podId (s : State) : (s.drawFree).podId = s.podId := rfl
@[simp] theorem State.drawFree_hopDrops (s : State) : (s.drawFree).hopDrops = s.hopDrops := rfl
@[simp] theorem State.drawFree_pOut (s : State) : (s.drawFree).pOut = s.pOut := rfl
@[simp] theorem State.drawFree_pTag (s : State) : (s.drawFree).pTag = s.pTag := rfl
@[simp] theorem State.drawFree_fns (s : State) : (s.drawFree).fns = s.fns := rfl
@[simp] theorem State.drawFree_mbxState (s : State) : (s.drawFree).mbxState = s.mbxState := rfl
@[simp] theorem State.drawFree_boot (s : State) : (s.drawFree).boot = s.boot := rfl
@[simp] theorem State.drawFree_startLog (s : State) : (s.drawFree).startLog = s.startLog := rfl
@[simp] theorem State.drawFree_rollback (s : State) : (s.drawFree).rollback = s.rollback := rfl
@[simp] theorem State.drawFree_fwVersion (s : State) : (s.drawFree).fwVersion = s.fwVersion := rfl
@[simp] theorem State.drawFree_fwDigest (s : State) : (s.drawFree).fwDigest = s.fwDigest := rfl
@[simp] theorem State.drawFree_sessions (s : State) : (s.drawFree).sessions = s.sessions := rfl
@[simp] theorem State.drawFree_tkey (s : State) : (s.drawFree).tkey = s.tkey := rfl
@[simp] theorem State.drawFree_keyGen (s : State) : (s.drawFree).keyGen = s.keyGen := rfl
@[simp] theorem State.drawFree_keys (s : State) : (s.drawFree).keys = s.keys := rfl
@[simp] theorem State.drawFree_hubTable (s : State) : (s.drawFree).hubTable = s.hubTable := rfl
@[simp] theorem State.drawFree_queueTables (s : State) : (s.drawFree).queueTables = s.queueTables := rfl
@[simp] theorem State.drawFree_portTables (s : State) : (s.drawFree).portTables = s.portTables := rfl
@[simp] theorem State.drawFree_hbmTables (s : State) : (s.drawFree).hbmTables = s.hbmTables := rfl
@[simp] theorem State.drawFree_ranges (s : State) : (s.drawFree).ranges = s.ranges := rfl
@[simp] theorem State.drawFree_peerDenied (s : State) : (s.drawFree).peerDenied = s.peerDenied := rfl
@[simp] theorem State.drawFree_queues (s : State) : (s.drawFree).queues = s.queues := rfl
@[simp] theorem State.drawFree_lastQueue (s : State) : (s.drawFree).lastQueue = s.lastQueue := rfl
@[simp] theorem State.drawFree_tasks (s : State) : (s.drawFree).tasks = s.tasks := rfl
@[simp] theorem State.drawFree_graphs (s : State) : (s.drawFree).graphs = s.graphs := rfl
@[simp] theorem State.drawFree_stamp (s : State) : (s.drawFree).stamp = s.stamp := rfl
@[simp] theorem State.drawFree_peerGangs (s : State) : (s.drawFree).peerGangs = s.peerGangs := rfl
@[simp] theorem State.drawFree_podOut (s : State) : (s.drawFree).podOut = s.podOut := rfl
@[simp] theorem State.drawFree_evtab (s : State) : (s.drawFree).evtab = s.evtab := rfl
@[simp] theorem State.drawFree_evarg (s : State) : (s.drawFree).evarg = s.evarg := rfl
@[simp] theorem State.drawFree_evlost (s : State) : (s.drawFree).evlost = s.evlost := rfl
@[simp] theorem State.drawFree_notices (s : State) : (s.drawFree).notices = s.notices := rfl
@[simp] theorem State.drawFree_saveSlots (s : State) : (s.drawFree).saveSlots = s.saveSlots := rfl
@[simp] theorem State.drawFree_saveFree (s : State) : (s.drawFree).saveFree = s.saveFree := rfl
@[simp] theorem State.drawFree_saveBase (s : State) : (s.drawFree).saveBase = s.saveBase := rfl
@[simp] theorem State.drawFree_wdlimit (s : State) : (s.drawFree).wdlimit = s.wdlimit := rfl
@[simp] theorem State.drawFree_pkAction (s : State) : (s.drawFree).pkAction = s.pkAction := rfl
@[simp] theorem State.drawFree_pkIndex (s : State) : (s.drawFree).pkIndex = s.pkIndex := rfl
@[simp] theorem State.drawFree_parks (s : State) : (s.drawFree).parks = s.parks := rfl
@[simp] theorem State.drawFree_sdBase (s : State) : (s.drawFree).sdBase = s.sdBase := rfl
@[simp] theorem State.drawFree_sdPages (s : State) : (s.drawFree).sdPages = s.sdPages := rfl
@[simp] theorem State.drawFree_sdTenant (s : State) : (s.drawFree).sdTenant = s.sdTenant := rfl
@[simp] theorem State.drawFree_sdBusy (s : State) : (s.drawFree).sdBusy = s.sdBusy := rfl
@[simp] theorem State.drawFree_sdWait (s : State) : (s.drawFree).sdWait = s.sdWait := rfl
@[simp] theorem State.drawFree_ptroot (s : State) : (s.drawFree).ptroot = s.ptroot := rfl
@[simp] theorem State.drawFree_pools (s : State) : (s.drawFree).pools = s.pools := rfl
@[simp] theorem State.drawFree_watchRegions (s : State) : (s.drawFree).watchRegions = s.watchRegions := rfl
@[simp] theorem State.drawFree_watch (s : State) : (s.drawFree).watch = s.watch := rfl
@[simp] theorem State.drawFree_digests (s : State) : (s.drawFree).digests = s.digests := rfl
@[simp] theorem State.drawFree_digestCache (s : State) : (s.drawFree).digestCache = s.digestCache := rfl
@[simp] theorem State.drawFree_results (s : State) : (s.drawFree).results = s.results := rfl
@[simp] theorem State.drawFree_coreTab (s : State) : (s.drawFree).coreTab = s.coreTab := rfl

@[simp] theorem State.clearPoison_agenda (s : State) (u : ErrorUnit) : (s.clearPoison u).agenda = s.agenda := rfl
@[simp] theorem State.clearPoison_cur (s : State) (u : ErrorUnit) : (s.clearPoison u).cur = s.cur := rfl
@[simp] theorem State.clearPoison_lastCore (s : State) (u : ErrorUnit) : (s.clearPoison u).lastCore = s.lastCore := rfl
@[simp] theorem State.clearPoison_free (s : State) (u : ErrorUnit) : (s.clearPoison u).free = s.free := rfl
@[simp] theorem State.clearPoison_power (s : State) (u : ErrorUnit) : (s.clearPoison u).power = s.power := rfl
@[simp] theorem State.clearPoison_hbm (s : State) (u : ErrorUnit) : (s.clearPoison u).hbm = s.hbm := rfl
@[simp] theorem State.clearPoison_hbmGen (s : State) (u : ErrorUnit) : (s.clearPoison u).hbmGen = s.hbmGen := rfl
@[simp] theorem State.clearPoison_hostMem (s : State) (u : ErrorUnit) : (s.clearPoison u).hostMem = s.hostMem := rfl
@[simp] theorem State.clearPoison_hostPages (s : State) (u : ErrorUnit) : (s.clearPoison u).hostPages = s.hostPages := rfl
@[simp] theorem State.clearPoison_tick (s : State) (u : ErrorUnit) : (s.clearPoison u).tick = s.tick := rfl
@[simp] theorem State.clearPoison_clkcnt (s : State) (u : ErrorUnit) : (s.clearPoison u).clkcnt = s.clkcnt := rfl
@[simp] theorem State.clearPoison_evalTick (s : State) (u : ErrorUnit) : (s.clearPoison u).evalTick = s.evalTick := rfl
@[simp] theorem State.clearPoison_watts (s : State) (u : ErrorUnit) : (s.clearPoison u).watts = s.watts := rfl
@[simp] theorem State.clearPoison_dies (s : State) (u : ErrorUnit) : (s.clearPoison u).dies = s.dies := rfl
@[simp] theorem State.clearPoison_ports (s : State) (u : ErrorUnit) : (s.clearPoison u).ports = s.ports := rfl
@[simp] theorem State.clearPoison_routes (s : State) (u : ErrorUnit) : (s.clearPoison u).routes = s.routes := rfl
@[simp] theorem State.clearPoison_podId (s : State) (u : ErrorUnit) : (s.clearPoison u).podId = s.podId := rfl
@[simp] theorem State.clearPoison_hopDrops (s : State) (u : ErrorUnit) : (s.clearPoison u).hopDrops = s.hopDrops := rfl
@[simp] theorem State.clearPoison_pOut (s : State) (u : ErrorUnit) : (s.clearPoison u).pOut = s.pOut := rfl
@[simp] theorem State.clearPoison_pTag (s : State) (u : ErrorUnit) : (s.clearPoison u).pTag = s.pTag := rfl
@[simp] theorem State.clearPoison_fns (s : State) (u : ErrorUnit) : (s.clearPoison u).fns = s.fns := rfl
@[simp] theorem State.clearPoison_mbxState (s : State) (u : ErrorUnit) : (s.clearPoison u).mbxState = s.mbxState := rfl
@[simp] theorem State.clearPoison_boot (s : State) (u : ErrorUnit) : (s.clearPoison u).boot = s.boot := rfl
@[simp] theorem State.clearPoison_startLog (s : State) (u : ErrorUnit) : (s.clearPoison u).startLog = s.startLog := rfl
@[simp] theorem State.clearPoison_rollback (s : State) (u : ErrorUnit) : (s.clearPoison u).rollback = s.rollback := rfl
@[simp] theorem State.clearPoison_fwVersion (s : State) (u : ErrorUnit) : (s.clearPoison u).fwVersion = s.fwVersion := rfl
@[simp] theorem State.clearPoison_fwDigest (s : State) (u : ErrorUnit) : (s.clearPoison u).fwDigest = s.fwDigest := rfl
@[simp] theorem State.clearPoison_sessions (s : State) (u : ErrorUnit) : (s.clearPoison u).sessions = s.sessions := rfl
@[simp] theorem State.clearPoison_tkey (s : State) (u : ErrorUnit) : (s.clearPoison u).tkey = s.tkey := rfl
@[simp] theorem State.clearPoison_keyGen (s : State) (u : ErrorUnit) : (s.clearPoison u).keyGen = s.keyGen := rfl
@[simp] theorem State.clearPoison_keys (s : State) (u : ErrorUnit) : (s.clearPoison u).keys = s.keys := rfl
@[simp] theorem State.clearPoison_hubTable (s : State) (u : ErrorUnit) : (s.clearPoison u).hubTable = s.hubTable := rfl
@[simp] theorem State.clearPoison_queueTables (s : State) (u : ErrorUnit) : (s.clearPoison u).queueTables = s.queueTables := rfl
@[simp] theorem State.clearPoison_portTables (s : State) (u : ErrorUnit) : (s.clearPoison u).portTables = s.portTables := rfl
@[simp] theorem State.clearPoison_hbmTables (s : State) (u : ErrorUnit) : (s.clearPoison u).hbmTables = s.hbmTables := rfl
@[simp] theorem State.clearPoison_ranges (s : State) (u : ErrorUnit) : (s.clearPoison u).ranges = s.ranges := rfl
@[simp] theorem State.clearPoison_peerDenied (s : State) (u : ErrorUnit) : (s.clearPoison u).peerDenied = s.peerDenied := rfl
@[simp] theorem State.clearPoison_queues (s : State) (u : ErrorUnit) : (s.clearPoison u).queues = s.queues := rfl
@[simp] theorem State.clearPoison_lastQueue (s : State) (u : ErrorUnit) : (s.clearPoison u).lastQueue = s.lastQueue := rfl
@[simp] theorem State.clearPoison_tasks (s : State) (u : ErrorUnit) : (s.clearPoison u).tasks = s.tasks := rfl
@[simp] theorem State.clearPoison_graphs (s : State) (u : ErrorUnit) : (s.clearPoison u).graphs = s.graphs := rfl
@[simp] theorem State.clearPoison_stamp (s : State) (u : ErrorUnit) : (s.clearPoison u).stamp = s.stamp := rfl
@[simp] theorem State.clearPoison_peerGangs (s : State) (u : ErrorUnit) : (s.clearPoison u).peerGangs = s.peerGangs := rfl
@[simp] theorem State.clearPoison_podOut (s : State) (u : ErrorUnit) : (s.clearPoison u).podOut = s.podOut := rfl
@[simp] theorem State.clearPoison_evtab (s : State) (u : ErrorUnit) : (s.clearPoison u).evtab = s.evtab := rfl
@[simp] theorem State.clearPoison_evarg (s : State) (u : ErrorUnit) : (s.clearPoison u).evarg = s.evarg := rfl
@[simp] theorem State.clearPoison_evlost (s : State) (u : ErrorUnit) : (s.clearPoison u).evlost = s.evlost := rfl
@[simp] theorem State.clearPoison_notices (s : State) (u : ErrorUnit) : (s.clearPoison u).notices = s.notices := rfl
@[simp] theorem State.clearPoison_saveSlots (s : State) (u : ErrorUnit) : (s.clearPoison u).saveSlots = s.saveSlots := rfl
@[simp] theorem State.clearPoison_saveFree (s : State) (u : ErrorUnit) : (s.clearPoison u).saveFree = s.saveFree := rfl
@[simp] theorem State.clearPoison_saveBase (s : State) (u : ErrorUnit) : (s.clearPoison u).saveBase = s.saveBase := rfl
@[simp] theorem State.clearPoison_wdlimit (s : State) (u : ErrorUnit) : (s.clearPoison u).wdlimit = s.wdlimit := rfl
@[simp] theorem State.clearPoison_pkAction (s : State) (u : ErrorUnit) : (s.clearPoison u).pkAction = s.pkAction := rfl
@[simp] theorem State.clearPoison_pkIndex (s : State) (u : ErrorUnit) : (s.clearPoison u).pkIndex = s.pkIndex := rfl
@[simp] theorem State.clearPoison_parks (s : State) (u : ErrorUnit) : (s.clearPoison u).parks = s.parks := rfl
@[simp] theorem State.clearPoison_sdBase (s : State) (u : ErrorUnit) : (s.clearPoison u).sdBase = s.sdBase := rfl
@[simp] theorem State.clearPoison_sdPages (s : State) (u : ErrorUnit) : (s.clearPoison u).sdPages = s.sdPages := rfl
@[simp] theorem State.clearPoison_sdTenant (s : State) (u : ErrorUnit) : (s.clearPoison u).sdTenant = s.sdTenant := rfl
@[simp] theorem State.clearPoison_sdBusy (s : State) (u : ErrorUnit) : (s.clearPoison u).sdBusy = s.sdBusy := rfl
@[simp] theorem State.clearPoison_sdWait (s : State) (u : ErrorUnit) : (s.clearPoison u).sdWait = s.sdWait := rfl
@[simp] theorem State.clearPoison_ptroot (s : State) (u : ErrorUnit) : (s.clearPoison u).ptroot = s.ptroot := rfl
@[simp] theorem State.clearPoison_pools (s : State) (u : ErrorUnit) : (s.clearPoison u).pools = s.pools := rfl
@[simp] theorem State.clearPoison_watchRegions (s : State) (u : ErrorUnit) : (s.clearPoison u).watchRegions = s.watchRegions := rfl
@[simp] theorem State.clearPoison_watch (s : State) (u : ErrorUnit) : (s.clearPoison u).watch = s.watch := rfl
@[simp] theorem State.clearPoison_digests (s : State) (u : ErrorUnit) : (s.clearPoison u).digests = s.digests := rfl
@[simp] theorem State.clearPoison_digestCache (s : State) (u : ErrorUnit) : (s.clearPoison u).digestCache = s.digestCache := rfl
@[simp] theorem State.clearPoison_results (s : State) (u : ErrorUnit) : (s.clearPoison u).results = s.results := rfl
@[simp] theorem State.clearPoison_coreTab (s : State) (u : ErrorUnit) : (s.clearPoison u).coreTab = s.coreTab := rfl

/-! ## Fields of a core -/

@[simp] theorem Core.setStrand_task (q : Core) (k : Nat) (t : Strand) : (q.setStrand k t).task = q.task := rfl
@[simp] theorem Core.setStrand_rank (q : Core) (k : Nat) (t : Strand) : (q.setStrand k t).rank = q.rank := rfl
@[simp] theorem Core.setStrand_clk (q : Core) (k : Nat) (t : Strand) : (q.setStrand k t).clk = q.clk := rfl
@[simp] theorem Core.setStrand_ratio (q : Core) (k : Nat) (t : Strand) : (q.setStrand k t).ratio = q.ratio := rfl
@[simp] theorem Core.setStrand_ptr (q : Core) (k : Nat) (t : Strand) : (q.setStrand k t).ptr = q.ptr := rfl
@[simp] theorem Core.setStrand_picks (q : Core) (k : Nat) (t : Strand) : (q.setStrand k t).picks = q.picks := rfl
@[simp] theorem Core.setStrand_veFree (q : Core) (k : Nat) (t : Strand) : (q.setStrand k t).veFree = q.veFree := rfl
@[simp] theorem Core.setStrand_clean (q : Core) (k : Nat) (t : Strand) : (q.setStrand k t).clean = q.clean := rfl
@[simp] theorem Core.setStrand_lastTenant (q : Core) (k : Nat) (t : Strand) : (q.setStrand k t).lastTenant = q.lastTenant := rfl
@[simp] theorem Core.setStrand_clearing (q : Core) (k : Nat) (t : Strand) : (q.setStrand k t).clearing = q.clearing := rfl
@[simp] theorem Core.setStrand_place (q : Core) (k : Nat) (t : Strand) : (q.setStrand k t).place = q.place := rfl
@[simp] theorem Core.setStrand_index (q : Core) (k : Nat) (t : Strand) : (q.setStrand k t).index = q.index := rfl
@[simp] theorem Core.setStrand_count (q : Core) (k : Nat) (t : Strand) : (q.setStrand k t).count = q.count := rfl
@[simp] theorem Core.setStrand_w (q : Core) (k : Nat) (t : Strand) : (q.setStrand k t).w = q.w := rfl
@[simp] theorem Core.setStrand_a (q : Core) (k : Nat) (t : Strand) : (q.setStrand k t).a = q.a := rfl
@[simp] theorem Core.setStrand_s (q : Core) (k : Nat) (t : Strand) : (q.setStrand k t).s = q.s := rfl
@[simp] theorem Core.setStrand_z (q : Core) (k : Nat) (t : Strand) : (q.setStrand k t).z = q.z := rfl
@[simp] theorem Core.setStrand_patches (q : Core) (k : Nat) (t : Strand) : (q.setStrand k t).patches = q.patches := rfl
@[simp] theorem Core.setStrand_v (q : Core) (k : Nat) (t : Strand) : (q.setStrand k t).v = q.v := rfl
@[simp] theorem Core.setStrand_side (q : Core) (k : Nat) (t : Strand) : (q.setStrand k t).side = q.side := rfl
@[simp] theorem Core.setStrand_qs (q : Core) (k : Nat) (t : Strand) : (q.setStrand k t).qs = q.qs := rfl
@[simp] theorem Core.setStrand_qv (q : Core) (k : Nat) (t : Strand) : (q.setStrand k t).qv = q.qv := rfl
@[simp] theorem Core.setStrand_qsNew (q : Core) (k : Nat) (t : Strand) : (q.setStrand k t).qsNew = q.qsNew := rfl
@[simp] theorem Core.setStrand_qvNew (q : Core) (k : Nat) (t : Strand) : (q.setStrand k t).qvNew = q.qvNew := rfl
@[simp] theorem Core.setStrand_rings (q : Core) (k : Nat) (t : Strand) : (q.setStrand k t).rings = q.rings := rfl
@[simp] theorem Core.setStrand_barriers (q : Core) (k : Nat) (t : Strand) : (q.setStrand k t).barriers = q.barriers := rfl
@[simp] theorem Core.setStrand_handles (q : Core) (k : Nat) (t : Strand) : (q.setStrand k t).handles = q.handles := rfl
@[simp] theorem Core.setStrand_bindNew (q : Core) (k : Nat) (t : Strand) : (q.setStrand k t).bindNew = q.bindNew := rfl
@[simp] theorem Core.setStrand_unbindStream (q : Core) (k : Nat) (t : Strand) : (q.setStrand k t).unbindStream = q.unbindStream := rfl
@[simp] theorem Core.setStrand_pf (q : Core) (k : Nat) (t : Strand) : (q.setStrand k t).pf = q.pf := rfl
@[simp] theorem Core.setStrand_streams (q : Core) (k : Nat) (t : Strand) : (q.setStrand k t).streams = q.streams := rfl
@[simp] theorem Core.setStrand_engines (q : Core) (k : Nat) (t : Strand) : (q.setStrand k t).engines = q.engines := rfl
@[simp] theorem Core.setStrand_writes (q : Core) (k : Nat) (t : Strand) : (q.setStrand k t).writes = q.writes := rfl

@[simp] theorem Core.setEngine_task (q : Core) (e : Nat) (x : Engine) : (q.setEngine e x).task = q.task := rfl
@[simp] theorem Core.setEngine_rank (q : Core) (e : Nat) (x : Engine) : (q.setEngine e x).rank = q.rank := rfl
@[simp] theorem Core.setEngine_strands (q : Core) (e : Nat) (x : Engine) : (q.setEngine e x).strands = q.strands := rfl
@[simp] theorem Core.setEngine_clk (q : Core) (e : Nat) (x : Engine) : (q.setEngine e x).clk = q.clk := rfl
@[simp] theorem Core.setEngine_ratio (q : Core) (e : Nat) (x : Engine) : (q.setEngine e x).ratio = q.ratio := rfl
@[simp] theorem Core.setEngine_ptr (q : Core) (e : Nat) (x : Engine) : (q.setEngine e x).ptr = q.ptr := rfl
@[simp] theorem Core.setEngine_picks (q : Core) (e : Nat) (x : Engine) : (q.setEngine e x).picks = q.picks := rfl
@[simp] theorem Core.setEngine_veFree (q : Core) (e : Nat) (x : Engine) : (q.setEngine e x).veFree = q.veFree := rfl
@[simp] theorem Core.setEngine_clean (q : Core) (e : Nat) (x : Engine) : (q.setEngine e x).clean = q.clean := rfl
@[simp] theorem Core.setEngine_lastTenant (q : Core) (e : Nat) (x : Engine) : (q.setEngine e x).lastTenant = q.lastTenant := rfl
@[simp] theorem Core.setEngine_clearing (q : Core) (e : Nat) (x : Engine) : (q.setEngine e x).clearing = q.clearing := rfl
@[simp] theorem Core.setEngine_place (q : Core) (e : Nat) (x : Engine) : (q.setEngine e x).place = q.place := rfl
@[simp] theorem Core.setEngine_index (q : Core) (e : Nat) (x : Engine) : (q.setEngine e x).index = q.index := rfl
@[simp] theorem Core.setEngine_count (q : Core) (e : Nat) (x : Engine) : (q.setEngine e x).count = q.count := rfl
@[simp] theorem Core.setEngine_w (q : Core) (e : Nat) (x : Engine) : (q.setEngine e x).w = q.w := rfl
@[simp] theorem Core.setEngine_a (q : Core) (e : Nat) (x : Engine) : (q.setEngine e x).a = q.a := rfl
@[simp] theorem Core.setEngine_s (q : Core) (e : Nat) (x : Engine) : (q.setEngine e x).s = q.s := rfl
@[simp] theorem Core.setEngine_z (q : Core) (e : Nat) (x : Engine) : (q.setEngine e x).z = q.z := rfl
@[simp] theorem Core.setEngine_patches (q : Core) (e : Nat) (x : Engine) : (q.setEngine e x).patches = q.patches := rfl
@[simp] theorem Core.setEngine_v (q : Core) (e : Nat) (x : Engine) : (q.setEngine e x).v = q.v := rfl
@[simp] theorem Core.setEngine_side (q : Core) (e : Nat) (x : Engine) : (q.setEngine e x).side = q.side := rfl
@[simp] theorem Core.setEngine_qs (q : Core) (e : Nat) (x : Engine) : (q.setEngine e x).qs = q.qs := rfl
@[simp] theorem Core.setEngine_qv (q : Core) (e : Nat) (x : Engine) : (q.setEngine e x).qv = q.qv := rfl
@[simp] theorem Core.setEngine_qsNew (q : Core) (e : Nat) (x : Engine) : (q.setEngine e x).qsNew = q.qsNew := rfl
@[simp] theorem Core.setEngine_qvNew (q : Core) (e : Nat) (x : Engine) : (q.setEngine e x).qvNew = q.qvNew := rfl
@[simp] theorem Core.setEngine_rings (q : Core) (e : Nat) (x : Engine) : (q.setEngine e x).rings = q.rings := rfl
@[simp] theorem Core.setEngine_barriers (q : Core) (e : Nat) (x : Engine) : (q.setEngine e x).barriers = q.barriers := rfl
@[simp] theorem Core.setEngine_handles (q : Core) (e : Nat) (x : Engine) : (q.setEngine e x).handles = q.handles := rfl
@[simp] theorem Core.setEngine_bindNew (q : Core) (e : Nat) (x : Engine) : (q.setEngine e x).bindNew = q.bindNew := rfl
@[simp] theorem Core.setEngine_unbindStream (q : Core) (e : Nat) (x : Engine) : (q.setEngine e x).unbindStream = q.unbindStream := rfl
@[simp] theorem Core.setEngine_pf (q : Core) (e : Nat) (x : Engine) : (q.setEngine e x).pf = q.pf := rfl
@[simp] theorem Core.setEngine_streams (q : Core) (e : Nat) (x : Engine) : (q.setEngine e x).streams = q.streams := rfl
@[simp] theorem Core.setEngine_writes (q : Core) (e : Nat) (x : Engine) : (q.setEngine e x).writes = q.writes := rfl

/-! ## Fields of a strand -/

@[simp] theorem Strand.setReg_pc (t : Strand) (r : Nat) (v : Word) : (t.setReg r v).pc = t.pc := by
  unfold Strand.setReg; split <;> rfl
@[simp] theorem Strand.setReg_p (t : Strand) (r : Nat) (v : Word) : (t.setReg r v).p = t.p := by
  unfold Strand.setReg; split <;> rfl
@[simp] theorem Strand.setReg_b (t : Strand) (r : Nat) (v : Word) : (t.setReg r v).b = t.b := by
  unfold Strand.setReg; split <;> rfl
@[simp] theorem Strand.setReg_vshape (t : Strand) (r : Nat) (v : Word) : (t.setReg r v).vshape = t.vshape := by
  unfold Strand.setReg; split <;> rfl
@[simp] theorem Strand.setReg_fpctl (t : Strand) (r : Nat) (v : Word) : (t.setReg r v).fpctl = t.fpctl := by
  unfold Strand.setReg; split <;> rfl
@[simp] theorem Strand.setReg_fpst (t : Strand) (r : Nat) (v : Word) : (t.setReg r v).fpst = t.fpst := by
  unfold Strand.setReg; split <;> rfl
@[simp] theorem Strand.setReg_trapvec (t : Strand) (r : Nat) (v : Word) : (t.setReg r v).trapvec = t.trapvec := by
  unfold Strand.setReg; split <;> rfl
@[simp] theorem Strand.setReg_trappc (t : Strand) (r : Nat) (v : Word) : (t.setReg r v).trappc = t.trappc := by
  unfold Strand.setReg; split <;> rfl
@[simp] theorem Strand.setReg_trapinfo (t : Strand) (r : Nat) (v : Word) : (t.setReg r v).trapinfo = t.trapinfo := by
  unfold Strand.setReg; split <;> rfl
@[simp] theorem Strand.setReg_traparg (t : Strand) (r : Nat) (v : Word) : (t.setReg r v).traparg = t.traparg := by
  unfold Strand.setReg; split <;> rfl
@[simp] theorem Strand.setReg_tdone (t : Strand) (r : Nat) (v : Word) : (t.setReg r v).tdone = t.tdone := by
  unfold Strand.setReg; split <;> rfl
@[simp] theorem Strand.setReg_latch (t : Strand) (r : Nat) (v : Word) : (t.setReg r v).latch = t.latch := by
  unfold Strand.setReg; split <;> rfl
@[simp] theorem Strand.setReg_hold (t : Strand) (r : Nat) (v : Word) : (t.setReg r v).hold = t.hold := by
  unfold Strand.setReg; split <;> rfl
@[simp] theorem Strand.setReg_heldTicks (t : Strand) (r : Nat) (v : Word) : (t.setReg r v).heldTicks = t.heldTicks := by
  unfold Strand.setReg; split <;> rfl
@[simp] theorem Strand.setReg_window (t : Strand) (r : Nat) (v : Word) : (t.setReg r v).window = t.window := by
  unfold Strand.setReg; split <;> rfl
@[simp] theorem Strand.setReg_loads (t : Strand) (r : Nat) (v : Word) : (t.setReg r v).loads = t.loads := by
  unfold Strand.setReg; split <;> rfl
@[simp] theorem Strand.setReg_knext (t : Strand) (r : Nat) (v : Word) : (t.setReg r v).knext = t.knext := by
  unfold Strand.setReg; split <;> rfl
@[simp] theorem Strand.setReg_scStage (t : Strand) (r : Nat) (v : Word) : (t.setReg r v).scStage = t.scStage := by
  unfold Strand.setReg; split <;> rfl
@[simp] theorem Strand.setReg_relNext (t : Strand) (r : Nat) (v : Word) : (t.setReg r v).relNext = t.relNext := by
  unfold Strand.setReg; split <;> rfl
@[simp] theorem Strand.setReg_waiting (t : Strand) (r : Nat) (v : Word) : (t.setReg r v).waiting = t.waiting := by
  unfold Strand.setReg; split <;> rfl
@[simp] theorem Strand.setReg_answer (t : Strand) (r : Nat) (v : Word) : (t.setReg r v).answer = t.answer := by
  unfold Strand.setReg; split <;> rfl
@[simp] theorem Strand.setPred_pc (t : Strand) (k : Nat) (v : Bool) : (t.setPred k v).pc = t.pc := by
  unfold Strand.setPred; split <;> rfl
@[simp] theorem Strand.setPred_s (t : Strand) (k : Nat) (v : Bool) : (t.setPred k v).s = t.s := by
  unfold Strand.setPred; split <;> rfl
@[simp] theorem Strand.setPred_b (t : Strand) (k : Nat) (v : Bool) : (t.setPred k v).b = t.b := by
  unfold Strand.setPred; split <;> rfl
@[simp] theorem Strand.setPred_vshape (t : Strand) (k : Nat) (v : Bool) : (t.setPred k v).vshape = t.vshape := by
  unfold Strand.setPred; split <;> rfl
@[simp] theorem Strand.setPred_fpctl (t : Strand) (k : Nat) (v : Bool) : (t.setPred k v).fpctl = t.fpctl := by
  unfold Strand.setPred; split <;> rfl
@[simp] theorem Strand.setPred_fpst (t : Strand) (k : Nat) (v : Bool) : (t.setPred k v).fpst = t.fpst := by
  unfold Strand.setPred; split <;> rfl
@[simp] theorem Strand.setPred_trapvec (t : Strand) (k : Nat) (v : Bool) : (t.setPred k v).trapvec = t.trapvec := by
  unfold Strand.setPred; split <;> rfl
@[simp] theorem Strand.setPred_trappc (t : Strand) (k : Nat) (v : Bool) : (t.setPred k v).trappc = t.trappc := by
  unfold Strand.setPred; split <;> rfl
@[simp] theorem Strand.setPred_trapinfo (t : Strand) (k : Nat) (v : Bool) : (t.setPred k v).trapinfo = t.trapinfo := by
  unfold Strand.setPred; split <;> rfl
@[simp] theorem Strand.setPred_traparg (t : Strand) (k : Nat) (v : Bool) : (t.setPred k v).traparg = t.traparg := by
  unfold Strand.setPred; split <;> rfl
@[simp] theorem Strand.setPred_tdone (t : Strand) (k : Nat) (v : Bool) : (t.setPred k v).tdone = t.tdone := by
  unfold Strand.setPred; split <;> rfl
@[simp] theorem Strand.setPred_latch (t : Strand) (k : Nat) (v : Bool) : (t.setPred k v).latch = t.latch := by
  unfold Strand.setPred; split <;> rfl
@[simp] theorem Strand.setPred_hold (t : Strand) (k : Nat) (v : Bool) : (t.setPred k v).hold = t.hold := by
  unfold Strand.setPred; split <;> rfl
@[simp] theorem Strand.setPred_heldTicks (t : Strand) (k : Nat) (v : Bool) : (t.setPred k v).heldTicks = t.heldTicks := by
  unfold Strand.setPred; split <;> rfl
@[simp] theorem Strand.setPred_window (t : Strand) (k : Nat) (v : Bool) : (t.setPred k v).window = t.window := by
  unfold Strand.setPred; split <;> rfl
@[simp] theorem Strand.setPred_loads (t : Strand) (k : Nat) (v : Bool) : (t.setPred k v).loads = t.loads := by
  unfold Strand.setPred; split <;> rfl
@[simp] theorem Strand.setPred_knext (t : Strand) (k : Nat) (v : Bool) : (t.setPred k v).knext = t.knext := by
  unfold Strand.setPred; split <;> rfl
@[simp] theorem Strand.setPred_scStage (t : Strand) (k : Nat) (v : Bool) : (t.setPred k v).scStage = t.scStage := by
  unfold Strand.setPred; split <;> rfl
@[simp] theorem Strand.setPred_relNext (t : Strand) (k : Nat) (v : Bool) : (t.setPred k v).relNext = t.relNext := by
  unfold Strand.setPred; split <;> rfl
@[simp] theorem Strand.setPred_waiting (t : Strand) (k : Nat) (v : Bool) : (t.setPred k v).waiting = t.waiting := by
  unfold Strand.setPred; split <;> rfl
@[simp] theorem Strand.setPred_answer (t : Strand) (k : Nat) (v : Bool) : (t.setPred k v).answer = t.answer := by
  unfold Strand.setPred; split <;> rfl
@[simp] theorem Strand.setFlags_pc (t : Strand) (f : Nat) : (t.setFlags f).pc = t.pc := rfl
@[simp] theorem Strand.setFlags_s (t : Strand) (f : Nat) : (t.setFlags f).s = t.s := rfl
@[simp] theorem Strand.setFlags_p (t : Strand) (f : Nat) : (t.setFlags f).p = t.p := rfl
@[simp] theorem Strand.setFlags_b (t : Strand) (f : Nat) : (t.setFlags f).b = t.b := rfl
@[simp] theorem Strand.setFlags_vshape (t : Strand) (f : Nat) : (t.setFlags f).vshape = t.vshape := rfl
@[simp] theorem Strand.setFlags_fpctl (t : Strand) (f : Nat) : (t.setFlags f).fpctl = t.fpctl := rfl
@[simp] theorem Strand.setFlags_trapvec (t : Strand) (f : Nat) : (t.setFlags f).trapvec = t.trapvec := rfl
@[simp] theorem Strand.setFlags_trappc (t : Strand) (f : Nat) : (t.setFlags f).trappc = t.trappc := rfl
@[simp] theorem Strand.setFlags_trapinfo (t : Strand) (f : Nat) : (t.setFlags f).trapinfo = t.trapinfo := rfl
@[simp] theorem Strand.setFlags_traparg (t : Strand) (f : Nat) : (t.setFlags f).traparg = t.traparg := rfl
@[simp] theorem Strand.setFlags_tdone (t : Strand) (f : Nat) : (t.setFlags f).tdone = t.tdone := rfl
@[simp] theorem Strand.setFlags_latch (t : Strand) (f : Nat) : (t.setFlags f).latch = t.latch := rfl
@[simp] theorem Strand.setFlags_hold (t : Strand) (f : Nat) : (t.setFlags f).hold = t.hold := rfl
@[simp] theorem Strand.setFlags_heldTicks (t : Strand) (f : Nat) : (t.setFlags f).heldTicks = t.heldTicks := rfl
@[simp] theorem Strand.setFlags_window (t : Strand) (f : Nat) : (t.setFlags f).window = t.window := rfl
@[simp] theorem Strand.setFlags_loads (t : Strand) (f : Nat) : (t.setFlags f).loads = t.loads := rfl
@[simp] theorem Strand.setFlags_knext (t : Strand) (f : Nat) : (t.setFlags f).knext = t.knext := rfl
@[simp] theorem Strand.setFlags_scStage (t : Strand) (f : Nat) : (t.setFlags f).scStage = t.scStage := rfl
@[simp] theorem Strand.setFlags_relNext (t : Strand) (f : Nat) : (t.setFlags f).relNext = t.relNext := rfl
@[simp] theorem Strand.setFlags_waiting (t : Strand) (f : Nat) : (t.setFlags f).waiting = t.waiting := rfl
@[simp] theorem Strand.setFlags_answer (t : Strand) (f : Nat) : (t.setFlags f).answer = t.answer := rfl

/-! ## Reads after writes -/

@[simp] theorem State.core_setCore_self (s : State) (c : Nat) (q : Core) : (s.setCore c q).core c = q := by
  simp [State.core, State.setCore]

theorem State.core_setCore_ne (s : State) {c c' : Nat} (q : Core) (h : c' ≠ c) : (s.setCore c q).core c' = s.core c' := by
  simp [State.core, State.setCore, mapGet_mapPut_ne _ _ _ h]

@[simp] theorem State.here_setMe (s : State) (t : Strand) : (s.setMe t).here = s.here.setStrand s.cur.2 t := by
  simp [State.setMe, State.setHere, State.here]

theorem State.core_setMe_ne (s : State) (t : Strand) {c : Nat} (h : c ≠ s.cur.1) : (s.setMe t).core c = s.core c := by
  simp [State.setMe, State.setHere, State.core_setCore_ne s _ h]

@[simp] theorem Core.strand_setStrand_self (q : Core) {k : Nat} (t : Strand) (h : k < q.strands.length) :
    (q.setStrand k t).strand k = t := by
  simp [Core.strand, Core.setStrand, List.getD_eq_getElem?_getD, h]

theorem Core.strand_setStrand_ne (q : Core) {k l : Nat} (t : Strand) (h : l ≠ k) :
    (q.setStrand k t).strand l = q.strand l := by
  simp [Core.strand, Core.setStrand, List.getD_eq_getElem?_getD, List.getElem?_set_ne (Ne.symm h)]

@[simp] theorem Core.setStrand_length (q : Core) (k : Nat) (t : Strand) :
    (q.setStrand k t).strands.length = q.strands.length := by simp [Core.setStrand]

@[simp] theorem Core.setStrand_setStrand (q : Core) (k : Nat) (t u : Strand) :
    (q.setStrand k t).setStrand k u = q.setStrand k u := by simp [Core.setStrand]

theorem State.me_setMe (s : State) (t : Strand) (h : s.cur.2 < s.here.strands.length) : (s.setMe t).me = t := by
  simp [State.me, h]

@[simp] theorem mapPut_mapPut {α : Type} (m : Map α) (k : Nat) (u v : α) : mapPut (mapPut m k u) k v = mapPut m k v := by
  induction m with
  | nil => simp [mapPut]
  | cons p m ih =>
    obtain ⟨j, w⟩ := p
    by_cases h1 : k < j
    · simp [mapPut, h1]
    · by_cases h2 : k = j
      · simp [mapPut, h2]
      · simp [mapPut, h1, h2, ih]

@[simp] theorem State.setCore_setCore (s : State) (c : Nat) (p q : Core) :
    (s.setCore c p).setCore c q = s.setCore c q := by simp [State.setCore]

@[simp] theorem State.setMe_setMe (s : State) (t u : Strand) : (s.setMe t).setMe u = s.setMe u := by
  have h : (s.setMe t).here = s.here.setStrand s.cur.2 t := s.here_setMe t
  rw [State.setMe, h]
  simp [State.setHere, State.setMe]

@[simp] theorem Strand.reg_zero (t : Strand) : t.reg 0 = 0 := rfl

theorem Strand.reg_setReg (t : Strand) (d r : Nat) (v : Word) :
    (t.setReg d v).reg r = if r = d ∧ d ≠ 0 then v else t.reg r := by
  by_cases hd : d = 0
  · simp [Strand.setReg, hd]
  · by_cases hr : r = 0
    · subst hr
      have h0 : ¬ (0 = d) := fun h => hd h.symm
      simp [Strand.reg, h0]
    · simp [Strand.reg, Strand.setReg, hd, hr, mapGet_mapPut]

@[simp] theorem Strand.setReg_zero (t : Strand) (v : Word) : t.setReg 0 v = t := rfl

@[simp] theorem Strand.pred_zero (t : Strand) : t.pred 0 = true := rfl

@[simp] theorem Strand.setPred_zero (t : Strand) (v : Bool) : t.setPred 0 v = t := rfl

theorem Strand.setFlags_none (t : Strand) : t.setFlags 0 = t := by
  simp [Strand.setFlags, fpstSet]

end Sys2Proof.Machine
end

