-- ==== Sys2Proof/Laws/Ops.lean ====
section
/-! SUPPORT. What the shared operations of strand instructions do, once each: a true guard runs the body, a false one moves the
pc, an exception enters the handler or aborts the task. -/

namespace Sys2Proof.Machine

/-! ## One strand instruction -/

theorem runStrand_of_runs {s : State} {g : Guard} {u : Uses} (h : s.runs g u) (len : Nat) (body : State → Eff) :
    runStrand len g u s body = .next (finish len u s (body s)) := by
  obtain ⟨-, hg, hl, hc⟩ := h
  have hg' : ¬ ((s.rP g.g != g.n) = false) := by simpa using hg
  simp [runStrand, hg', hl, hc]

theorem runStrand_guard_false {s : State} {g : Guard} (h : s.rP g.g = g.n) (len : Nat) (u : Uses) (body : State → Eff) :
    runStrand len g u s body = .next (s.setPc (s.me.pc + len)) := by
  simp [runStrand, h]

theorem runStrand_load_pending {s : State} {g : Guard} {u : Uses} (h : s.rP g.g ≠ g.n) (hl : s.me.loadPending u = true)
    (hc : s.me.scStage < 3)
    (len : Nat) (body : State → Eff) :
    runStrand len g u s body = .next (s.setMe { s.me with hold := some u.hold }) := by
  have hg' : ¬ ((s.rP g.g != g.n) = false) := by simpa using h
  simp [runStrand, hg', hl, hc]

/-- A strand instruction always answers a next state. -/
theorem runStrand_next (len : Nat) (g : Guard) (u : Uses) (s : State) (body : State → Eff) :
    ∃ t, runStrand len g u s body = .next t := by
  unfold runStrand
  split
  · exact ⟨_, rfl⟩
  · split
    · exact ⟨_, rfl⟩
    · dsimp only
      split
      · exact ⟨_, rfl⟩
      · split
        · split <;> exact ⟨_, rfl⟩
        · exact ⟨_, rfl⟩
        · exact ⟨_, rfl⟩

/-! ## Poison of registers written -/

theorem State.isPoisoned_clearPoison (s : State) (u v : ErrorUnit) :
    (s.clearPoison u).isPoisoned v = (s.isPoisoned v && !(v == u)) := by
  rw [Bool.eq_iff_iff]
  simp [State.isPoisoned, State.clearPoison]

theorem foldl_clearPoison (ws : List Nat) (c k : Nat) (s : State) :
    ws.foldl (fun s r => s.clearPoison (.sreg c k r)) s =
      { s with poison := (ws.foldl (fun s r => s.clearPoison (.sreg c k r)) s).poison } := by
  induction ws generalizing s with
  | nil => rfl
  | cons r ws ih =>
    simp only [List.foldl_cons]
    rw [ih (s.clearPoison (.sreg c k r))]
    rfl

theorem registersWritten_loop (ws : List Nat) (c k : Nat) (s : State) (h : s.cur = (c, k)) :
    ws.foldl (fun s r => s.clearPoison (.sreg s.cur.1 s.cur.2 r)) s = ws.foldl (fun s r => s.clearPoison (.sreg c k r)) s := by
  induction ws generalizing s with
  | nil => rfl
  | cons r ws ih =>
    simp only [List.foldl_cons, h]
    exact ih _ (by simpa using h)

theorem isPoisoned_foldl_clearPoison (ws : List Nat) (c k : Nat) (s : State) (v : ErrorUnit) :
    (ws.foldl (fun s r => s.clearPoison (.sreg c k r)) s).isPoisoned v =
      (s.isPoisoned v && !(ws.any fun r => v == .sreg c k r)) := by
  induction ws generalizing s with
  | nil => simp
  | cons r ws ih =>
    simp only [List.foldl_cons, ih, State.isPoisoned_clearPoison, List.any_cons, Bool.not_or, Bool.and_assoc]

/-- Writing registers changes poison alone. -/
theorem State.registersWritten_eq (s : State) (u : Uses) :
    s.registersWritten u = { s with poison := (s.registersWritten u).poison } := by
  unfold State.registersWritten
  split
  · rfl
  · rw [registersWritten_loop u.ws s.cur.1 s.cur.2 s rfl]
    exact foldl_clearPoison _ _ _ _

theorem State.isPoisoned_registersWritten (s : State) (u : Uses) (v : ErrorUnit) :
    (s.registersWritten u).isPoisoned v = (s.isPoisoned v && !(u.ws.any fun r => v == .sreg s.cur.1 s.cur.2 r)) := by
  unfold State.registersWritten
  split
  · rename_i h
    have h0 : s.isPoisoned v = false := by
      simp only [List.isEmpty_iff] at h
      simp [State.isPoisoned, h]
    simp [h0]
  · rw [registersWritten_loop u.ws s.cur.1 s.cur.2 s rfl]
    exact isPoisoned_foldl_clearPoison _ _ _ _ _

@[simp] theorem State.registersWritten_coreTab (s : State) (u : Uses) : (s.registersWritten u).coreTab = s.coreTab := by
  rw [State.registersWritten_eq]

@[simp] theorem State.registersWritten_cur (s : State) (u : Uses) : (s.registersWritten u).cur = s.cur := by
  rw [State.registersWritten_eq]

@[simp] theorem State.registersWritten_core (s : State) (u : Uses) (c : Nat) : (s.registersWritten u).core c = s.core c := by
  simp [State.core]

@[simp] theorem State.registersWritten_here (s : State) (u : Uses) : (s.registersWritten u).here = s.here := by
  simp [State.here]

@[simp] theorem State.registersWritten_me (s : State) (u : Uses) : (s.registersWritten u).me = s.me := by
  simp [State.me]

theorem foldl_clearPoison_poison (c k : Nat) (ws : List Nat) (a b : State) (h : a.poison = b.poison) :
    (ws.foldl (fun s r => s.clearPoison (.sreg c k r)) a).poison =
      (ws.foldl (fun s r => s.clearPoison (.sreg c k r)) b).poison := by
  induction ws generalizing a b with
  | nil => exact h
  | cons r ws ih => exact ih _ _ (by simp [State.clearPoison, h])

/-- The poison after writing registers depends on the poison before and the executing strand alone. -/
theorem State.registersWritten_poison_congr (a b : State) (u : Uses) (hc : a.cur = b.cur) (hp : a.poison = b.poison) :
    (a.registersWritten u).poison = (b.registersWritten u).poison := by
  unfold State.registersWritten
  rw [registersWritten_loop u.ws b.cur.1 b.cur.2 a (by simp [hc]), registersWritten_loop u.ws b.cur.1 b.cur.2 b rfl]
  by_cases he : a.poison.isEmpty = true
  · rw [if_pos he, if_pos (hp ▸ he), hp]
  · rw [if_neg he, if_neg (hp ▸ he)]
    exact foldl_clearPoison_poison _ _ _ a b hp

theorem State.setMe_registersWritten (s : State) (u : Uses) (m : Strand) :
    (s.registersWritten u).setMe m = (s.setMe m).registersWritten u := by
  have h2 := State.registersWritten_eq (s.setMe m) u
  rw [State.registersWritten_eq s u, h2, State.registersWritten_poison_congr (s.setMe m) s u rfl rfl]
  rfl

/-- The strand after an effect that changed the executing strand alone, with the pc moved on. -/
theorem State.done_setMe (s : State) (m : Strand) (u : Uses) (pc : Nat) (hs : s.seated) :
    ((s.setMe m).registersWritten u).setPc pc = (s.setMe { m with pc := pc }).registersWritten u := by
  unfold State.setPc
  rw [State.registersWritten_me, State.me_setMe s m hs, State.setMe_registersWritten, State.setMe_setMe]

/-- The frame of a change of the executing strand alone. -/
theorem onlyStrand_setMe (s : State) (m : Strand) (u : Uses) (hs : s.seated) :
    onlyStrand u.ws s ((s.setMe m).registersWritten u) := by
  refine ⟨⟨?_, ?_, ?_, ?_⟩, ?_⟩
  · rw [State.registersWritten_eq]; rfl
  · intro c hc
    rw [State.registersWritten_core, State.core_setMe_ne s m hc]
  · intro v
    rw [State.isPoisoned_registersWritten]; rfl
  · intro a
    refine ⟨by rw [State.registersWritten_eq]; rfl, by rw [State.registersWritten_eq]; rfl, ?_⟩
    intro c
    rw [State.registersWritten_core]
    by_cases hc : c = s.cur.1
    · subst hc
      have h : (s.setMe m).core s.cur.1 = s.here.setStrand s.cur.2 m := s.here_setMe m
      rw [h]
      exact ⟨rfl, rfl, rfl⟩
    · rw [State.core_setMe_ne s m hc]
      exact ⟨rfl, rfl, rfl⟩
  · rw [State.registersWritten_here, State.registersWritten_me, State.here_setMe, State.me_setMe s m hs]

/-! ## Scalar results -/

theorem wroteScalar_setMe (s : State) (u : Uses) (len d f : Nat) (v : Word) (m : Strand) (hs : s.seated) (hw : u.ws = [d])
    (hm : m = { s.me.setReg d v with pc := s.me.pc + len, fpst := s.me.fpst ||| BitVec.ofNat 32 f }) :
    wroteScalar len d v f s ((s.setMe m).registersWritten u) := by
  have hme : ((s.setMe m).registersWritten u).me = m := by rw [State.registersWritten_me, State.me_setMe s _ hs]
  have hr : ∀ r, ((s.setMe m).registersWritten u).rS r = (s.me.setReg d v).reg r := by
    intro r
    rw [State.rS, hme, hm]
    rfl
  refine ⟨hw ▸ onlyStrand_setMe s _ u hs, ?_, ?_, ?_⟩
  · rw [hme, hm]
    simp
  · rw [hr, Strand.reg_setReg]
    by_cases hd : d = 0
    · subst hd; simp
    · simp [hd]
  · intro r h
    rw [hr, Strand.reg_setReg]
    simp [h, State.rS]

/-- A body that writes one scalar register and FPST bits. -/
theorem wroteScalar_done (s : State) (u : Uses) (len d f : Nat) (v : Word) (hs : s.seated) (hw : u.ws = [d]) (hf : f < 128) :
    wroteScalar len d v f s (finish len u s (.done ((s.wS d v).setFlags f))) := by
  have h1 : (s.wS d v).setFlags f = s.setMe { s.me.setReg d v with fpst := s.me.fpst ||| BitVec.ofNat 32 f } := by
    rw [State.setFlags, State.wS, State.me_setMe s _ hs, State.setMe_setMe]
    simp [Strand.setFlags, fpstSet, Nat.mod_eq_of_lt hf]
  rw [h1]
  simp only [finish]
  rw [State.done_setMe s _ u _ hs]
  exact wroteScalar_setMe s u len d f v _ hs hw rfl

/-- A body that writes one scalar register. -/
theorem wroteScalar_wS (s : State) (u : Uses) (len d : Nat) (v : Word) (hs : s.seated) (hw : u.ws = [d]) :
    wroteScalar len d v 0 s (finish len u s (.done (s.wS d v))) := by
  have h := wroteScalar_done s u len d 0 v hs hw (by decide)
  have h1 : (s.wS d v).setFlags 0 = s.wS d v := by
    rw [State.setFlags, State.wS, State.me_setMe s _ hs, State.setMe_setMe, Strand.setFlags_none]
  rwa [h1] at h

/-- An instruction that writes one scalar register completes. -/
theorem runStrand_wS {s : State} {g : Guard} {u : Uses} (h : s.runs g u) (len d : Nat) (v : Word) (hw : u.ws = [d])
    {body : State → Eff} (hb : body s = .done (s.wS d v)) :
    ∃ t, runStrand len g u s body = .next t ∧ wroteScalar len d v 0 s t :=
  ⟨_, runStrand_of_runs h len body, hb ▸ wroteScalar_wS s u len d v h.1 hw⟩

/-- The same with FPST bits. -/
theorem runStrand_wS_flags {s : State} {g : Guard} {u : Uses} (h : s.runs g u) (len d f : Nat) (v : Word) (hw : u.ws = [d])
    (hf : f < 128) {body : State → Eff} (hb : body s = .done ((s.wS d v).setFlags f)) :
    ∃ t, runStrand len g u s body = .next t ∧ wroteScalar len d v f s t :=
  ⟨_, runStrand_of_runs h len body, hb ▸ wroteScalar_done s u len d f v h.1 hw hf⟩

/-! ## Changes of the strand, transfers and holds -/

theorem State.me_registersWritten_setMe (s : State) (m : Strand) (u : Uses) (hs : s.seated) :
    ((s.setMe m).registersWritten u).me = m := by
  rw [State.registersWritten_me, State.me_setMe s m hs]

/-- A body that completes with another strand state. -/
theorem runStrand_setMe {s : State} {g : Guard} {u : Uses} (h : s.runs g u) (len : Nat) (m : Strand)
    {body : State → Eff} (hb : body s = .done (s.setMe m)) :
    ∃ t, runStrand len g u s body = .next t ∧ onlyStrand u.ws s t ∧ t.me = { m with pc := s.me.pc + len } := by
  refine ⟨_, runStrand_of_runs h len body, ?_⟩
  rw [hb, finish, State.done_setMe s m u _ h.1]
  exact ⟨onlyStrand_setMe s _ u h.1, State.me_registersWritten_setMe s _ u h.1⟩

theorem State.setMe_here_self (s : State) : s.here.setStrand s.cur.2 s.me = s.here := by
  have h : s.here.strands.set s.cur.2 (s.here.strands.getD s.cur.2 Strand.entry) = s.here.strands := by
    apply List.ext_getElem?
    intro i
    by_cases hi : i = s.cur.2
    · subst hi
      by_cases hl : s.cur.2 < s.here.strands.length
      · simp [hl, List.getD_eq_getElem?_getD]
      · simp [hl]
    · rw [List.getElem?_set_ne (Ne.symm hi)]
  simp only [State.me, Core.strand, Core.setStrand, h]

/-- A body that completes and changes nothing. -/
theorem runStrand_same {s : State} {g : Guard} {u : Uses} (h : s.runs g u) (len : Nat) (hu : u.ws = [])
    {body : State → Eff} (hb : body s = .done s) :
    ∃ t, runStrand len g u s body = .next t ∧ wentOn len s t := by
  refine ⟨_, runStrand_of_runs h len body, ?_⟩
  rw [hb, finish, State.setPc, State.registersWritten_me, State.setMe_registersWritten]
  exact ⟨hu ▸ onlyStrand_setMe s _ u h.1, State.me_registersWritten_setMe s _ u h.1⟩

/-- A body that transfers with another strand state. -/
theorem runStrand_jump {s : State} {g : Guard} {u : Uses} (h : s.runs g u) (len : Nat) (m : Strand) (pc : Nat)
    {body : State → Eff} (hb : body s = .jump (s.setMe m) pc) :
    ∃ t, runStrand len g u s body = .next t ∧ onlyStrand u.ws s t ∧ t.me = { m with pc := pc } := by
  refine ⟨_, runStrand_of_runs h len body, ?_⟩
  rw [hb, finish, State.done_setMe s m u _ h.1]
  exact ⟨onlyStrand_setMe s _ u h.1, State.me_registersWritten_setMe s _ u h.1⟩

/-- A body that transfers and changes nothing else. -/
theorem runStrand_jump_same {s : State} {g : Guard} {u : Uses} (h : s.runs g u) (len pc : Nat) (hu : u.ws = [])
    {body : State → Eff} (hb : body s = .jump s pc) :
    ∃ t, runStrand len g u s body = .next t ∧ wentTo pc s t := by
  refine ⟨_, runStrand_of_runs h len body, ?_⟩
  rw [hb, finish, State.setPc, State.registersWritten_me, State.setMe_registersWritten]
  exact ⟨hu ▸ onlyStrand_setMe s _ u h.1, State.me_registersWritten_setMe s _ u h.1⟩

theorem onlyStrand_setMe_none (s : State) (m : Strand) (hs : s.seated) : onlyStrand [] s (s.setMe m) := by
  have h := onlyStrand_setMe s m Uses.none hs
  have h0 : (s.setMe m).registersWritten Uses.none = s.setMe m := by
    unfold State.registersWritten
    split <;> rfl
  rwa [h0] at h

/-- A body that holds its strand. -/
theorem runStrand_hold {s : State} {g : Guard} {u : Uses} (h : s.runs g u) (len : Nat) (c : Hold)
    {body : State → Eff} (hb : body s = .hold s c) :
    ∃ t, runStrand len g u s body = .next t ∧ heldBy c s t := by
  refine ⟨_, runStrand_of_runs h len body, ?_⟩
  rw [hb, finish]
  exact ⟨onlyStrand_setMe_none s _ h.1, State.me_setMe s _ h.1⟩

/-! ## Exceptions -/

/-- An exception with a handler (R208): the strand enters it, and nothing else changes. -/
theorem State.raise_handler (s : State) (e : Exc) (len : Nat) (h : s.me.hasHandler = true) (hp : e.code ≠ codePURITY) :
    s.raise e len = s.setMe (s.me.enterHandler e (if e.kindC then s.me.pc + len else s.me.pc)) := by
  have hm : (s.core s.cur.1).strand s.cur.2 = s.me := rfl
  simp only [State.raise, State.raiseAt, hm, h, hp, if_true, if_false]
  rfl

/-- An exception of a body that has done nothing, with a handler to enter (R208). -/
theorem runStrand_trap {s : State} {g : Guard} {u : Uses} (h : s.runs g u) (len : Nat) (e : Exc) (hh : s.me.hasHandler = true)
    (hp : e.code ≠ codePURITY) {body : State → Eff} (hb : body s = .trap s e) :
    ∃ t, runStrand len g u s body = .next t ∧ onlyStrand [] s t ∧
      t.me = s.me.enterHandler e (if e.kindC then s.me.pc + len else s.me.pc) := by
  refine ⟨_, runStrand_of_runs h len body, ?_⟩
  rw [hb, finish, State.raise_handler s e len hh hp]
  exact ⟨onlyStrand_setMe_none s _ h.1, State.me_setMe s _ h.1⟩

end Sys2Proof.Machine
end

