-- ==== Sys2Proof/Tests/Slice0.lean ====
section
/-! SUPPORT. Tests: what `wellFormed` refuses, words of every row of the opcode map, worked examples of the manual, and for
every obligation a state and operands that meet its hypotheses. -/

open Sys2Proof Sys2Proof.Machine Sys2Proof.Claims

namespace Sys2Proof.Tests

-- One theorem after another: each takes little memory, all at once too much.
set_option Elab.async false

/-- The true guard, and the guard that is always false (R230). -/
def on : Guard := ⟨0, false⟩
def off : Guard := ⟨0, true⟩

/-! ## Ill-formed terms -/

theorem test_wf_guard : wellFormed (.nop ⟨15, true⟩) = true ∧ wellFormed (.nop ⟨16, true⟩) = false := by decide +kernel
theorem test_wf_registers : wellFormed (.add on 63 63 63) = true ∧ wellFormed (.add on 64 0 0) = false ∧
    wellFormed (.add on 0 64 0) = false ∧ wellFormed (.add on 0 0 64) = false ∧
    wellFormed (.pand on 16 0 0) = false ∧ wellFormed (.br on 8) = false ∧
    wellFormed (.vmovLong on 320 0) = false ∧ wellFormed (.seal on 256) = false ∧ wellFormed (.ld on 0 64 0) = false := by
  decide +kernel
theorem test_wf_types : wellFormed (.addLong on .u64 true 1 2 3) = true ∧ wellFormed (.addLong on .f32 false 1 2 3) = false ∧
    wellFormed (.andLong on .u64 1 2 3) = false ∧ wellFormed (.fadd on .i64 .rne 1 2 3) = false ∧
    wellFormed (.fcvt on .mx4 .rne false 1 2 .f32) = false ∧ wellFormed (.fcvti on .i64 .rne 1 2 .e4m3) = false ∧
    wellFormed (.ldLong on .e2m1 .rlx .core 1 2 3 4) = false ∧ wellFormed (.cas on .f32 .rlx .core 2 3 4 5) = false ∧
    wellFormed (.atom on .f32 .rlx .core .min 1 2 3 4) = false ∧ wellFormed (.vcvt on .mx4 .rne false 1 2) = false ∧
    wellFormed (.vqmx on .dx8 1 2) = false ∧ wellFormed (.vqdx on .mx4 1 2) = false := by
  decide +kernel
theorem test_wf_immediates : wellFormed (.addi on 1 2 (-32)) = true ∧ wellFormed (.addi on 1 2 32) = false ∧
    wellFormed (.addiLong on .i64 false 1 2 256) = false ∧ wellFormed (.addiExt on .i64 false 1 2 (2 ^ 31)) = false ∧
    wellFormed (.shli on 1 2 64) = false ∧ wellFormed (.shliLong on .i32 1 2 32) = false ∧
    wellFormed (.bfx on 60 5 1 2) = false ∧ wellFormed (.bfx on 60 0 1 2) = false ∧ wellFormed (.sext on 0 1 2) = false ∧
    wellFormed (.pbr on 0 2) = false ∧ wellFormed (.waitc on 0 64) = false ∧ wellFormed (.waitc on 4 0) = false ∧
    wellFormed (.vshapeExt on 0x00200405) = true ∧ wellFormed (.vshapeExt on (2 ^ 32)) = false ∧ wellFormed (.vshapeExt on 0x00000405) = false ∧
    wellFormed (.bsync on 15 1) = true ∧ wellFormed (.bsync on 16 1) = false ∧ wellFormed (.vresc on 1 2 256) = false := by
  decide +kernel
theorem test_wf_rounding_and_order : wellFormed (.fadd on .f64 .dyn 1 2 3) = false ∧
    wellFormed (.vaddLong on .dyn 1 2 3) = true ∧ wellFormed (.ldLong on .i64 .rel .core 1 2 3 4) = false ∧
    wellFormed (.stLong on .i64 .acq .core 1 2 3 4) = false ∧ wellFormed (.fence on .rlx .core) = false ∧
    wellFormed (.fence on .sc .die) = false ∧ wellFormed (.fence on .sc .pkg) = true := by
  decide +kernel
theorem test_wf_conditions : wellFormed (.cmp on .i64 .uno 1 2 3 4) = false ∧
    wellFormed (.fcmp on .f64 .ltu 1 2 3 4) = false ∧ wellFormed (.cmp on .i64 .lt 1 1 3 4) = false ∧
    wellFormed (.cmp on .i64 .lt 0 0 3 4) = true := by
  decide +kernel
theorem test_wf_selectors : wellFormed (.sysrd on 0x003 1) = false ∧ wellFormed (.syswr on 0x002 1) = false ∧
    wellFormed (.rdid on 8 1) = false ∧ wellFormed (.hinfo on 1 2 8) = false ∧ wellFormed (.rqry on 1 2 5) = false ∧
    wellFormed (.binit on 17 1 2) = false ∧ wellFormed (.rinit on 32 1 2) = false ∧ wellFormed (.qpush on 16 1) = false ∧
    wellFormed (.qpushLong on 7 64) = false ∧ wellFormed (.qpushLong on 8 319) = true ∧ wellFormed (.waitt on 5 1) = false ∧
    wellFormed (.sbind on 287 0 0) = false ∧ wellFormed (.sbind on 288 0 2) = false ∧ wellFormed (.ectl on 5 0 1) = false ∧
    wellFormed (.ectl on 0 9 1) = false ∧ wellFormed (.zstat on 1 2 32 0) = false ∧ wellFormed (.zstat on 1 2 0 16) = false ∧
    wellFormed (.cas on .i64 .rlx .core 1 2 3 4) = false ∧ wellFormed (.red on .i64 .rlx .core .swap 1 2 3 4) = false ∧
    wellFormed (.vred on .rne 1 2 false 6) = false ∧ wellFormed (.pfeval on 1 2 4) = false := by
  decide +kernel
theorem test_wf_records :
    wellFormed (.rnop ⟨on, 4, ⟨1, 31, 1⟩, ⟨1, 31, 0⟩, none, none, none, none⟩ 0) = true ∧
    wellFormed (.rnop ⟨on, 5, ⟨0, 0, 0⟩, ⟨0, 0, 0⟩, none, none, none, none⟩ 0) = false ∧
    wellFormed (.cpy ⟨on, 2, ⟨0, 0, 0⟩, ⟨0, 0, 0⟩, none, none, none, none⟩ 0) = false ∧
    wellFormed (.cpy ⟨on, 0, ⟨0, 1, 0⟩, ⟨0, 0, 0⟩, none, none, none, none⟩ 0) = false ∧
    wellFormed (.cpy ⟨on, 0, ⟨1, 32, 1⟩, ⟨0, 0, 0⟩, none, none, none, none⟩ 0) = false ∧
    wellFormed (.cpy ⟨on, 0, ⟨1, 0, 0⟩, ⟨0, 0, 0⟩, none, none, none, none⟩ 0) = false ∧
    wellFormed (.cpy ⟨on, 0, ⟨3, 17, 1⟩, ⟨0, 0, 0⟩, none, none, none, none⟩ 0) = false ∧
    wellFormed (.cpy ⟨on, 0, ⟨0, 0, 0⟩, ⟨3, 16, 0⟩, none, none, none, none⟩ 0) = false ∧
    wellFormed (.mma ⟨on, 0, ⟨0, 0, 0⟩, ⟨0, 0, 0⟩, none, some 63, none, none⟩ 0) = true ∧
    wellFormed (.mma ⟨on, 0, ⟨0, 0, 0⟩, ⟨0, 0, 0⟩, some 64, none, none, none⟩ 0) = false := by
  decide +kernel
theorem test_wf_events : wellFormed (.coreDone 256) = false ∧ wellFormed (.retrain 12) = false ∧
    wellFormed (.retrainDone 0 2 0) = false ∧ wellFormed (.task 128) = false ∧ wellFormed (.getLog 64) = false ∧
    wellFormed (.pkctlRetry 0 256) = false ∧ wellFormed (.hostMemoryWrite 0 ⟨0, 2 ^ 40⟩ [1]) = false := by
  decide +kernel

/-! ## Words written out from the encoding tables of chapters 11 to 15 -/

/-- Words of the integer family (R259 to R261). -/
theorem test_decode_integer_1 :
    decodeTableWord 32 0x0810C01C = some (.add ⟨3, true⟩ 3 1 2) ∧
    decodeTableWord 64 0x0880001C0C050049 = some (.addLong ⟨9, false⟩ .i32 true 5 6 7) ∧
    decodeTableWord 32 0xFFE240FC = some (.sub ⟨15, true⟩ 9 62 63) ∧
    decodeTableWord 64 0x10000008023F0081 = some (.subLong ⟨0, false⟩ .u64 false 63 1 2) ∧
    decodeTableWord 32 0xFC41011C = some (.addi ⟨3, true⟩ 4 4 (-1)) ∧
    decodeTableWord 64 0x108004000A040149 = some (.addiLong ⟨9, false⟩ .u64 true 4 5 (-256)) ∧
    decodeTableWord 96 0xFFFE7960080000000A04017E = some (.addiExt ⟨15, true⟩ .i32 false 4 5 (-100000)) ∧
    decodeTableWord 64 0x1080000C04010181 = some (.mul ⟨0, false⟩ .u64 true 1 2 3) ∧
    decodeTableWord 64 0x080000FC0421021D = some (.mulh ⟨3, true⟩ .i32 33 2 63) ∧
    decodeTableWord 64 0x080000FC042102C9 = some (.mulhu ⟨9, false⟩ .i32 33 2 63) ∧
    decodeTableWord 64 0x080000FC0421037D = some (.div ⟨15, true⟩ .i32 33 2 63) ∧
    decodeTableWord 64 0x080000FC04210381 = some (.divu ⟨0, false⟩ .i32 33 2 63) := by
  decide +kernel

/-- Words of the integer family (R259 to R261). -/
theorem test_decode_integer_2 :
    decodeTableWord 64 0x080000FC0421041D = some (.rem ⟨3, true⟩ .i32 33 2 63) ∧
    decodeTableWord 64 0x080000FC042104C9 = some (.remu ⟨9, false⟩ .i32 33 2 63) ∧
    decodeTableWord 64 0x080000FC042106FD = some (.andn ⟨15, true⟩ .i32 33 2 63) ∧
    decodeTableWord 64 0x080000FC04210701 = some (.orn ⟨0, false⟩ .i32 33 2 63) ∧
    decodeTableWord 64 0x080000FC0421079D = some (.shl ⟨3, true⟩ .i32 33 2 63) ∧
    decodeTableWord 64 0x080000FC042108C9 = some (.shr ⟨9, false⟩ .i32 33 2 63) ∧
    decodeTableWord 64 0x080000FC042109FD = some (.sra ⟨15, true⟩ .i32 33 2 63) ∧
    decodeTableWord 64 0x080000FC04210A81 = some (.rotl ⟨0, false⟩ .i32 33 2 63) ∧
    decodeTableWord 64 0x080000FC04210C1D = some (.minu ⟨3, true⟩ .i32 33 2 63) ∧
    decodeTableWord 64 0x080000FC04210CC9 = some (.maxu ⟨9, false⟩ .i32 33 2 63) ∧
    decodeTableWord 32 0xA06141FC = some (.and ⟨15, true⟩ 5 6 40) ∧
    decodeTableWord 64 0x080000A00C050501 = some (.andLong ⟨0, false⟩ .i32 5 6 40) := by
  decide +kernel

/-- Words of the integer family (R259 to R261). -/
theorem test_decode_integer_3 :
    decodeTableWord 32 0xA061421C = some (.or ⟨3, true⟩ 5 6 40) ∧
    decodeTableWord 64 0x080000A00C0505C9 = some (.orLong ⟨9, false⟩ .i32 5 6 40) ∧
    decodeTableWord 32 0xA06142FC = some (.xor ⟨15, true⟩ 5 6 40) ∧
    decodeTableWord 64 0x080000A00C050601 = some (.xorLong ⟨0, false⟩ .i32 5 6 40) ∧
    decodeTableWord 32 0xA061449C = some (.min ⟨3, true⟩ 5 6 40) ∧
    decodeTableWord 64 0x080000A00C050B49 = some (.minLong ⟨9, false⟩ .i32 5 6 40) ∧
    decodeTableWord 32 0xA061457C = some (.max ⟨15, true⟩ 5 6 40) ∧
    decodeTableWord 64 0x080000A00C050B81 = some (.maxLong ⟨0, false⟩ .i32 5 6 40) := by
  decide +kernel

/-- Words of bit counts, fields, moves, compares and predicates (R262 to R268). -/
theorem test_decode_bits_1 :
    decodeTableWord 32 0xFC40C31C = some (.shli ⟨3, true⟩ 3 4 63) ∧
    decodeTableWord 64 0x0800007C08030849 = some (.shliLong ⟨9, false⟩ .i32 3 4 31) ∧
    decodeTableWord 32 0xFC40C3FC = some (.shri ⟨15, true⟩ 3 4 63) ∧
    decodeTableWord 64 0x0800007C08030901 = some (.shriLong ⟨0, false⟩ .i32 3 4 31) ∧
    decodeTableWord 32 0xFC40C41C = some (.srai ⟨3, true⟩ 3 4 63) ∧
    decodeTableWord 64 0x0800007C08030A49 = some (.sraiLong ⟨9, false⟩ .i32 3 4 31) ∧
    decodeTableWord 64 0x080000007E070D7D = some (.clz ⟨15, true⟩ .i32 7 63) ∧
    decodeTableWord 64 0x080000007E070D81 = some (.ctz ⟨0, false⟩ .i32 7 63) ∧
    decodeTableWord 64 0x080000007E070E1D = some (.popc ⟨3, true⟩ .i32 7 63) ∧
    decodeTableWord 64 0x080000007E070EC9 = some (.brev ⟨9, false⟩ .i32 7 63) ∧
    decodeTableWord 64 0x0FC0000010070F7D = some (.bfx ⟨15, true⟩ 60 4 7 8) ∧
    decodeTableWord 64 0x0FC0000010070F81 = some (.bfxu ⟨0, false⟩ 60 4 7 8) := by
  decide +kernel

/-- Words of bit counts, fields, moves, compares and predicates (R262 to R268). -/
theorem test_decode_bits_2 :
    decodeTableWord 64 0x0FC000001007101D = some (.bfi ⟨3, true⟩ 60 4 7 8) ∧
    decodeTableWord 64 0x04000000100710C9 = some (.sext ⟨9, false⟩ 64 7 8) ∧
    decodeTableWord 64 0x040000001007117D = some (.zext ⟨15, true⟩ 64 7 8) ∧
    decodeTableWord 32 0x2481C580 = some (.sel ⟨0, false⟩ 7 8 9) ∧
    decodeTableWord 64 0x000078241007119D = some (.selLong ⟨3, true⟩ 7 8 9 15) ∧
    decodeTableWord 32 0x00314648 = some (.mov ⟨9, false⟩ 5 3) ∧
    decodeTableWord 64 0x000000007C3F127D = some (.movLong ⟨15, true⟩ 63 62) ∧
    decodeTableWord 64 0x000007F800091281 = some (.movi ⟨0, false⟩ 9 (-2)) ∧
    decodeTableWord 96 0x12345678000000000009129E = some (.moviExt ⟨3, true⟩ 9 305419896) ∧
    decodeTableWord 64 0x0000028000091349 = some (.movhi ⟨9, false⟩ 9 160) ∧
    decodeTableWord 96 0x80000000000000000009137E = some (.movhiExt ⟨15, true⟩ 9 (-2147483648)) ∧
    decodeTableWord 64 0x010000100C211381 = some (.cmp ⟨0, false⟩ .i64 .lt 1 2 6 4) := by
  decide +kernel

/-- Words of bit counts, fields, moves, compares and predicates (R262 to R268). -/
theorem test_decode_bits_3 :
    decodeTableWord 96 0xFFFFFFF90C8000000CEF139E = some (.cmpExt ⟨3, true⟩ .i32 .geu 15 14 6 (-7)) ∧
    decodeTableWord 64 0x00000010060F1449 = some (.pand ⟨9, false⟩ 15 3 4) ∧
    decodeTableWord 64 0x00000010060F14FD = some (.por ⟨15, true⟩ 15 3 4) ∧
    decodeTableWord 64 0x00000010060F1501 = some (.pxor ⟨0, false⟩ 15 3 4) ∧
    decodeTableWord 64 0x00000010060F159D = some (.pandn ⟨3, true⟩ 15 3 4) ∧
    decodeTableWord 64 0x000000F87A001649 = some (.pset ⟨9, false⟩ 61 62) ∧
    decodeTableWord 64 0x00000000003D16FD = some (.pget ⟨15, true⟩ 61) := by
  decide +kernel

/-- Words of scalar floating point (R269 to R273). -/
theorem test_decode_float_1 :
    decodeTableWord 64 0x18000030160A1701 = some (.fadd ⟨0, false⟩ .f64 .rne 10 11 12) ∧
    decodeTableWord 64 0x21000030160A179D = some (.fsub ⟨3, true⟩ .f32 .rtz 10 11 12) ∧
    decodeTableWord 64 0x2A000030160A1849 = some (.fmul ⟨9, false⟩ .f16 .rup 10 11 12) ∧
    decodeTableWord 64 0x33000030160A197D = some (.fdiv ⟨15, true⟩ .bf16 .rdn 10 11 12) ∧
    decodeTableWord 64 0x21006830160A1881 = some (.ffma ⟨0, false⟩ .f32 .rtz 10 11 12 13) ∧
    decodeTableWord 64 0x2A000000160A199D = some (.fsqrt ⟨3, true⟩ .f16 .rup 10 11) ∧
    decodeTableWord 64 0x30000030160A1A49 = some (.fmin ⟨9, false⟩ .bf16 10 11 12) ∧
    decodeTableWord 64 0x30000030160A1AFD = some (.fmax ⟨15, true⟩ .bf16 10 11 12) ∧
    decodeTableWord 64 0x18000000160A1B01 = some (.fabs ⟨0, false⟩ .f64 10 11) ∧
    decodeTableWord 64 0x18000000160A1B9D = some (.fneg ⟨3, true⟩ .f64 10 11) ∧
    decodeTableWord 64 0x2580003016031C49 = some (.fcmp ⟨9, false⟩ .f32 .uno 3 0 11 12) ∧
    decodeTableWord 64 0x7080001008031CFD = some (.fcvt ⟨15, true⟩ .e4m3 .rne true 3 4 .f32) := by
  decide +kernel

/-- Words of scalar floating point (R269 to R273). -/
theorem test_decode_float_2 :
    decodeTableWord 64 0x3300003408031D01 = some (.icvt ⟨0, false⟩ .bf16 .rdn false 3 4 .uint32) ∧
    decodeTableWord 64 0x6900001808031D9D = some (.fcvti ⟨3, true⟩ .uint32 .rtz 3 4 .bf16) := by
  decide +kernel

/-- Words of branches, traps and system registers (R274 to R286). -/
theorem test_decode_control_1 :
    decodeTableWord 64 0x0000040000071E49 = some (.pbr ⟨9, false⟩ 7 (-256)) ∧
    decodeTableWord 96 0x0000000C0000000000001E7E = some (.pbrExt ⟨15, true⟩ 0 12) ∧
    decodeTableWord 64 0x0000000042061E81 = some (.pbrs ⟨0, false⟩ 6 33) ∧
    decodeTableWord 64 0x000000004405209D = some (.movb ⟨3, true⟩ 5 34) ∧
    decodeTableWord 64 0x0000000008232149 = some (.movsb ⟨9, false⟩ 35 4) ∧
    decodeTableWord 32 0x007006FC = some (.br ⟨15, true⟩ 7) ∧
    decodeTableWord 64 0x000000000C001F01 = some (.brLong ⟨0, false⟩ 6) ∧
    decodeTableWord 32 0x0050071C = some (.call ⟨3, true⟩ 5) ∧
    decodeTableWord 64 0x0000000008001FC9 = some (.callLong ⟨9, false⟩ 4) ∧
    decodeTableWord 64 0x000000000605207D = some (.loop ⟨15, true⟩ 5 3) ∧
    decodeTableWord 32 0x00000780 = some (.knext ⟨0, false⟩) ∧
    decodeTableWord 64 0x000000000000219D = some (.knextLong ⟨3, true⟩) := by
  decide +kernel

/-- Words of branches, traps and system registers (R274 to R286). -/
theorem test_decode_control_2 :
    decodeTableWord 32 0x00000848 = some (.tdone ⟨9, false⟩) ∧
    decodeTableWord 64 0x000000000000227D = some (.tdoneLong ⟨15, true⟩) ∧
    decodeTableWord 32 0x00000880 = some (.nop ⟨0, false⟩) ∧
    decodeTableWord 64 0x000000000000229D = some (.nopLong ⟨3, true⟩) ∧
    decodeTableWord 64 0x0000000000002349 = some (.brk ⟨9, false⟩) ∧
    decodeTableWord 64 0x000000000000247D = some (.eret ⟨15, true⟩) ∧
    decodeTableWord 64 0x0000000000002681 = some (.wfe ⟨0, false⟩) ∧
    decodeTableWord 64 0x000000000000271D = some (.yield ⟨3, true⟩) ∧
    decodeTableWord 64 0x00000000500023C9 = some (.trap ⟨9, false⟩ 40) ∧
    decodeTableWord 96 0xFFFFFFFD00000000000023FE = some (.trapExt ⟨15, true⟩ (-3)) ∧
    decodeTableWord 64 0x0310000000092481 = some (.sysrd ⟨0, false⟩ 0x031 9) ∧
    decodeTableWord 64 0x013000001200251D = some (.syswr ⟨3, true⟩ 0x013 9) := by
  decide +kernel

/-- Words of branches, traps and system registers (R274 to R286). -/
theorem test_decode_control_3 :
    decodeTableWord 64 0x00000000000925C9 = some (.rdclk ⟨9, false⟩ 9) ∧
    decodeTableWord 64 0x007000000009267D = some (.rdid ⟨15, true⟩ 7 9) := by
  decide +kernel

/-- Words of handles, loads and stores (R287 to R298). -/
theorem test_decode_memory_1 :
    decodeTableWord 64 0x0000000012FF8001 = some (.hbind ⟨0, false⟩ 255 9) ∧
    decodeTableWord 64 0x0000000000FE809D = some (.hunbind ⟨3, true⟩ 254) ∧
    decodeTableWord 64 0x0000001DFA098149 = some (.hinfo ⟨9, false⟩ 9 253 7) ∧
    decodeTableWord 64 0x00000001F80081FD = some (.seal ⟨15, true⟩ 252) ∧
    decodeTableWord 32 0x1C01A000 = some (.ld ⟨0, false⟩ 6 0 7) ∧
    decodeTableWord 64 0x4950401C8C06821D = some (.ldLong ⟨3, true⟩ .int8 .acq .pod 6 70 7 8) ∧
    decodeTableWord 96 0x00FCB2894950401C8C06824A = some (.ldExt ⟨9, false⟩ .int8 .acq .pod 6 70 7 8 9 10 11 63) ∧
    decodeTableWord 32 0x084260FC = some (.st ⟨15, true⟩ 9 4 2) ∧
    decodeTableWord 64 0x7A10401C8C098281 = some (.stLong ⟨0, false⟩ .e5m2 .rel .st 9 70 7 8) ∧
    decodeTableWord 96 0x00FCB2897A10401C8C09829E = some (.stExt ⟨3, true⟩ .e5m2 .rel .st 9 70 7 8 9 10 11 63) ∧
    decodeTableWord 32 0x1FF1A148 = some (.lda ⟨9, false⟩ 6 63 7) ∧
    decodeTableWord 64 0x0000080C0406837D = some (.ldaLong ⟨15, true⟩ .i64 .rlx .core 6 2 3 1) := by
  decide +kernel

/-- Words of handles, loads and stores (R287 to R298). -/
theorem test_decode_memory_2 :
    decodeTableWord 96 0x3E30B2892440100C04068302 = some (.ldaExt ⟨0, false⟩ .f32 .sc .pkg 6 2 3 2 62 9 10 11 12) ∧
    decodeTableWord 32 0x0000619C = some (.waitc ⟨3, true⟩ 1 0) ∧
    decodeTableWord 64 0x000004B0000383C9 = some (.waitcLong ⟨9, false⟩ 3 300) ∧
    decodeTableWord 32 0x0022227C = some (.vld ⟨15, true⟩ 8 2 0) ∧
    decodeTableWord 64 0x0130401C8D3F8401 = some (.vldLong ⟨0, false⟩ .acq .die 319 70 7 8) ∧
    decodeTableWord 96 0x00FCB2890130401C8D3F841E = some (.vldExt ⟨3, true⟩ .acq .die 319 70 7 8 9 10 11 63) ∧
    decodeTableWord 32 0x142222C8 = some (.vst ⟨9, false⟩ 8 2 5) ∧
    decodeTableWord 64 0x0220401C8D2C84FD = some (.vstLong ⟨15, true⟩ .rel .quad 300 70 7 8) ∧
    decodeTableWord 96 0x00FCB2890220401C8D2C8482 = some (.vstExt ⟨0, false⟩ .rel .quad 300 70 7 8 9 10 11 63) ∧
    decodeTableWord 64 0x0000180DFF3F851D = some (.vlda ⟨3, true⟩ .rlx .core 319 255 3 3) ∧
    decodeTableWord 96 0x042071850140000C0401854A = some (.vldaExt ⟨9, false⟩ .acq .pkg 1 2 3 0 4 5 6 7 8) := by
  decide +kernel

/-- Words of atomics and fences (R299 to R301). -/
theorem test_decode_atomics :
    decodeTableWord 64 0x13500008074585FD = some (.atom ⟨15, true⟩ .u64 .ar .pod .min 5 3 2 0) ∧
    decodeTableWord 96 0x0030B2891350080807458582 = some (.atomExt ⟨0, false⟩ .u64 .ar .pod .min 5 3 2 1 9 10 11 12) ∧
    decodeTableWord 64 0x69200008063E861D = some (.cas ⟨3, true⟩ .uint32 .acq .quad 62 3 2 0) ∧
    decodeTableWord 96 0x0030B28969200808063E864A = some (.casExt ⟨9, false⟩ .uint32 .acq .quad 62 3 2 1 9 10 11 12) ∧
    decodeTableWord 64 0x1A300008067F86FD = some (.red ⟨15, true⟩ .f64 .rel .die .add 63 3 2 0) ∧
    decodeTableWord 96 0x0030B2891A300808067F8682 = some (.redExt ⟨0, false⟩ .f64 .rel .die .add 63 3 2 1 9 10 11 12) ∧
    decodeTableWord 64 0x044000000000871D = some (.fence ⟨3, true⟩ .sc .pkg) := by
  decide +kernel

/-- Words of barriers, rings, queues and engine status (R302 to R313). -/
theorem test_decode_sync_1 :
    decodeTableWord 64 0x000000180A1087C9 = some (.binit ⟨9, false⟩ 16 5 6) ∧
    decodeTableWord 32 0x0022237C = some (.barv ⟨15, true⟩ 8 2) ∧
    decodeTableWord 64 0x00000000203F8801 = some (.barvLong ⟨0, false⟩ 63 16) ∧
    decodeTableWord 32 0x20F0239C = some (.bwait ⟨3, true⟩ 15 8) ∧
    decodeTableWord 64 0x000000FC200088C9 = some (.bwaitLong ⟨9, false⟩ 16 63) ∧
    decodeTableWord 64 0x000000201E00897D = some (.bsync ⟨15, true⟩ 15 8) ∧
    decodeTableWord 64 0x0000002420218981 = some (.btest ⟨0, false⟩ 1 2 16 9) ∧
    decodeTableWord 64 0x000000180A1F8A1D = some (.rinit ⟨3, true⟩ 31 5 6) ∧
    decodeTableWord 64 0x000000003E098AC9 = some (.rfreew ⟨9, false⟩ 9 31) ∧
    decodeTableWord 64 0x000000243C008B7D = some (.rpub ⟨15, true⟩ 30 9) ∧
    decodeTableWord 64 0x000000003A098B81 = some (.rfillw ⟨0, false⟩ 9 29) ∧
    decodeTableWord 64 0x0000002438008C1D = some (.rret ⟨3, true⟩ 28 9) := by
  decide +kernel

/-- Words of barriers, rings, queues and engine status (R302 to R313). -/
theorem test_decode_sync_2 :
    decodeTableWord 64 0x000000103E098CC9 = some (.rqry ⟨9, false⟩ 9 31 4) ∧
    decodeTableWord 32 0x0222247C = some (.qpush ⟨15, true⟩ 8 34) ∧
    decodeTableWord 64 0x000000027E0F8D01 = some (.qpushLong ⟨0, false⟩ 15 319) ∧
    decodeTableWord 32 0x0072649C = some (.qpop ⟨3, true⟩ 9 7) ∧
    decodeTableWord 64 0x00000000113E8DC9 = some (.qpopLong ⟨9, false⟩ 318 8) ∧
    decodeTableWord 64 0x000000041E038E7D = some (.qtst ⟨15, true⟩ 3 0 15 1) ∧
    decodeTableWord 32 0x18202500 = some (.waitt ⟨0, false⟩ 2 6) ∧
    decodeTableWord 64 0x0000001808008E9D = some (.waittLong ⟨3, true⟩ 4 6) ∧
    decodeTableWord 64 0x0000001806098F49 = some (.rdtl ⟨9, false⟩ 9 3 6) ∧
    decodeTableWord 64 0x000000043F208FFD = some (.sbind ⟨15, true⟩ 288 31 1) ∧
    decodeTableWord 64 0x00000000013F9001 = some (.sunbind ⟨0, false⟩ 319) ∧
    decodeTableWord 64 0x000000241007909D = some (.tspawn ⟨3, true⟩ 7 8 9) := by
  decide +kernel

/-- Words of barriers, rings, queues and engine status (R302 to R313). -/
theorem test_decode_sync_3 :
    decodeTableWord 64 0x0000002410009149 = some (.req ⟨9, false⟩ 8 9) ∧
    decodeTableWord 64 0x04400000000991FD = some (.ectl ⟨15, true⟩ 4 8 9) ∧
    decodeTableWord 64 0x0000003C3E0F9201 = some (.zstat ⟨0, false⟩ 15 0 31 15) := by
  decide +kernel

/-- Words of vector shapes, moves and floating point (R317, R318). -/
theorem test_decode_vector_floats_1 :
    decodeTableWord 64 0x000000007E00C01D = some (.vshape ⟨3, true⟩ 63) ∧
    decodeTableWord 96 0x00200405000000000000C04A = some (.vshapeExt ⟨9, false⟩ 0x00200405) ∧
    decodeTableWord 32 0x005FF07C = some (.vmov ⟨15, true⟩ 63 5) ∧
    decodeTableWord 64 0x000000027D3FC081 = some (.vmovLong ⟨0, false⟩ 319 318) ∧
    decodeTableWord 64 0x000000007F3FC11D = some (.vbcast ⟨3, true⟩ 319 63) ∧
    decodeTableWord 96 0xFFFFFFFF00000000013FC14A = some (.vbcastExt ⟨9, false⟩ 319 (-1)) ∧
    decodeTableWord 64 0x0000002A7E09C1FD = some (.vext ⟨15, true⟩ 9 319 10) ∧
    decodeTableWord 64 0x00000028133FC201 = some (.vins ⟨0, false⟩ 319 9 10) ∧
    decodeTableWord 32 0x0400B09C = some (.vadd ⟨3, true⟩ 2 0 1) ∧
    decodeTableWord 64 0x040004BA5B2CC2C9 = some (.vaddLong ⟨9, false⟩ .dyn 300 301 302) ∧
    decodeTableWord 32 0x0430B17C = some (.vsub ⟨15, true⟩ 2 3 1) ∧
    decodeTableWord 64 0x010000040602C301 = some (.vsubLong ⟨0, false⟩ .rtz 2 3 1) := by
  decide +kernel

/-- Words of vector shapes, moves and floating point (R317, R318). -/
theorem test_decode_vector_floats_2 :
    decodeTableWord 32 0x0430B19C = some (.vmul ⟨3, true⟩ 2 3 1) ∧
    decodeTableWord 64 0x020000040602C3C9 = some (.vmulLong ⟨9, false⟩ .rup 2 3 1) ∧
    decodeTableWord 32 0x0811327C = some (.vfma ⟨15, true⟩ 4 1 2) ∧
    decodeTableWord 64 0x0309F8080204C401 = some (.vfmaLong ⟨0, false⟩ .rdn 4 1 2 319) ∧
    decodeTableWord 64 0x000000241007C49D = some (.vmin ⟨3, true⟩ 7 8 9) ∧
    decodeTableWord 64 0x000000241007C549 = some (.vmax ⟨9, false⟩ 7 8 9) ∧
    decodeTableWord 64 0x000000001007C5FD = some (.vabs ⟨15, true⟩ 7 8) ∧
    decodeTableWord 64 0x000000001007C601 = some (.vneg ⟨0, false⟩ 7 8) ∧
    decodeTableWord 64 0x010000001007C69D = some (.vrcp ⟨3, true⟩ .rtz 7 8) ∧
    decodeTableWord 64 0x010000001007C749 = some (.vrsq ⟨9, false⟩ .rtz 7 8) ∧
    decodeTableWord 64 0x010000001007C87D = some (.vsqrt ⟨15, true⟩ .rtz 7 8) ∧
    decodeTableWord 64 0x020000241007C781 = some (.vdiv ⟨0, false⟩ .rup 7 8 9) := by
  decide +kernel

/-- Words of vector integers, reductions, conversions, tiles and tables (R318, R319). -/
theorem test_decode_vector_integers_1 :
    decodeTableWord 64 0x008000180A07C89D = some (.viadd ⟨3, true⟩ true 7 5 6) ∧
    decodeTableWord 64 0x008000180A07C949 = some (.visub ⟨9, false⟩ true 7 5 6) ∧
    decodeTableWord 64 0x008000180A07C9FD = some (.vimul ⟨15, true⟩ true 7 5 6) ∧
    decodeTableWord 64 0x000004FC0A07CA01 = some (.vimin ⟨0, false⟩ 7 5 319) ∧
    decodeTableWord 64 0x000004FC0A07CA9D = some (.vimax ⟨3, true⟩ 7 5 319) ∧
    decodeTableWord 64 0x000004FC0A07CB49 = some (.vand ⟨9, false⟩ 7 5 319) ∧
    decodeTableWord 64 0x000004FC0A07CBFD = some (.vor ⟨15, true⟩ 7 5 319) ∧
    decodeTableWord 64 0x000004FC0A07CC01 = some (.vxor ⟨0, false⟩ 7 5 319) ∧
    decodeTableWord 64 0x000004FC0A07CC9D = some (.vshl ⟨3, true⟩ 7 5 319) ∧
    decodeTableWord 64 0x000004FC0A07CD49 = some (.vshr ⟨9, false⟩ 7 5 319) ∧
    decodeTableWord 64 0x000004FC0A07CDFD = some (.vsra ⟨15, true⟩ 7 5 319) ∧
    decodeTableWord 64 0x000004FC0A07D081 = some (.vperm ⟨0, false⟩ 7 5 319) := by
  decide +kernel

/-- Words of vector integers, reductions, conversions, tiles and tables (R318, R319). -/
theorem test_decode_vector_integers_2 :
    decodeTableWord 64 0x010048180A21CE1D = some (.vcmp ⟨3, true⟩ .lt 1 2 5 6 9) ∧
    decodeTableWord 64 0x000048180A07CEC9 = some (.vsel ⟨9, false⟩ 7 5 6 9) ∧
    decodeTableWord 64 0x020000540A07CF7D = some (.vred ⟨15, true⟩ .rup 7 5 true 5) ∧
    decodeTableWord 64 0x000000000A07CF81 = some (.vscan ⟨0, false⟩ .rne 7 5 false 0) ∧
    decodeTableWord 64 0x000000027E07D01D = some (.vtrn ⟨3, true⟩ 7 319) ∧
    decodeTableWord 64 0x000000FE7E07D149 = some (.vrot ⟨9, false⟩ 7 319 63) ∧
    decodeTableWord 64 0x000048180A07D1FD = some (.vdot ⟨15, true⟩ 7 5 6 9) ∧
    decodeTableWord 64 0x708000001014D201 = some (.vcvt ⟨0, false⟩ .e4m3 .rne true 20 8) ∧
    decodeTableWord 64 0xB80000001014D29D = some (.vqmx ⟨3, true⟩ .mx4 20 8) ∧
    decodeTableWord 64 0xC80000001014D349 = some (.vqdx ⟨9, false⟩ .dx6 20 8) ∧
    decodeTableWord 64 0x000004001014D3FD = some (.vresc ⟨15, true⟩ 20 8 (-256)) ∧
    decodeTableWord 64 0x000000243F3FD401 = some (.vzld ⟨0, false⟩ 319 31 9) := by
  decide +kernel

/-- Words of vector integers, reductions, conversions, tiles and tables (R318, R319). -/
theorem test_decode_vector_integers_3 :
    decodeTableWord 64 0x000000267E1FD49D = some (.vzst ⟨3, true⟩ 31 319 9) ∧
    decodeTableWord 64 0x00000025FE03D549 = some (.pfload ⟨9, false⟩ 3 255 9) ∧
    decodeTableWord 64 0x0000000E7D3FD5FD = some (.pfeval ⟨15, true⟩ 319 318 3) := by
  decide +kernel

/-- Words of engine records (R242 to R244, R249, R339). -/
theorem test_decode_records_1 :
    decodeTableWord 512 0x00000000000000000000000000000000000000000000000000000000000000000000000000000000000000000000ABC0000000BFC20000000000000000000003 = some (.mma ⟨⟨0, false⟩, 0, ⟨0, 0, 0⟩, ⟨3, 2, 0⟩, some 63, none, none, none⟩ 0xABC0) ∧
    decodeTableWord 512 0x00000000000000000000000000000000000000000000000000000000000000000000000000000000000000000000ABC1000000BF5F0000005F0000020000101F = some (.ocon ⟨⟨3, true⟩, 0, ⟨1, 31, 2⟩, ⟨1, 31, 0⟩, some 63, none, none, none⟩ 0xABC1) ∧
    decodeTableWord 512 0x00000000000000000000000000000000000000000000000000000000000000000000000000000000000000000000ABC2BCBDBEBF9E0000009E00FFFF0000204B = some (.mdrain ⟨⟨9, false⟩, 0, ⟨2, 30, 65535⟩, ⟨2, 30, 0⟩, some 63, some 62, some 61, some 60⟩ 0xABC2) ∧
    decodeTableWord 512 0x00000000000000000000000000000000000000000000000000000000000000000000000000000000000000000000ABC30000000000000000D00000010000307F = some (.mclr ⟨⟨15, true⟩, 0, ⟨3, 16, 1⟩, ⟨0, 0, 0⟩, none, none, none, none⟩ 0xABC3) ∧
    decodeTableWord 512 0x00000000000000000000000000000000000000000000000000000000000000000000000000000000000000000000ABC4BCBDBEBFC20000000000000001000103 = some (.cpy ⟨⟨0, false⟩, 1, ⟨0, 0, 0⟩, ⟨3, 2, 0⟩, some 63, some 62, some 61, some 60⟩ 0xABC4) ∧
    decodeTableWord 512 0x00000000000000000000000000000000000000000000000000000000000000000000000000000000000000000000ABC5BCBDBEBF5F0000005F0000020100111F = some (.cpys ⟨⟨3, true⟩, 1, ⟨1, 31, 2⟩, ⟨1, 31, 0⟩, some 63, some 62, some 61, some 60⟩ 0xABC5) ∧
    decodeTableWord 512 0x00000000000000000000000000000000000000000000000000000000000000000000000000000000000000000000ABC6BCBDBEBF9E0000009E00FFFF0100214B = some (.cfill ⟨⟨9, false⟩, 1, ⟨2, 30, 65535⟩, ⟨2, 30, 0⟩, some 63, some 62, some 61, some 60⟩ 0xABC6) ∧
    decodeTableWord 512 0x00000000000000000000000000000000000000000000000000000000000000000000000000000000000000000000ABC7BCBDBEBF00000000D00000010000027F = some (.gath ⟨⟨15, true⟩, 0, ⟨3, 16, 1⟩, ⟨0, 0, 0⟩, some 63, some 62, some 61, some 60⟩ 0xABC7) ∧
    decodeTableWord 512 0x00000000000000000000000000000000000000000000000000000000000000000000000000000000000000000000ABC8BCBDBEBFC20000000000000000001203 = some (.scat ⟨⟨0, false⟩, 0, ⟨0, 0, 0⟩, ⟨3, 2, 0⟩, some 63, some 62, some 61, some 60⟩ 0xABC8) ∧
    decodeTableWord 512 0x00000000000000000000000000000000000000000000000000000000000000000000000000000000000000000000ABC9000000BF5F0000005F0000020000221F = some (.merg ⟨⟨3, true⟩, 0, ⟨1, 31, 2⟩, ⟨1, 31, 0⟩, some 63, none, none, none⟩ 0xABC9) ∧
    decodeTableWord 512 0x00000000000000000000000000000000000000000000000000000000000000000000000000000000000000000000ABCA0000BEBF9E0000009E00FFFF0000324B = some (.topk ⟨⟨9, false⟩, 0, ⟨2, 30, 65535⟩, ⟨2, 30, 0⟩, some 63, some 62, none, none⟩ 0xABCA) ∧
    decodeTableWord 512 0x00000000000000000000000000000000000000000000000000000000000000000000000000000000000000000000ABCB00BDBEBF00000000D00000010000427F = some (.cmpt ⟨⟨15, true⟩, 0, ⟨3, 16, 1⟩, ⟨0, 0, 0⟩, some 63, some 62, some 61, none⟩ 0xABCB) := by
  decide +kernel

/-- Words of engine records (R242 to R244, R249, R339). -/
theorem test_decode_records_2 :
    decodeTableWord 512 0x00000000000000000000000000000000000000000000000000000000000000000000000000000000000000000000ABCC00000000C20000000000000000000303 = some (.nbin ⟨⟨0, false⟩, 0, ⟨0, 0, 0⟩, ⟨3, 2, 0⟩, none, none, none, none⟩ 0xABCC) ∧
    decodeTableWord 512 0x00000000000000000000000000000000000000000000000000000000000000000000000000000000000000000000ABCD000000005F0000005F0000020000131F = some (.nstrm ⟨⟨3, true⟩, 0, ⟨1, 31, 2⟩, ⟨1, 31, 0⟩, none, none, none, none⟩ 0xABCD) ∧
    decodeTableWord 512 0x00000000000000000000000000000000000000000000000000000000000000000000000000000000000000000000ABCE000000009E0000009E00FFFF03000F4B = some (.chain ⟨⟨9, false⟩, 3, ⟨2, 30, 65535⟩, ⟨2, 30, 0⟩, none, none, none, none⟩ 0xABCE) ∧
    decodeTableWord 512 0x00000000000000000000000000000000000000000000000000000000000000000000000000000000000000000000ABCF0000000000000000D000000103001F7F = some (.rnop ⟨⟨15, true⟩, 3, ⟨3, 16, 1⟩, ⟨0, 0, 0⟩, none, none, none, none⟩ 0xABCF) := by
  decide +kernel
/-! ## States -/

/-- A task of one core with two strands. -/
def job : Machine.Task :=
  { id := 0, queue := 0, node := none, tenant := 1, prio := 1, func := 1, notify := false, pure := false, loop := false
    strands := 2, scope := 0, width := 1, entry := 0x1000, args := 0, arglen := 0, kernel := 0x1100, epilogue := 0x1200
    trip := 0, minch := 0, podmask := 0, windows := [], saveSet := [], spawnDie := none, succ := [], phase := .running
    cores := [0], former := [], doneCores := [], patience := false, waits := none, stamp := 0, next := 0, rem := 0
    returned := [], bg := ⟨1, 0, 1, 0, 0, 0, 0⟩, bgLevel := 0, bgAt := 0, broken := false, larder := .off, void := false
    tainted := false, digests := [], key := none, granules := [], saved := [], attempt := 0, acks := [], peersDone := []
    ackTimer := false, delayed := false, peerCheck := false, aborted := none }

/-- Strand 0: some scalars, a handler, and windows of b0, over at clock 100, and of b1, over at 101. -/
def lead : Strand :=
  { Strand.entry with
    pc := 0x1000, trapvec := 0x3000, window := [(0, 100), (1, 101)]
    s := [(1, 5), (2, 7), (3, 0x2000), (6, 0x7FC00000), (7, 0x7F800000), (8, 0x50000000), (9, 0xD0000000), (10, 0x3FC00000)] }

/-- Core 0 with both strands, the other one held. -/
def core0 : Machine.Core :=
  { Core.initial with task := some 0, clk := 100, strands := [lead, { lead with hold := some .event }] }

/-- A package that is ready, with one task on core 0, whose strand 0 executes. -/
def runsAs (k : Machine.Task) (q : Machine.Core) : State :=
  { State.reset with agenda := [], mbxState := 1, tick := 7, coreTab := [(0, q)], tasks := [(0, k)] }

/-- The state most tests start from. -/
def base : State := runsAs job core0

/-- The same with strand 0 changed. -/
def withLead (t : Strand) : State := runsAs job { core0 with strands := [t, { lead with hold := some .event }] }

/-! ## Worked examples of the manual -/

/-- s[d] and FPST after an instruction. -/
def result (i : Instr) (s : State) (d : Nat) : Option (Word × BitVec 32) :=
  match exec i s with
  | .next t => some (t.rS d, t.me.fpst)
  | _ => none

/-- pc, TRAPPC and TRAPINFO after an instruction. -/
def landed (i : Instr) (s : State) : Option (Nat × Word × Word) :=
  match exec i s with
  | .next t => some (t.me.pc, t.me.trappc, t.me.trapinfo)
  | _ => none

/-- R261: ADD.I32.SAT clamps, and without .SAT wraps. -/
theorem test_add_saturates :
    let s := withLead { lead with s := [(6, 0x7FFFFFF0), (7, 0x20)] }
    result (.addLong on .i32 true 5 6 7) s 5 = some (0x7FFFFFFF, 0x20) ∧
    result (.addLong on .i32 false 5 6 7) s 5 = some (0xFFFFFFFF80000010, 0) := by
  decide +kernel

/-- R273: the table of FCVT.E4M3.SAT. -/
theorem test_fcvt_e4m3 :
    result (.fcvt on .e4m3 .rne true 3 4 .f32) (withLead { lead with s := [(4, 0x43E80000)] }) 3 = some (0x7E, 1) ∧
    result (.fcvt on .e4m3 .rne true 3 4 .f32) (withLead { lead with s := [(4, 0x43F00000)] }) 3 = some (0x7E, 0x25) ∧
    result (.fcvt on .e4m3 .rne true 3 4 .f32) (withLead { lead with s := [(4, 0x7FC00000)] }) 3 = some (0x7F, 0) := by
  decide +kernel

/-- R264: MOVHI after MOVI. -/
theorem test_movhi : result (.movhi on 9 160) (withLead { lead with s := [(9, 0x12345678)] }) 9 = some (0x000000A012345678, 0) := by
  decide +kernel

/-- R277: LOOP with a counter of 1 falls through, with 0 branches, and with s0 branches always. -/
theorem test_loop_ends :
    landed (.loop on 5 0) (withLead { lead with s := [(5, 1)], b := [(0, 0x100C)] }) = some (0x1008, 0, 0) ∧
    landed (.loop on 5 0) (withLead { lead with b := [(0, 0x100C)] }) = some (0x100C, 0, 0) ∧
    landed (.loop on 0 0) (withLead { lead with b := [(0, 0x100C)] }) = some (0x100C, 0, 0) := by
  decide +kernel

/-- R275: CALL b7 transfers to the old b7. -/
theorem test_call_b7 : landed (.call on 7) (withLead { lead with b := [(7, 0x2000)] }) = some (0x2000, 0, 0) := by
  decide +kernel

/-- R209: TRAP is kind C: TRAPPC is the address after it; BRK is kind F. -/
theorem test_trap_kinds :
    landed (.trap on 1) base = some (0x3000, 0x1008, BitVec.ofNat 64 (0xF + 2 ^ 8 + 2 ^ 9 + 2 ^ 12 * 15 + 2 ^ 24 * 255)) ∧
    landed (.brk on) base = some (0x3000, 0x1000, BitVec.ofNat 64 (0xE + 2 ^ 9 + 2 ^ 12 * 15 + 2 ^ 24 * 255)) := by
  decide +kernel

/-- R256: a write to s0 is discarded, and a false guard changes the pc alone. -/
theorem test_discarded_writes : result (.add on 0 1 2) base 0 = some (0, 0) ∧ result (.add off 5 1 2) base 5 = some (0, 0) ∧
    landed (.add off 5 1 2) base = some (0x1004, 0, 0) := by
  decide +kernel

/-- R40: the first step after reset begins a cold start at step 1. -/
theorem test_power_on : (match Machine.step State.reset with | .next t => t.boot.step | _ => 0) = 1 := by decide +kernel

/-- The instruction stored where the next fetch is runs next (log 16). -/
theorem test_fetch_runs : (match Machine.step (State.reset.withFetchWord 64 0x0880001C0C050001) with
    | .next t => some (t.core 0).strands.length
    | _ => none) = some 1 := by
  decide +kernel

/-- R199: halfway and boundary cases of conversions from FP32: code, status. -/
theorem test_halfway_cases :
    let conv := fun (x : Word) ty sat => result (.fcvt on ty .rne sat 3 4 .f32) (withLead { lead with s := [(4, x)] }) 3
    conv 0x3F808000 .bf16 false = some (0x3F80, 1) ∧ conv 0x3F818000 .bf16 false = some (0x3F82, 1) ∧
    conv 0x477FF000 .f16 false = some (0x7C00, 5) ∧ conv 0x477FF000 .f16 true = some (0x7BFF, 0x25) ∧
    conv 0x43F00000 .e4m3 false = some (0x7F, 0x14) ∧ conv 0x3A800000 .e4m3 false = some (0, 3) ∧
    conv 0x3B400000 .e4m3 false = some (2, 3) ∧ conv 0x3E800000 .e2m1 false = some (0, 3) ∧
    conv 0x3F400000 .e2m1 false = some (2, 1) ∧ conv 0x40200000 .e2m1 false = some (4, 1) ∧
    conv 0x40A00000 .e2m1 false = some (6, 1) ∧ conv 0x40E00000 .e2m1 false = some (7, 0x25) := by
  decide +kernel

/-- R201: with FTZ a product of 2^−127 is flushed, with its sign; without, it is exact. -/
theorem test_flush :
    let mul := fun (x : Word) ctl => result (.fmul on .f32 .rne 3 1 2) (withLead { lead with s := [(1, x), (2, 0x3F000000)], fpctl := ctl }) 3
    mul 0x00800000 4 = some (0, 3) ∧ mul 0x80800000 4 = some (0x80000000, 3) ∧
    mul 0x00800000 0 = some (0x00400000, 0) ∧ mul 0x80800000 0 = some (0x80400000, 0) := by
  decide +kernel

/-- R202: the minimum of 3.0 and NaN is 3.0, the maximum of −0 and +0 is +0. -/
theorem test_min_max :
    result (.fmin on .f32 3 1 2) (withLead { lead with s := [(1, 0x40400000), (2, 0x7FC00000)] }) 3 = some (0x40400000, 0) ∧
    result (.fmax on .f32 3 1 2) (withLead { lead with s := [(1, 0x80000000)] }) 3 = some (0, 0) := by
  decide +kernel

/-- R194: the DX4 block of the manual: 3.0, −1.0, 0.3, 0.1, 0.875 and 0.625. -/
theorem test_dx4_block :
    let b := quantBlock .dx4 (([0x40400000, 0xBF800000, 0x3E99999A, 0x3DCCCCCD, 0x3F600000, 0x3F200000] ++ List.replicate 26 0).map
      (fmtOf .f32).value)
    b.scales = [0x80, 0x7E] ∧ b.elems.take 7 = [0xB, 0xD, 0x1, 0x0, 0x9, 0x2, 0x0] := by
  decide +kernel

/-- The low 64 bits of v[d] and FPST after an instruction, with a shape and v1, v2. -/
def lanes (i : Instr) (shape : BitVec 32) (v1 v2 : BitVec 16384) (d : Nat) : Option (Nat × BitVec 32) :=
  match exec i (runsAs job { core0 with strands := [{ lead with vshape := shape }], v := [(1, v1), (2, v2)] }) with
  | .next t => some ((t.here.vec d).toNat % 2 ^ 64, t.me.fpst)
  | _ => none

/-- R328: 2,048, 1, 1 and 1 in FP16, as a tree and as a scan. -/
theorem test_tree_and_scan :
    lanes (.vred on .rne 3 1 false 0) (5 + 32 + 4 * 65536) 0x3C003C003C006800 0 3 = some (0x6801, 1) ∧
    lanes (.vscan on .rne 3 1 false 0) (5 + 32 + 4 * 65536) 0x3C003C003C006800 0 3 = some (0x6800680068006800, 1) := by
  decide +kernel

/-- R203: 2^24, 1, 1 and −2^24 in one group of FP32 give 2.0. -/
theorem test_group_is_exact :
    lanes (.vdot on 3 1 2 4) (4 + 32 + 4 * 65536) 0xCB8000003F8000003F8000004B800000 0x3F8000003F8000003F8000003F800000 3 =
      some (0x40000000, 0) := by
  decide +kernel

/-- R317: a shape of 0 rows is ILLOP, SUB 9, and VSHAPE stays. -/
theorem test_bad_shape : landed (.vshapeExt on 0x00200005) base =
    some (0x3000, 0x1000, BitVec.ofNat 64 (1 + 2 ^ 9 + 2 ^ 12 * 15 + 2 ^ 16 * 9 + 2 ^ 24 * 255)) := by
  decide +kernel

/-! ## Hypotheses of the obligations, each met together -/

/-- Two sources and a destination, at ordinary registers and at both ends of the file. -/
theorem test_premises_IntegerArithmetic :
    base.runs on (Uses.scalar [1, 2] [3]) ∧ base.runs on (Uses.scalar [0, 63] [0]) := by
  unfold State.runs State.seated; decide +kernel
theorem test_premises_QuotientsAndSaturation :
    base.runs on (Uses.scalar [1, 2] [63]) ∧ base.runs on (Uses.scalar [0, 0] [0]) := by
  unfold State.runs State.seated; decide +kernel
theorem test_premises_IntegerImmediates :
    base.runs on (Uses.scalar [1] [3]) ∧ base.runs on (Uses.scalar [1] [0]) ∧ (63 < 64 ∧ (Ty.i64 = .i32 → 63 < 32)) ∧
      (31 < 64 ∧ (Ty.i32 = .i32 → 31 < 32)) := by
  unfold State.runs State.seated; decide +kernel
theorem test_premises_BitOperations :
    base.runs on (Uses.scalar [1] [3]) ∧ base.runs on (Uses.scalar [3, 1] [3]) ∧ (1 ≤ 64 ∧ 0 + 64 ≤ 64) ∧
      (1 ≤ 1 ∧ 63 + 1 ≤ 64 ∧ 1 ≤ 64) := by
  unfold State.runs State.seated; decide +kernel
theorem test_premises_MovesAndSelects :
    base.runs on (Uses.scalar [1, 2] [3]) ∧ base.runs on (Uses.scalar [1] [3]) ∧ base.runs on (Uses.scalar [] [3]) ∧
      base.runs on (Uses.scalar [3] [3]) := by
  unfold State.runs State.seated; decide +kernel
theorem test_premises_ComparesAndPredicates :
    wellFormed (.cmp on .i32 .geu 1 2 1 2) = true ∧ wellFormed (.cmp on .i64 .lt 0 0 1 2) = true ∧
      base.runs on (Uses.scalar [1, 2] []) ∧ base.runs on (Uses.scalar [1] []) ∧ base.runs on Uses.none ∧
      base.runs on (Uses.scalar [] [15]) := by
  unfold State.runs State.seated; decide +kernel
/-- 1.5, which FP32 holds, and 2^200, beyond its largest value. -/
theorem test_premises_RoundingOnce :
    floatFmt? .f32 = some ⟨8, 23, 127, .ieee⟩ ∧
    ((2 : Rat) ^ (0 : Int) ≤ ((3 : Nat) : Rat) * (2 : Rat) ^ (-1 : Int) ∧
      ((3 : Nat) : Rat) * (2 : Rat) ^ (-1 : Int) < (2 : Rat) ^ ((0 : Int) + 1)) ∧
    ((2 : Rat) ^ (200 : Int) ≤ ((1 : Nat) : Rat) * (2 : Rat) ^ (200 : Int) ∧
      ((1 : Nat) : Rat) * (2 : Rat) ^ (200 : Int) < (2 : Rat) ^ ((200 : Int) + 1)) ∧
    (let r : Rat := (roundRat .rne ((1 : Rat) * (2 : Rat) ^ (200 : Int) * (2 : Rat) ^ (-177 : Int)) : Rat) * (2 : Rat) ^ (177 : Int)
     largest ⟨8, 23, 127, .ieee⟩ < r.abs) := by
  have h : largest ⟨8, 23, 127, .ieee⟩ = ((16777215 : Nat) : Rat) * (2 : Rat) ^ (104 : Int) := by
    have v : (⟨8, 23, 127, .ieee⟩ : FloatFmt).value (⟨8, 23, 127, .ieee⟩ : FloatFmt).maxCode = .fin false 16777215 104 false := by
      decide +kernel
    rw [largest, v]; simp [ratOf]
  have q : roundRat .rne ((1 : Rat) * (2 : Rat) ^ (200 : Int) * (2 : Rat) ^ (-177 : Int)) = 8388608 := by
    have e : (1 : Rat) * (2 : Rat) ^ (200 : Int) * (2 : Rat) ^ (-177 : Int) = ((8388608 : Int) : Rat) := by norm_num
    have f : (((8388608 : Int) : Rat)).floor = 8388608 := by decide +kernel
    rw [e]; unfold roundRat; simp only [f]; norm_num
  refine ⟨by decide +kernel, by norm_num, by norm_num, ?_⟩
  dsimp only
  rw [q, h]
  have g : ((8388608 : Int) : Rat) * (2 : Rat) ^ (177 : Int) = ((2 ^ 200 : Int) : Rat) := by norm_num
  have l : ((16777215 : Nat) : Rat) * (2 : Rat) ^ (104 : Int) = ((16777215 * 2 ^ 104 : Int) : Rat) := by norm_num
  rw [g, l]
  decide +kernel
/-- A format of each row of the overflow table, and operands that are not 0. -/
theorem test_premises_OverflowAndExactness :
    (⟨8, 23, 127, .ieee⟩ : FloatFmt).top = .ieee ∧ (⟨4, 3, 7, .e4m3⟩ : FloatFmt).top = .e4m3 ∧
      (⟨2, 1, 1, .finite⟩ : FloatFmt).top = .finite ∧ Rnd.rup ≠ .dyn ∧ (Rnd.rup = .rup ∧ true = true) ∧
      ¬ (Rnd.rup = .rtz ∨ (Rnd.rup = .rup ∧ false = true) ∨ (Rnd.rup = .rdn ∧ false = false)) ∧ 3 ≠ 0 := by
  decide +kernel
theorem test_premises_FloatArithmetic :
    tyF4 .f32 = true ∧ base.runs on (Uses.scalar [1, 2] [3]) ∧ base.runs on (Uses.scalar [1, 2, 8] [3]) ∧
      base.runs on (Uses.scalar [1] [3]) := by
  unfold State.runs State.seated; decide +kernel
/-- Both NaN, one NaN, and none. -/
theorem test_premises_FloatComparesAndSigns :
    wellFormed (.fcmp on .f32 .uno 1 2 6 8) = true ∧ base.runs on (Uses.scalar [6, 8] [3]) ∧
      base.runs on (Uses.scalar [6, 8] []) ∧ base.runs on (Uses.scalar [6] [3]) ∧
      base.rF .f32 6 = .nan ∧ base.rF .f32 8 ≠ .nan := by
  unfold State.runs State.seated; decide +kernel
/-- A NaN, an infinity, 1.5, and values above and below the range of .I32. -/
theorem test_premises_FloatConverts :
    base.runs on (Uses.scalar [6] [3]) ∧ wellFormed (.fcvt on .e4m3 .rne true 3 6 .f32) = true ∧
      wellFormed (.icvt on .f32 .rdn false 3 6 .u64) = true ∧ wellFormed (.fcvti on .i32 .rtz 3 6 .f32) = true ∧
      base.rF .f32 6 = .nan ∧ base.rF .f32 7 = .inf false ∧ ratOf (base.rF .f32 10) = some (3 / 2) ∧
      (∃ q, ratOf (base.rF .f32 8) = some q ∧ (intLimits .i32).2 < roundRat .rtz q) ∧
      ∃ q, ratOf (base.rF .f32 9) = some q ∧ roundRat .rtz q < (intLimits .i32).1 := by
  refine ⟨by unfold State.runs State.seated; decide +kernel, by decide +kernel, by decide +kernel, by decide +kernel,
    by decide +kernel, by decide +kernel, by decide +kernel, ⟨2 ^ 33, by decide +kernel⟩, ⟨-(2 ^ 33), by decide +kernel⟩⟩
/-- s3 is an address; s1 is not a multiple of 4, and 2^57 is too large. -/
theorem test_premises_BranchTargets :
    base.runs on Uses.none ∧ base.runs on (Uses.scalar [3] []) ∧ base.runs on (Uses.scalar [] [3]) ∧
      (base.rS 3).toNat % 4 = 0 ∧ (base.rS 3).toNat < 2 ^ 57 ∧ base.runs on (Uses.scalar [1] []) ∧
      (base.rS 1).toNat % 4 ≠ 0 ∧ handled base ∧
      2 ^ 57 ≤ ((withLead { lead with s := [(4, 0x0200000000000000)] }).rS 4).toNat := by
  unfold State.runs State.seated handled; decide +kernel
/-- The window of b0 is over in this very clock, that of b1 in the next. -/
theorem test_premises_Transfers :
    base.runs on Uses.none ∧ base.runs on (Uses.scalar [5] [5]) ∧ mapGet base.me.window 0 0 = base.here.clk ∧
      base.here.clk + 1 = mapGet base.me.window 1 0 := by
  unfold State.runs State.seated; decide +kernel
/-- A counter at 1, a latch set, and another strand that could issue or not. -/
theorem test_premises_NopsAndWaits :
    let s := withLead { lead with loads := [⟨0, .nothing⟩], latch := true }
    let u := runsAs job { core0 with strands := [lead, lead] }
    s.runs on Uses.none ∧ base.runs on Uses.none ∧ (s.me.loads.filter fun l => l.lc == 0).length = 1 ∧ s.me.latch = true ∧
      base.me.latch = false ∧
      (∀ j, j < base.here.strands.length → j ≠ base.cur.2 →
        (base.here.strand j).hold ≠ none ∨ (base.here.strand j).tdone = true) ∧
      u.runs on Uses.none ∧ 1 < u.here.strands.length ∧ 1 ≠ u.cur.2 ∧ (u.here.strand 1).hold = none ∧
      (u.here.strand 1).tdone = false := by
  unfold State.runs State.seated; decide +kernel
/-- A handler, none, and a strand within its handler. -/
theorem test_premises_TrapsAndReturn :
    let none_ := withLead { lead with trapvec := 0 }
    let inside := withLead { lead with trapinfo := 0x200 }
    base.runs on Uses.none ∧ base.runs on (Uses.scalar [1] []) ∧ handled base ∧
      none_.runs on Uses.none ∧ none_.runs on (Uses.scalar [1] []) ∧ ¬ handled none_ ∧ none_.here.task = some 0 ∧
      none_.task? 0 = some job ∧ job.id.toNat = 0 ∧ job.aborted = none ∧
      inside.runs on Uses.none ∧ inside.me.trapinfo.getLsbD 9 = true := by
  unfold State.runs State.seated handled; decide +kernel
theorem test_premises_SystemRegisterReads :
    let pure := runsAs { job with pure := true } core0
    (base.runs on (Uses.scalar [] [3]) ∧ base.here.task = some 0 ∧ base.task? 0 = some job ∧ job.pure = false) ∧
      pure.runs on (Uses.scalar [] [3]) ∧ pure.here.task = some 0 ∧ pure.task? 0 = some { job with pure := true } ∧
      handled pure ∧ (4 ≤ 4 ∧ 7 ≤ 7) := by
  unfold State.runs State.seated handled; decide +kernel
theorem test_premises_SystemWrites : base.runs on (Uses.scalar [1] []) ∧ handled base := by
  unfold State.runs State.seated handled; decide +kernel
/-- A PLAIN task; a LOOP task in its prologue, in its kernel with two, one, and in its epilogue; the other strand at its
KNEXT or not. -/
theorem test_premises_IterationsAndEnds :
    let loop := { job with loop := true }
    let at_ := fun place count knext => runsAs loop
      { core0 with place := place, index := 6, count := count, strands := [lead, { lead with hold := some .iteration, knext := knext }] }
    (base.runs on Uses.none ∧ base.here.task = some 0 ∧ base.task? 0 = some job ∧ job.pure = false ∧ job.loop = false ∧ handled base) ∧
    ∀ x, x ∈ [at_ .prologue 0 false, at_ .kernel 2 true, at_ .kernel 1 true, at_ .epilogue 0 false] →
      x.runs on Uses.none ∧ x.here.task = some 0 ∧ x.task? 0 = some loop ∧ loop.phase = .running ∧ handled x ∧
      (x.here.place = .kernel → ∀ j, j < x.here.strands.length → j ≠ x.cur.2 → (x.here.strand j).knext = true) := by
  unfold State.runs State.seated handled; decide +kernel

/-- A rank-1 handle of the S store of this core: 64 elements of .I64 from byte 256. -/
def desc : Desc :=
  { space := 2, fmt := .i64, rank := 1, codec := 0, sealed := false, policy := 0, trap := false, rd := true, wr := true
    swz := 0, ring := none, base := 256, ext := [64, 1, 1, 1, 1, 1], pitch := [8, 0, 0, 0, 0, 0], slink := 0, slv := false
    tgt := 0, peer := 0, clen := 0, sym := [] }

/-- A slot that holds a descriptor. -/
def slotOf (d : Desc) : Handle :=
  { desc := d, target := 0, runs := [], window := false, lo := [0, 0, 0, 0, 0, 0], ext := d.ext, pwinIn := false
    pwinOut := false, sealed := d.sealed, func := 0, isArgs := false }

/-- Slots 1 to 6: S elements, a P space, a W store, no read or write right, a codec, and a 2 × 4 tile of FP32. -/
def slots : Machine.Core :=
  { core0 with
    s := putBytes [] 256 [0x11, 0x22, 0x33]
    strands := [{ lead with vshape := BitVec.ofNat 32 (4 + 32 * 2 + 65536 * 4), s := [(1, 0), (2, 63), (3, 64)] }]
    handles := [(1, slotOf desc), (2, slotOf { desc with space := 6, peer := 3 }), (3, slotOf { desc with space := 1 }),
      (4, slotOf { desc with rd := false, wr := false }), (5, slotOf { desc with codec := 1 }),
      (6, slotOf { desc with fmt := .f32, rank := 2, ext := [8, 4, 1, 1, 1, 1], pitch := [32, 32, 0, 0, 0, 0] })] }

def mem : State := runsAs job slots

/-- The first element, the last, and one beyond the end. -/
theorem test_premises_Loads :
    let full := runsAs job { slots with strands := slots.strands.map fun t => { t with loads := List.replicate 63 ⟨0, .nothing⟩ } }
    tyMem .i64 = true ∧ Ord.acq ≠ .sc ∧ mem.seated ∧ (∀ xs, xs ∈ [[1], [1, 0], [2, 0], [1, 0, 0, 0, 0, 0]] →
      mem.runs on ⟨xs, [3], [], []⟩ ∧ readable mem 1 (slotOf desc) .i64 xs) ∧
      (mem.me.loads.filter fun l => l.lc == 0).length < 63 ∧ mem.rP off.g = off.n ∧ full.seated ∧
      63 ≤ (full.me.loads.filter fun l => l.lc == 0).length := by
  unfold State.runs readable sight State.seated; decide +kernel
theorem test_premises_ScalarStores :
    tyMem .i64 = true ∧ mem.me.relNext = none ∧ ∀ xs, xs ∈ [[1], [1, 0], [2, 0], [1, 0, 0, 0, 0, 0]] →
      mem.runs on ⟨3 :: xs, [], [], []⟩ ∧ writable mem 1 (slotOf desc) .i64 xs := by
  unfold State.runs writable State.seated; decide +kernel
/-- The last element of the handle, which ends its granule of 32 bytes. -/
theorem test_premises_PlainBytes :
    tyMem .i64 = true ∧ readable mem 1 (slotOf desc) .i64 [2, 0] ∧ writable mem 1 (slotOf desc) .i64 [2, 0] ∧
      plainS (slotOf desc) ∧ mem.here.writes = [] ∧ mem.poison = [] ∧
      elemByte (slotOf desc) (mem.coords [2, 0]) % 32 + memBytes .i64 = 32 := by
  unfold readable writable plainS sight; decide +kernel
theorem test_premises_AtomicUpdates :
    tyI4 .i64 = true ∧ 62 < 64 ∧ (mem.runs on ⟨[62] ++ [2, 0], [62], [], []⟩ ∧ mem.runs on ⟨[62, 63] ++ [2, 0], [62], [], []⟩) ∧
      updatable mem 1 (slotOf desc) .i64 .acq .pod (hostAtomic .add .i64) [2, 0] ∧
      updatable mem 1 (slotOf desc) .i64 .rel .core true [1, 0, 0, 0, 0, 0] := by
  unfold State.runs updatable State.seated; decide +kernel
theorem test_premises_Reductions :
    tyAtom .add .i64 = true ∧ (Ord.rel = .rlx ∨ Ord.rel = .rel ∧ Scope.core = .core) ∧ mem.me.relNext = none ∧
      mem.runs on ⟨3 :: [2, 0], [], [], []⟩ ∧ mem.here.handle 1 = some (slotOf desc) ∧
      mem.scalarFaults mem.cur.1 mem.cur.2 1 (slotOf desc) .i64 true false (mem.coords [2, 0])
        (rmwChecks mem 1 (slotOf desc) (hostAtomic .add .i64)) = none := by
  unfold State.runs State.seated; decide +kernel
/-- An unbound slot, a wrong space, no rights, a codec, and the first coordinate beyond the extent. -/
theorem test_premises_AccessFaults :
    handled mem ∧ 255 < 256 ∧ Ord.rlx ≠ .sc ∧ mem.runs on ⟨[3, 0], [4], [], []⟩ ∧ mem.runs on ⟨[4, 3, 0], [], [], []⟩ ∧
      mem.here.handle 255 = none ∧ mem.inPure = false ∧ mem.here.writes = [] ∧
      (∃ h, mem.here.handle 3 = some h ∧ h.isArgs = false ∧ h.desc.fmt = .i64 ∧ h.desc.space = 1) ∧
      (∃ h, mem.here.handle 4 = some h ∧ h.isArgs = false ∧ h.desc.fmt = .i64 ∧ h.desc.space = 2 ∧ h.desc.rd = false ∧
        h.desc.wr = false) ∧
      (∃ h, mem.here.handle 5 = some h ∧ h.isArgs = false ∧ h.desc.fmt = .i64 ∧ h.desc.space = 2 ∧ h.desc.rd = true ∧
        h.desc.wr = true ∧ h.desc.codec ≠ 0) ∧
      ∃ h, mem.here.handle 1 = some h ∧ h.isArgs = false ∧ h.desc.fmt = .i64 ∧ h.desc.space = 2 ∧ h.desc.rd = true ∧
        h.desc.wr = true ∧ h.desc.codec = 0 ∧ h.sealed = false ∧ h.ext.getD 0 1 ≤ (mem.coords [3, 0]).getD 0 0 := by
  refine ⟨by unfold handled; decide +kernel, by decide, by decide, by unfold State.runs State.seated; decide +kernel,
    by unfold State.runs State.seated; decide +kernel, by decide +kernel, by decide +kernel, by decide +kernel,
    ⟨slotOf { desc with space := 1 }, by decide +kernel⟩, ⟨slotOf { desc with rd := false, wr := false }, by decide +kernel⟩,
    ⟨slotOf { desc with codec := 1 }, by decide +kernel⟩, ⟨slotOf desc, by decide +kernel⟩⟩
/-- Handles of P space: one, one with the TRAP policy, an antisymmetric pair of dimensions, and a matrix of FP32. -/
def peerDesc : Desc := { desc with space := 6, peer := 3 }
def trapDesc : Desc := { peerDesc with trap := true }
def oddDesc : Desc := { peerDesc with rank := 2, ext := [2, 2, 1, 1, 1, 1], pitch := [16, 16, 0, 0, 0, 0], sym := [⟨1, true, 0, 2, 0, 0⟩] }
def wideDesc : Desc := { peerDesc with fmt := .f32, rank := 2, ext := [8, 4, 1, 1, 1, 1], pitch := [32, 32, 0, 0, 0, 0] }

/-- A strand with an answer of a peer that has come or not, and a port that leads to package 3 or not. -/
def peering (answer : Option (Word × Bool)) (routes : Map (BitVec 8)) : State :=
  { runsAs job { slots with
      handles := [(2, slotOf peerDesc), (7, slotOf oddDesc), (8, slotOf trapDesc), (9, slotOf wideDesc)]
      strands := [{ lead with vshape := BitVec.ofNat 32 (4 + 32 * 2 + 65536 * 4), s := [(1, 1)], answer := answer }] } with
    routes := routes, ports := [(3, { Port.initial with state := 2, width := 8 })] }

/-- A package that a port leads to, and one that none leads to; a request not yet sent, responses that have come, good and
poisoned; a forced zero and a negated element; a handle with the TRAP policy; a counter and a tile. -/
theorem test_premises_PeerLoads :
    let scalar := fun (s : State) slot d xs => s.runs on ⟨xs, [4], [], []⟩ ∧ s.here.handle slot = some (slotOf d) ∧
      (sight s).scalarFaults s.cur.1 s.cur.2 slot (slotOf d) .i64 false true (s.coords xs) [] = none
    let s := peering none [(3, 0xF3)]
    let all6 := [1, 0, 0, 0, 0, 0]
    (∀ x, x ∈ [s, peering none [], peering (some (9, false)) [], peering (some (0, true)) []] → scalar x 2 peerDesc [1, 0] ∧
      scalar x 7 oddDesc [1, 0] ∧ scalar x 8 trapDesc [1, 0] ∧ handled x) ∧
    (scalar s 7 oddDesc [2, 0] ∧ scalar s 2 peerDesc all6 ∧ s.runs on ⟨all6, [], [], [4]⟩) ∧
    (tyMem .i64 = true ∧ Ord.rlx ≠ .sc ∧ (slotOf peerDesc).crosses (s.coords [1, 0]) = true ∧ (slotOf oddDesc).crosses (s.coords [1, 0]) = true ∧
      (slotOf oddDesc).negated (s.coords [1, 0]) = true ∧ (slotOf oddDesc).crosses (s.coords [2, 0]) = false ∧ (slotOf peerDesc).crosses (s.coords all6) = true) ∧
    (s.me.answer = none ∧ s.podReachable 3 = true ∧ (peering none []).podReachable 3 = false ∧ (s.me.loads.filter fun l => l.lc == 3).length < 63) ∧
    (s.here.streamOf 4 = none ∧ s.here.handle 9 = some (slotOf wideDesc) ∧
      (sight s).tileFaults s.cur.1 s.cur.2 9 (slotOf wideDesc) (tileTy s) (tileRows s) (tileCols s) false (s.coords all6) = none ∧
      0 < tileRows s ∧ 0 < tileCols s ∧ (slotOf wideDesc).crosses (tileElem (s.coords all6) 0 0) = true) := by
  refine ⟨?_, ?_, ?_, ?_, ?_⟩ <;> first
    | decide +kernel
    | (unfold State.runs State.seated sight; decide +kernel)
    | (unfold State.runs State.seated sight handled; decide +kernel)
theorem test_premises_TileReads :
    let h := slotOf { desc with fmt := .f32, rank := 2, ext := [8, 4, 1, 1, 1, 1], pitch := [32, 32, 0, 0, 0, 0] }
    Ord.acq ≠ .sc ∧ mem.here.streamOf 5 = none ∧ (mem.me.loads.filter fun l => l.lc == 0).length < 63 ∧
      ∀ xs, xs ∈ [[1], [1, 0], [1, 0, 0, 0, 0, 0]] → mem.runs on ⟨xs, [], [], [5]⟩ ∧ tileReadable mem 6 h xs := by
  unfold State.runs State.seated tileReadable sight; decide +kernel
theorem test_premises_TileStores :
    let h := slotOf { desc with fmt := .f32, rank := 2, ext := [8, 4, 1, 1, 1, 1], pitch := [32, 32, 0, 0, 0, 0] }
    mem.me.relNext = none ∧ mem.here.streamOf 5 = none ∧ isBlockTy (tileTy mem) = false ∧
      ∀ xs, xs ∈ [[1], [1, 0], [1, 0, 0, 0, 0, 0]] → mem.runs on ⟨xs, [], [5], []⟩ ∧ mem.here.handle 6 = some h ∧
        mem.tileFaults mem.cur.1 mem.cur.2 6 h (tileTy mem) (tileRows mem) (tileCols mem) true (mem.coords xs) = none := by
  unfold State.runs State.seated; decide +kernel
/-- The stages of FENCE.SC and of an access with .SC, and a release at .pkg. -/
theorem test_premises_OrderedAccesses :
    let at_ := fun n => runsAs job { slots with strands := slots.strands.map fun t => { t with scStage := n } }
    ∀ n, n ∈ [0, 2, 4] → (at_ n).me.scStage = n ∧ (at_ n).runs on Uses.none ∧ (at_ n).here.writes = [] ∧ (at_ n).me.relNext = none ∧
      Scope.pkg ≠ .core ∧ Scope.pkg ≠ .st ∧ Scope.pkg ≠ .pod ∧ ((at_ n).drainCore 0).awaitingAcks = false ∧
      (at_ n).runs on ⟨[2, 0], [4], [], []⟩ ∧ (at_ n).runs on ⟨[4, 2, 0], [], [], []⟩ ∧
      readable (at_ n) 1 (slotOf desc) .i64 [2, 0] ∧ writable (at_ n) 1 (slotOf desc) .i64 [2, 0] := by
  unfold State.runs State.seated readable writable sight; decide +kernel

/-- A package whose strand 0 has a shape, with values in v1, v2, v3 and s1 to s4. -/
def tile (ty : Ty) (rows cols : Nat) : State :=
  runsAs job { core0 with
    v := [(1, 0x3C003C003C006800), (2, 0x40003C0042004200), (3, 1)], side := [(1, 0x7F7F), (2, 0x807F), (3, 0x7F7F)]
    strands := [{ lead with vshape := BitVec.ofNat 32 (ty.code + 32 * rows + 65536 * cols),
                            s := [(1, BitVec.ofNat 64 (cols - 1 + 65536 * (rows - 1))), (2, 3), (3, 0x00200205), (4, 5)] }] }

theorem runsOn_clean {s : State} {g : Guard} {rs srcs dsts : List Nat} (p : s.poison = []) (r : s.runs g ⟨rs, [], srcs, dsts⟩)
    (b : ∀ v, v ∈ srcs ++ dsts → s.here.streamOf v = none) : runsOn s g rs srcs dsts :=
  ⟨r, b, fun v _ w => by simp [State.isPoisoned, p]⟩

theorem legalShape_f16 : legalShape 0x00200205 :=
  ⟨by decide, by decide, by decide, by decide, by decide, by decide, .f16, by decide +kernel⟩

/-- A legal shape and one of no rows; the last element of a tile; every move. -/
theorem test_premises_ShapesAndMoves :
    let s := tile .f16 2 4
    s.runs on (Uses.scalar [3] []) ∧ s.runs on Uses.none ∧ legalShape (s.rS 3).toNat ∧ handled s ∧ ¬ legalShape (s.rS 4).toNat ∧
      legalTile s ∧ rawTy (tileTy s) ∧ s.rS 1 = BitVec.ofNat 64 (3 + 2 ^ 16 * 1) ∧ s.runs on ⟨[1], [5], [1], []⟩ ∧
      s.runs on ⟨[1, 1], [], [], [5]⟩ ∧ runsOn s on [] [1] [5] ∧ runsOn s on [1] [] [5] ∧ runsOn s on [] [] [5] ∧
      runsOn s on [] [1, 2, 3] [5] ∧ runsOn s on [] [1, 2] [5] ∧ runsOn s on [1] [1] [5] ∧ 4 ≤ 256 := by
  refine ⟨by unfold State.runs State.seated; decide +kernel, by unfold State.runs State.seated; decide +kernel, legalShape_f16,
    by unfold handled; decide +kernel, fun h => absurd h.2.2.1 (by decide +kernel), by unfold legalTile; decide +kernel,
    by unfold rawTy; decide +kernel, by decide +kernel, by unfold State.runs State.seated; decide +kernel,
    by unfold State.runs State.seated; decide +kernel, ?_, ?_, ?_, ?_, ?_, ?_, by decide⟩ <;>
  exact runsOn_clean rfl (by unfold State.runs State.seated; decide +kernel) (by decide +kernel)
theorem test_premises_VectorFloats :
    let s := tile .f16 2 4
    legalTile s ∧ fltTy (tileTy s) ∧ runsOn s on [] [1, 2] [5] ∧ runsOn s on [] [1] [5] ∧ runsOn s on [] [1, 2, 5] [5] ∧
      runsOn s on [] [1, 2, 3] [5] := by
  refine ⟨by unfold legalTile; decide +kernel, by unfold fltTy; decide +kernel, ?_, ?_, ?_, ?_⟩ <;>
  exact runsOn_clean rfl (by unfold State.runs State.seated; decide +kernel) (by decide +kernel)
/-- A signed, an unsigned and a floating format: their own conditions, and those of the other class. -/
theorem test_premises_VectorIntegersAndCompares :
    (∀ s, s ∈ [tile .int4 2 4, tile .u64 2 4, tile .f16 2 4, tile .mx4 1 32] →
      legalTile s ∧ runsOn s on [] [1, 2] [5] ∧ handled s) ∧
    intTy (tileTy (tile .int4 2 4)) ∧ intTy (tileTy (tile .u64 2 4)) ∧ rawTy (tileTy (tile .f16 2 4)) ∧ fltTy (tileTy (tile .f16 2 4)) ∧
      ¬ (fltTy (tileTy (tile .mx4 1 32)) ∨ intTy (tileTy (tile .mx4 1 32))) ∧
      wellFormed (.vcmp on .uno 1 2 1 2 5) = true ∧ wellFormed (.vcmp on .geu 0 0 1 2 5) = true := by
  refine ⟨?_, by unfold intTy signedTy; decide +kernel, by unfold intTy signedTy; decide +kernel, by unfold rawTy; decide +kernel,
    by unfold fltTy; decide +kernel, by unfold fltTy intTy signedTy; decide +kernel, by decide +kernel, by decide +kernel⟩
  intro s h
  simp only [List.mem_cons, List.not_mem_nil, or_false] at h
  rcases h with rfl | rfl | rfl | rfl <;>
  exact ⟨by unfold legalTile; decide +kernel,
    runsOn_clean rfl (by unfold State.runs State.seated; decide +kernel) (by decide +kernel), by unfold handled; decide +kernel⟩
/-- An operation that the format has, and one that it does not have. -/
theorem test_premises_VectorReductions :
    let s := tile .f16 2 4
    legalTile s ∧ runsOn s on [] [1] [5] ∧ 5 ≤ 5 ∧ Rnd.rdn ≠ .dyn ∧ (fltTy (tileTy s) ∧ 2 ≤ 2) ∧
      ¬ (fltTy (tileTy s) ∧ 3 ≤ 2 ∨ intTy (tileTy s)) ∧ handled s := by
  refine ⟨by unfold legalTile; decide +kernel, runsOn_clean rfl (by unfold State.runs State.seated; decide +kernel) (by decide +kernel),
    by decide, by decide, by unfold fltTy; decide +kernel, by unfold fltTy intTy signedTy; decide +kernel,
    by unfold handled; decide +kernel⟩
theorem test_premises_BlockArithmetic :
    (∀ s, s ∈ [tile .mx8e4 1 32, tile .dx6 2 32] → legalTile s ∧ isBlockTy (tileTy s) = true ∧ runsOn s on [] [1, 2] [5] ∧
      runsOn s on [] [1] [5] ∧ runsOn s on [] [1, 2, 5] [5]) ∧ runsOn (tile .e5m2 2 4) on [] [1] [5] ∧
      tileTy (tile .e5m2 2 4) = .e5m2 := by
  refine ⟨?_, runsOn_clean rfl (by unfold State.runs State.seated; decide +kernel) (by decide +kernel), by decide +kernel⟩
  intro s h
  simp only [List.mem_cons, List.not_mem_nil, or_false] at h
  rcases h with rfl | rfl <;>
  (refine ⟨by unfold legalTile; decide +kernel, by decide +kernel, ?_, ?_, ?_⟩ <;>
    exact runsOn_clean rfl (by unfold State.runs State.seated; decide +kernel) (by decide +kernel))
/-- Integers to integers, floating point to integers with and without .SAT, to floating point, and blocks. -/
theorem test_premises_VectorConversions :
    (∀ s, s ∈ [tile .int16 2 4, tile .f16 1 32, tile .mx4 1 32] → legalTile s ∧ runsOn s on [] [1] [5]) ∧
    wellFormed (.vcvt on .int8 .rne true 5 1) = true ∧ tileCount (tile .f16 1 32) * tyBits .int8 ≤ 16384 ∧ intTy .int8 ∧
      intTy (tileTy (tile .int16 2 4)) ∧ ¬ intTy (tileTy (tile .f16 1 32)) ∧ handled (tile .f16 1 32) ∧ floatFmt? .e4m3 ≠ none ∧
      tileTy (tile .f16 1 32) = .f16 ∧ tileCols (tile .f16 1 32) % 32 = 0 ∧ wellFormed (.vqmx on .mx4 5 1) = true ∧
      wellFormed (.vqdx on .dx8 5 1) = true ∧ isBlockTy (tileTy (tile .mx4 1 32)) = true := by
  refine ⟨?_, by decide +kernel, by decide +kernel, by unfold intTy signedTy; decide +kernel,
    by unfold intTy signedTy; decide +kernel, by unfold intTy signedTy; decide +kernel, by unfold handled; decide +kernel,
    by decide +kernel, by decide +kernel, by decide +kernel, by decide +kernel, by decide +kernel, by decide +kernel⟩
  intro s h
  simp only [List.mem_cons, List.not_mem_nil, or_false] at h
  rcases h with rfl | rfl | rfl <;>
  exact ⟨by unfold legalTile; decide +kernel,
    runsOn_clean rfl (by unfold State.runs State.seated; decide +kernel) (by decide +kernel)⟩
/-- An integer format, a floating one, and a block format. -/
theorem test_premises_RowDotProducts :
    (∀ s, s ∈ [tile .int4 2 4, tile .f64 2 4, tile .mx8e5 1 32] → legalTile s ∧ runsOn s on [] [1, 2, 3] [5]) ∧
      tileTy (tile .int4 2 4) = .int4 ∧ fltTy (tileTy (tile .f64 2 4)) ∧ isBlockTy (tileTy (tile .mx8e5 1 32)) = true := by
  refine ⟨?_, by decide +kernel, by unfold fltTy; decide +kernel, by decide +kernel⟩
  intro s h
  simp only [List.mem_cons, List.not_mem_nil, or_false] at h
  rcases h with rfl | rfl | rfl <;>
  exact ⟨by unfold legalTile; decide +kernel,
    runsOn_clean rfl (by unfold State.runs State.seated; decide +kernel) (by decide +kernel)⟩

/-- A descriptor in its 128 bytes (R127): 4 elements in each dimension below the rank. -/
def descBytes (space rank base fmt rights : Nat) : List Byte :=
  leBytes 8 (space + 2 ^ 8 * fmt + 2 ^ 16 * rank + 2 ^ 32 * rights) ++ leBytes 8 base ++
    ((List.range 6).flatMap fun i => leBytes 4 (if i < rank then 4 else 1)) ++ leBytes 88 0

/-- A record as it stands in a queue. -/
def record (num : Nat) (op : RecOp) (eng : Nat) (body : BitVec 384) : Rec :=
  { num := num, eng := eng, op := op, hdr := ⟨on, 0, ⟨0, 0, 0⟩, ⟨0, 0, 0⟩, none, none, none, none⟩, body := body, binds := []
    core := 0, objCore := 0, member := false, phase := 0, started := false, ended := false, upc := [0, 0, 0, 0, 0, 0]
    held := [], count := 0, flags := 0, wrote := [], aux := [], mcheck := none, hunbound := false }

theorem ok_of {α β : Type} [DecidableEq β] {e : Except α β} {v : β}
    (h : (match e with | .ok x => decide (x = v) | .error _ => false) = true) : e = .ok v := by
  cases e with
  | ok x => simpa using h
  | error _ => simp at h
theorem ok_some {α β : Type} {e : Except α β} (h : (match e with | .ok _ => true | .error _ => false) = true) : ∃ u, e = .ok u := by
  cases e with
  | ok x => exact ⟨x, rfl⟩
  | error _ => simp at h

theorem error_some {α β : Type} {e : Except α β} {p : α → Bool}
    (h : (match e with | .ok _ => false | .error f => p f) = true) : ∃ f, e = .error f ∧ p f = true := by
  cases e with
  | ok x => simp at h
  | error f => exact ⟨f, rfl, h⟩

/-- Table 1 from zeros, whose breakpoints are in order, and from bytes whose first breakpoint is 1.0 before +0; a patch that
no record names, and one that a record names. -/
theorem test_premises_FunctionsAndPatches :
    let d : Desc := { desc with fmt := .uint8, ext := [4096, 1, 1, 1, 1, 1] }
    let at_ := fun b => runsAs job { core0 with s := b, handles := [(1, slotOf d)] }
    let s := at_ []
    let u := at_ (putBytes [] 256 [0, 0, 0x80, 0x3F])
    let f := tile .f32 2 4
    let named := f.setHere { f.here with engines := [(0, ⟨[record 1 .mclr 0 2], 0, 1, [], []⟩)] }
    let word := fun (x : State) i => leNat ((List.range 4).map fun k => BitVec.ofNat 8 ((sight x).readElem (slotOf d) [4 * i + k, 0, 0, 0, 0, 0]))
    let bp := fun (x : State) i => (fmtOf .f32).value (word x (5 * i))
    let ordered := fun (x : State) => ∀ i, i < 64 → bp x i ≠ .nan ∧ (i + 1 < 64 → floatHolds .le (bp x i) (bp x (i + 1)) = true)
    (legalTile f ∧ tileTy f = .f32) ∧ runsOn f on [] [1] [5] ∧
    (∀ x, x ∈ [s, u] → x.runs on (Uses.scalar [0] []) ∧ x.here.handle 1 = some (slotOf d) ∧ x.poison = [] ∧ handled x ∧
      (sight x).accessFaults (.strand x.cur.1 x.cur.2) x.cur.1 1 (slotOf d) false true [1, 2, 4, 5, 6]
        ((List.range 1280).map fun k => [0 + k, 0, 0, 0, 0, 0]) = []) ∧
    ordered s ∧ ¬ ordered u ∧
    (runsOn f on [4] [] [5] ∧ runsOn f on [4] [1] []) ∧ (runsOn named on [4] [] [5] ∧ runsOn named on [4] [1] []) ∧
    (∀ x, x ∈ [f, named] → x.me.waiting = none ∧ x.rS 4 = BitVec.ofNat 64 (5 + 2 ^ 16 * 0) ∧ 5 + tileRows x ≤ 96 ∧ 0 + tileCols x ≤ 128) ∧
    (∃ r, r ∈ (named.here.engine 0).queue ∧ 1 ∈ r.patches ∧ r.num ≤ (named.here.engine 0).last) := by
  refine ⟨by unfold legalTile; decide +kernel,
    runsOn_clean rfl (by unfold State.runs State.seated; decide +kernel) (by decide +kernel),
    by unfold State.runs State.seated sight handled; decide +kernel, by unfold sight; decide +kernel, by unfold sight; decide +kernel,
    ⟨?_, ?_⟩, ⟨?_, ?_⟩, by decide +kernel, by decide +kernel⟩ <;>
  exact runsOn_clean rfl (by unfold State.runs State.seated; decide +kernel) (by decide +kernel)

/-- Descriptors in the S store: one that binds, one of rank 9, and one of G space, whose page is not mapped; slots that are
free, sealed, not sealed, and written by a record in flight. -/
theorem test_premises_HandleSlots :
    let bytes := putBytes (putBytes (putBytes [] 0x400 (descBytes 2 1 0x1000 0x07 0x18)) 0x480 (descBytes 2 9 0x1000 0x07 0x18))
      0x500 (descBytes 4 1 0x7000 0x07 0x08)
    let fill := { record 1 .cfill 1 0x000100000100 with binds := [(1, slotOf desc)] }
    let q := { core0 with
      s := bytes, handles := [(1, slotOf desc), (2, slotOf { desc with sealed := true }), (3, slotOf { desc with base := 0x8000 })]
      engines := [(1, ⟨[fill], 0, 1, [], []⟩)]
      strands := [{ lead with s := [(1, 0x8000000000000400), (2, 0x8000000000000480), (3, 0x8000000000000500)] }] }
    let s := { runsAs job q with keys := [(1, ⟨true, 1, 1, 1⟩)] }
    let d : Desc := { desc with base := 0x1000, ext := [4, 1, 1, 1, 1, 1], pitch := [0, 0, 0, 0, 0, 0] }
    let g : Desc := { d with space := 4, base := 0x7000, wr := false }
    s.runs on (Uses.scalar [1] []) ∧ s.runs on (Uses.scalar [2] []) ∧ s.runs on (Uses.scalar [3] []) ∧ s.runs on Uses.none ∧
    (s.here.task = some 0 ∧ s.task? 0 = some job) ∧ handled s ∧ s.runs on (Uses.scalar [] [4]) ∧
    (sight s).descriptorBytes job 0 0 (s.rS 1) = .ok (descBytes 2 1 0x1000 0x07 0x18) ∧
    descOf? false (descBytes 2 1 0x1000 0x07 0x18) = some d ∧ ((sight s).bindDesc job 0 d [0, 0, 0, 0, 0, 0] d.ext false).1 = [] ∧
    (sight s).descriptorBytes job 0 0 (s.rS 3) = .ok (descBytes 4 1 0x7000 0x07 0x08) ∧
    descOf? false (descBytes 4 1 0x7000 0x07 0x08) = some g ∧
    ((sight s).bindDesc job 0 g [0, 0, 0, 0, 0, 0] g.ext false).1 = [⟨0x06, 0, 0x7000⟩] ∧ s.freePark = some 0 ∧
    (sight s).descriptorBytes job 0 0 (s.rS 2) = .ok (descBytes 2 9 0x1000 0x07 0x18) ∧
    descOf? false (descBytes 2 9 0x1000 0x07 0x18) = none ∧ s.here.handle 255 = none ∧
    (∃ x, s.here.handle 2 = some x ∧ x.sealed = true) ∧
    (∃ x, s.here.handle 3 = some x ∧ x.sealed = false ∧ s.writtenByRecord s.here.task (s.handleRanges x) = false) ∧
    ∃ x, s.here.handle 1 = some x ∧ x.sealed = false ∧ s.writtenByRecord s.here.task (s.handleRanges x) = true := by
  refine ⟨?_, ?_, ?_, ?_, by decide +kernel, by unfold handled; decide +kernel, ?_, ok_of (by unfold sight; decide +kernel),
    by decide +kernel, by unfold sight; decide +kernel, ok_of (by unfold sight; decide +kernel), by decide +kernel,
    by unfold sight; decide +kernel, by decide +kernel, ok_of (by unfold sight; decide +kernel), by decide +kernel, by decide +kernel,
    ⟨slotOf { desc with sealed := true }, by decide +kernel⟩, ⟨slotOf { desc with base := 0x8000 }, by decide +kernel⟩,
    ⟨slotOf desc, by decide +kernel⟩⟩ <;>
  (unfold State.runs State.seated; decide +kernel)

/-- Barriers and rings of a core: bc1 at the last phase, ring 1 with a slot in each state, ring 2 bound for output, ring 3 of
32 units, ring 4 like it but bound. -/
def synced : Machine.Core :=
  let ring := fun shape slots bound => ({ place := 0x100001000, shape := shape, fh := 5, ch := 6, slots := slots, bound := bound } : Ring)
  let held := fun st => (⟨st, some (.strand 0), none⟩ : RingSlot)
  let slots := [⟨.free, none, none⟩, held .filling, ⟨.full, none, none⟩, held .draining]
  { core0 with
    barriers := [(1, ⟨2, 0, 2, 0, 0xFFFFFFFF, 0, 0⟩), (3, ⟨2, 0, 2, 0, 5, 1, 0⟩)]
    rings := [(1, ring 0x10002 slots none), (2, ring 0x10002 slots (some (288, true))),
      (3, ring 0x200002 (List.replicate 4 ⟨.free, none, none⟩) none),
      (4, ring 0x200002 (List.replicate 4 ⟨.free, none, none⟩) (some (289, false))),
      (5, { ring 0x10002 slots (some (290, false)) with fh := 4 })]
    strands := [{ lead with s := [(1, 0xFFFFFFFE), (2, 0x80000000), (3, 1), (4, 65536), (5, 3), (6, 4)] }] }

def gang : Machine.Task := { job with width := 2, cores := [0, 1], bgLevel := 3, bg := ⟨2, 0, 2, 0, 7, 0, 0⟩ }

/-- Strand 1 stands before a BARV of barrier 2 and is still to issue in this clock. -/
def coming : State :=
  let s := State.reset.placeCode (leBytes 4 0x00222300)
  s.setCore 0 { s.core 0 with strands := [lead, (s.core 0).strand 0], picks := some [1] }

/-- A token one phase back, and one 2^31 − 1 back; the least and the greatest counts of BINIT; a barrier with a decrement in this
clock, one that a strand waits for, and one with an arrival still to come; gangs of a die and of the pod, with P writes
acknowledged and not. -/
theorem test_premises_Barriers :
    let s := runsAs job synced
    let u := runsAs gang synced
    let broken := runsAs { gang with broken := true } synced
    let pod := runsAs { gang with bgLevel := 4 } synced
    let sent : State := { pod with pOut := [(0, 2, true)] }
    let waited := runsAs job { synced with strands := synced.strands ++ [{ lead with hold := some (.barrier 1 0xFFFFFFFF 4) }] }
    let token := fun a => ((s.rS a).setWidth 32 : BitVec 32)
    (∀ x, x ∈ [s, u, broken, pod, sent] → x.runs on (Uses.scalar [1] []) ∧ x.runs on (Uses.scalar [] [4]) ∧ x.runs on (Uses.scalar [3, 0] []) ∧ handled x) ∧
    mapFind s.here.barriers 1 = some ⟨2, 0, 2, 0, 0xFFFFFFFF, 0, 0⟩ ∧ barrierIs s 1 ⟨2, 0, 2, 0, 0xFFFFFFFF, 0, 0⟩ ∧
    passed 0xFFFFFFFF (token 1) ∧ passed 0xFFFFFFFF (token 2) ∧ ¬ passed 5 (token 4) ∧
    (∃ k, taskHere u k ∧ u.here.task = some k.id.toNat ∧ 1 < k.gangSize ∧ k.broken = false ∧ k.bgLevel ≤ 3 ∧ 1 ≤ k.bgLevel) ∧
    (∃ k, taskHere pod k ∧ taskHere sent k ∧ 1 < k.gangSize ∧ k.bgLevel = 4 ∧ pod.awaitingAcks = false ∧ sent.awaitingAcks = true) ∧
    u.here.writes = [] ∧ mapFind s.here.barriers 15 = none ∧ (∃ k, taskHere s k ∧ k.gangSize ≤ 1) ∧
    (∃ k, taskHere broken k ∧ 1 < k.gangSize ∧ k.broken = true) ∧
    (let bad := fun a b => 65535 < (s.rS a).toNat ∨ 2 ^ 32 ≤ (s.rS b).toNat ∨ (s.rS a).toNat = 0 ∧ (s.rS b).toNat = 0
     ¬ bad 3 0 ∧ bad 4 0 ∧ bad 0 0) ∧
    (∀ o, mapFind s.here.barriers 1 = some o → o.arrivals = 0 ∧ o.bytes = 0) ∧
    ¬ (∀ o, mapFind s.here.barriers 3 = some o → o.arrivals = 0 ∧ o.bytes = 0) ∧ s.namedByRecord s.cur.1 [3] 1 = false ∧
    (s.here.picks.getD [] = [] ∧ (∀ t, t ∈ s.here.strands → t.hold = none) ∧ (waited.here.strand 1).hold = some (.barrier 1 0xFFFFFFFF 4)) ∧
    (1 ∈ coming.here.picks.getD [] ∧ (coming.here.strand 1).pred on.g = !on.n ∧ coming.nextOf coming.cur.1 1 = some (.barv on 8 2)) := by
  refine ⟨by unfold State.runs State.seated handled; decide +kernel, by decide +kernel, .inl (by decide +kernel),
    by unfold passed; decide +kernel, by unfold passed; decide +kernel, by unfold passed; decide +kernel,
    ⟨gang, ⟨0, by decide +kernel⟩, by decide +kernel⟩,
    ⟨{ gang with bgLevel := 4 }, ⟨0, by decide +kernel⟩, ⟨0, by decide +kernel⟩, by decide +kernel⟩, by decide +kernel, by decide +kernel, ⟨job, ⟨0, by decide +kernel⟩, by decide +kernel⟩,
    ⟨{ gang with broken := true }, ⟨0, by decide +kernel⟩, by decide +kernel⟩, by decide +kernel, ?_, ?_, by decide +kernel, by decide +kernel,
    by decide +kernel⟩
  · intro o h
    have : o = ⟨2, 0, 2, 0, 0xFFFFFFFF, 0, 0⟩ := Option.some.inj (h.symm.trans (by decide +kernel))
    subst this; decide
  · intro h
    exact absurd (h ⟨2, 0, 2, 0, 5, 1, 0⟩ (by decide +kernel)).1 (by decide)

/-- Slots to claim for filling and for draining, or not ready; slots held by the strand, by none, and out of range; rings
bound or free; a ring of 2^8 slots that fills the S store. -/
theorem test_premises_Rings :
    let s := runsAs job synced
    let slot := fun (r : Ring) i => r.slots.getD i ⟨.free, none, none⟩
    let mine := fun (r : Ring) i st => (slot r i).holder = some (.strand 0) ∧ (slot r i).next = none ∧ (slot r i).state = st
    let fresh := runsAs job { core0 with strands := [{ lead with s := [(1, 0), (2, 0x400008)] }] }
    (s.runs on (Uses.scalar [3] []) ∧ s.runs on (Uses.scalar [] [4]) ∧ s.runs on (Uses.scalar [3, 5] []) ∧ s.runs on Uses.none ∧ handled s) ∧
    s.here.writes = [] ∧ s.here.streamOf 300 = none ∧ s.here.streamOf 288 ≠ none ∧ mapFind s.here.rings 31 = none ∧
    (∃ r, mapFind s.here.rings 1 = some r ∧ (∀ u, r.bound ≠ some (u, true)) ∧ (slot r 1).state ≠ .free ∧ (slot r 2).state = .full ∧
      mine r 1 .filling ∧ ¬ mine r 0 .filling ∧ mine r 3 .draining ∧ ¬ mine r 1 .draining ∧ 4 ≤ ((s.rS 6).setWidth 32 : BitVec 32).toNat) ∧
    (∃ r, mapFind s.here.rings 2 = some r ∧ r.bound = some (288, true)) ∧
    (∃ r, mapFind s.here.rings 5 = some r ∧ r.bound = some (290, false) ∧ (∀ u, r.bound ≠ some (u, true)) ∧ (slot r (r.fh.toNat % 4)).state = .free) ∧
    (∃ r, mapFind s.here.rings 3 = some r ∧ r.shape.toNat / 2 ^ 16 % 2 ^ 10 = 32 ∧ r.bound = none ∧
      ∀ t, t ∈ r.slots → t.holder ≠ none → t.state ≠ .filling) ∧
    (∃ r, mapFind s.here.rings 4 = some r ∧ r.shape.toNat / 2 ^ 16 % 2 ^ 10 = 32 ∧ r.bound ≠ none) ∧
    (fresh.runs on (Uses.scalar [1, 2] []) ∧ fresh.here.rings = [] ∧ (fresh.rS 1).toNat < 2 ^ 33 ∧
      (fresh.rS 2).toNat / 2 ^ 4 % 2 ^ 12 = 0 ∧ (fresh.rS 2).toNat % 16 = 8 ∧
      2 ^ 8 * ((fresh.rS 2).toNat / 2 ^ 16 % 2 ^ 10 * 64) = 2 ^ 20 ∧ 0 + 2 ^ 20 ≤ storeBytes 2) := by
  refine ⟨by unfold State.runs State.seated handled; decide +kernel, by decide +kernel, by decide +kernel, by decide +kernel, by decide +kernel,
    ⟨_, by rfl, by intro u; simp, by decide +kernel⟩, ⟨_, by rfl, by decide +kernel⟩, ⟨_, by rfl, by decide +kernel, by intro u; simp, by decide +kernel⟩,
    ⟨_, by rfl, by decide +kernel⟩, ⟨_, by rfl, by decide +kernel⟩, by unfold State.runs State.seated; decide +kernel⟩

/-- Queue 0 with one place left, queue 1 full, queue 2 empty, vector queue 8 with one entry and 9 full. -/
theorem test_premises_QueueRegisters :
    let q := { core0 with
      qs := [(0, List.replicate 14 3), (1, List.replicate 16 3)], qsNew := [(0, [7])], qv := [(8, [(1, 0)]), (9, List.replicate 4 (1, 0))] }
    let s := runsAs job q
    s.poison = [] ∧ s.runs on Uses.none ∧ s.runs on (Uses.scalar [1] []) ∧ s.runs on (Uses.scalar [] [4]) ∧
      runsOn s on [] [1] [] ∧ runsOn s on [] [] [4] ∧
      (mapGet s.here.qs 0 []).length + (mapGet s.here.qsNew 0 []).length < 16 ∧
      16 ≤ (mapGet s.here.qs 1 []).length + (mapGet s.here.qsNew 1 []).length ∧ mapGet s.here.qs 2 [] = [] ∧
      mapGet s.here.qs 1 [] = 3 :: List.replicate 15 3 ∧ mapGet s.here.qv 8 [] = [(1, 0)] ∧
      4 ≤ (mapGet s.here.qv 9 []).length + (mapGet s.here.qvNew 9 []).length ∧ mapGet s.here.qv 15 [] = [] := by
  refine ⟨by decide +kernel, by unfold State.runs State.seated; decide +kernel, by unfold State.runs State.seated; decide +kernel,
    by unfold State.runs State.seated; decide +kernel, runsOn_clean rfl (by unfold State.runs State.seated; decide +kernel) (by decide +kernel),
    runsOn_clean rfl (by unfold State.runs State.seated; decide +kernel) (by decide +kernel), by decide +kernel⟩

/-- A timeline at 2: a value reached, one not reached, one with a pending MCHECK; a record that has completed past a pending one; a
word there and not; a patch that is free, one drained a clock too recently, and one that a record names. -/
theorem test_premises_EngineStatus :
    let x : Engine := { queue := [record 3 .mclr 0 2], tl := 2, last := 3, words := [(1, 17)], pend := [] }
    let at_ := fun (pend : Map Nat) (tl : Nat) => runsAs job { core0 with
      engines := [(0, { x with pend := pend, tl := tl })], patches := [(2, { Patch.initial with drained := some 37 })]
      strands := [{ lead with s := [(1, 2), (2, 3), (3, 1)] }] }
    let s := at_ [] 2
    let u := at_ [(2, 255)] 2
    let late := runsAs job { core0 with engines := [(0, { x with queue := [record 2 .mclr 0 2], tl := 1, words := [(3, 5)] })], strands := [{ lead with s := [(2, 3)] }] }
    (∀ y, y ∈ [s, u] → y.runs on (Uses.scalar [1] []) ∧ y.runs on (Uses.scalar [1] [4]) ∧ y.runs on (Uses.scalar [] [4]) ∧ y.runs on Uses.none ∧
      handled y ∧ y.me.waiting = none) ∧
    ((s.here.engine 0).tl < (s.rS 2).toNat ∧ (s.rS 1).toNat ≤ (s.here.engine 0).tl ∧ (s.here.engine 0).pend = []) ∧
    ((u.rS 1).toNat ≤ (u.here.engine 0).tl ∧ (u.here.engine 0).pend = (2, 255) :: [] ∧ 2 ≤ (u.rS 1).toNat ∧ 255 < 256) ∧
    ((∀ r, r ∈ (s.here.engine 0).queue → r.num = (s.rS 2).toNat) ∧ (s.rS 2).toNat ≤ (s.here.engine 0).last ∧
      (late.here.engine 0).tl < (late.rS 2).toNat ∧ (late.rS 2).toNat ≤ (late.here.engine 0).last ∧
      ∀ r, r ∈ (late.here.engine 0).queue → r.num ≠ (late.rS 2).toNat) ∧
    ((s.rS 0).toNat = 0 ∧ (s.rS 3).toNat ≠ 0 ∧ mapFind (s.here.engine 0).words (s.rS 3).toNat = some 17 ∧
      mapFind (s.here.engine 0).words (s.rS 1).toNat = none) ∧
    (∀ r, r ∈ (s.here.engine 0).queue → 3 ∉ r.patches) ∧ (s.here.patch 3).drained = none ∧
    (∃ r, r ∈ (s.here.engine 0).queue ∧ 1 ∈ r.patches ∧ r.num ≤ (s.here.engine 0).last) ∧
    (∃ c, (s.here.patch 2).drained = some c ∧ s.here.clk < c + Config.drainDelay) := by
  refine ⟨by unfold State.runs State.seated handled; decide +kernel, by decide +kernel, by decide +kernel, by decide +kernel, by decide +kernel,
    by decide +kernel, by decide +kernel, by decide +kernel, ⟨37, by decide +kernel⟩⟩

/-- An RNOP for CE1 that may enter, a full queue, an MCLR of nothing that its check refuses, and a CHAIN of one record. -/
theorem test_premises_RecordDispatch :
    let h : RecHdr := ⟨on, 2, ⟨0, 0, 0⟩, ⟨0, 0, 0⟩, none, none, none, none⟩
    let full := runsAs job { core0 with engines := [(2, ⟨List.replicate 16 (record 1 .rnop 2 0), 0, 16, [], []⟩)] }
    let list := runsAs job { core0 with s := putBytes [] 0x400 (leBytes 64 0x02011F03) }
    base.runs on (Uses.scalar [] []) ∧ full.runs on (Uses.scalar [] []) ∧ list.runs on (Uses.scalar [] []) ∧ handled base ∧
    (base.here.engine 2).queue.countP (fun r => !r.member) < 16 ∧ 16 ≤ (full.here.engine 2).queue.countP (fun r => !r.member) ∧
    (∃ u, base.place 0 0 .rnop h (captured h base.rS 0) = .ok u) ∧
    (∃ f, base.place 0 0 .mclr { h with qsel := 0 } (captured h base.rS 0) = .error f ∧ decide (f.code ≠ 0x0C ∧ f.priority ≤ 16) = true) ∧
    ∃ u, list.place 0 0 .chain h 0x100000400 = .ok u := by
  refine ⟨by unfold State.runs State.seated; decide +kernel, by unfold State.runs State.seated; decide +kernel,
    by unfold State.runs State.seated; decide +kernel, by unfold handled; decide +kernel, by decide +kernel, by decide +kernel,
    ok_some (by decide +kernel), error_some (by decide +kernel), ok_some (by decide +kernel)⟩

theorem some_of {α : Type} {o : Option α} (h : o.isSome = true) : ∃ u, o = some u := Option.isSome_iff_exists.mp h

/-- A queue with room, one that is full, one that is disabled, one without the right; offsets at the end of the store, beyond
it and not aligned.  A record for the other core, which has room, which is full, whose check refuses it, and a wrong rank. -/
theorem test_premises_SpawnsAndRequests :
    let q : Queue := { Queue.initial with base := 0x100000, en := true, space := true, spawn := true, size := 4, pi := 9, ci := 5, tenant := 1 }
    let rec1 := leBytes 64 (0x1F03 : Nat)
    let at_ := fun (qs : Map Queue) (s1 : Word) (engines : Map Engine) =>
      { runsAs { job with width := 2, cores := [0, 1] } { core0 with
          s := putBytes (putBytes [] 0xFFFC0 rec1) 0xFFF80 (leBytes 64 (0x3003 : Nat)),
          strands := [{ lead with s := [(1, s1), (2, 0xFFFC0), (3, 128), (4, 0xFFFE0), (5, 0xFFFC4), (6, 0xFFF80)] }] } with
        coreTab := [(0, { core0 with
            s := putBytes (putBytes [] 0xFFFC0 rec1) 0xFFF80 (leBytes 64 (0x3003 : Nat)),
            strands := [{ lead with s := [(1, s1), (2, 0xFFFC0), (3, 128), (4, 0xFFFE0), (5, 0xFFFC4), (6, 0xFFF80)] }] }),
          (1, { Core.initial with task := some 0, rank := 1, engines := engines })]
        queues := qs, queueTables := [(1, BitVec.allOnes 1280)], hostPages := [256] }
    let s := at_ [(1, q)] 1 []
    let k : Machine.Task := { job with width := 2, cores := [0, 1] }
    let full := at_ [(1, { q with pi := 21 })] 1 [(0, ⟨List.replicate 16 (record 1 .rnop 0 0), 0, 16, [], []⟩)]
    let disabled := at_ [(1, { q with en := false })] 1 []
    let refused := at_ [(1, { q with spawn := false })] 2 []
    let open_ := s.setCore 1 { s.core 1 with picks := some [0] }
    let h : RecHdr := ⟨on, 0, ⟨0, 0, 0⟩, ⟨0, 0, 0⟩, none, none, none, none⟩
    (∀ x, x ∈ [s, full, disabled, refused] → x.runs on (Uses.scalar [1, 2] [7]) ∧ x.runs on (Uses.scalar [1, 2] []) ∧ x.here.task = some 0 ∧
      x.task? 0 = some k ∧ k.pure = false ∧ x.here.writes = [] ∧ x.poison = [] ∧ handled x ∧
      x.ringRace (.strand x.cur.1 x.cur.2) (.store x.cur.1 2 0xFFFC0) = none) ∧
    (∀ x, x ∈ [s, full, disabled] → (tableAllows (mapGet x.queueTables 1 0) (.tenant k.tenant) true = true ∧ (x.queue 1).spawn = true) ∧
      (x.rS 1).toNat ≤ 127 ∧ (x.rS 2).toNat + 64 = Config.sBytes ∧ (x.rS 2).toNat % 64 = 0) ∧
    ((s.queue 1).en = true ∧ (s.queue 1).halted = false ∧ ((s.queue 1).pi - (s.queue 1).ci).toNat ≠ (s.queue 1).slots) ∧
    ((full.queue 1).en = true ∧ ((full.queue 1).pi - (full.queue 1).ci).toNat = (full.queue 1).slots) ∧ (disabled.queue 1).en = false ∧
    (∃ u, s.writeSlot 1 (s.queue 1).pi (bytesAt s.here.s 0xFFFC0 64) = some u) ∧
    (127 < (s.rS 3).toNat ∧ ¬ (tableAllows (mapGet refused.queueTables 2 0) (.tenant k.tenant) true = true ∧ (refused.queue 2).spawn = true) ∧
      Config.sBytes < (s.rS 4).toNat + 64 ∧ (s.rS 5).toNat + 64 > Config.sBytes ∧ (s.rS 6).toNat % 64 = 0) ∧
    (let word := leNat (bytesAt s.here.s 0xFFFC0 64)
     (s.rS 1).toNat < 2 ^ 25 ∧ (s.rS 1).toNat / 2 ^ 16 % 8 = 0 ∧ word % 4 = 3 ∧ word / 4 % 32 = 0 ∧ word.testBit 16 = false ∧
       decodeN 0 word = .ok (recordOp .rnop h 0) ∧ engineOf .rnop h.qsel = 0) ∧
    decodeN 0 (leNat (bytesAt s.here.s 0xFFF80 64)) = .ok (recordOp .mclr h 0) ∧
    (s.coreOfRank k ((s.rS 1).toNat % 2 ^ 16) = some 1 ∧ dieOf 1 = dieOf s.cur.1 ∧ 1 ≠ s.cur.1 ∧ s.queueFull 1 0 = false ∧
      s.clockOpen 1 = false ∧ full.clockOpen 1 = false ∧ open_.clockOpen 1 = true) ∧
    (∃ u, s.place 1 1 .rnop h 0 = .ok u) ∧ full.queueFull 1 0 = true ∧
    (∃ f, s.place 1 1 .mclr h 0 = .error f ∧ decide (f.code ≠ 0x0C) = true) ∧ refused.coreOfRank k ((refused.rS 1).toNat % 2 ^ 16) = none := by
  refine ⟨by unfold State.runs State.seated handled; decide +kernel, by decide +kernel, by decide +kernel, by decide +kernel, by decide +kernel,
    some_of (by decide +kernel), by decide +kernel,
    ⟨by decide +kernel, by decide +kernel, by decide +kernel, by decide +kernel, by decide +kernel, ok_of (by decide +kernel), by decide +kernel⟩,
    ok_of (by decide +kernel), by decide +kernel, ok_some (by decide +kernel), by decide +kernel, error_some (by decide +kernel), by decide +kernel⟩

/-- Every step of a cold and of a warm start, with ports up or not, few and many retries; every outcome of the checks of an
image, whose algorithms are free functions, is one of the six cases. -/
theorem test_premises_PowerAndStart :
    let at_ := fun step warm retries ports =>
      ({ State.reset with mbxState := 0, boot := ⟨0, 0, retries, warm, step⟩, ports := ports } : State)
    let up := (List.range 12).map fun p => (p, { Port.initial with state := 2 })
    (({ base with power := false } : State).power = false ∧ base.power = true ∧ base.mbxState ≠ 2 ∧
      ({ base with mbxState := 2 } : State).mbxState = 2) ∧
    (∀ k, k ∈ [1, 2, 3, 4, 5, 6] → (at_ k false 0 []).power = true ∧ (at_ k false 0 []).mbxState = 0 ∧ (at_ k false 0 []).boot.step = k ∧
      (at_ k false 0 []).startLog.length < 4096) ∧
    ((at_ 2 true 0 up).boot.warm = true ∧ ∀ p, p < 12 → ((at_ 2 true 0 up).port p).state = 2) ∧
    ((at_ 2 true 0 []).boot.warm = true ∧ ∃ p, p < 12 ∧ ((at_ 2 true 0 []).port p).state ≠ 2) ∧
    ((at_ 3 false 2 []).boot.retries < 3 ∧ 3 ≤ (at_ 3 false 3 []).boot.retries) ∧
    (11 < 12 ∧ ((at_ 5 false 0 []).port 11).state ≠ 2) ∧
    ∀ (w : FwImage) (s : State),
      let keys := Config.sha384 w.rsaPub = Config.fuseF0 ∧ Config.sha384 w.slhPub = Config.fuseF1
      let whole := w.magic = 0x4C475846 ∧ w.length = w.body.length ∧ Config.sha384 w.body = w.digest
      let rsa := Config.rsaVerify w.rsaPub w.rsaSig (FwImage.signed w) = true
      let slh := Config.slhVerify w.slhPub w.slhSig (FwImage.signed w) = true
      ¬ keys ∨ keys ∧ ¬ rsa ∨ keys ∧ rsa ∧ ¬ slh ∨ keys ∧ rsa ∧ slh ∧ ¬ whole ∨
        keys ∧ rsa ∧ slh ∧ whole ∧ (w.version < s.rollback ∨ 64 < w.version) ∨
        keys ∧ rsa ∧ slh ∧ whole ∧ s.rollback ≤ w.version ∧ w.version ≤ 64 := by
  refine ⟨by decide +kernel, by decide +kernel, by decide +kernel, ⟨by decide +kernel, ⟨0, by decide +kernel⟩⟩, by decide +kernel,
    by decide +kernel, ?_⟩
  intro w s keys whole rsa slh
  by_cases h1 : keys <;> by_cases h2 : rsa <;> by_cases h3 : slh <;> by_cases h4 : whole <;>
    by_cases h5 : w.version < s.rollback <;> by_cases h6 : 64 < w.version <;> simp_all

theorem greatest_of {p : Nat → Prop} [DecidablePred p] {k : Nat} (h1 : 4 ≤ k ∧ k ≤ 16 ∧ (p k ∨ k = 4))
    (h2 : ((List.range 17).all fun j => !decide (k < j) || !decide (p j)) = true) : greatestRatio p k :=
  ⟨h1.1, h1.2.1, h1.2.2, fun j hj hle hp => by
    have := List.all_eq_true.mp h2 j (List.mem_range.mpr (by omega))
    simp [hj, hp] at this⟩

/-- Readings of four dies: one over its share at every ratio but the least, one within it up to 8, and two idle. -/
def measured : List PowerReading :=
  [⟨50, 500 :: List.replicate 12 900⟩, ⟨105, List.replicate 5 450 ++ List.replicate 8 800⟩, ⟨50, List.replicate 13 100⟩, ⟨99, List.replicate 13 100⟩]

/-- The part not ready, ready with a core of a task and one without; a strand at a fence of an earlier clock and of this one; an
evaluation that is not due, and is due in this very tick; dies below, above and at the limit found; package limits that do and do
not lower them; the temperatures of R19. -/
theorem test_premises_ClocksAndLimits :
    let fences := { core0 with strands := [{ lead with hold := some (.fence 99) }, { lead with hold := some (.fence 100) }] }
    let s := { base with coreTab := [(0, fences), (5, Core.initial)], tick := 1030, evalTick := 6,
                         dies := [(1, { Die.initial with limitK := 4 }), (2, { Die.initial with limitK := 4 }), (3, { Die.initial with limitK := 10 })] }
    let quiet := { s with evalTick := 7 }
    let own := fun e => [4, 8, 16, 16].getD e 0
    (State.reset.ready = false ∧ s.ready = true ∧ mapFind s.coreTab 0 ≠ none ∧ s.taskOf 0 = some job ∧ mapFind s.coreTab 5 ≠ none ∧
      s.taskOf 5 = none ∧ s.power = true ∧ s.evalTick + 1024 = s.tick ∧ quiet.tick < quiet.evalTick + 1024 ∧ quiet.ready = true ∧
      measured.length = 4 ∧ ∀ r, r ∈ measured → r.temp < 110) ∧ shareRatios measured own ∧
      limitRatio measured 400 own 3200 16 ∧ limitRatio measured 400 own (Min.min (Max.max s.watts.toNat 1200) 3200) 16 ∧
      limitRatio measured 2600 own 3200 4 ∧
      (Min.min (own 0) 16 < (s.die 0).limitK ∧ (s.die 1).limitK < Min.min (own 1) 16 ∧ (s.die 3).limitK = Min.min (own 3) 10) ∧
      (∃ r, r ∈ [(⟨110, []⟩ : PowerReading)] ∧ 110 ≤ r.temp) ∧ 100 ≤ 100 ∧ 110 ≤ 110 := by
  intro fences s quiet own
  have share : ∀ e, e < 4 → greatestRatio (fun k => ((measured.getD e ⟨0, []⟩).draw.getD (k - 4) 0) ≤ Config.dieWatts) (own e) := by
    intro e he
    obtain rfl | rfl | rfl | rfl : e = 0 ∨ e = 1 ∨ e = 2 ∨ e = 3 := by omega
    all_goals exact greatest_of (by decide +kernel) (by decide +kernel)
  refine ⟨by decide +kernel, fun e r h => ?_,
    greatest_of (by decide +kernel) (by decide +kernel), greatest_of (by decide +kernel) (by decide +kernel),
    greatest_of (by decide +kernel) (by decide +kernel), by decide +kernel, ⟨_, List.mem_singleton.mpr rfl, by decide⟩, by decide, by decide⟩
  have he : e < 4 := (List.getElem?_eq_some_iff.mp h).1
  have := share e he
  rwa [List.getD_eq_getElem?_getD, h] at this

/-- A function with mailbox data. -/
def posted (f : Nat) (data : Nat) (x : Fn) : State :=
  { base with fns := [(f, { x with data := BitVec.ofNat 2048 data })], tasks := [], coreTab := [] }

/-- Each command busy, refused, with arguments at both ends of their ranges, and with those beyond; the lengths of a report and
the unwrapping of keys are free, and each falls under one case. -/
theorem test_premises_MailboxCommands :
    let arg := fun (s : State) f off n => ((s.fn f).data.extractLsb' (8 * off) (8 * n)).toNat
    let z := posted 0 0 Fn.initial
    let safe := { z with mbxState := 2 }
    (z.power = true ∧ 63 < 64 ∧ 255 < 256 ∧ 255 ∉ [0x01, 0x02, 0x10, 0x11, 0x20, 0x21, 0x22, 0x30, 0x31] ∧ (z.fn 0).busy = none ∧
      z.mbxState = 1 ∧ safe.mbxState = 2 ∧ (safe.fn 0).busy = none ∧ commandIs 0 (.getAttest 0) 0x10) ∧
    ((posted 0 0 { Fn.initial with busy := some ⟨3, 1, 9⟩ }).fn 0).busy.isSome = true ∧
    (arg (posted 0 65280 Fn.initial) 0 0 4 % 256 = 0 ∧ arg (posted 0 65280 Fn.initial) 0 0 4 < 65536 ∧
      65536 ≤ arg (posted 0 65536 Fn.initial) 0 0 4) ∧
    (arg (posted 0 1 Fn.initial) 0 0 4 % 256 ≠ 0 ∧ arg (posted 0 (2 ^ 256) Fn.initial) 0 32 8 % 4096 ≠ 0) ∧
    (reportLength ≤ arg z 0 40 4 ∨ arg z 0 32 8 % 4096 ≠ 0 ∨ arg z 0 40 4 < reportLength) ∧
    (let y := posted 0 1440 { Fn.initial with part := List.replicate 1440 7 }
     arg z 0 0 4 = 0 ∧ arg z 0 4 4 = 0 ∧ arg y 0 0 4 = 1440 ∧ arg y 0 4 4 = 0 ∧ (y.fn 0).part.length = 1440 ∧
       1568 ≤ arg (posted 0 1680 Fn.initial) 0 0 4) ∧
    (let y := posted 0 (63 + 2 ^ 16 * 511) Fn.initial
     arg y 0 0 2 ≠ 0 ∧ arg y 0 0 2 < 64 ∧ arg y 0 2 2 ≠ 0 ∧ arg y 0 2 2 < 512 ∧ arg z 0 0 2 = 0 ∧
       512 ≤ arg (posted 0 (1 + 2 ^ 16 * 512) Fn.initial) 0 2 2) ∧
    (let y := posted 0 511 Fn.initial
     arg y 0 0 2 ≠ 0 ∧ arg y 0 0 2 < 512 ∧ y.tenantBusy 511 = false ∧
       ({ y with tasks := [(0, { job with tenant := 511 })] } : State).tenantBusy 511 = true) ∧
    (let y := posted 0 (1 + 2 ^ 32 * 9) { Fn.initial with session := some (9, 5) }
     arg y 0 0 2 ≠ 0 ∧ arg y 0 0 2 < 512 ∧ arg y 0 2 2 < 64 ∧ (y.fn 0).session = some (arg y 0 4 8, 5) ∧
       (y.keySlot 1).loaded = false ∧ (({ y with keys := [(1, ⟨true, 1, 1, 1⟩)] } : State).keySlot 1).loaded = true ∧
       (Config.unwrapKeys 5 (leBytes 104 (arg y 0 16 104)) = none ∨ ∃ key, Config.unwrapKeys 5 (leBytes 104 (arg y 0 16 104)) = some key)) ∧
    (let y := posted 0 0 { Fn.initial with busy := some ⟨3, 1, 9⟩, en := true }
     (y.fn 0).busy = some ⟨3, 1, 9⟩ ∧ y.memoryWf = true ∧ (y.fn 0).en = true ∧ (y.fn 0).backlog = [] ∧ (y.fn 0).ringFull = false) := by
  refine ⟨by unfold commandIs; decide +kernel, ?busy, ?version, ?aligned, ?report, ?part, ?assigned, ?revoked,
    ⟨?tenant, ?below, ?slot, ?session, ?empty, ?loaded, ?unwrap⟩, ?reset⟩
  case report =>
    rcases Nat.lt_or_ge (((posted 0 0 Fn.initial).fn 0).data.extractLsb' (8 * 40) (8 * 4)).toNat reportLength with h | h
    · exact .inr (.inr h)
    · exact .inl h
  case unwrap =>
    cases Config.unwrapKeys 5 (leBytes 104 _) with
    | none => exact .inl rfl
    | some key => exact .inr ⟨key, rfl⟩
  all_goals decide +kernel

/-- A part whose function 0 has the hub registers, with two tenants' pools, a parked strand, and pages of tenant 1. -/
def hosted : State :=
  let q := { core0 with
    strands := [lead, { lead with hold := some (.parked 1) }], handles := [(1, slotOf desc), (3, slotOf { desc with space := 4, fmt := .mx8e4, rank := 2 })]
    engines := [(0, ⟨[{ record 3 .mclr 0 2 with binds := [(3, slotOf { desc with space := 4, base := 0x7000 })] }], 2, 3, [], []⟩)] }
  { (State.reset.placeCode []) with
    agenda := [], tasks := [(0, job)], coreTab := [(0, q)], keys := [(0, ⟨true, 0, 0, 0⟩), (1, ⟨true, 0, 0, 0⟩)], ptroot := [(1, 0x20001)]
    fns := [(1, { Fn.initial with en := true, backlog := [⟨1, 3, 4, 9, 5, 77⟩], tenant := 1 })]
    queues := [(1, { Queue.initial with en := true, size := 4, pi := 9, ci := 5 }), (2, Queue.initial)]
    queueTables := [(1, BitVec.ofNat 1280 (3 * 2 ^ 1026))], hubTable := BitVec.ofNat 1280 (3 * 2 ^ 1024)
    parks := [(1, ⟨0, 1, 3, 0x7000⟩)], pools := [(2, { Pool.initial with quota := 131070 })], hostPages := [2 ^ 52 + 3]
    watchRegions := [(1, ⟨0x800000, true⟩)] }

/-- Functions with the right and without; indices, sizes and offsets at both ends of their ranges and beyond; a queue enabled and
disabled, and producer indices within its slots and one ahead of them; an event that waits and a ring with room for it. -/
theorem test_premises_HostAccesses_registers :
    let s := hosted
    let held := { s with tasks := [(0, { job with saved := [(0, ⟨0, Core.initial, []⟩)] })] }
    let may := fun n f (v : BitVec 64) => tableAllows (s.accessTable (.queue n)) (.func f) true = true ∧ (s.queue n).spawn = false ∧
      (v.extractLsb' 32 32).toNat = 0
    (s.power = true ∧ 63 < 64 ∧ 127 < 128 ∧ ¬ may 127 1 9 ∧ may 1 1 21 ∧ ¬ may 1 1 (2 ^ 32) ∧ s.notices = []) ∧
    (let q := s.queue 1
     let slots := 2 ^ (Min.min (Max.max q.size 4) 16)
     q.en = true ∧ ((21 : BitVec 32) - q.ci).toNat ≤ slots ∧ slots < ((22 : BitVec 32) - q.ci).toNat ∧ (q.pi - q.ci).toNat < 17 ∧
       (s.queue 2).en = false) ∧
    ((s.fn 63).backlog = [] ∧ (s.fn 1).backlog = [⟨1, 3, 4, 9, 5, 77⟩] ∧ (s.fn 1).en = true ∧ s.memoryWf = true ∧
      ({ s.fn 1 with head := 0 } : Fn).ringFull = false ∧ (2 ≠ 4 ∧ 2 ≠ 8) ∧ 4 % 8 ≠ 0 ∧ 0x39C00 % 8 = 0 ∧ ∀ p, p ∈ s.tasks → p.2.saved = []) ∧
    (¬ hubGrants s 1 true ∧ hubGrants s 0 true ∧ hubGrants { s with hubTable := BitVec.allOnes 1280 } 63 true) ∧
    ∃ p, p ∈ held.tasks ∧ p.2.saved ≠ [] := by
  refine ⟨by decide +kernel, by decide +kernel, by decide +kernel, by unfold hubGrants; decide +kernel, ?_⟩
  exact ⟨_, List.mem_singleton.mpr rfl, by decide +kernel⟩

/-- Functions with and without the right; entries parked and not; a strand whose handler is ready; shootdowns idle, busy, drained
and not; a slot in the range; pool descriptors that bind and do not; quotas at and above 131,072; watch regions of this index and
another; granules allowed and not; pages that a queued record uses and not. -/
theorem test_premises_HostAccesses_services :
    let s := hosted
    let s1 := { s with hubTable := 0 }
    let busy := { s with sdBusy := true, sdWait := [(0, 0, 3)] }
    let v : BitVec 64 := BitVec.ofNat 64 (2 ^ 31 + 2 ^ 20 + 2 ^ 32 * 3)
    let pooled := { s.placeBytes 0x60000 (leBytes 8 0x1800010004 ++ leBytes 8 0x10000 ++ leBytes 4 65536 ++ leBytes 20 0x100000001000000010000000100000001 ++
      leBytes 88 0) with ptroot := [(0, 0x20001)] }
    let all := fun (n : Nat) => (List.range n).map fun i => (i, (BitVec.allOnes 1280 : AccessTable))
    let open_ := { s with hbmTables := all 16 }
    let reads := { s with tasks := [(0, { job with func := 1 })], coreTab := [(0, { core0 with
        engines := [(0, ⟨[{ record 3 .mclr 0 2 with binds := [(3, { slotOf { desc with space := 5, base := 0x3000 } with func := 1 })] }], 2, 3, [], []⟩)] })] }
    (s.power = true ∧ 63 < 64 ∧ hubGrants s 0 true ∧ ¬ hubGrants s1 0 true ∧ hubGrants s 0 false ∧ ¬ hubGrants s1 0 false) ∧
    (255 < 256 ∧ mapFind s.parks 255 = none ∧ mapFind s.parks 1 = some ⟨0, 1, 3, 0x7000⟩ ∧ 1 < (s.core 0).strands.length ∧
      ((s.core 0).strand 1).trapvec ≠ 0 ∧ ((s.core 0).strand 1).trapinfo.getLsbD 9 = false ∧ (s.core 0).task = some 0 ∧
      s.task? 0 = some job ∧ job.id.toNat = 0 ∧ job.aborted = none) ∧
    (busy.sdBusy = true ∧ v.getLsbD 31 = true ∧ (v &&& 0xFFFFFFFF7FFFFFFF).getLsbD 31 = false ∧ s.sdBusy = false ∧ s.taskOf 0 = some job ∧
      job.tenant = (v.extractLsb' 20 9).toNat) ∧
    (∃ r, r ∈ ((s.core 0).engine 0).queue ∧ ∃ b, b ∈ r.binds ∧ inRange b.2 0x6000 (0x6000 + 3 * 4096)) ∧
    (let drained := fun (s : State) => ∀ w, w ∈ s.sdWait → ∀ e, e ∈ (s.core w.1).engines → ∀ r, r ∈ e.2.queue → (r.core, r.eng, r.num) ≠ w
     drained s ∧ ¬ drained busy) ∧
    (511 < 512 ∧ (s.dropResults 511).bindPool 511 0 = none ∧ (pooled.dropResults 0).bindPool 0 0x10000 = some ([⟨0x10000, 0x60000, 65536, 0⟩], 65536)) ∧
    (let quotas := ((s.pools.filter fun p => p.1 != 1).map fun p => p.2.quota).sum
     131072 < 3 + quotas ∧ 2 + quotas ≤ 131072 ∧ ∀ r, r ∈ s.results → r.readers = []) ∧
    (3 < 4 ∧ (BitVec.ofNat 64 (2 ^ 38) : BitVec 64).extractLsb' 38 2 = 1 ∧ (mapGet s.watchRegions 1 ⟨0, false⟩).en = true ∧
      (mapGet s.watchRegions 3 ⟨0, false⟩).en = false) ∧
    (s.ready = true ∧ s.memoryWf = true ∧ hostMay open_ 1 1 0x800000 4 true ∧ hostMay open_ 0 1 0x800000 4 true ∧ ¬ hostMay s 1 1 0x800000 4 true ∧
      ¬ hostMay open_ 1 0 0x800000 4 true ∧ open_.watched 0x800 = false) ∧
    (let uses := fun (s : State) (f page pages : Nat) => ∃ p, p ∈ s.coreTab ∧ ∃ e, e ∈ p.2.engines ∧ ∃ r, r ∈ e.2.queue ∧ ∃ b, b ∈ r.binds ∧
       b.2.desc.space = 5 ∧ b.2.func = f ∧ inRange b.2 (page * 4096) ((page + pages) * 4096)
     uses reads 1 3 1 ∧ ¬ uses s 1 3 1) := by
  refine ⟨by unfold hubGrants; decide +kernel, by decide +kernel, by decide +kernel,
    ⟨_, List.mem_singleton.mpr rfl, _, List.mem_singleton.mpr rfl, ⟨_, _, rfl, by decide +kernel⟩⟩, by decide +kernel, by decide +kernel, by decide +kernel, by decide +kernel, ?_, ?_⟩
  · have one : ∀ g, g % 256 = 0 → 0x800000 / 256 * 256 ≤ g → g < 0x800000 + 4 → g = 0x800000 := fun g _ _ _ => by omega
    exact ⟨by decide +kernel, by decide +kernel, ⟨fun g h0 h1 h2 => one g h0 h1 h2 ▸ by decide +kernel, by decide +kernel⟩,
      ⟨fun g h0 h1 h2 => one g h0 h1 h2 ▸ by decide +kernel, by decide +kernel⟩,
      fun h => absurd (h.1 0x800000 rfl (by decide) (by decide)) (by decide +kernel), fun h => absurd h.2.1 (by decide +kernel), by decide +kernel⟩
  · refine ⟨⟨_, List.mem_singleton.mpr rfl, _, List.mem_singleton.mpr rfl, _, List.mem_singleton.mpr rfl, _, List.mem_singleton.mpr rfl, rfl, rfl, ⟨_, _, rfl, by decide +kernel⟩⟩, ?_⟩
    rintro ⟨p, hp, e, he, r, hr, b, hb, h5, -⟩
    exact absurd ⟨p, hp, e, he, r, hr, b, hb, h5⟩ (by decide +kernel :
      ¬ ∃ p, p ∈ hosted.coreTab ∧ ∃ e, e ∈ p.2.engines ∧ ∃ r, r ∈ e.2.queue ∧ ∃ b, b ∈ r.binds ∧ b.2.desc.space = 5)

/-- Functions with and without the right to read; offsets of 4 and 8 bytes and malformed ones; package memory allowed and not. -/
theorem test_premises_HostAccesses_reading :
    let all := fun (n : Nat) => (List.range n).map fun i => (i, (BitVec.allOnes 1280 : AccessTable))
    let s := { hosted with agenda := [.registerRead 0 true 0 4, .core 0] }
    let open_ := { hosted with agenda := [.memoryRead 1 1 0x800000 4], hbmTables := all 16 }
    (s.power = true ∧ s.agenda = .registerRead 0 true 0 4 :: [.core 0] ∧ 4 % 8 ≠ 0 ∧ 0x39C00 % 8 = 0 ∧ 11 < 12 ∧ 127 < 128 ∧ 31 < 32 ∧ open_.ready = true ∧
      0x800000 + 4 ≤ Config.hbmBytes ∧ 4 ≠ 0 ∧ 1 < 512) ∧
    (hubGrants s 0 false ∧ ¬ hubGrants s 1 false) ∧ (hostMay open_ 1 1 0x800000 4 false ∧ ¬ hostMay s 1 1 0x800000 4 false) := by
  refine ⟨by decide +kernel, by unfold hubGrants; decide +kernel, ⟨fun g _ h1 h2 => ?_, by decide +kernel⟩,
    fun h => absurd (h.1 0x800000 rfl (by decide) (by decide)) (by decide +kernel)⟩
  obtain rfl : g = 0x800000 := by omega
  decide +kernel

/-- A value is computed before `k` goes on with it. -/
def strictly {β : Type} (n : Nat) (k : Nat → β) : β := Nat.rec (k 0) (fun m _ => k (m + 1)) n
theorem strictly_eq {β : Type} (n : Nat) (k : Nat → β) : strictly n k = k n := by cases n <;> rfl
/-- A fold that computes each value before the next. -/
def strictFold {α : Type} (f : Nat → α → Nat) : Nat → List α → Nat
  | v, [] => v
  | v, a :: l => strictly (f v a) fun v => strictFold f v l
theorem strictFold_eq {α : Type} (f : Nat → α → Nat) (l : List α) : ∀ v, strictFold f v l = l.foldl f v := by
  induction l with
  | nil => exact fun _ => rfl
  | cons a l ih => exact fun v => by rw [strictFold, strictly_eq, ih, List.foldl_cons]
def crcNow (bs : List Byte) : Nat := strictFold crcByte 0xFFFFFFFF bs ^^^ 0xFFFFFFFF
theorem crcNow_eq (bs : List Byte) : crcNow bs = crc32c 0 bs := by rw [crcNow, strictFold_eq]; rfl
def syndromeNow (word : List Nat) (j : Nat) : Nat := strictly (gfExp j) fun r => strictFold (fun v b => gfMul v r ^^^ b) 0 word
theorem syndromeNow_eq (word : List Nat) (j : Nat) : syndromeNow word j = fecSyndrome word j := by
  rw [syndromeNow, strictly_eq, strictFold_eq]; rfl
theorem correct_clean {w : List Nat} (h : ((upTo 6).all fun j => syndromeNow w j == 0) = true) : fecCorrect w = w := by
  have : (fecSyndromes w).all (· == 0) = true := by
    rw [fecSyndromes, List.all_map]; simpa only [syndromeNow_eq, Function.comp_def] using h
  rw [fecCorrect]; simp only [this, if_true]
/-- A flit whose two codewords are whole, and whether its CRC holds, each computed in turn. -/
def whole (x : BitVec 2048) (crc : Bool) : Bool :=
  let bs := byteNumbers 256 x.toNat
  ((upTo 6).all fun j => syndromeNow (alternate bs) j == 0) && ((upTo 6).all fun j => syndromeNow (alternate (bs.drop 1)) j == 0) &&
    BitVec.ofNat 2048 (numberOf (interleave (alternate bs) (alternate (bs.drop 1)))) == x &&
    (crcNow (leBytes 240 x.toNat) == bvField x 1920 32) == crc
theorem whole_corrected {x : BitVec 2048} {crc : Bool} (h : whole x crc = true) : Flit.corrected x = x ∧ Flit.crcOk (Flit.corrected x) = crc := by
  simp only [whole, Bool.and_eq_true, beq_iff_eq, crcNow_eq] at h
  obtain ⟨⟨⟨h1, h2⟩, h3⟩, h4⟩ := h
  have e : Flit.corrected x = x := by rw [Flit.corrected]; simp only [correct_clean h1, correct_clean h2, h3]
  exact ⟨e, by rw [e, Flit.crcOk]; exact h4⟩

/-- A flit as it comes: its low bits, its CRC and its parity; no payload. -/
def arrived (a c p : Nat) : BitVec 2048 := BitVec.ofNat 2048 (a + c * 2 ^ 1920 + p * 2 ^ 1952)
/-- The low bits of a flit (R22): TYPE, SEQ, ACK, virtual channel, DEST and HOPS. -/
def flitBits (typ seq ack vc dest hops : Nat) : Nat := typ + seq * 2 ^ 4 + ack * 2 ^ 16 + vc * 2 ^ 28 + dest * 2 ^ 32 + hops * 2 ^ 44

/-- A port that is up and expects flit 4095, with flits 3 and 4 not acknowledged. -/
def port : Port := { Port.initial with state := 2, width := 4, sendSeq := 5, expect := 4095, replay := [(3, 5), (4, 7)], credits := [1, 2, 3, 4], granted := true }

/-- Each type of flit whose CRC holds, in its turn at the end of the range of SEQ and out of it, for this package and another, at the
fourth and the fifth hop. -/
theorem test_premises_LinksAndPeers_flits :
    ∀ x, x ∈ [(flitBits 0 4095 4 0 0 0, 2290167095, 4171604088552865738031725976), (flitBits 4 4095 4 0 0 0, 2044001596, 6298392972572276875192716296),
        (flitBits 2 4095 3 0 0 0, 2505876526, 61209193395467476258412015410), (flitBits 2 4094 3 0 0 0, 1581219601, 46415966196412404192858461136),
        (flitBits 1 4095 3 1 0 0, 1394466573, 64854063671246597119941689406), (flitBits 1 4095 3 3 0 0, 3514457292, 57551281639947820558184358758),
        (flitBits 1 4095 3 2 2 4, 658912458, 59350639293261116544629916919), (flitBits 1 4095 3 2 2 3, 2283510902, 45442181781830227820135690643),
        (flitBits 1 0 3 1 0 0, 4134872051, 40869437028435239471926244086), (flitBits 3 0 4 0 0 0, 678252658, 35461727037833186740486888187)] →
      let w := arrived x.1 x.2.1 x.2.2
      whole w true = true ∧ (w.extractLsb' 0 47).toNat = x.1 := by
  decide +kernel
/-- Each type whose CRC does not hold, and a reserved type. -/
theorem test_premises_LinksAndPeers_damaged :
    ∀ x, x ∈ [(flitBits 0 4095 3 1 2 4, 2570854228, 63912482459551620194410011200, false), (flitBits 1 4095 3 1 2 4, 1726238098, 72314898326768179335714594101, false),
        (flitBits 2 4095 3 1 2 4, 1667288105, 60590086190243499307696277662, false), (flitBits 3 4095 3 1 2 4, 2629345007, 70848644681106016267489480683, false),
        (flitBits 4 4095 3 1 2 4, 1751764831, 66733203625393235913184422864, false), (flitBits 15 0 4 0 0 0, 1048532638, 27961762284058395462500188519, true)] →
      let w := arrived x.1 x.2.1 x.2.2.1
      whole w x.2.2.2 = true ∧ (w.extractLsb' 0 47).toNat = x.1 := by
  decide +kernel

/-- Ports that are up, quiet, with and without credits, in each place of a replay, in training at each attempt, and failed; a route to
a package, and none; the part starting and not. -/
theorem test_premises_LinksAndPeers_ports :
    let s := { base with routes := [(2, 3), (3, 4), (4, 12)], ports := [(0, port), (1, { port with badReplays := 7, discarding := true }),
      (2, { port with badReplays := 8 }), (3, { port with state := 1 }), (4, { port with credits := [0, 0, 0, 0] }), (5, { port with state := 1, attempts := 2 }),
      (6, { port with state := 3 }), (7, { port with replay := [] })] }
    let starting := { s with mbxState := 0, boot := ⟨0, 0, 0, false, 5⟩ }
    (s.power = true ∧ s.starting = false ∧ starting.starting = true ∧ s.mbxState ≠ 2 ∧ ({ s with mbxState := 2 } : State).mbxState = 2 ∧
      ({ s with tasks := [], coreTab := [] } : State).tasks = []) ∧
    (∀ p, p ∈ [0, 1, 2, 4, 7] → (s.port p).state = 2 ∧ (s.port p).tx = [] ∧ (s.port p).owed = [0, 0, 0, 0] ∧ (s.port p).sendSeq < 4096 ∧
      (s.port p).expect < 4096 ∧ (s.port p).replay.length < 256) ∧
    ((s.port 3).state = 1 ∧ (s.port 3).attempts + 1 < 3 ∧ (s.port 5).state = 1 ∧ 3 ≤ (s.port 5).attempts + 1 ∧ (s.port 6).state ≠ 1 ∧ (s.port 6).state ≠ 2) ∧
    (s.routePort 2 = some 3 ∧ s.routePort 3 = some 4 ∧ s.routePort 4 = none ∧ 2 ≠ s.podId.toNat ∧ 1 ≤ (s.port 3).credits.getD 2 0 ∧ (s.port 4).credits.getD 2 0 = 0) ∧
    ((s.port 1).discarding = true ∧ (s.port 0).discarding = false ∧ (4095 + 4096 - 4094) % 4096 < 2048 ∧ ¬ (4095 + 4096 - 0) % 4096 < 2048) ∧
    ((afterAck (s.port 7) 3).replay = [] ∧ (afterAck (s.port 0) 3).replay ≠ [] ∧ (afterAck (s.port 1) 2).badReplays < 8 ∧ 8 ≤ (afterAck (s.port 2) 2).badReplays) := by
  decide +kernel

/-- With one strand on core 0, every outstanding load is one of its. -/
theorem loads_of {s : State} {q : Machine.Core} {x : Strand} (h : s.coreTab = [(0, q)]) (hq : q.strands = [x]) {b j : Nat} {l : OutLoad}
    (hl : l ∈ ((s.core b).strand j).loads) : b = 0 ∧ j = 0 ∧ l ∈ x.loads := by
  rw [State.core, h, mapGet, mapFind] at hl
  by_cases hb : 0 = b
  · subst hb
    cases j with
    | zero => exact ⟨rfl, rfl, by simpa [Core.strand, hq] using hl⟩
    | succ j => simp [Core.strand, hq, Strand.entry] at hl
  · simp [hb, mapFind, Core.strand, Core.initial, Strand.entry] at hl

/-- A part with package memory open to all, a payload of each of two channels in the receive buffer of port 0, and one strand. -/
def peered (x : Strand) : State :=
  let all := fun (n : Nat) => (List.range n).map fun i => (i, (BitVec.allOnes 1280 : AccessTable))
  { hosted with ports := [(0, { port with rx := [(2, 2, 5), (1, 63, 6), (2, 2, 7)] })], portTables := all 12, hbmTables := all 16, pOut := [(4, 2, false)]
                coreTab := [(0, { core0 with strands := [x] })] }

/-- A peer with every right, one whose tenant may not use the key, and one whose key is not loaded; a payload of its channel in the
buffer, and none; a comparison that holds and one that does not; a response that is awaited by a strand, by a load, and by none. -/
theorem test_premises_LinksAndPeers_peers :
    let s := peered { lead with hold := some (.response 4) }
    let u := peered { lead with loads := [⟨3, .peerScalar 4 256 5 .i64 .i64 false⟩] }
    let lost := { s with ports := [] }
    ((s.ready = true ∧ s.memoryWf = true ∧ s.poison = [] ∧ tyI4 .u64 = true) ∧ (∀ y, y ∈ (lost.port 0).rx → y.1 ≠ 1) ∧
      ∀ y, y ∈ s.pOut → y.1 ≠ 5) ∧
    buffered s 0 1 63 [(2, 2, 5)] [(2, 2, 7)] ∧
    (peerMay s 0 63 1 1 0x800000 8 true ∧ peerMay s 0 63 0 1 0x800000 8 false ∧ ¬ peerMay s 0 63 1 0 0x800000 8 true ∧
      ¬ peerMay s 0 63 2 2 0x800000 8 false) ∧
    (let old := leNat (s.hbmRead (s.keySlot 1).gen 0x800000 8)
     old = (0 : BitVec 64).toNat % 2 ^ 64 ∧ old ≠ (1 : BitVec 64).toNat % 2 ^ 64) ∧
    (s.pOut.find? (fun y => y.1 == 4) = some (4, 2, false) ∧ lost.take 2 2 = none ∧ (s.take 2 2).isSome = true ∧ (u.take 2 2).isSome = true) ∧
    (s.awaiting 4 = some (0, 0) ∧ 0 < (s.core 0).strands.length ∧ ∀ b j l, l ∈ ((s.core b).strand j).loads → l.dst.answer 4 9 false = none) ∧
    (u.awaiting 4 = none ∧ 0 < (u.core 0).strands.length ∧ ((u.core 0).strand 0).loads = [] ++ ⟨3, .peerScalar 4 256 5 .i64 .i64 false⟩ :: [] ∧
      ∀ b j l, (b, j) ≠ (0, 0) → l ∈ ((u.core b).strand j).loads → l.dst.answer 4 9 false = none) := by
  intro s u lost
  have one : ∀ g, g % 256 = 0 → 0x800000 / 256 * 256 ≤ g → g < 0x800000 + 8 → g = 0x800000 := fun g _ _ _ => by omega
  refine ⟨by decide +kernel, ⟨6, rfl, by decide⟩, ⟨⟨by decide +kernel, by decide +kernel, by decide +kernel, fun g h0 h1 h2 => one g h0 h1 h2 ▸ by decide +kernel⟩,
    ⟨by decide +kernel, by decide +kernel, by decide +kernel, fun g h0 h1 h2 => one g h0 h1 h2 ▸ by decide +kernel⟩,
    fun h => absurd h.2.1 (by decide +kernel), fun h => absurd h.2.2.1 (by decide +kernel)⟩, by decide +kernel, by decide +kernel,
    ⟨by decide +kernel, by decide +kernel, fun b j l h => ?_⟩, by decide +kernel, by decide +kernel, by decide +kernel, fun b j l hne h => ?_⟩
  · exact absurd (loads_of rfl rfl h).2.2 (by simp [lead, Strand.entry])
  · obtain ⟨rfl, rfl, -⟩ := loads_of rfl rfl h
    exact absurd rfl hne

theorem some_where {α : Type} {o : Option α} {p : α → Bool} (h : (match o with | some x => p x | none => false) = true) :
    ∃ x, o = some x ∧ p x = true := by
  cases o with
  | none => simp at h
  | some x => exact ⟨x, rfl, h⟩

/-- The task of a pod gang of three packages. -/
def podTask : Machine.Task := { job with scope := 2, podmask := 7, bgLevel := 4, bg := ⟨3, 0, 3, 0, 7, 1, 0⟩, attempt := 3 }

/-- A package with that task and reservations, and a message of each peer at the head of a receive buffer, or none. -/
def podded (k : Machine.Task) (gs : List PeerGang) (heard : Bool) : State :=
  let rx := fun peer => if heard then [(0, peer, (5 : BitVec 1856))] else []
  { base with tasks := [(0, k)], peerGangs := gs, routes := [(1, 0), (2, 1)], portTables := [(0, BitVec.allOnes 1280)]
              ports := [(0, { port with rx := rx 1 }), (1, { port with rx := rx 2 })] }

/-- A package without a task, whose port 0 has a message of package 1. -/
def unpodded : State :=
  { (State.reset.placeCode []) with
    tasks := [], coreTab := [], peerGangs := [], portTables := [(0, BitVec.allOnes 1280)], routes := [(1, 0), (2, 1)]
    ports := [(0, { port with rx := [(0, 1, 5)] }), (1, { port with rx := [(0, 1, 6)] })] }

/-- A RESERVE that this package can meet, one it cannot, one that names no pod gang, and one by a peer without the right; one of a task
that was pre-empted, one of a task that was not, and one while it stops. -/
theorem test_premises_PodGangs_reserve :
    let s := unpodded
    let launch := fun (scope mask : Nat) => BitVec.ofNat 512 ((0x01 + 16 * scope) * 2 ^ 16 + 2 ^ 32 + 0x10000 * 2 ^ 64 + mask * 2 ^ 448)
    let may := fun (s : State) p => tableAllows (mapGet s.portTables p 0) (.peer 1) true = true
    let has := fun p (q : State → Bool) => (match s.takeFrom p 0 1 with | some r => q r | none => false) = true
    (s.task? 0 = none ∧ s.peerGangs = [] ∧ s.ready = true ∧ may s 0 ∧ ¬ may s 1 ∧ State.reset.ready = false ∧ s.takeFrom 2 0 1 = none) ∧
    (has 1 fun _ => true) ∧ (has 0 fun r => (r.memberTask 0 3 0 0 1).isNone) ∧
    (has 0 fun r => match r.memberTask 0 3 (launch 2 7) 0 1 with | some k => decide (k.id = 0 ∧ k.scope = 2) | none => false) ∧
    (has 0 fun r => match r.memberTask 0 3 (launch 1 0) 0 1 with | some k => decide (k.id = 0 ∧ k.scope ≠ 2) | none => false) ∧
    (∀ n, n ∈ [4, 1] → let u := podded { podTask with queue := 128, phase := .ready } [⟨1, 0, 3, n, false⟩] true
      u.ready = true ∧ (u.takeFrom 0 0 1).isSome = true ∧ may u 0 ∧ u.task? 0 = some { podTask with queue := 128, phase := .ready } ∧
        u.peerGangs = [⟨1, 0, 3, n, false⟩]) ∧
    (podded { podTask with phase := .stopping } [] true).task? 0 = some { podTask with phase := .stopping } := by
  decide +kernel

/-- Messages in the receive buffers and none; a task that is not here; a launcher that reserves, with the acknowledgement of one peer
or of none, that waits, and that runs, its members done or not; a member that holds its cores, and that runs. -/
theorem test_premises_PodGangs :
    let live := fun (k : Machine.Task) => ((podded k [] true).peersOf k).filter fun q => !(k.peersDone.contains q)
    let reserving := { podTask with phase := .reserving, ackTimer := true }
    let done := { podTask with doneCores := [0], peersDone := [1] }
    let member := { podTask with queue := 128 }
    let holds := fun (k : Machine.Task) => ∀ c, c ∈ k.cores → ((podded k [] true).core c).task = some 0
    ((podded podTask [] false).take 0 1 = none ∧ (unpodded.take 0 1).isSome = true) ∧
    (∀ k, k ∈ [podTask, reserving, { reserving with acks := [1] }, done, member] → (podded k [] true).task? 0 = some k ∧ k.id = 0 ∧ k.attempt = 3 ∧
      k.node = none ∧ mapSorted none (podded k [] true).tasks = true ∧ k.saved = [] ∧ holds k ∧ ((podded k [] true).take 0 1).isSome = true ∧
      ((podded k [] true).take 0 2).isSome = true) ∧
    (reserving.queue < 128 ∧ reserving.phase = .reserving ∧ reserving.ackTimer = true ∧ 1 ∈ live reserving ∧ 2 ∈ live reserving ∧ 2 ∉ reserving.acks ∧
      ∀ q, q ∈ live { reserving with acks := [1] } → q ≠ 2 → q ∈ [1]) ∧
    (({ podTask with delayed := true } : Machine.Task).delayed = true ∧ podTask.phase = .running ∧ podTask.queue < 128 ∧ podTask.broken = false ∧
      1 ∈ live podTask ∧ (∃ c, c ∈ podTask.cores ∧ c ∉ podTask.doneCores) ∧ (∀ c, c ∈ done.cores → c ∈ done.doneCores) ∧ live done = [2] ∧
      ∀ g, g ∈ (podded podTask [] true).peerGangs → g.task ≠ 0) ∧
    (∀ n, n ∈ [0, 1, 2] → (podded member [⟨1, 0, 3, n, true⟩] true).peerGangs = [⟨1, 0, 3, n, true⟩] ∧ 128 ≤ member.queue ∧
      (podded member [⟨1, 0, 3, n, true⟩] true).task? 0 = some member) ∧
    (let s : State := { podded member [⟨1, 0, 3, 2, true⟩] true with agenda := [.gangStop 1 0, .core 0] }
     s.agenda = .gangStop 1 0 :: [.core 0] ∧ (State.take { s with agenda := [.core 0] } 0 1).isSome = true ∧ 1 < 64 ∧ member.phase = .running ∧ member.aborted = none) ∧
    (((podded podTask [] false).peersOf podTask).findSome? (fun q => (podded podTask [] false).take 0 q) = none ∧
      (((podded podTask [] true).peersOf podTask).findSome? fun q => (podded podTask [] true).take 0 q).isSome = true ∧
      podTask.bgLevel = 4 ∧ podTask.bg.bytes = 0 ∧ (podTask.bg.arrivals + (1 : Nat) : Int) < podTask.bg.ca ∧
      podTask.bg.ca ≤ (podTask.bg.arrivals + (2 : Nat) : Int) ∧ podTask.bg.cb ≤ 0) := by
  refine ⟨?_, ?_, ?_, ?_, ?_, ?_, ?_⟩ <;> decide +kernel

/-- Fields of a launch record: offset, length and value of each. -/
def fields (l : List (Nat × Nat × Nat)) : List Byte :=
  leBytes 64 (l.foldl (fun n x => n + x.2.2 * 2 ^ (8 * x.1)) 0)

/-- A part whose queue 1 of tenant 0 has a record next; at 0x10000 stand a node without and a node with DEPS, each of one strand. -/
def launching (bs : List Byte) (flight : List Launch) : State :=
  let node := [(2, 1, 0x11), (4, 2, 1), (8, 8, 0x10000)]
  { (State.reset.placeCode (fields node ++ fields (node ++ [(62, 2, 1)]))) with
    agenda := [], hostPages := [256], hostMem := putBytes [] (0x100000 + 64 * 5) bs, tasks := [], coreTab := []
    queues := [(1, { Queue.initial with
      base := 0x100000, en := true, space := true, size := 4, pi := 9, ci := 5, tenant := 0, prio := 2, taken := 3, flight := flight })] }

/-- A record of each kind and of none; a task and a graph that can be read, and that cannot; queues with a launch in flight that
is concurrent or not, and with 64; a graph with a root and one without; a location that SIGNAL writes. -/
theorem test_premises_LaunchRecords :
    let task := fields [(2, 1, 0x11), (4, 2, 256), (8, 8, 0x10000)]
    let graph := fun at_ => fields [(0, 1, 1), (8, 8, at_), (16, 8, 0x10000), (24, 4, 1)]
    let signal := fields [(0, 1, 3), (8, 8, 0x10040), (16, 8, 5)]
    let free := fun (s : State) bs => (s.queue 1).flight.length < 64 ∧ ((bytesField bs 1 1).testBit 0 = true ∨ (s.queue 1).flight = [])
    (∀ bs, bs ∈ [task, fields [], graph 0x10000, graph 0, fields [(0, 1, 2)], fields [(0, 1, 2), (1, 1, 2)], fields [(0, 1, 2), (1, 1, 1)], signal,
        fields [(0, 1, 3)], fields [(0, 1, 3), (8, 8, 4)], fields [(0, 1, 4)], fields [(0, 1, 255)]] →
      waits (launching bs []) 1 bs ∧ free (launching bs []) bs) ∧
    (let s := launching task []
     s.taskOfRecord 1 (s.taskId 1 3 0) none (fields []) = none ∧ ¬ free (launching task [⟨9, true⟩]) task ∧
       ∃ k, s.taskOfRecord 1 (s.taskId 1 3 0) none task = some k ∧ decide (k.id = s.taskId 1 3 0 ∧ k.queue = 1 ∧ k.pure = false) = true) ∧
    (let s := launching (graph 0x10000) []
     let g : Graph := { id := s.taskId 1 3 0, queue := 1, notify := false, nodes := 0x10000, succ := 0x10000, nnodes := 1, spawnDie := none, counters := []
                        entered := [], live := [], cause := none }
     let taken := (s.consume 1).launch 1 g.id false
     s.graphOfRecord 1 (graph 0) = none ∧ s.graphOfRecord 1 (graph 0x10000) = some g ∧ s.countersFree 1 = true ∧ s.graphs = [] ∧
       taken.graphDeps g = some [0] ∧ taken.graphDeps { g with nodes := 0x10040 } = some [1] ∧
       s.graphOfRecord 1 (graph 0x10040) = some { g with nodes := 0x10040 } ∧
       ∃ x, (taken.setGraph g).nodeTask g 0 = some x ∧ decide (x.id = g.id ∧ x.queue = 1 ∧ x.pure = false) = true) ∧
    (∀ bs, bs ∈ [fields [(0, 1, 2)], fields [(0, 1, 2), (1, 1, 2)]] → (bytesField bs 1 1 = 0 ∨ bytesField bs 1 1 = 2) ∧ bytesField bs 2 62 = 0) ∧
    (let form := fun (s : State) bs => (bytesField bs 1 1 = 0 ∨ bytesField bs 1 1 = 2) ∧ bytesField bs 2 6 = 0 ∧ bytesField bs 24 40 = 0 ∧
       bytesField bs 8 8 % 8 = 0 ∧ (bytesField bs 8 8 = 0 ∨ s.reachable (s.queue 1).tenant (bytesField bs 8 8) 8 false true = true)
     let s := launching signal []
     form s signal ∧ form s (fields [(0, 1, 3)]) ∧ ¬ form s (fields [(0, 1, 3), (8, 8, 4)]) ∧ ¬ form s (fields [(0, 1, 3), (8, 8, 8)]) ∧
       ∃ v, s.gWrite 0 0x10040 ((signal.drop 16).take 8) = .ok v) := by
  refine ⟨by unfold waits; decide +kernel, ⟨by decide +kernel, by decide +kernel, some_where (by decide +kernel)⟩,
    ⟨by decide +kernel, by decide +kernel, by decide +kernel, by decide +kernel, by decide +kernel, by decide +kernel, by decide +kernel,
      some_where (by decide +kernel)⟩, by decide +kernel, ⟨by decide +kernel, by decide +kernel, by decide +kernel, by decide +kernel, ok_some (by decide +kernel)⟩⟩
/-- A task waiting, running with its core done and not, in a loop at each kind of grant, stopping, copying and capturing; a digest
with and without poison, and granules that are watched and not. -/
theorem test_premises_TasksAndLarder :
    let done : Machine.Core := { Core.initial with task := some 0, strands := [{ lead with tdone := true }] }
    let at_ := fun (k : Machine.Task) (q : Machine.Core) => ({ runsAs k q with queues := [(0, { Queue.initial with fifo := [0], flight := [⟨0, true⟩] })] } : State)
    let two := { job with cores := [0, 1] }
    let aborted := { job with aborted := some (0x23, 7) }
    let loop := { job with loop := true }
    let awaiting := { core0 with place := .awaiting }
    let pod := { job with scope := 2 }
    let sent : State := { at_ pod done with pOut := [(0, 2, true)] }
    (∀ k, k ∈ [job, two, pod, aborted, loop, { job with phase := .stopping }, { loop with phase := .stopping }, { job with phase := .copying },
        { job with phase := .capture, void := true, doneCores := [0] }] →
      (at_ k done).task? 0 = some k ∧ k.id = 0 ∧ k.node = none ∧ mapSorted none (at_ k done).tasks = true ∧ k.queue < 128 ∧ k.windows = [] ∧
        ((at_ k done).queue k.queue).fifo.head? = some 0 ∧ ((at_ k done).core 0).task = some 0 ∧ ((at_ k done).core 2).task = none ∧
        (at_ k done).peersOf k = [] ∧ ((at_ k done).core 0).strands ≠ [] ∧ (∀ x, x ∈ ((at_ k done).core 0).strands → x.tdone = true) ∧
        (∀ e, e ∈ ((at_ k done).core 0).engines → e.2.queue = [] ∧ e.2.pend = []) ∧ (at_ k done).poison = []) ∧
    (job.patience = false ∧ ({ job with patience := true } : Machine.Task).patience = true ∧ job.phase = .running ∧ job.aborted = none ∧ 0 ∉ job.doneCores ∧
      (∃ d, d ∈ two.cores ∧ d ≠ 0 ∧ d ∉ two.doneCores) ∧ (∀ d, d ∈ job.cores → d ≠ 0 → d ∈ job.doneCores) ∧ aborted.aborted = some (0x23, 7) ∧
      loop.loop = true ∧ ((at_ loop awaiting).core 0).place = .awaiting ∧ job.returned = [] ∧ job.rem = 0 ∧ 0 < ({ loop with rem := 9 } : Machine.Task).rem ∧
      ({ loop with returned := [(3, 4)] } : Machine.Task).returned = (3, 4) :: []) ∧
    (∀ d, d ∈ job.cores → (∀ x, x ∈ ((at_ job done).core d).strands → x.knext = true ∨ x.tdone = true) ∧
      (∀ e, e ∈ ((at_ job done).core d).engines → e.2.queue = []) ∧ d ∈ ({ job with doneCores := [0] } : Machine.Task).doneCores) ∧
    (((at_ pod done).core 0).writes = [] ∧ (at_ pod done).awaitingAcks = false ∧ sent.awaitingAcks = true ∧ pod.scope = 2) ∧
    (let s : State := { at_ { job with phase := .stopping } core0 with saveSlots := 2, saveBase := 0x10000 }
     job.cores.length ≤ s.freeSlots.length ∧ s.memoryWf = true ∧ job.cores = [0] ∧ job.queue < 128) ∧
    (∀ d, d ∈ job.cores → ∀ x, x ∈ ((at_ job core0).core d).strands →
      (∀ tag, x.hold ≠ some (.response tag)) ∧ ∀ l, l ∈ x.loads → l.dst.pending = false) ∧
    (let h : Handle := { slotOf { desc with space := 4, base := 0x7000 } with runs := [⟨0x7000, 0x800000, 512, 1⟩] }
     let d : Digest := ⟨0, 0, h, none, none, [0x800]⟩
     let s : State := { at_ job done with digests := [d], watch := [0x800], keys := [(1, ⟨true, 0, 1, 1⟩)] }
     let t : State := { s with poison := [.hbm (0x800000 / 32)] }
     s.digestOf 0 0 = some d ∧ s.digestOf 0 1 = none ∧ s.task? 0 = some job ∧ job.void = false ∧ s.poison = [] ∧ t.digestOf 0 0 = some d ∧
       t.digestPoison d ≠ [] ∧ s.watched 0x800 = true ∧ s.watched 0x801 = false) := by
  refine ⟨by decide +kernel, by decide +kernel, by decide +kernel, by decide +kernel, by decide +kernel, fun d hd x hx => ⟨fun tag h => ?_, ?_⟩,
    by decide +kernel⟩
  on_goal 2 =>
    exact (by decide +kernel : ∀ d, d ∈ job.cores → ∀ x, x ∈ ((runsAs job core0).core d).strands → ∀ l, l ∈ x.loads → l.dst.pending = false) d hd x hx
  have all : ∀ d, d ∈ job.cores → ∀ x, x ∈ ((runsAs job core0).core d).strands → x.hold = none ∨ x.hold = some .event := by decide +kernel
  rcases all d hd x hx with e | e <;> rw [e] at h <;> cases h

/-- A record body of fields: byte offset in the record, and value. -/
def bodyOf (l : List (Nat × Nat)) : BitVec 384 := BitVec.ofNat 384 (l.foldl (fun n x => n + x.2 * 2 ^ (8 * (x.1 - 16))) 0)

/-- A record that an engine runs, with its handles, micro-PC and running values. -/
def underway (op : RecOp) (e : Nat) (body : List (Nat × Nat)) (hs : Map Handle) (upc : List Nat) (aux : Map Nat) : Rec :=
  { record 3 op e (bodyOf body) with binds := hs, started := true, upc := upc, aux := aux }

/-- A package whose core 0 has it as the first record of its engine, and whose die serves it. -/
def engaged (r : Rec) (q : Machine.Core) : State :=
  { runsAs job { q with engines := [(r.eng, ⟨[r], 2, 3, [], []⟩)] } with dies := [(0, { Die.initial with neQueue := [(0, 3)] })] }

/-- An S matrix of 8 × 4 elements of FP32 from byte 1024, one of INT8 in two columns, and one of blocks with their scales in slot 3. -/
def matrix : Handle := slotOf { desc with fmt := .f32, rank := 2, base := 1024, ext := [8, 4, 1, 1, 1, 1], pitch := [32, 32, 0, 0, 0, 0] }
def bytesAt512 : Handle := slotOf { desc with fmt := .int8, rank := 2, base := 512, ext := [64, 4, 1, 1, 1, 1], pitch := [64, 64, 0, 0, 0, 0] }
def blocks : Handle := slotOf { desc with fmt := .mx8e4, rank := 2, base := 2048, ext := [32, 4, 1, 1, 1, 1], pitch := [32, 32, 0, 0, 0, 0], slink := 3 }
def packedF32 : Handle := slotOf { desc with fmt := .f32, codec := 1, base := 4096, clen := 256 }

/-- Plain handles; a CFILL with another unit to come, a CPY's last with a result block and its CRC and one without, of a block
format, and of a compressed source whose frames are still to be checked, and are. -/
theorem test_premises_EngineIterations_copy :
    let fill := underway .cfill 1 [(17, 2), (20, 8), (24, 7), (40, 1)] [(2, matrix)] [0, 0, 0, 0, 0, 0] []
    let copy := fun res n src => underway .cpy 1 [(16, 1), (17, 2), (18, 2), (20, 8), (22, res), (40, n)] [(1, src), (2, matrix), (3, slotOf desc)] [0, 0, 0, 0, 0, 0]
    let packed := fun skip => copy 0 0 packedF32 [(auxSkip, skip)]
    (plainS matrix ∧ (engaged fill core0).poison = [] ∧ ((engaged fill core0).core 0).writes = [] ∧ (engaged fill core0).memoryWf = true) ∧
    (recordRuns 0 1 .cfill fill [] (engaged fill core0) ∧ fill.bind (bodyAt fill.body 17 1) = some matrix ∧ nextIndex (copyTrips fill.body) fill.upc ≠ none) ∧
    (∀ x, x ∈ [(copy 0x8010 0 matrix [], matrix), (copy 0 1 matrix [], matrix), (copy 0 0 blocks [], blocks), (packed 0, packedF32), (packed 1, packedF32)] →
      recordRuns 0 1 .cpy x.1 [] (engaged x.1 core0) ∧ x.1.bind (bodyAt x.1.body 16 1) = some x.2 ∧ x.1.bind (bodyAt x.1.body 17 1) = some matrix ∧ x.2.desc.space ≠ 6) ∧
    (copyRes (copy 0x8010 0 matrix []).body = some 512 ∧ nextIndex (copyTrips (copy 0x8010 0 matrix []).body) [0, 0, 0, 0, 0, 0] = none ∧
      copyXcrc (copy 0x8010 0 matrix []).body = true ∧ tyBits matrix.desc.fmt % 8 = 0 ∧ (copy 0x8010 0 matrix []).val auxXlen = 0) ∧
    ((copy 0 0 blocks []).scaleOf blocks = some (slotOf desc) ∧ (copy 0 0 matrix []).scaleOf matrix = none ∧ copyRes (copy 0 0 blocks []).body = none) ∧
    (packedF32.desc.codec ≠ 0 ∧ matrix.desc.codec = 0 ∧ copyCchk (packed 0).body = false ∧ (packed 0).val auxSkip = 0 ∧ (packed 1).val auxSkip ≠ 0) := by
  refine ⟨?_, ?_, ?_, ?_, ?_, ?_⟩ <;> first | decide +kernel | (unfold recordRuns; decide +kernel) | (unfold plainS; decide +kernel)

/-- Chunks in streams 0 and 4 of INT8. -/
def chunk (slot : Nat) : Chunk :=
  { slot := slot, rdim := 1, kdim := 0, orbit := false, chan := 1, num := 1, upc := [0, 0, 0, 0, 0, 0], fmt := .int8, rows := 4, pos := 32, data := 7
    scales := [], weights := [] }

/-- A CPYS whose stream has room, is full, and that TRI passes over. -/
theorem test_premises_EngineIterations_chunks :
    let feed := fun tri upc => underway .cpys 1 [(16, 1), (17, 4), (18, 1), (19, 16 * tri), (44, 1), (48, 1)] [(1, bytesAt512)] upc []
    let full := { core0 with streams := [(4, List.replicate 8 (chunk 1))] }
    let r := feed 0 [0, 0, 0, 0, 0, 0]
    let passed := feed 1 [0, 0, 0, 0, 1, 0]
    (∀ x, x ∈ [(r, core0), (r, full), (passed, core0)] → recordRuns 0 1 .cpys x.1 [] (engaged x.1 x.2) ∧ x.1.bind (bodyAt x.1.body 16 1) = some bytesAt512 ∧
      bytesAt512.desc.space ≠ 6 ∧ x.1.scaleOf bytesAt512 = none ∧ feedOrbit x.1.body = false) ∧
    (feedSkips r.body r.upc = false ∧ feedSkips passed.body passed.upc = true ∧ (mapGet core0.streams 4 []).length < 8 ∧
      8 ≤ (mapGet ((engaged r full).core 0).streams (feedStream r.body) []).length ∧ ((engaged r full).core 0).streamsClosed = false) := by
  refine ⟨?_, ?_⟩ <;> first | decide +kernel | (unfold recordRuns; decide +kernel)

/-- A product with nothing left to take; streams that are empty while a strand may still fill them, and cannot; a group to accumulate,
of chunks of its own operands and of another's, with and without a mask. -/
theorem test_premises_EngineIterations_product :
    let mul := fun op kk spn => underway op 0 [(16, 16 * spn), (17, 1), (18, 1), (20, kk), (24, 5)] [(1, bytesAt512)] [0, 0, 0, 0] []
    let over_ := { core0 with strands := core0.strands.map fun t => { t with tdone := true } }
    let fed := { core0 with streams := [(0, [chunk 1]), (4, [chunk 1]), (8, [chunk 1])] }
    let mixed := { core0 with streams := [(0, [chunk 9]), (4, [chunk 1]), (8, [chunk 1])] }
    (∀ op, op ∈ [.mma, .ocon] → ∀ kk, kk ∈ [0, 32] → ∀ spn, spn ∈ [0, 4] → ∀ q, q ∈ [core0, over_, fed, mixed] → let r := mul op kk spn
      recordRuns 0 0 op r [] (engaged r q) ∧ r.bind (bodyAt r.body 17 1) = some bytesAt512 ∧ r.bind (bodyAt r.body 18 1) = some bytesAt512) ∧
    (productClass bytesAt512.desc.fmt bytesAt512.desc.fmt = some (.int32, 32) ∧ bodyAt (mul .mma 0 0).body 20 4 = 0 ∧ bodyAt (mul .mma 32 0).body 20 4 = 32 ∧
      bodyBits (mul .mma 32 4).body 16 6 2 = 1 ∧ bodyBits (mul .mma 32 0).body 16 6 2 = 0) ∧
    (core0.starved 0 = false ∧ over_.starved 0 = true ∧ mapGet fed.streams 0 [] = chunk 1 :: [] ∧ mapGet fed.streams 4 [] = chunk 1 :: [] ∧
      mapGet fed.streams 8 [] ≠ [] ∧ (chunk 1).slot = bodyAt (mul .mma 32 0).body 17 1 ∧ (chunk 9).slot ≠ bodyAt (mul .mma 32 0).body 17 1) := by
  refine ⟨?_, ?_, ?_⟩ <;> first | decide +kernel | (unfold recordRuns; decide +kernel)

/-- A drain of one patch and of a pair, with NANSKIP, whose first row holds a NaN or not; a first row and a later one. -/
theorem test_premises_EngineIterations_drain :
    let drain := fun row kind => underway .mdrain 0 [(16, 2), (17, 4), (18, 8), (19, 4), (20, 8), (21, 8)] [(2, matrix)] [0, 0, 0, row] [(auxKind 4, kind)]
    let nan := { core0 with z := [(96 * 4, 0x7FC00000)], patches := [(4, { Patch.initial with written := true })] }
    (∀ x, x ∈ [(drain 0 1, core0), (drain 3 1, nan), (drain 0 3, core0)] → recordRuns 0 0 .mdrain x.1 [] (engaged x.1 x.2) ∧
      x.1.bind (bodyAt x.1.body 16 1) = some matrix ∧ matrix.desc.sym = [] ∧ x.1.scaleOf matrix = none) ∧
    ((drain 0 1).drainKind [0, 0, 0] = .fp32 ∧ (drain 0 3).drainKind [0, 0, 0] = .fp64 ∧ drainNanSkip (drain 0 1).body = true ∧
      accValue .fp32 (((engaged (drain 3 1) nan).accCells .fp32 0 4 0).getD 0 0) = .nan) := by
  refine ⟨?_, ?_⟩ <;> first | decide +kernel | (unfold recordRuns; decide +kernel)

/-- Rows whose index lies in the table, and outside; rows kept and not; a merge with records left, with the limit reached, and with none
left; a choice of two of four numbers. -/
theorem test_premises_EngineIterations_index :
    let ints : Handle := slotOf { desc with fmt := .i32, base := 256, ext := [64, 1, 1, 1, 1, 1], pitch := [4, 0, 0, 0, 0, 0] }
    let wide : Handle := slotOf { desc with fmt := .int8, rank := 2, base := 8192, ext := [8, 16, 1, 1, 1, 1], pitch := [8, 8, 0, 0, 0, 0] }
    let q := { core0 with s := putBytes [] 256 [3, 0, 0, 0, 200, 0, 0, 0] }
    let rows := fun op k => underway op 3 [(16, 1), (17, 2), (18, 3), (20, 2), (36, 4), (40, 4)] [(1, matrix), (2, ints), (3, matrix)] [0, 0, 0, k] []
    let merge := fun max out left => underway .merg 3 [(16, 1), (17, 2), (18, 2), (20, 8), (22, 512), (28, max)] [(1, wide), (2, wide)] [0, 0, 0, 0]
      [(auxOut, out), (auxStart 0, 0), (auxStart 1, 4), (auxCount 0, left), (auxCount 1, 0)]
    let top := underway .topk 3 [(16, 1), (17, 2), (18, 3), (20, 4), (32, 2)] [(1, ints), (2, ints), (3, ints)] [0, 0, 0, 0] []
    (∀ op, op ∈ [.gath, .scat, .cmpt] → ∀ k, k ∈ [0, 1] → let r := rows op k
      recordRuns 0 3 op r [] (engaged r q) ∧ r.bind (bodyAt r.body 16 1) = some matrix ∧ r.bind (bodyAt r.body 17 1) = some ints ∧
        r.bind (bodyAt r.body 18 1) = some matrix ∧ matrix.desc.space ≠ 6 ∧ ints.desc.space ≠ 6) ∧
    (let index := fun k => indexValue .i32 (elemIn (rows .gath k) (engaged (rows .gath k) q) ints [k, 0, 0, 0, 0, 0])
     (0 ≤ index 0 ∧ index 0 < (((rows .gath 0).extents matrix).getD 1 1 : Int)) ∧ (((rows .gath 1).extents matrix).getD 1 1 : Int) ≤ index 1) ∧
    (∀ r, r ∈ [merge 0 0 2, merge 1 1 2, merge 0 0 0] → recordRuns 0 3 .merg r [] (engaged r q) ∧ r.bind (bodyAt r.body 16 1) = some wide ∧
      r.bind (bodyAt r.body 17 1) = some wide) ∧
    (let live := fun (r : Rec) j => j < mergInputs r.body ∧ r.val (auxInput + j) < r.val (auxCount j)
     live (merge 0 0 2) 0 ∧ (∀ j, j < 2 → live (merge 0 0 2) j → j = 0) ∧ (∀ j, j < 2 → ¬ live (merge 0 0 0) j) ∧ mergInputs (merge 0 0 2).body = 2 ∧
       mergMax (merge 0 0 2).body = 0 ∧ mergMax (merge 1 1 2).body = 1 ∧ (merge 1 1 2).val auxOut = 1 ∧ keyLess (.ofInt 0) (.ofInt 0) = false) ∧
    (recordRuns 0 3 .topk top [] (engaged top q) ∧ top.bind (bodyAt top.body 16 1) = some ints ∧ topkK top.body ≤ topkN top.body ∧
      top.bind (bodyAt top.body 17 1) = some ints ∧ top.bind (bodyAt top.body 18 1) = some ints ∧
      ∀ j, j < topkN top.body → elemValue .i32 [] (elemIn top (engaged top q) ints [bodyWord top.body 0 + j, 0, 0, 0, 0, 0]) ≠ .nan) := by
  refine ⟨?_, ?_, ?_, ?_, ?_⟩ <;> first | decide +kernel | (unfold recordRuns; decide +kernel)

/-- Particles, their reference positions and a grid of 2 × 2 × 2 cells in package memory: two particles in cell 0. -/
def gHandle (base words : Nat) (rank : Nat) : Handle :=
  { slotOf { desc with space := 4, fmt := .uint32, rank := rank, base := base, ext := if rank = 1 then [words, 1, 1, 1, 1, 1] else [3, words, 1, 1, 1, 1]
                       pitch := [16, 16, 0, 0, 0, 0] } with runs := [⟨0x100000, 0x100000, 0x100000, 0⟩] }
def particlesAt : Handle := gHandle 0x100000 2 2
def referencesAt : Handle := gHandle 0x101000 2 2
def gridAt : Handle := gHandle 0x110000 20000 1

/-- The body of a record of the neighbour engine: one consumer ring, edges of 10.0, skin 0 and a cut-off of 1.0. -/
def pairBody : List (Nat × Nat) :=
  [(16, 1), (17, 2), (18, 3), (19, 1 + 8 + 64), (24, 2), (28, 0x41200000), (32, 0x41200000), (36, 0x41200000), (44, 0x3F800000), (52, 8)]

/-- Package memory with a valid grid of them, or all zero; ring 1 of core 0 with its slots free, or full. -/
def paired (valid : Bool) (st : SlotState) (r : Rec) : State :=
  let b := r.body
  let word := fun (s : State) i v => s.placeBytes (0x110000 + 4 * i) (leBytes 4 v)
  let s := engaged r { core0 with rings := [(1, ⟨0x100001000, 0x10001, 0, 0, List.replicate 2 ⟨st, none, none⟩, none⟩)] }
  let s : State := { s with keys := [(0, ⟨true, 0, 0, 0⟩)] }
  if valid then
    [(0, geomWord b), (1, 2), (3, 4), (4, 0x41200000), (5, 0x41200000), (6, 0x41200000), (cellWord b 0, 2), (cellWord b 0 + 2, 0), (cellWord b 0 + 3, 1)].foldl
      (fun s p => word s p.1 p.2) s
  else s
def handlesOf : Map Handle := [(1, particlesAt), (2, referencesAt), (3, gridAt)]

/-- An NBIN at the first and the last cell and at the last particle, whose cell has room; an NSTRM with pairs to publish, at its end
block, and at a grid that does not fit, its slot free or not. -/
theorem test_premises_EngineIterations_neighbour :
    let bin := fun upc => underway .nbin 4 pairBody handlesOf upc []
    let strm := fun upc skip => underway .nstrm 4 pairBody handlesOf upc [(auxSkip, skip), (auxRing 0, 1)]
    (∀ r, r ∈ [bin [0, 0, 0, 0], bin [0, 7, 0, 0], bin [1, 1, 0, 0]] → recordRuns 0 4 .nbin r [] (paired true .free r) ∧ r.bind (bodyAt r.body 16 1) = some particlesAt ∧
      r.bind (bodyAt r.body 17 1) = some referencesAt ∧ r.bind (bodyAt r.body 18 1) = some gridAt) ∧
    (particlesAt.desc.space = 4 ∧ referencesAt.desc.space = 4 ∧ gridAt.desc.space = 4 ∧ 7 + 1 = 2 ^ cellBits (bin [0, 7, 0, 0]).body ∧ particles (bin [1, 1, 0, 0]).body = 2) ∧
    (∀ r, r ∈ [strm [0, 0, 0, 0] 1, strm [8, 0, 0, 0] 1, strm [0, 0, 0, 0] 0] → recordRuns 0 4 .nstrm r [] (paired true .free r) ∧
      r.bind (bodyAt r.body 16 1) = some particlesAt ∧ r.bind (bodyAt r.body 17 1) = some referencesAt ∧ r.bind (bodyAt r.body 18 1) = some gridAt ∧
      ∀ x, x ∈ r.consumers → (paired true .free r).claimTurn 0 4 (x.1, x.2, true) = true) ∧
    (let r := strm [0, 0, 0, 0] 1
     let s := paired true .free r
     let m := (⟨s, r⟩ : Job).membersFrom gridAt r.upc
     r.val auxSkip ≠ 0 ∧ r.upc.getD 0 0 < endCell r.body ∧ (collectPairs particlesAt referencesAt gridAt m.1 (r.upc.getD 2 0) [] m.2).1 ≠ [] ∧
       r.val auxOut % ringCount r.body = 0) ∧
    (let grid := fun valid => elemIn (strm [0, 0, 0, 0] 0) (paired valid .free (strm [0, 0, 0, 0] 0)) gridAt [3, 0, 0, 0, 0, 0]
     (grid true).testBit 2 = true ∧ (grid false).testBit 2 = false ∧ endCell (strm [8, 0, 0, 0] 1).body ≤ 8) ∧
    (let ring := fun st => mapFind ((paired true st (strm [0, 0, 0, 0] 1)).core 0).rings 1
     ring .free = some ⟨0x100001000, 0x10001, 0, 0, List.replicate 2 ⟨.free, none, none⟩, none⟩ ∧
       (Ring.claim ⟨0x100001000, 0x10001, 0, 0, List.replicate 2 ⟨.free, none, none⟩, none⟩ true 1 (.record 0 4 3)).isSome = true ∧
       Ring.claim ⟨0x100001000, 0x10001, 0, 0, List.replicate 2 ⟨.full, none, none⟩, none⟩ true 1 (.record 0 4 3) = none) := by
  refine ⟨?_, ?_, ?_, ?_, ?_, ?_⟩ <;> first | decide +kernel | (unfold recordRuns; decide +kernel)

/-- A CHAIN at the head of its queue, one behind a record that has ended, and one of the neighbour engine that is not served. -/
theorem test_premises_EngineIterations_chain :
    let r := underway .chain 1 [] [] [0, 0, 0, 0, 0, 0] [(auxChain, 2)]
    let y := { record 2 .rnop 1 0 with started := true, ended := true, member := true }
    let behind := runsAs job { core0 with engines := [(1, ⟨[y, r], 0, 3, [], []⟩)] }
    let far := underway .chain 4 [] [] [0, 0, 0, 0, 0, 0] []
    let unserved : State := { engaged far core0 with dies := [(0, { Die.initial with neQueue := [(7, 1)] })] }
    recordRuns 0 1 .chain r [] (engaged r core0) ∧
    (behind.enginesRun 0 = true ∧ ((behind.core 0).engine 1).queue = y :: r :: [] ∧ y.ended = true ∧ y.num < r.num ∧ r.core = 0 ∧ r.eng = 1 ∧ r.op = .chain) ∧
    (((unserved.core 0).engine 4).queue = far :: [] ∧ far.started = true ∧ far.ended = false ∧ unserved.neServes far = false) := by
  refine ⟨?_, ?_, ?_⟩ <;> first | decide +kernel | (unfold recordRuns; decide +kernel)

/-- An engine whose queue is empty, and whose first record starts, waits, runs and has ended; the first and the last row of MCLR. -/
theorem test_premises_EnginesAndErrors_engines :
    let at_ := fun (rs : List Rec) => runsAs job { core0 with engines := [(1, ⟨rs, 2, 5, [(1, 17)], []⟩)], barriers := [(1, ⟨2, 0, 2, 0, 5, 0, 0⟩)] }
    let r := record 3 .rnop 1 0
    let next := record 5 .rnop 1 0
    let wait := fun n phase => { r with hdr := { r.hdr with wait := ⟨3, 1, n⟩ }, phase := phase }
    let clear := fun row => { record 3 .mclr 1 0b100 with started := true, upc := [0, 0, 2, row] }
    ((at_ []).enginesRun 0 = true ∧ ((at_ []).core 0).engine 1 = ⟨[], 2, 5, [(1, 17)], []⟩) ∧
    (∀ x, x ∈ [r, wait 2 3, wait 3 3, wait 1 6, { r with started := true }, clear 0, clear 95, { r with started := true, ended := true }] →
      (at_ [x, next]).enginesRun 0 = true ∧ (((at_ [x, next]).core 0).engine 1).queue = x :: [next] ∧ x.core = 0 ∧ x.eng = 1 ∧ x.objCore = 0 ∧
        (∀ y, y ∈ [next] → x.num < y.num) ∧ (∀ y, y ∈ [next] → y.ended = false) ∧ x.member = false ∧ x.hdr.post.kind = 0 ∧ x.mcheck = none ∧
        (((at_ [x, next]).core 0).engine 1).words.length < 64 ∧ (at_ [x, next]).neServes x = true ∧ mapFind (((at_ [x, next]).core 0).engine 1).words x.num = none) ∧
    (r.started = false ∧ r.ended = false ∧ 1 ≠ 0 ∧ 1 ≠ 4 ∧ r.hdr.wait.kind = 0 ∧ r.op = .rnop) ∧
    ((wait 2 3).hdr.wait.kind = 3 ∧ mapFind ((at_ [wait 2 3]).core 0).barriers 1 = some ⟨2, 0, 2, 0, 5, 0, 0⟩ ∧
      2 ≤ ((5 : BitVec 32) - (wait 2 3).phase).toNat ∧ ((5 : BitVec 32) - (wait 2 3).phase).toNat < 2 ^ 31 ∧
      ((5 : BitVec 32) - (wait 3 3).phase).toNat < 3 ∧ 2 ^ 31 ≤ ((5 : BitVec 32) - (wait 1 6).phase).toNat) ∧
    ∀ row, row ∈ [0, 95] → (clear row).started = true ∧ (clear row).ended = false ∧ (clear row).op = .mclr ∧ (clear row).patches = [2] ∧
      (clear row).upc = [0, 0, 2, row] ∧ row < 96 := by
  decide +kernel

/-- A part with one strand; barrier 1 at phase 5, one entry in queue 0 and a full queue 1, a full queue of records at CE0, and a write
that waits. -/
def held (x : Strand) : State :=
  { base with
    wdlimit := 9, coreTab := [(0, { core0 with
      strands := [x], barriers := [(1, ⟨2, 0, 2, 0, 5, 0, 0⟩)], qs := [(0, [3]), (1, List.replicate 16 3)]
      engines := [(1, ⟨List.replicate 16 (record 3 .rnop 1 0), 2, 5, [], []⟩)], writes := [⟨0, .store 0 2 (2 ^ 20 - 3), .bytes [1, 2, 3]⟩] }),
      (1, { Core.initial with picks := some [0] })] }

/-- A strand in each hold, its condition over and not. -/
theorem test_premises_EnginesAndErrors_holds :
    let s := fun h => held { lead with hold := some h }
    let q := (held lead).core 0
    let sent : State := { held lead with pOut := [(0, 2, true)] }
    (∀ h, h ∈ [.event, .counter 3 0, .branch 100, .branch 101, .timeline 1 2, .timeline 1 3, .load [5] [], .counterFull 3, .acks, .word 1 2, .word 1 3,
        .request 1, .request 2, .queueFull 0, .queueFull 1, .engineQueue 0 1, .engineQueue 0 2, .queueEmpty 0, .queueEmpty 2, .barrier 1 4 4, .barrier 1 5 4,
        .parked 1, .iteration, .fence 99, .response 4, .yielded [1] 9] →
      ((s h).core 0).strand 0 = { lead with hold := some h } ∧ 0 < ((s h).core 0).strands.length) ∧
    (lead.latch = false ∧ ({ lead with latch := true } : Strand).latch = true ∧ 100 ≤ q.clk ∧ q.clk < 101 ∧ (q.engine 1).tl = 2 ∧ lead.loads = [] ∧
      lead.hold = none ∧ loadsPending lead.loads [5] [] = false ∧ loadsPending [⟨3, .scalar 5 7⟩] [5] [] = true) ∧
    ((lead.loads.filter fun l => l.lc == 3).length < 63 ∧ 63 ≤ ((List.replicate 63 (⟨3, .nothing⟩ : OutLoad)).filter fun l => l.lc == 3).length ∧
      (held lead).awaitingAcks = false ∧ sent.awaitingAcks = true ∧ (q.engine 1).completed 2 = true ∧ (q.engine 1).completed 3 = false) ∧
    ((held lead).clockOpen 1 = true ∧ (held lead).clockOpen 2 = false ∧ q.queueLength 0 < queueCapacity 0 ∧ q.queueLength 1 = queueCapacity 1 ∧
      (held lead).queueFull 0 1 = true ∧ (held lead).queueFull 0 2 = false ∧ mapGet q.qs 0 [] ≠ [] ∧ mapGet q.qs 2 [] = []) ∧
    mapFind q.barriers 1 = some ⟨2, 0, 2, 0, 5, 0, 0⟩ ∧ passed 5 4 ∧ ¬ passed 5 5 := by
  refine ⟨by decide +kernel, by decide +kernel, by decide +kernel, by decide +kernel, by decide +kernel, by unfold passed; decide +kernel⟩

/-- Loads with and without a value; the watchdog on and off, and a strand held too long and not; a write that is free to be performed. -/
theorem test_premises_EnginesAndErrors_strands :
    let late : State := held { lead with hold := some (.barrier 1 5 4), heldTicks := 10 }
    let loads := held { lead with loads := [⟨3, .scalar 63 7⟩], hold := some (.load [63] []) }
    ((loads.core 0 |>.strand 0).loads = ⟨3, .scalar 63 7⟩ :: [] ∧ (loads.core 0 |>.strand 0).hold = some (.load [63] []) ∧
      (∀ l, l ∈ (loads.core 0 |>.strand 0).loads → l.lc ≠ 2) ∧
      ((held { lead with loads := [⟨3, .nothing⟩], hold := some (.counterFull 3) }).core 0 |>.strand 0).loads = ⟨3, .nothing⟩ :: []) ∧
    (late.wdlimit ≠ 0 ∧ late.wdlimit.toNat < (late.core 0 |>.strand 0).heldTicks ∧ (late.core 0 |>.strand 0).hold = some (.barrier 1 5 4) ∧
      (late.core 0 |>.strand 0).trapvec ≠ 0 ∧ (late.core 0 |>.strand 0).trapinfo.getLsbD 9 = false ∧ lead.heldTicks ≤ late.wdlimit.toNat ∧ base.wdlimit = 0) ∧
    (late.ready = true ∧ late.memoryWf = true ∧ late.poison = [] ∧ (late.core 0).writeFree 0 = true ∧
      (late.core 0).writes[0]? = some ⟨0, .store 0 2 (2 ^ 20 - 3), .bytes [1, 2, 3]⟩) := by
  decide +kernel

/-- The part ready and not; stores and units at the ends of their ranges; no task. -/
theorem test_premises_EnginesAndErrors_errors :
    State.reset.ready = false ∧ base.ready = true ∧ 255 < 256 ∧ 2 < 3 ∧ (storeBytes 2 / 8 - 1) * 8 < storeBytes 2 ∧ 2 ^ 35 - 1 < 2 ^ 35 ∧ base.evtab = 0 ∧
      3 < 4 ∧ ({ base with tasks := [] } : State).tasks = [] ∧ ({ base with tasks := [] } : State).ready = true := by
  decide +kernel
/-- An instruction of 4 bytes, and one of 8, placed where the next step fetches; an event next on the agenda. -/
theorem test_premises_StepRunsDecoded :
    (∀ x, x ∈ [(32, 0x0810C000, 0xC000, Instr.add on 3 1 2), (64, 0x0000000000052001, 0x2001, Instr.loop on 5 0)] →
      let s := State.reset.withFetchWord x.1 x.2.1
      let u := issuing 0 0 [] [] s
      s.agenda = .core 0 :: [] ∧ 0 < 256 ∧ (s.core 0).picks = some (0 :: []) ∧ s.taskOf 0 = some placedTask ∧ s.issues 0 = true ∧
        ((s.core 0).strand 0).ready = true ∧ u.codeBytes placedTask ((s.core 0).strand 0).pc 4 = .ok (leBytes 4 x.2.1) ∧
        u.codeBytes placedTask ((s.core 0).strand 0).pc (Min.min (lengthOf x.2.1) 64) = .ok (leBytes (x.1 / 8) x.2.1) ∧
        ((s.core 0).strand 0).pc % 64 = 0 ∧ decode 0 (leBytes (x.1 / 8) x.2.1) = .ok x.2.2.2) ∧
    (State.reset.agenda = .event .powerOn :: [] ∧ encode .powerOn = none ∧ wellFormed .powerOn = true) := by
  refine ⟨?_, by decide +kernel⟩
  intro x hx
  simp only [List.mem_cons, List.not_mem_nil, or_false] at hx
  rcases hx with rfl | rfl <;>
  exact ⟨by decide +kernel, by decide, by decide +kernel, by decide +kernel, by decide +kernel, by decide +kernel, ok_of (by decide +kernel),
    ok_of (by decide +kernel), by decide +kernel, ok_of (by decide +kernel)⟩

/-- Instructions of 4, 8, 12 and 64 bytes, at the last place of a line that holds them. -/
theorem test_premises_EncodeDecode :
    ∀ x, x ∈ [(Instr.add on 3 1 2, 32, 60), (.addi on 4 4 (-1), 32, 60), (.loop on 5 0, 64, 56), (.ldExt on .i32 .rlx .core 6 70 7 8 9 0 0 0, 96, 52),
        (.cfill ⟨on, 1, ⟨0, 0, 0⟩, ⟨3, 2, 0⟩, some 4, none, none, none⟩ 0, 512, 0)] →
      wellFormed x.1 = true ∧ (∃ w, encode x.1 = some (x.2.1, w)) ∧ x.2.2 % 4 = 0 ∧ x.2.2 + x.2.1 / 8 ≤ 64 := by
  intro x hx
  simp only [List.mem_cons, List.not_mem_nil, or_false] at hx
  rcases hx with rfl | rfl | rfl | rfl | rfl <;> exact ⟨by decide +kernel, ⟨_, by rfl⟩, by decide, by decide⟩

/-- p3 is true, so that the guard !p3 is false; and !p0 always is. -/
theorem test_premises_FalseGuards :
    let s := withLead { lead with p := 8 }
    ∀ g, g ∈ [⟨3, true⟩, off] → wellFormed (.mov g 5 3) = true ∧ isAsynchronous (.mov g 5 3) = false ∧ s.seated ∧
      ∃ w, encode (.mov g 5 3) = some (32, w) ∧ decide (s.rP (w / 8 % 16) = w.testBit 2) = true := by
  intro s g hg
  simp only [List.mem_cons, List.not_mem_nil, or_false] at hg
  rcases hg with rfl | rfl <;>
  exact ⟨by decide +kernel, by decide +kernel, by unfold State.seated; decide +kernel, ⟨_, by rfl, by decide +kernel⟩⟩

/-- Whether a step answers a next state. -/
def goesOn (s : State) : Bool :=
  match Machine.step s with
  | .next _ => true
  | _ => false

/-- Reset and a part with a task meet the invariants, and go on to a next state. -/
theorem test_premises_StepKeeps :
    ∀ s, s ∈ [State.reset, base, State.reset.withFetchWord 32 0x0810C000] → s.memoryWf = true ∧ s.partWf = true ∧ goesOn s = true := by
  decide +kernel

end Sys2Proof.Tests
end

section
/-! Writes of system registers (R7, R209, R281). -/

open Sys2Proof Sys2Proof.Machine Sys2Proof.Claims

namespace Sys2Proof.Machine

/-- A strand with a handler that is not inhibited takes its exceptions there (R208). -/
theorem Strand.hasHandler_of {t : Strand} (hv : t.trapvec ≠ 0) (hi : t.trapinfo.getLsbD 9 = false) :
    t.hasHandler = true := by
  have hb : t.inh = false := hi
  have hd : decide (t.trapvec ≠ 0) = true := decide_eq_true hv
  rw [Strand.hasHandler, hb, hd]
  rfl

/-- A kind F fault of a body that has done nothing, in a strand with a handler. -/
theorem runStrand_fault {s : State} {g : Guard} {u : Uses} (h : s.runs g u) (hh : handled s) (len code sub : Nat) (arg : Word)
    (hp : code ≠ codePURITY) (hi : (Exc.of code sub arg).info = trapInfo code sub false) {body : State → Eff}
    (hb : body s = .trap s (Exc.of code sub arg)) :
    ∃ t, runStrand len g u s body = .next t ∧ tookException code sub false arg s.me.pc s t := by
  obtain ⟨hv, hn⟩ := hh
  obtain ⟨t, ht, hs, hm⟩ := runStrand_trap h len _ (Strand.hasHandler_of hv hn) hp hb
  refine ⟨t, ht, hs, ?_⟩
  rw [hm]
  exact ⟨rfl, rfl, hi, rfl, rfl⟩

/-- The writable bits of FPCTL and of FPST: the low `k` bits of the register written, kept by a mask. -/
theorem ofNat_mod_eq_and (v : Word) (k : Nat) :
    BitVec.ofNat 32 (v.toNat % 2 ^ k) = v.setWidth 32 &&& BitVec.ofNat 32 (2 ^ k - 1) := by
  apply BitVec.eq_of_toNat_eq
  rw [BitVec.toNat_and, BitVec.toNat_setWidth, BitVec.toNat_ofNat, BitVec.toNat_ofNat, ← Nat.and_mod_two_pow,
    Nat.and_two_pow_sub_one_eq_mod]

/-- A system register whose write puts `m` in place of the strand. -/
theorem syswr_writes {s : State} {g : Guard} {a n : Nat} {m : Strand} (h : s.runs g (Uses.scalar [a] []))
    (hb : writeSystem n a s = .done (s.setMe m)) :
    does (.syswr g n a) s fun s t => onlyStrand [] s t ∧ t.me = { m with pc := s.me.pc + 8 } :=
  runStrand_setMe h 8 m hb

/-- A system register that cannot be written. -/
theorem syswr_refused {s : State} {g : Guard} {a n : Nat} (h : s.runs g (Uses.scalar [a] [])) (hh : handled s)
    (hb : writeSystem n a s = .trap s (Exc.illop 9)) :
    does (.syswr g n a) s (tookException 1 9 false 0 s.me.pc) :=
  runStrand_fault h hh 8 1 9 0 (by decide) (by decide) hb

end Sys2Proof.Machine

/-- Settles O17: each writable register is one change of the strand, with the reserved bits masked; the others trap. -/
theorem systemWrites : Obligations.SystemWrites := by
  intro g a s h v
  have fpctl : BitVec.ofNat 32 (v.toNat % 8) = v.setWidth 32 &&& 7 := ofNat_mod_eq_and v 3
  have fpst : BitVec.ofNat 32 (v.toNat % 128) = v.setWidth 32 &&& 0x7F := ofNat_mod_eq_and v 7
  refine ⟨syswr_writes h ?_, syswr_writes h ?_, syswr_writes h rfl, syswr_writes h rfl, syswr_writes h rfl,
    syswr_writes h rfl, ?_⟩
  · rw [← fpctl]; rfl
  · rw [← fpst]; rfl
  · intro hh n hn
    refine syswr_refused h hh ?_
    rcases hn with rfl | rfl | rfl | rfl | rfl <;> rfl
end

section
/-! The registers the host reaches (R29, R31): what an access finds at an offset, who is refused it (R50), and how each of its
outcomes stands to the words of the statements. -/

open Sys2Proof Sys2Proof.Machine Sys2Proof.Claims

namespace Sys2Proof.Machine

/-! ## Reads after writes -/

@[simp] theorem State.fn_setFn_self (s : State) (f : Nat) (x : Fn) : (s.setFn f x).fn f = x := mapGet_mapPut_self _ _ _ _

theorem State.fn_setFn_ne (s : State) {f g : Nat} (x : Fn) (h : g ≠ f) : (s.setFn f x).fn g = s.fn g := mapGet_mapPut_ne _ _ _ h

@[simp] theorem State.setFn_setFn (s : State) (f : Nat) (x y : Fn) : (s.setFn f x).setFn f y = s.setFn f y := by
  simp [State.setFn]

@[simp] theorem State.queue_setQueue_self (s : State) (n : Nat) (q : Queue) : (s.setQueue n q).queue n = q :=
  mapGet_mapPut_self _ _ _ _

theorem State.queue_setQueue_ne (s : State) {n m : Nat} (q : Queue) (h : m ≠ n) : (s.setQueue n q).queue m = s.queue m :=
  mapGet_mapPut_ne _ _ _ h

@[simp] theorem State.setQueue_setQueue (s : State) (n : Nat) (p q : Queue) : (s.setQueue n p).setQueue n q = s.setQueue n q := by
  simp [State.setQueue]

@[simp] theorem State.die_setDie_self (s : State) (d : Nat) (x : Die) : (s.setDie d x).die d = x := mapGet_mapPut_self _ _ _ _

theorem State.die_setDie_ne (s : State) {d e : Nat} (x : Die) (h : e ≠ d) : (s.setDie d x).die e = s.die e :=
  mapGet_mapPut_ne _ _ _ h

@[simp] theorem State.pool_setPool_self (s : State) (t : Nat) (p : Pool) : (s.setPool t p).pool t = p := mapGet_mapPut_self _ _ _ _

theorem State.pool_setPool_ne (s : State) {t u : Nat} (p : Pool) (h : u ≠ t) : (s.setPool t p).pool u = s.pool u :=
  mapGet_mapPut_ne _ _ _ h

/-! ## One function, one queue -/

theorem onlyFn_setFn (s : State) (f : Nat) (x : Fn) : onlyFn f x s (s.setFn f x) :=
  ⟨rfl, State.fn_setFn_self s f x, fun _ h => State.fn_setFn_ne s x h⟩

theorem onlyQueue_setQueue (s : State) (n : Nat) (q : Queue) : onlyQueue n q s (s.setQueue n q) :=
  ⟨rfl, State.queue_setQueue_self s n q, fun _ h => State.queue_setQueue_ne s q h⟩

/-- The counters of refused and of malformed accesses stop at their largest value (R29, R50). -/
theorem satAdd1_eq (v : BitVec 16) : satAdd1 v = if v = 0xFFFF then 0xFFFF else v + 1 := by
  unfold satAdd1
  by_cases h : v = 0xFFFF
  · subst h; rfl
  · have hv : v.toNat ≠ 65535 := fun e => h (BitVec.eq_of_toNat_eq e)
    have hl := v.isLt
    rw [if_neg h, if_pos (by omega)]

theorem deniedTo_countDenied (s : State) (f : Nat) : deniedTo f s (s.countDenied f) := by
  unfold deniedTo State.countDenied
  rw [satAdd1_eq]
  exact onlyFn_setFn s f _

theorem malformed_countBad (s : State) (f : Nat) : malformed f s (s.countBad f) := by
  unfold malformed State.countBad
  rw [satAdd1_eq]
  exact onlyFn_setFn s f _

/-! ## The access check (R50) -/

theorem hubGrants_iff (s : State) {f : Nat} (hf : f < 64) (write : Bool) :
    hubGrants s f write ↔ tableAllows s.hubTable (.func f) write = true := by
  have h : 1024 + 2 * f + write.toNat = (Master.func f).bit + write.toNat := by
    simp [Master.bit, Nat.mod_eq_of_lt hf]
  rw [hubGrants, h]
  rfl

/-- An access to one register is refused where the table does not grant it, and where the register is reserved to function 0. -/
theorem State.hubRefuses_one (s : State) {f : Nat} (hf : f < 64) (write : Bool) (r : HubReg) :
    s.hubRefuses f write [r] = true ↔ ¬ hubGrants s f write ∨ f ≠ 0 ∧ r.reserved write = true := by
  simp [State.hubRefuses, hubGrants_iff s hf]

/-- An access to no register is refused by the table alone. -/
theorem State.hubRefuses_nil (s : State) {f : Nat} (hf : f < 64) (write : Bool) :
    s.hubRefuses f write [] = true ↔ ¬ hubGrants s f write := by
  simp [State.hubRefuses, hubGrants_iff s hf]

/-! ## The registers of an access (R29) -/

section
variable {α : Type} {find : Nat → Option α} {narrow : α → Bool} {off : Nat}

theorem accessParts_wide {r : α} (ha : off % 8 = 0) (hr : find off = some r) (hn : narrow r = false) :
    accessParts find narrow off 8 = some [(r, 0)] := by
  simp [accessParts, ha, hr, hn]

theorem accessParts_narrow {r : α} (ha : off % 4 = 0) (hr : find off = some r) (hn : narrow r = true) :
    accessParts find narrow off 4 = some [(r, 0)] := by
  simp [accessParts, ha, hr, hn]

theorem accessParts_nowhere (ha : off % 8 = 0) (hr : find off = none) : accessParts find narrow off 8 = some [] := by
  simp [accessParts, ha, hr]

theorem accessParts_malformed {size : Nat} (h : size ≠ 4 ∧ size ≠ 8 ∨ off % size ≠ 0) :
    accessParts find narrow off size = none := by
  unfold accessParts
  rw [if_neg (by rintro ⟨rfl, h8⟩; simp [h8] at h), if_neg (by rintro ⟨rfl, h4⟩; simp [h4] at h)]

end

theorem arrayAt_of_lt {base stride n i : Nat} (hs : 0 < stride) (hi : i < n) :
    arrayAt (base + stride * i) base stride n = some i := by
  have hd : (base + stride * i - base) / stride = i := by
    rw [Nat.add_sub_cancel_left, Nat.mul_div_cancel_left i hs]
  have hm : (base + stride * i - base) % stride = 0 := by
    rw [Nat.add_sub_cancel_left, Nat.mul_mod_right]
  simp only [arrayAt, hd, hm]
  simp [hi]

theorem hubRegAt_dieClk {d : Nat} (h : d < 4) : hubRegAt (0x10 + 8 * d) = some (.dieClk d) := by
  match d, h with
  | 0, _ | 1, _ | 2, _ | 3, _ => rfl

theorem hubRegAt_link {p : Nat} (h : p < 12) : hubRegAt (0x1000 + 8 * p) = some (.link p) := by
  unfold hubRegAt
  rw [if_neg (by omega), if_pos (by omega), arrayAt_of_lt (by decide) h]
  rfl

theorem hubRegAt_route {i : Nat} (h : i < 64) : hubRegAt (0x1100 + 8 * i) = some (.route i) := by
  unfold hubRegAt
  rw [if_neg (by omega), if_neg (by omega), if_pos (by omega), arrayAt_of_lt (by decide) h]
  rfl

theorem hubRegAt_lwmap {d : Nat} (h : d < 4) : hubRegAt (0x2000 + 8 * d) = some (.lwmap d) := by
  unfold hubRegAt
  rw [if_neg (by omega), if_neg (by omega), if_neg (by omega), if_neg (by omega), if_pos (by omega),
    arrayAt_of_lt (by decide) h]
  rfl

/-- The registers of the queues, 32 bytes each. -/
theorem hubRegAt_queue {n k : Nat} (h : n < 128) (hk : k < 32) : hubRegAt (0x4000 + k + 32 * n) = queueRegAt n k := by
  unfold hubRegAt
  rw [if_neg (by omega), if_neg (by omega), if_neg (by omega), if_neg (by omega), if_neg (by omega), if_pos (by omega)]
  congr 1 <;> omega

/-- The registers of a tenant's Larder, 32 bytes each. -/
theorem hubRegAt_larder {t k : Nat} (h : t < 512) (hk : k < 32) : hubRegAt (0x10000 + k + 32 * t) = larderRegAt t k := by
  unfold hubRegAt
  rw [if_neg (by omega), if_neg (by omega), if_neg (by omega), if_neg (by omega), if_neg (by omega), if_neg (by omega),
    if_neg (by omega), if_pos (by omega)]
  congr 1 <;> omega

theorem hubRegAt_above {off : Nat} (h : 0x39C00 ≤ off) : hubRegAt off = none := by
  unfold hubRegAt
  repeat rw [if_neg (by omega)]

theorem fnRegAt_qpi {n : Nat} (h : n < 128) : fnRegAt (8 * n) = some (.qpi n) := by
  have ha : arrayAt (8 * n) 0 8 128 = some n := by simpa using arrayAt_of_lt (base := 0) (stride := 8) (by decide) h
  unfold fnRegAt
  split
  case h_9 => rw [ha]; rfl
  all_goals omega

theorem fnRegAt_mbxData {i : Nat} (h : i < 32) : fnRegAt (0xC00 + 8 * i) = some (.mbxData i) := by
  have hq : arrayAt (0xC00 + 8 * i) 0 8 128 = none := by
    unfold arrayAt
    rw [if_neg (by omega)]
  unfold fnRegAt
  split
  case h_9 => rw [hq, arrayAt_of_lt (by decide) h]; rfl
  all_goals omega

/-! ## The data of an access -/

@[simp] theorem partOf_wide (v : Word) : partOf false v 0 = v.toNat := by
  have h := v.isLt
  simp only [partOf, bvField, bitsAt, Bool.false_eq_true, if_false]
  omega

theorem partOf_narrow (v : Word) : partOf true v 0 = v.toNat % 2 ^ 32 := by
  simp [partOf, bvField, bitsAt]

@[simp] theorem partOf_ofNat (w : BitVec 32) : partOf true (BitVec.ofNat 64 w.toNat) 0 = w.toNat := by
  have h := w.isLt
  rw [partOf_narrow, BitVec.toNat_ofNat]
  omega

/-! ## Accesses to one register -/

/-- A write to a register of the hub register block that is granted. -/
theorem State.writeHub_granted {s : State} {f off size : Nat} {v : Word} {r : HubReg} (hp : s.power = true) (hf : f < 64)
    (ha : accessParts hubRegAt HubReg.narrow off size = some [(r, 0)]) (hg : hubGrants s f true)
    (h0 : f = 0 ∨ r.reserved true = false) : s.writeHub f off size v = s.writeHubReg r (partOf r.narrow v 0) := by
  have hr : ¬ s.hubRefuses f true [r] = true := by
    rw [State.hubRefuses_one s hf]
    rintro (h | ⟨h1, h2⟩)
    · exact h hg
    · rcases h0 with h0 | h0
      · exact h1 h0
      · rw [h0] at h2; cases h2
  simp [State.writeHub, hp, ha, hr]

/-- One that is refused. -/
theorem State.writeHub_refused {s : State} {f off size : Nat} {v : Word} {r : HubReg} (hp : s.power = true) (hf : f < 64)
    (ha : accessParts hubRegAt HubReg.narrow off size = some [(r, 0)])
    (h : ¬ hubGrants s f true ∨ f ≠ 0 ∧ r.reserved true = true) : s.writeHub f off size v = s.countDenied f := by
  have hr : s.hubRefuses f true [r] = true := (State.hubRefuses_one s hf true r).mpr h
  simp [State.writeHub, hp, ha, hr]

/-- A write to one register of a function's window. -/
theorem State.writeWindow_one {s : State} {f off size : Nat} {v : Word} {r : FnReg} (hp : s.power = true)
    (ha : accessParts fnRegAt FnReg.narrow off size = some [(r, 0)]) :
    s.writeWindow f off size v = s.writeFnReg f r (partOf r.narrow v 0) := by
  simp [State.writeWindow, hp, ha]

/-- A refused write of the hub register block is counted (R50). -/
theorem does_of_refused {i : Instr} {s : State} {f off size : Nat} {v : Word} {r : HubReg}
    (hi : exec i s = .next (s.writeHub f off size v)) (hp : s.power = true) (hf : f < 64)
    (ha : accessParts hubRegAt HubReg.narrow off size = some [(r, 0)])
    (h : ¬ hubGrants s f true ∨ f ≠ 0 ∧ r.reserved true = true) : does i s (deniedTo f) :=
  ⟨_, hi, State.writeHub_refused hp hf ha h ▸ deniedTo_countDenied s f⟩

/-- A granted write of the hub register block reaches its register. -/
theorem does_of_granted {i : Instr} {s : State} {f off size : Nat} {v : Word} {r : HubReg} {p : State → State → Prop}
    (hi : exec i s = .next (s.writeHub f off size v)) (hp : s.power = true) (hf : f < 64)
    (ha : accessParts hubRegAt HubReg.narrow off size = some [(r, 0)]) (hg : hubGrants s f true)
    (h0 : f = 0 ∨ r.reserved true = false) (h : p s (s.writeHubReg r (partOf r.narrow v 0))) : does i s p :=
  ⟨_, hi, (State.writeHub_granted hp hf ha hg h0).symm ▸ h⟩

/-- A write of a register of a function's window reaches it. -/
theorem does_of_window {i : Instr} {s : State} {f off size : Nat} {v : Word} {r : FnReg} {p : State → State → Prop}
    (hi : exec i s = .next (s.writeWindow f off size v)) (hp : s.power = true)
    (ha : accessParts fnRegAt FnReg.narrow off size = some [(r, 0)]) (h : p s (s.writeFnReg f r (partOf r.narrow v 0))) :
    does i s p :=
  ⟨_, hi, (State.writeWindow_one hp ha).symm ▸ h⟩

end Sys2Proof.Machine
end

section
/-! Writes of registers by the host functions (R29 to R36, R58, R59, R221). -/

open Sys2Proof Sys2Proof.Machine Sys2Proof.Claims

namespace Sys2Proof.Machine

/-! ## Function-level reset (R36) -/

theorem resetFunction_does (f : Nat) {s : State} (hp : s.power = true) :
    does (.functionLevelReset f) s fun s t => t = { s with fns := t.fns } ∧ (t.fn f).en = false ∧ (t.fn f).backlog = [] ∧
      (t.fn f).seqs = [] ∧ (t.fn f).busy = none ∧ ((s.fn f).busy.isSome = true → (t.fn f).result = 6) ∧
      ∀ g, g ≠ f → t.fn g = s.fn g := by
  refine ⟨resetFunction f s, rfl, ?_⟩
  unfold resetFunction
  rw [if_pos hp]
  refine ⟨rfl, ?_⟩
  simp only [State.fn_setFn_self]
  cases hb : (s.fn f).busy with
  | none => exact ⟨rfl, rfl, rfl, rfl, nofun, fun g h => State.fn_setFn_ne s _ h⟩
  | some _ => exact ⟨rfl, rfl, rfl, rfl, fun _ => rfl, fun g h => State.fn_setFn_ne s _ h⟩

/-! ## Producer indices (R30, R59) -/

/-- Where no notice waits for queue 0, written indices change their queue alone. -/
theorem State.setIndices_eq {s : State} {n : Nat} (q : Queue) (h : n ≠ 0 ∨ s.notices = []) :
    s.setIndices n q = s.setQueue n { q with spawnDie := waitingSpawns q q.pi } := by
  unfold State.setIndices
  rcases h with h | h
  · rw [if_neg h]; rfl
  · have hn : (s.setQueue n q.trimSpawns).notices.length = 0 := by rw [State.setQueue_notices, h]; rfl
    simp only [hn]
    split <;> rfl

/-- The producer index of a queue function `f` may write (R30, R58). -/
theorem writeQpi_accepted {s : State} {f n : Nat} {v : Word} (ha : tableAllows (s.accessTable (.queue n)) (.func f) true = true)
    (hs : (s.queue n).spawn = false) (hz : (v.extractLsb' 32 32).toNat = 0) :
    writeQpi f n v s = producerIndex n (v.setWidth 32) s := by
  rw [← bvField_eq] at hz
  have hv : BitVec.ofNat 32 v.toNat = v.setWidth 32 := by simp
  simp [writeQpi, ha, hs, hz, hv]

theorem writeQpi_refused {s : State} {f n : Nat} {v : Word}
    (h : ¬ (tableAllows (s.accessTable (.queue n)) (.func f) true = true ∧ (s.queue n).spawn = false ∧
      (v.extractLsb' 32 32).toNat = 0)) : writeQpi f n v s = s.countDenied f := by
  rw [← bvField_eq] at h
  unfold writeQpi
  rw [if_neg]
  simp only [Bool.and_eq_true, decide_eq_true_eq, Bool.not_eq_true']
  rintro ⟨⟨h1, h2⟩, h3⟩
  exact h ⟨h2, h3, h1⟩

/-- An index that goes no more than the slots of its ring ahead, or not forward, or of a queue that is off. -/
theorem producerIndex_kept {s : State} {n : Nat} {p : BitVec 32} (hn : n ≠ 0 ∨ s.notices = [])
    (h : (s.queue n).en = false ∨ p = (s.queue n).pi ∨ (p - (s.queue n).ci).toNat ≤ ((s.queue n).pi - (s.queue n).ci).toNat ∨
      (p - (s.queue n).ci).toNat ≤ (s.queue n).slots) :
    onlyQueue n { s.queue n with pi := p, spawnDie := waitingSpawns (s.queue n) p } s (producerIndex n p s) := by
  have hc : (!(s.queue n).en || p == (s.queue n).pi || decide ((p - (s.queue n).ci).toNat ≤ ((s.queue n).pi - (s.queue n).ci).toNat) ||
      decide ((p - (s.queue n).ci).toNat ≤ (s.queue n).slots)) = true := by
    simpa [or_assoc] using h
  simp only [producerIndex, hc, if_true]
  rw [State.setIndices_eq _ hn]
  exact onlyQueue_setQueue s n _

/-- Posting an event changes the function and its ring alone. -/
theorem State.postEvent_frame (s : State) (f cls index typ : Nat) (task : Word) (payload : BitVec 120) :
    ∃ fns hostMem, s.postEvent f cls index typ task payload = { s with fns := fns, hostMem := hostMem } := by
  unfold State.postEvent
  generalize s.fn f = x
  dsimp only
  split
  · exact ⟨_, _, rfl⟩
  · split <;> exact ⟨_, s.hostMem, rfl⟩

/-- A halt changes its queue, and the function to which it is reported (R59, R77). -/
theorem State.haltQueue_setQueue (s : State) (n cause : Nat) (q : Queue) :
    ∃ fns hostMem, (s.setQueue n q).haltQueue n cause = { s.setQueue n { q with
      halted := true, ovr := q.ovr || cause == 1, badrec := q.badrec || cause == 2 } with fns := fns, hostMem := hostMem } := by
  simp only [State.haltQueue, State.queue_setQueue_self, State.setQueue_setQueue]
  exact State.postEvent_frame _ _ _ _ _ _ _

/-- An index beyond the slots of the ring halts its queue with OVR (R59). -/
theorem producerIndex_overrun {s : State} {n : Nat} {p : BitVec 32} (hn : n ≠ 0 ∨ s.notices = []) (he : (s.queue n).en = true)
    (hp : p ≠ (s.queue n).pi) (hb : ((s.queue n).pi - (s.queue n).ci).toNat < (p - (s.queue n).ci).toNat)
    (hs : (s.queue n).slots < (p - (s.queue n).ci).toNat) :
    let t := producerIndex n p s
    t.queue n = { s.queue n with pi := p, halted := true, ovr := true, spawnDie := waitingSpawns (s.queue n) p } ∧
      (∀ m, m ≠ n → t.queue m = s.queue m) ∧ t = { s with queues := t.queues, fns := t.fns, hostMem := t.hostMem } := by
  have hc : ¬ (!(s.queue n).en || p == (s.queue n).pi || decide ((p - (s.queue n).ci).toNat ≤ ((s.queue n).pi - (s.queue n).ci).toNat) ||
      decide ((p - (s.queue n).ci).toNat ≤ (s.queue n).slots)) = true := by
    simp only [he, Bool.not_true, Bool.false_or, Bool.or_eq_true, beq_iff_eq, hp, decide_eq_true_eq, Nat.not_le.mpr hb,
      Nat.not_le.mpr hs, or_self, not_false_eq_true]
  have hi : s.setIndices n { s.queue n with pi := p } =
      s.setQueue n { s.queue n with pi := p, spawnDie := waitingSpawns (s.queue n) p } := State.setIndices_eq _ hn
  obtain ⟨fns, hostMem, e⟩ := s.haltQueue_setQueue n 1 { s.queue n with pi := p, spawnDie := waitingSpawns (s.queue n) p }
  have ht : producerIndex n p s = (s.setIndices n { s.queue n with pi := p }).haltQueue n 1 := by
    unfold producerIndex
    exact if_neg hc
  intro t
  rw [show t = _ from (ht.trans (by rw [hi])).trans e]
  refine ⟨(State.queue_setQueue_self s n _).trans ?_, fun m hm => State.queue_setQueue_ne s _ hm, rfl⟩
  simp

/-! ## Event rings (R33, R34) -/

/-- Writing waiting events changes the function's place in its ring, its interrupt and its backlog alone. -/
theorem State.drainEvents_fn (s : State) (f n : Nat) :
    ((s.drainEvents f n).fn f).en = (s.fn f).en ∧ ((s.drainEvents f n).fn f).vec = (s.fn f).vec ∧
      ((s.drainEvents f n).fn f).size = (s.fn f).size := by
  induction n generalizing s with
  | zero => exact ⟨rfl, rfl, rfl⟩
  | succ n ih =>
    unfold State.drainEvents
    dsimp only
    split
    · exact ⟨rfl, rfl, rfl⟩
    · split
      · rename_i e rest _ _
        obtain ⟨h1, h2, h3⟩ := ih ((s.setFn f { s.fn f with backlog := rest }).writeEntry f e)
        have hw : ((s.setFn f { s.fn f with backlog := rest }).writeEntry f e).fn f = _ := State.fn_setFn_self _ _ _
        rw [hw] at h1 h2 h3
        simp only [State.fn_setFn_self] at h1 h2 h3
        exact ⟨h1, h2, h3⟩
      · exact ⟨rfl, rfl, rfl⟩

/-- The one event that waits is written where there is room for it. -/
theorem State.drainEvents_one {s : State} {f : Nat} {e : Event} (hb : (s.fn f).backlog = [e]) (hen : (s.fn f).en = true)
    (hr : (s.fn f).ringFull = false) : s.drainEvents f 1 = (s.setFn f { s.fn f with backlog := [] }).writeEntry f e := by
  simp only [State.drainEvents, hb, hen, hr, Bool.not_false, Bool.and_self, if_true]

theorem leBytes_length (n w : Nat) : (leBytes n w).length = n := by
  induction n generalizing w with
  | zero => rfl
  | succ n ih => simp [leBytes, ih]

theorem Event.bytes_length (e : Event) (phase : Nat) : (e.bytes phase).length = 32 := by
  simp [Event.bytes, leBytes_length]

/-- EVQ_CTL: EN, VEC and, while EN is 0, SIZE (R34). -/
theorem writeEvqCtl_does (s : State) (f : Nat) (w : BitVec 32) :
    let x := s.fn f
    let t := writeEvqCtl f w.toNat s
    (t.fn f).en = w.getLsbD 31 ∧ (t.fn f).vec = (w.extractLsb' 10 6).toNat ∧
      (t.fn f).size = (if x.en then x.size else (w.extractLsb' 0 5).toNat) ∧
      (x.backlog = [] → onlyFn f { x with en := (t.fn f).en, vec := (t.fn f).vec, size := (t.fn f).size } s t) := by
  intro x t
  obtain ⟨h1, h2, h3⟩ := State.drainEvents_fn (s.setFn f { x with
    en := w.toNat.testBit 31, vec := bitsAt w.toNat 10 6, size := if x.en then x.size else bitsAt w.toNat 0 5 }) f x.backlog.length
  simp only [State.fn_setFn_self] at h1 h2 h3
  have he : (t.fn f).en = w.toNat.testBit 31 := h1
  have hv : (t.fn f).vec = bvField w 10 6 := h2
  have hz : (t.fn f).size = if x.en then x.size else bvField w 0 5 := h3
  rw [he, hv, hz]
  refine ⟨rfl, bvField_eq w 10 6, by rw [bvField_eq], fun hb => ?_⟩
  have ht : t = s.setFn f { x with
      en := w.toNat.testBit 31, vec := bvField w 10 6, size := if x.en then x.size else bvField w 0 5 } := by
    show State.drainEvents _ f x.backlog.length = _
    rw [hb]
    rfl
  rw [ht]
  exact onlyFn_setFn s f _

/-- EVQ_HEAD acknowledges the interrupt (R33, R34). -/
theorem writeEvqHead_idle {s : State} {f : Nat} (w : BitVec 32) (hb : (s.fn f).backlog = []) :
    onlyFn f { s.fn f with head := w, armed := true } s (writeEvqHead f w.toNat s) := by
  have ht : writeEvqHead f w.toNat s = s.setFn f { s.fn f with head := w, armed := true } := by
    simp only [writeEvqHead, hb, BitVec.ofNat_toNat, BitVec.setWidth_eq]
    rfl
  rw [ht]
  exact onlyFn_setFn s f _

/-- Room in the ring takes the one event that waits, with its interrupt. -/
theorem writeEvqHead_writes {s : State} {f : Nat} (w : BitVec 32) {e : Event} (hb : (s.fn f).backlog = [e])
    (hen : (s.fn f).en = true) (hm : s.memoryWf = true) (hr : ({ s.fn f with head := w } : Fn).ringFull = false) :
    let x := s.fn f
    let t := writeEvqHead f w.toNat s
    (t.fn f).backlog = [] ∧ (t.fn f).head = w ∧ (t.fn f).tail = x.tail + 1 ∧ (t.fn f).raised = x.raised + 1 ∧
      t = { s with fns := t.fns, hostMem := t.hostMem } ∧
      bytesAt t.hostMem (f * 2 ^ 64 + x.evqBase.toNat + 32 * (x.tail % x.entries)) 32 = e.bytes (1 - x.tail / x.entries % 2) := by
  intro x t
  have ht : t = (s.setFn f { x with head := w, armed := true, backlog := [] }).writeEntry f e := by
    have h := State.drainEvents_one (s := s.setFn f { x with head := w, armed := true }) (f := f) (e := e)
      (by rw [State.fn_setFn_self]; exact hb) (by rw [State.fn_setFn_self]; exact hen) (by rw [State.fn_setFn_self]; exact hr)
    rw [State.fn_setFn_self, State.setFn_setFn] at h
    have hl : x.backlog.length = 1 := by rw [hb]; rfl
    rw [← h, ← hl]
    simp only [t, writeEvqHead, BitVec.ofNat_toNat, BitVec.setWidth_eq]
    rfl
  have hf : t.fn f = { x with head := w, armed := false, backlog := [], tail := x.tail + 1, raised := x.raised + 1 } := by
    rw [ht, State.writeEntry]
    simp only [State.fn_setFn_self, if_true]
  have hbytes : t.hostMem = putBytes s.hostMem (hostKey f (x.evqBase.toNat + 32 * (x.tail % x.entries)))
      (e.bytes (1 - x.tail / x.entries % 2)) := by
    rw [ht, State.writeEntry]
    simp only [State.fn_setFn_self]
    rfl
  obtain ⟨-, hwf, -⟩ := (State.memoryWf_iff s).mp hm
  refine ⟨by rw [hf], by rw [hf], by rw [hf], by rw [hf], by rw [ht]; rfl, ?_⟩
  have hput := bytesAt_putBytes_self (e.bytes (1 - x.tail / x.entries % 2)) hwf (hostKey f (x.evqBase.toNat + 32 * (x.tail % x.entries)))
  rw [Event.bytes_length] at hput
  rw [hbytes, Nat.add_assoc]
  exact hput

/-! ## QCFG (R58, R59) -/

/-- A queue that is off has no halt (R59). -/
theorem Queue.halt_ends (q : Queue) :
    (if q.en = true then q else { q with halted := false }) = { q with halted := q.en && q.halted } := by
  cases h : q.en
  · rfl
  · simp only [if_true, Bool.true_and]
    rw [← h]

/-- While EN is 1 a write changes EN alone, and a cleared EN ends a halt. -/
theorem writeQcfg_enabled {s : State} {n : Nat} (w : BitVec 32) (hn : n ≠ 0 ∨ s.notices = []) (he : (s.queue n).en = true) :
    let q := s.queue n
    onlyQueue n { q with en := w.getLsbD 31, halted := w.getLsbD 31 && q.halted, spawnDie := waitingSpawns q q.pi } s
      (writeQcfg n w.toNat s) := by
  intro q
  have hw : writeQcfg n w.toNat s = s.setIndices n { q with en := w.getLsbD 31, halted := w.getLsbD 31 && q.halted } := by
    simp only [writeQcfg, he, if_true]
    exact congrArg (s.setIndices n) (Queue.halt_ends { q with en := w.getLsbD 31 })
  rw [hw, State.setIndices_eq _ hn]
  exact onlyQueue_setQueue s n _

/-- While EN is 0 it sets every field; queue 0 keeps its tenant, priority and function. -/
theorem writeQcfg_disabled {s : State} {n : Nat} (w : BitVec 32) (hn : n ≠ 0 ∨ s.notices = []) (he : (s.queue n).en = false) :
    let q := s.queue n
    let field := fun lo k => (w.extractLsb' lo k).toNat
    let tenant := if n = 0 then 0 else field 18 9
    onlyQueue n { q with
      en := w.getLsbD 31, halted := w.getLsbD 31 && q.halted, space := w.getLsbD 30, tenant := tenant
      prio := if n = 0 then 0 else if field 27 3 = 0 ∧ tenant ≠ 0 then 1 else field 27 3
      func := if n = 0 then 0 else field 12 6, spawn := n != 0 && w.getLsbD 11, size := field 0 5
      spawnDie := waitingSpawns q q.pi } s (writeQcfg n w.toNat s) := by
  intro q field tenant
  have hf : ∀ lo k, bitsAt w.toNat lo k = field lo k := fun lo k => bvField_eq w lo k
  have hw : writeQcfg n w.toNat s = s.setIndices n { q with
      en := w.getLsbD 31, halted := w.getLsbD 31 && q.halted, space := w.getLsbD 30, tenant := tenant
      prio := if n = 0 then 0 else if field 27 3 = 0 ∧ tenant ≠ 0 then 1 else field 27 3
      func := if n = 0 then 0 else field 12 6, spawn := n != 0 && w.getLsbD 11, size := field 0 5 } := by
    simp only [writeQcfg, he, Bool.false_eq_true, if_false, hf]
    exact congrArg (s.setIndices n) (Queue.halt_ends { q with
      en := w.getLsbD 31, space := w.getLsbD 30, tenant := tenant
      prio := if n = 0 then 0 else if field 27 3 = 0 ∧ tenant ≠ 0 then 1 else field 27 3
      func := if n = 0 then 0 else field 12 6, spawn := n != 0 && w.getLsbD 11, size := field 0 5 })
  rw [hw, State.setIndices_eq _ hn]
  exact onlyQueue_setQueue s n _

/-! ## Registers of one field (R7) -/

theorem ofNat_pageAddr (v : Word) : BitVec.ofNat 64 (pageAddr v.toNat) = v &&& 0x01FFFFFFFFFFF000 := by
  have hm := and_mask v.toNat 12 45
  apply BitVec.eq_of_toNat_eq
  rw [BitVec.toNat_and, BitVec.toNat_ofNat]
  have hv := v.isLt
  simp only [pageAddr, bitsAt]
  simp at hm ⊢
  rw [hm]
  omega

theorem pageAddr_eq (v : Word) : pageAddr v.toNat = (v.extractLsb' 12 45).toNat * 4096 := by
  rw [← bvField_eq]; rfl

/-- The low bits of a 32-bit register, from the data of its write. -/
theorem ofNat_partOf_narrow (v : Word) {k : Nat} (hk : k ≤ 32) : BitVec.ofNat k (partOf true v 0) = v.setWidth k := by
  apply BitVec.eq_of_toNat_eq
  rw [partOf_narrow, BitVec.toNat_ofNat, BitVec.toNat_setWidth, Nat.mod_mod_of_dvd _ (Nat.pow_dvd_pow 2 hk)]

/-! ## SAVECFG (R221) -/

theorem writeSavecfg_busy {s : State} (v : Nat) (h : ∃ p, p ∈ s.tasks ∧ p.2.saved ≠ []) : writeSavecfg v s = s := by
  obtain ⟨p, hp, hs⟩ := h
  exact if_pos (List.any_eq_true.mpr ⟨p, hp, by simpa using hs⟩)

theorem writeSavecfg_idle {s : State} (v : Word) (h : ∀ p, p ∈ s.tasks → p.2.saved = []) :
    let field := fun lo k => (v.extractLsb' lo k).toNat
    writeSavecfg v.toNat s = { s with saveSlots := field 52 12, saveFree := field 52 12, saveBase := field 16 24 * 2 ^ 16 } := by
  have hn : ¬ (s.tasks.any fun p => !p.2.saved.isEmpty) = true := by
    rw [List.any_eq_true]
    rintro ⟨p, hp, hs⟩
    simp [h p hp] at hs
  intro field
  unfold writeSavecfg
  rw [if_neg hn, show bitsAt v.toNat 52 12 = field 52 12 from bvField_eq v 52 12,
    show bitsAt v.toNat 16 24 = field 16 24 from bvField_eq v 16 24]

/-! ## The writes of the host -/

theorem exec_registerWrite_hub (f off size : Nat) (v : Word) (s : State) :
    exec (.registerWrite f true off size v) s = .next (s.writeHub f off size v) := rfl

/-- A malformed write is dropped and counted, in either block (R29). -/
theorem registerWrite_malformed {s : State} {f off size : Nat} (hub : Bool) (v : Word) (hp : s.power = true)
    (h : size ≠ 4 ∧ size ≠ 8 ∨ off % size ≠ 0) : does (.registerWrite f hub off size v) s (malformed f) := by
  refine ⟨_, rfl, ?_⟩
  cases hub
  · simp only [Bool.false_eq_true, if_false, State.writeWindow, hp, Bool.not_true, accessParts_malformed h]
    exact malformed_countBad s f
  · simp only [if_true, State.writeHub, hp, Bool.not_true, accessParts_malformed h]
    exact malformed_countBad s f

/-- A write where no register stands does nothing (R29). -/
theorem registerWrite_nowhere {s : State} {f off : Nat} (v : Word) (hp : s.power = true) (hf : f < 64) (hg : hubGrants s f true)
    (ha : off % 8 = 0) (h : 0x39C00 ≤ off) : does (.registerWrite f true off 8 v) s same := by
  refine ⟨_, rfl, ?_⟩
  have hr : ¬ s.hubRefuses f true [] = true := by
    rw [State.hubRefuses_nil s hf, not_not]; exact hg
  simp [State.writeHub, hp, accessParts_nowhere ha (hubRegAt_above h), hr, same]

theorem accessParts_qcfg {n : Nat} (h : n < 128) :
    accessParts hubRegAt HubReg.narrow (0x4008 + 32 * n) 4 = some [(.qcfg n, 0)] :=
  accessParts_narrow (by omega) (hubRegAt_queue (k := 8) h (by decide)) rfl

theorem accessParts_qpi {n : Nat} (h : n < 128) : accessParts fnRegAt FnReg.narrow (8 * n) 8 = some [(.qpi n, 0)] :=
  accessParts_wide (by omega) (fnRegAt_qpi h) rfl

theorem accessParts_route {i : Nat} (h : i < 64) :
    accessParts hubRegAt HubReg.narrow (0x1100 + 8 * i) 8 = some [(.route i, 0)] :=
  accessParts_wide (by omega) (hubRegAt_route h) rfl

/-- QPI: refused, kept, or ahead of its ring (R30, R59). -/
theorem qpiWrite_does {f n : Nat} (v : Word) {s : State} (hp : s.power = true) (hn : n < 128) :
    let q := s.queue n
    let may := tableAllows (s.accessTable (.queue n)) (.func f) true = true ∧ q.spawn = false ∧ (v.extractLsb' 32 32).toNat = 0
    let p : BitVec 32 := v.setWidth 32
    let ahead := (p - q.ci).toNat
    (¬ may → does (.qpiWrite f n v) s (deniedTo f)) ∧
    (n ≠ 0 ∨ s.notices = [] → may → q.en = false ∨ p = q.pi ∨ ahead ≤ (q.pi - q.ci).toNat ∨ ahead ≤ 2 ^ (Min.min (Max.max q.size 4) 16) →
      does (.qpiWrite f n v) s (onlyQueue n { q with pi := p, spawnDie := waitingSpawns q p })) ∧
    (n ≠ 0 ∨ s.notices = [] → may → q.en = true → p ≠ q.pi → (q.pi - q.ci).toNat < ahead → 2 ^ (Min.min (Max.max q.size 4) 16) < ahead →
      does (.qpiWrite f n v) s fun s t => t.queue n = { q with pi := p, halted := true, ovr := true, spawnDie := waitingSpawns q p } ∧
        (∀ m, m ≠ n → t.queue m = s.queue m) ∧
        t = { s with queues := t.queues, fns := t.fns, hostMem := t.hostMem }) := by
  intro q may p ahead
  have hw : exec (.qpiWrite f n v) s = .next (writeQpi f n v s) := by
    show Host.Outcome.next (s.writeWindow f (8 * n) 8 v) = _
    rw [State.writeWindow_one hp (accessParts_qpi hn)]
    simp [FnReg.narrow, State.writeFnReg]
  refine ⟨fun h => ⟨_, hw, ?_⟩, fun hq h hk => ⟨_, hw, ?_⟩, fun hq h he hne hb hs => ⟨_, hw, ?_⟩⟩
  · rw [writeQpi_refused h]
    exact deniedTo_countDenied s f
  · rw [writeQpi_accepted h.1 h.2.1 h.2.2]
    exact producerIndex_kept hq hk
  · rw [writeQpi_accepted h.1 h.2.1 h.2.2]
    exact producerIndex_overrun hq he hne hb hs

/-- QCFG of function 0 (R58). -/
theorem qcfgWrite_does {n : Nat} (w : BitVec 32) {s : State} {p : State → State → Prop} (hp : s.power = true) (hg : hubGrants s 0 true)
    (hn : n < 128) (h : p s (writeQcfg n w.toNat s)) : does (.qcfgWrite 0 n w) s p :=
  does_of_granted rfl hp (by decide) (accessParts_qcfg hn) hg (.inl rfl) (by
    rw [show partOf (HubReg.qcfg n).narrow _ 0 = w.toNat from partOf_ofNat w]
    exact h)

/-- SAVECFG of function 0 (R221). -/
theorem savecfgWrite_does (v : Word) {s : State} {p : State → State → Prop} (hp : s.power = true) (hg : hubGrants s 0 true)
    (h : p s (writeSavecfg v.toNat s)) : does (.savecfgWrite 0 v) s p :=
  does_of_granted (r := .savecfg) rfl hp (by decide) rfl hg (.inl rfl) (by
    rw [show partOf HubReg.savecfg.narrow v 0 = v.toNat from partOf_wide v]
    exact h)

theorem hostRegisters_hold : hostRegisters := by
  intro f n off size hub v w s hp hf x q writes field
  have wide : ∀ r : HubReg, r.narrow = false → partOf r.narrow v 0 = v.toNat := fun r h => by rw [h, partOf_wide]
  refine ⟨resetFunction_does f hp, fun hn => qpiWrite_does v hp hn, ?_, fun hb => ?_, fun e hb he hm hr => ?_,
    registerWrite_malformed hub v hp, fun hg => ⟨?_, fun hn => ?_, ?_⟩, fun hg => ⟨?_, ?_, ?_, ?_, ?_, fun hn => ?_, fun h0 => ⟨fun hn => ?_, ?_⟩, ?_, ?_, ?_⟩⟩
  · refine does_of_window (r := .evqCtl) rfl hp rfl ?_
    rw [show partOf FnReg.evqCtl.narrow _ 0 = w.toNat from partOf_ofNat w]
    exact writeEvqCtl_does s f w
  · refine does_of_window (r := .evqHead) rfl hp rfl ?_
    rw [show partOf FnReg.evqHead.narrow _ 0 = w.toNat from partOf_ofNat w]
    exact writeEvqHead_idle w hb
  · refine does_of_window (r := .evqHead) rfl hp rfl ?_
    rw [show partOf FnReg.evqHead.narrow _ 0 = w.toNat from partOf_ofNat w]
    exact writeEvqHead_writes w hb he hm hr
  · exact does_of_refused (r := .evtab) (exec_registerWrite_hub f 0x68 8 v s) hp hf rfl (.inl hg)
  · exact does_of_refused rfl hp hf (accessParts_qcfg hn) (.inl hg)
  · exact does_of_refused (r := .savecfg) rfl hp hf rfl (.inl hg)
  · exact fun h ha => registerWrite_nowhere v hp hf hg ha h
  · refine does_of_granted (r := .pkgPwr) (exec_registerWrite_hub f 0x00 4 v s) hp hf rfl hg (.inr rfl) ?_
    exact congrArg (fun y => { s with watts := y }) (ofNat_partOf_narrow v (by decide))
  · refine does_of_granted (r := .sdaddr) (exec_registerWrite_hub f 0x50 8 v s) hp hf rfl hg (.inr rfl) ?_
    rw [wide _ rfl]
    exact congrArg (fun y => { s with sdBase := y }) (pageAddr_eq v)
  · refine does_of_granted (r := .evtab) (exec_registerWrite_hub f 0x68 8 v s) hp hf rfl hg (.inr rfl) ?_
    rw [wide _ rfl]
    exact congrArg (fun y => { s with evtab := y }) (ofNat_pageAddr v)
  · refine does_of_granted (r := .podId) (exec_registerWrite_hub f 0x1300 4 v s) hp hf rfl hg (.inr rfl) ?_
    exact congrArg (fun y => { s with podId := y }) (ofNat_partOf_narrow v (by decide))
  · refine does_of_granted rfl hp hf (accessParts_route hn) hg (.inr rfl) ?_
    rw [wide _ rfl]
    exact ⟨rfl, (mapGet_mapPut_self _ _ _ _).trans (by simp)⟩
  · exact does_of_refused rfl hp hf (accessParts_qcfg hn) (.inr ⟨h0, rfl⟩)
  · exact does_of_refused (r := .savecfg) rfl hp hf rfl (.inr ⟨h0, rfl⟩)
  · rintro rfl hn hq
    exact ⟨fun he => qcfgWrite_does w hp hg hn (writeQcfg_enabled w hq he),
      fun he => qcfgWrite_does w hp hg hn (writeQcfg_disabled w hq he)⟩
  · rintro rfl h
    exact savecfgWrite_does v hp hg (writeSavecfg_busy _ h)
  · rintro rfl h
    exact savecfgWrite_does v hp hg (writeSavecfg_idle v h)

end Sys2Proof.Machine
end

section
/-! Reads by the host functions (R29, R31, R48, R50). -/

open Sys2Proof Sys2Proof.Machine Sys2Proof.Claims

namespace Sys2Proof.Machine

/-! ## The next of the agenda -/

theorem step_registerRead {s : State} {f off size : Nat} {hub : Bool} {rest : List Act} (hf : f < 64)
    (h : s.agenda = .registerRead f hub off size :: rest) :
    step s = .next (readRegister f hub off size { s with agenda := rest }) := by
  simp only [step, plan, h, actPlan, hf, if_true]

theorem step_memoryRead {s : State} {f key pa n : Nat} {rest : List Act} (hf : f < 64) (hk : key < 512)
    (hn : pa + n ≤ Config.hbmBytes) (h : s.agenda = .memoryRead f key pa n :: rest) :
    step s = .next (hostReads f key pa n { s with agenda := rest }) := by
  simp only [step, plan, h, actPlan, hf, hk, hn, and_self, if_true]

/-! ## Registers -/

/-- What a refused read leaves: all ones, and the counter (R50). -/
theorem onlyFn_countDenied_setFn (s : State) (f : Nat) (g : Fn → Fn) :
    onlyFn f (g { s.fn f with denied := if (s.fn f).denied = 0xFFFF then 0xFFFF else (s.fn f).denied + 1 }) s
      ((s.countDenied f).setFn f (g ((s.countDenied f).fn f))) := by
  unfold State.countDenied
  rw [satAdd1_eq, State.fn_setFn_self, State.setFn_setFn]
  exact onlyFn_setFn s f _

theorem onlyFn_countBad_setFn (s : State) (f : Nat) (g : Fn → Fn) :
    onlyFn f (g { s.fn f with badacc := if (s.fn f).badacc = 0xFFFF then 0xFFFF else (s.fn f).badacc + 1 }) s
      ((s.countBad f).setFn f (g ((s.countBad f).fn f))) := by
  unfold State.countBad
  rw [satAdd1_eq, State.fn_setFn_self, State.setFn_setFn]
  exact onlyFn_setFn s f _

section
variable {s : State} {f off size : Nat} (hp : s.power = true)
include hp

/-- A read whose data and state are known. -/
theorem readRegister_hub {r : Word × State} (h : s.readHub f off size = r) :
    readRegister f true off size s = r.2.setFn f { r.2.fn f with readData := r.1 } := by
  simp [readRegister, hp, h]

theorem readRegister_window {r : Word × State} (h : s.readWindow f off size = r) :
    readRegister f false off size s = r.2.setFn f { r.2.fn f with readData := r.1 } := by
  simp [readRegister, hp, h]

theorem readRegister_malformed (hub : Bool) (h : size ≠ 4 ∧ size ≠ 8 ∨ off % size ≠ 0) :
    onlyFn f { s.fn f with badacc := if (s.fn f).badacc = 0xFFFF then 0xFFFF else (s.fn f).badacc + 1, readData := allOnes size } s
      (readRegister f hub off size s) := by
  cases hub
  · rw [readRegister_window hp (r := (allOnes size, s.countBad f)) (by simp [State.readWindow, accessParts_malformed h])]
    exact onlyFn_countBad_setFn s f fun x => { x with readData := allOnes size }
  · rw [readRegister_hub hp (r := (allOnes size, s.countBad f)) (by simp [State.readHub, accessParts_malformed h])]
    exact onlyFn_countBad_setFn s f fun x => { x with readData := allOnes size }

theorem readRegister_refused {rs : List (HubReg × Nat)} (ha : accessParts hubRegAt HubReg.narrow off size = some rs)
    (hr : s.hubRefuses f false (rs.map fun p => p.1) = true) :
    onlyFn f { s.fn f with denied := if (s.fn f).denied = 0xFFFF then 0xFFFF else (s.fn f).denied + 1, readData := allOnes size } s
      (readRegister f true off size s) := by
  rw [readRegister_hub hp (r := (allOnes size, s.countDenied f)) (by simp only [State.readHub, ha, hr, if_true])]
  exact onlyFn_countDenied_setFn s f fun x => { x with readData := allOnes size }

/-- A granted read of a register that no function is kept from. -/
theorem readRegister_granted {r : HubReg} (hf : f < 64) (ha : accessParts hubRegAt HubReg.narrow off size = some [(r, 0)])
    (hg : hubGrants s f false) (h0 : r.reserved false = false) :
    readRegister f true off size s =
      (s.hubRead r).setFn f { (s.hubRead r).fn f with readData := BitVec.ofNat 64 (s.hubValue r) } := by
  have hr : ¬ s.hubRefuses f false [r] = true := by
    rw [State.hubRefuses_one s hf]
    rintro (h | ⟨-, h⟩)
    · exact h hg
    · rw [h0] at h; cases h
  exact readRegister_hub hp (r := (BitVec.ofNat 64 (s.hubValue r), s.hubRead r)) (by simp [State.readHub, ha, hr])

theorem readRegister_word {r : HubReg} (hf : f < 64) (ha : accessParts hubRegAt HubReg.narrow off size = some [(r, 0)])
    (hg : hubGrants s f false) (h0 : r.reserved false = false) (hs : s.hubRead r = s) :
    onlyFn f { s.fn f with readData := BitVec.ofNat 64 (s.hubValue r) } s (readRegister f true off size s) := by
  rw [readRegister_granted hp hf ha hg h0, hs]
  exact onlyFn_setFn s f _

theorem readRegister_own {r : FnReg} (ha : accessParts fnRegAt FnReg.narrow off size = some [(r, 0)]) :
    onlyFn f { s.fn f with readData := BitVec.ofNat 64 (s.fnValue f r) } s (readRegister f false off size s) := by
  rw [readRegister_window hp (r := (BitVec.ofNat 64 (s.fnValue f r), s)) (by simp [State.readWindow, ha])]
  exact onlyFn_setFn s f _

end

/-! ## Package memory (R48, R50) -/

/-- The granules that an access of at least one byte meets. -/
theorem State.refusedGranule_isNone (s : State) (m : Master) (write : Bool) (pa : Nat) {n : Nat} (hn : 0 < n) :
    (s.refusedGranule m write pa n).isNone = true ↔
      ∀ g, g % 256 = 0 → pa / 256 * 256 ≤ g → g < pa + n → tableAllows (s.hbmTable g) m write = true := by
  simp only [State.refusedGranule, Option.isNone_iff_eq_none, List.find?_eq_none, List.mem_map, upTo, List.mem_range,
    forall_exists_index, and_imp, Bool.not_eq_true', Bool.not_eq_false]
  constructor
  · intro h g hg hl hu
    exact h g (g / 256 - pa / 256) (by omega) (by omega)
  · rintro h g i hi rfl
    exact h _ (by omega) (by omega) (by omega)

theorem State.hostMay_iff (s : State) (f k pa : Nat) {n : Nat} (hn : 0 < n) (write : Bool) :
    s.hostMay f k pa n write = true ↔ Claims.hostMay s f k pa n write := by
  have hg := s.refusedGranule_isNone (.func f) write pa hn
  simp only [State.hostMay, Claims.hostMay, Bool.and_eq_true, State.keyAllowed, Bool.or_eq_true, decide_eq_true_eq, hg]

section
variable {s : State} {f key pa n : Nat} (hr : s.ready = true) (hn : n ≠ 0)
include hr hn

theorem hostReads_granted (h : Claims.hostMay s f key pa n false) :
    onlyFn f { s.fn f with readBytes := s.hbmRead (s.keySlot key).gen pa n } s (hostReads f key pa n s) := by
  have hm := (s.hostMay_iff f key pa (Nat.pos_of_ne_zero hn) false).mpr h
  have ht : hostReads f key pa n s = s.setFn f { s.fn f with readBytes := s.hbmRead (s.keySlot key).gen pa n } := by
    simp [hostReads, hr, hn, hm]
  rw [ht]
  exact onlyFn_setFn s f _

theorem hostReads_refused (h : ¬ Claims.hostMay s f key pa n false) :
    onlyFn f { s.fn f with
      denied := if (s.fn f).denied = 0xFFFF then 0xFFFF else (s.fn f).denied + 1, readBytes := List.replicate n 0xFF } s
      (hostReads f key pa n s) := by
  have hm : s.hostMay f key pa n false = false := by
    rw [← Bool.not_eq_true, s.hostMay_iff f key pa (Nat.pos_of_ne_zero hn) false]; exact h
  have ht : hostReads f key pa n s =
      (s.countDenied f).setFn f { (s.countDenied f).fn f with readBytes := List.replicate n 0xFF } := by
    simp [hostReads, hr, hn, hm]
  rw [ht]
  exact onlyFn_countDenied_setFn s f fun x => { x with readBytes := List.replicate n 0xFF }

end

theorem accessParts_link {p : Nat} (h : p < 12) :
    accessParts hubRegAt HubReg.narrow (0x1000 + 8 * p) 4 = some [(.link p, 0)] :=
  accessParts_narrow (by omega) (hubRegAt_link h) rfl

theorem accessParts_qprod {n : Nat} (h : n < 128) :
    accessParts hubRegAt HubReg.narrow (0x4010 + 32 * n) 4 = some [(.qprod n, 0)] :=
  accessParts_narrow (by omega) (hubRegAt_queue (k := 16) h (by decide)) rfl

theorem accessParts_qcons {n : Nat} (h : n < 128) :
    accessParts hubRegAt HubReg.narrow (0x4014 + 32 * n) 4 = some [(.qcons n, 0)] :=
  accessParts_narrow (by omega) (hubRegAt_queue (k := 20) h (by decide)) rfl

theorem accessParts_mbxData {i : Nat} (h : i < 32) :
    accessParts fnRegAt FnReg.narrow (0xC00 + 8 * i) 8 = some [(.mbxData i, 0)] :=
  accessParts_wide (by omega) (fnRegAt_mbxData h) rfl

theorem hostReading_holds : hostReading := by
  intro f key pa n off size hub rest s hp hf x ones up reads only word
  have register : ∀ hub off size (p : State → Prop), p (readRegister f hub off size { s with agenda := rest }) →
      reads (.registerRead f hub off size) p := fun _ _ _ _ h ha => ⟨_, step_registerRead hf ha, h⟩
  have value : ∀ (r : HubReg) off size, hubGrants s f false → r.reserved false = false →
      accessParts hubRegAt HubReg.narrow off size = some [(r, 0)] → State.hubRead { s with agenda := rest } r = { s with agenda := rest } →
      word true off size (State.hubValue { s with agenda := rest } r) := fun r off size hg h0 ha hs =>
    register _ _ _ _ (readRegister_word (s := { s with agenda := rest }) hp hf ha hg h0 hs)
  have own : ∀ (r : FnReg) off size, accessParts fnRegAt FnReg.narrow off size = some [(r, 0)] →
      word false off size (State.fnValue { s with agenda := rest } f r) := fun r off size ha =>
    register _ _ _ _ (readRegister_own (s := { s with agenda := rest }) hp ha)
  refine ⟨fun h => register _ _ _ _ (readRegister_malformed (s := { s with agenda := rest }) hp hub h), ?_, ?_,
    own .fnInfo _ _ rfl, own .fnStat _ _ rfl, fun hn => ?_, ?_⟩
  · rintro hg ha rfl h8
    exact register _ _ _ _ (readRegister_refused (s := { s with agenda := rest }) hp (accessParts_nowhere h8 (hubRegAt_above ha))
      ((State.hubRefuses_nil _ hf false).mpr hg))
  · intro hg
    refine ⟨value .pkgPwr _ _ hg rfl rfl rfl, value .bootStat _ _ hg rfl rfl rfl, value .podId _ _ hg rfl rfl rfl,
      value .evtab _ _ hg rfl rfl rfl, fun hn => value (.link n) _ _ hg rfl (accessParts_link hn) rfl, fun hn =>
      ⟨value (.qprod n) _ _ hg rfl (accessParts_qprod hn) rfl, value (.qcons n) _ _ hg rfl (accessParts_qcons hn) rfl⟩⟩
  · rw [← bvField_eq]
    exact own (.mbxData n) _ _ (accessParts_mbxData hn)
  · intro hr hn hk hb
    refine ⟨fun hm ha => ⟨_, step_memoryRead hf hk hb ha, hostReads_granted (s := { s with agenda := rest }) hr hn hm⟩,
      fun hm ha => ⟨_, step_memoryRead hf hk hb ha, hostReads_refused (s := { s with agenda := rest }) hr hn hm⟩⟩

end Sys2Proof.Machine
end

section
/-! Park entries (R211) and shootdowns (R139). -/

open Sys2Proof Sys2Proof.Machine Sys2Proof.Claims

namespace Sys2Proof.Machine

/-! ## Tables -/

theorem mem_of_mapFind {α : Type} {m : Map α} {k : Nat} {v : α} (h : mapFind m k = some v) : (k, v) ∈ m := by
  induction m with
  | nil => cases h
  | cons p m ih =>
    obtain ⟨j, u⟩ := p
    unfold mapFind at h
    split at h
    · rename_i hj
      cases h
      rw [hj]
      exact List.mem_cons_self
    · exact List.mem_cons_of_mem _ (ih h)

/-- A table whose values are changed, its keys kept. -/
theorem mapFind_map {α : Type} (m : Map α) (g : Nat × α → Nat × α) (hg : ∀ p, (g p).1 = p.1) (k : Nat) :
    mapFind (m.map g) k = (mapFind m k).map fun v => (g (k, v)).2 := by
  induction m with
  | nil => rfl
  | cons p m ih =>
    obtain ⟨j, u⟩ := p
    have hc : g (j, u) = (j, (g (j, u)).2) := Prod.ext (hg (j, u)) rfl
    rw [List.map_cons, hc]
    unfold mapFind
    by_cases hj : j = k
    · subst hj
      simp
    · simp [hj, ih]

/-- A core that has a task is listed. -/
theorem State.core_of_taskOf {s : State} {c : Nat} {k : Task} (h : s.taskOf c = some k) : mapFind s.coreTab c = some (s.core c) := by
  cases hf : mapFind s.coreTab c with
  | some q => simp [State.core, mapGet, hf]
  | none =>
    have hq : s.core c = Core.initial := by simp [State.core, mapGet, hf]
    rw [State.taskOf, hq] at h
    cases h

/-! ## Park entries (R211) -/

/-- The strand of a park entry that is resolved may run again; no other changes. -/
theorem State.unpark_core (s : State) (i : Nat) (x : Park) :
    (s.unpark i x).core x.core = (s.core x.core).setStrand x.strand
      { (s.core x.core).strand x.strand with hold := none, heldTicks := 0 } ∧
    ∀ c, c ≠ x.core → (s.unpark i x).core c = s.core c :=
  ⟨State.core_setCore_self _ _ _, fun _ h => State.core_setCore_ne _ _ h⟩

/-- A strand with a handler enters it; no other changes (R208). -/
theorem State.raiseAt_handler {s : State} {c k : Nat} {e : Exc} (next : Nat) (h : ((s.core c).strand k).hasHandler = true)
    (hp : e.code ≠ codePURITY) :
    s.raiseAt c k e next = s.setCore c ((s.core c).setStrand k
      (((s.core c).strand k).enterHandler e (if e.kindC then next else ((s.core c).strand k).pc))) := by
  simp only [State.raiseAt, hp, h, if_true, if_false]

/-- Cores that stop leave the tasks and the registers of the hub alone. -/
theorem State.stopCores_frame (s : State) (cs : List Nat) :
    ∃ coreTab dies parks, s.stopCores cs = { s with coreTab := coreTab, dies := dies, parks := parks } := by
  have hc : ∀ (cs : List Nat) (s : State), ∃ coreTab,
      cs.foldl (fun s c => s.setCore c (s.core c).discardRecords) s = { s with coreTab := coreTab } := by
    intro cs
    induction cs with
    | nil => exact fun s => ⟨s.coreTab, rfl⟩
    | cons c cs ih =>
      intro s
      obtain ⟨t, e⟩ := ih (s.setCore c (s.core c).discardRecords)
      exact ⟨t, e⟩
  obtain ⟨t, e⟩ := hc cs s
  exact ⟨t, (s.stopCores cs).dies, (s.stopCores cs).parks, by simp only [State.stopCores, e]⟩

/-- The abort of a task records its cause (R209). -/
theorem State.abortTask_aborts {s : State} {id : Nat} {task : Task} (h : s.task? id = some task) (hi : task.id.toNat = id)
    (ha : task.aborted = none) (cause code : Nat) :
    let t := s.abortTask id cause code
    t.pkAction = s.pkAction ∧ t.pkIndex = s.pkIndex ∧ ∃ u, t.task? id = some u ∧ u.aborted = some (cause, code) := by
  obtain ⟨coreTab, dies, parks, e⟩ := s.stopCores_frame task.cores
  subst hi
  simp only [State.abortTask, h, ha, e, Option.isSome_none, Bool.false_eq_true, if_false]
  exact ⟨rfl, rfl, _, mapFind_mapPut_self _ _ _, rfl⟩

/-- The fields of PKCTL in a write of action `a` on entry `i`. -/
theorem pkctl_fields {a i : Nat} (ha : a < 4) (hi : i < 256) :
    let v := partOf true (BitVec.ofNat 64 (2 ^ 31 + a * 2 ^ 8 + i)) 0
    bitsAt v 0 8 = i ∧ bitsAt v 8 2 = a ∧ v.testBit 31 = true := by
  intro v
  have hv : v = 2 ^ 31 + a * 2 ^ 8 + i := by
    simp only [v, partOf_narrow, BitVec.toNat_ofNat]
    omega
  have hb : v.testBit 31 = true := by
    rw [hv, Nat.testBit_eq_decide_div_mod_eq]
    simp only [decide_eq_true_eq]
    omega
  refine ⟨?_, ?_, hb⟩ <;> · simp only [bitsAt, hv]; omega

/-- A write of PKCTL that names a free entry is ignored. -/
theorem writePkctl_free {s : State} {a i : Nat} (ha : a < 4) (hi : i < 256) (h : mapFind s.parks i = none) :
    writePkctl (partOf true (BitVec.ofNat 64 (2 ^ 31 + a * 2 ^ 8 + i)) 0) s = s := by
  obtain ⟨h0, -, -⟩ := pkctl_fields ha hi
  rw [writePkctl, h0, h]
  rfl

/-- One that names an entry resolves it. -/
theorem writePkctl_taken {s : State} {a i : Nat} {x : Park} (ha : a < 4) (hi : i < 256) (h : mapFind s.parks i = some x) :
    writePkctl (partOf true (BitVec.ofNat 64 (2 ^ 31 + a * 2 ^ 8 + i)) 0) s =
      resolvePark a i { s with pkAction := a, pkIndex := i } := by
  obtain ⟨h0, h8, h31⟩ := pkctl_fields ha hi
  rw [writePkctl, h0, h8, h31, h]
  rfl

/-- PKCTL of function 0, by its action. -/
theorem pkctl_does {i : Instr} {s : State} {f a idx : Nat} {p : State → State → Prop}
    (he : exec i s = .next (s.writeHub f 0x60 4 (BitVec.ofNat 64 (2 ^ 31 + a * 2 ^ 8 + idx)))) (hp : s.power = true) (hf : f = 0)
    (hg : hubGrants s f true) (h : p s (writePkctl (partOf true (BitVec.ofNat 64 (2 ^ 31 + a * 2 ^ 8 + idx)) 0) s)) : does i s p :=
  does_of_granted (r := .pkctl) he hp (by omega) rfl hg (.inl hf) h

/-- What the end of a park leaves: the entry free, no other strand changed, and PKCTL as written. -/
def parkEnded (i : Nat) (x : Park) (s t : State) : Prop :=
  (t.pkAction = s.pkAction ∧ t.pkIndex = s.pkIndex ∧ t.parks = mapDel s.parks i) ∧
    (∀ c, c ≠ x.core → t.core c = s.core c) ∧ ∀ j, j ≠ x.strand → (t.core x.core).strand j = (s.core x.core).strand j

section
variable {s : State} {i : Nat} {x : Park} (hx : mapFind s.parks i = some x)
include hx

theorem resolvePark_retry (hs : x.strand < (s.core x.core).strands.length) :
    parkEnded i x s (resolvePark 0 i s) ∧
      ((resolvePark 0 i s).core x.core).strand x.strand =
        { (s.core x.core).strand x.strand with hold := none, heldTicks := 0 } := by
  have ht : resolvePark 0 i s = s.unpark i x := by simp only [resolvePark, hx]
  obtain ⟨hc, hn⟩ := s.unpark_core i x
  rw [ht, hc]
  refine ⟨⟨⟨rfl, rfl, rfl⟩, hn, fun j hj => ?_⟩, Core.strand_setStrand_self _ _ hs⟩
  rw [hc]
  exact Core.strand_setStrand_ne _ _ hj

theorem resolvePark_deliver (hs : x.strand < (s.core x.core).strands.length) (hv : ((s.core x.core).strand x.strand).trapvec ≠ 0)
    (hi : ((s.core x.core).strand x.strand).trapinfo.getLsbD 9 = false) :
    let k := (s.core x.core).strand x.strand
    parkEnded i x s (resolvePark 1 i s) ∧ ((resolvePark 1 i s).core x.core).strand x.strand =
      ({ k with hold := none, heldTicks := 0 } : Strand).enterHandler (Exc.atSlot x.slot codePAGE 0 (BitVec.ofNat 64 x.va)) k.pc := by
  intro k
  obtain ⟨hc, hn⟩ := s.unpark_core i x
  have hm : ((s.unpark i x).core x.core).strand x.strand = { k with hold := none, heldTicks := 0 } := by
    rw [hc]; exact Core.strand_setStrand_self _ _ hs
  have hh : Strand.hasHandler { k with hold := none, heldTicks := 0 } = true := Strand.hasHandler_of hv hi
  have hr := State.raiseAt_handler (s := s.unpark i x) (c := x.core) (k := x.strand)
    (e := Exc.atSlot x.slot codePAGE 0 (BitVec.ofNat 64 x.va)) 0 (by rw [hm]; exact hh)
    (show codePAGE ≠ codePURITY by decide)
  have ht : resolvePark 1 i s = (s.unpark i x).raiseAt x.core x.strand (Exc.atSlot x.slot codePAGE 0 (BitVec.ofNat 64 x.va)) 0 := by
    simp only [resolvePark, hx]
  rw [hm, hc, Core.setStrand_setStrand] at hr
  rw [ht, hr]
  refine ⟨⟨⟨rfl, rfl, rfl⟩, fun c h => ?_, fun j hj => ?_⟩, ?_⟩
  · rw [State.core_setCore_ne _ _ h]; exact hn c h
  · rw [State.core_setCore_self]; exact Core.strand_setStrand_ne _ _ hj
  · rw [State.core_setCore_self]; exact Core.strand_setStrand_self _ _ hs

theorem resolvePark_abort {id : Nat} {task : Task} (hc : (s.core x.core).task = some id) (ht : s.task? id = some task)
    (hi : task.id.toNat = id) (ha : task.aborted = none) :
    let t := resolvePark 2 i s
    t.pkAction = s.pkAction ∧ t.pkIndex = s.pkIndex ∧ ∃ u, t.task? id = some u ∧ u.aborted = some (0x06, 0) := by
  intro t
  obtain ⟨hq, -⟩ := s.unpark_core i x
  have hq' : ((s.unpark i x).core x.core).task = some id := by rw [hq]; exact hc
  have e : t = (s.unpark i x).abortTask id codePAGE 0 := by simp only [t, resolvePark, hx, hq']
  rw [e]
  exact State.abortTask_aborts (s := s.unpark i x) ht hi ha codePAGE 0

end

/-! ## Shootdowns (R139) -/

theorem Handle.meets_iff (h : Handle) (first last : Nat) : h.meets first last = true ↔ inRange h first last := by
  unfold Handle.meets inRange
  cases h.vaRange with
  | none => simp
  | some r =>
    obtain ⟨a, b⟩ := r
    simp only [Bool.and_eq_true, decide_eq_true_eq, Option.some.injEq, Prod.mk.injEq]
    constructor
    · rintro ⟨h1, h2⟩
      exact ⟨a, b, ⟨rfl, rfl⟩, h1, h2⟩
    · rintro ⟨_, _, ⟨rfl, rfl⟩, h1, h2⟩
      exact ⟨h1, h2⟩

/-- A core whose tenant is not the named one stays; one whose tenant is loses its slots of the range. -/
theorem State.shootDown_core {s : State} {c : Nat} {k : Task} (h : s.taskOf c = some k) :
    s.shootDown.core c =
      if k.tenant = s.sdTenant then (s.core c).unbindRange s.sdBase (s.sdBase + s.sdPages.toNat * 4096) else s.core c := by
  have hm : ((s.taskOf c).any fun t => t.tenant == s.sdTenant) = decide (k.tenant = s.sdTenant) := by rw [h]; rfl
  have hf := State.core_of_taskOf h
  have e := mapFind_map s.coreTab (fun p => if ((s.taskOf p.1).any fun t => t.tenant == s.sdTenant) = true then
    (p.1, p.2.unbindRange s.sdBase (s.sdBase + s.sdPages.toNat * 4096)) else p) (by intro p; split <;> rfl) c
  rw [hf] at e
  have ht : s.shootDown.core c = _ := congrArg (fun o => Option.getD o Core.initial) e
  rw [ht]
  simp only [Option.map_some, Option.getD_some, hm, decide_eq_true_eq]
  split <;> rfl

/-- The slots a core keeps. -/
theorem Core.mem_unbindRange (q : Core) (first last : Nat) (p : Nat × Handle) :
    p ∈ (q.unbindRange first last).handles ↔ p ∈ q.handles ∧ ¬ inRange p.2 first last := by
  simp [Core.unbindRange, ← Handle.meets_iff]

/-- A record that names a slot of the range is waited for. -/
theorem State.shootDown_waits {s : State} {c e : Nat} {k : Task} {r : Rec} (h : s.taskOf c = some k) (ht : k.tenant = s.sdTenant)
    (hr : r ∈ ((s.core c).engine e).queue)
    (hb : ∃ b, b ∈ r.binds ∧ inRange b.2 s.sdBase (s.sdBase + s.sdPages.toNat * 4096)) :
    (r.core, r.eng, r.num) ∈ s.shootDown.sdWait := by
  have hm : ((s.taskOf c).any fun t => t.tenant == s.sdTenant) = true := by rw [h]; simp [ht]
  have hr' : r.meets s.sdBase (s.sdBase + s.sdPages.toNat * 4096) = true := by
    obtain ⟨b, hb, hi⟩ := hb
    exact List.any_eq_true.mpr ⟨b, hb, (Handle.meets_iff _ _ _).mpr hi⟩
  have he : (e, (s.core c).engine e) ∈ (s.core c).engines := by
    cases hf : mapFind (s.core c).engines e with
    | some y =>
      have hy : (s.core c).engine e = y := by simp [Core.engine, mapGet, hf]
      rw [hy]; exact mem_of_mapFind hf
    | none =>
      have hy : (s.core c).engine e = Engine.idle := by simp [Core.engine, mapGet, hf]
      rw [hy] at hr
      cases hr
  refine List.mem_flatMap.mpr ⟨(c, s.core c), mem_of_mapFind (State.core_of_taskOf h), ?_⟩
  rw [if_pos hm]
  refine List.mem_flatMap.mpr ⟨_, he, List.mem_map.mpr ⟨r, ?_, rfl⟩⟩
  exact List.mem_filter.mpr ⟨hr, hr'⟩

theorem sdPages_eq (v : Word) : BitVec.ofNat 32 (v.toNat / 2 ^ 32) = v.extractLsb' 32 32 := by
  apply BitVec.eq_of_toNat_eq
  simp [BitVec.extractLsb'_toNat, Nat.shiftRight_eq_div_pow]

/-- The fields of SDCTL are written in any case; a GO starts only while none is BUSY. -/
theorem writeSdctl_eq (v : Word) (s : State) :
    let u : State := { s with sdPages := v.extractLsb' 32 32, sdTenant := (v.extractLsb' 20 9).toNat }
    writeSdctl v.toNat s = if v.getLsbD 31 = true ∧ s.sdBusy = false then u.shootDown else u := by
  intro u
  have hu : u = { s with sdPages := BitVec.ofNat 32 (v.toNat / 2 ^ 32), sdTenant := bitsAt v.toNat 20 9 } := by
    rw [sdPages_eq, show bitsAt v.toNat 20 9 = _ from bvField_eq v 20 9]
  unfold writeSdctl
  rw [← hu]
  have hb : u.sdBusy = s.sdBusy := rfl
  simp only [hb, Bool.and_eq_true, Bool.not_eq_true', BitVec.getLsbD]

/-- The records a shootdown waits for are in no queue any more. -/
theorem State.stillQueued_iff (s : State) (w : Nat × Nat × Nat) :
    s.stillQueued w = true ↔ ∃ e, e ∈ (s.core w.1).engines ∧ ∃ r, r ∈ e.2.queue ∧ (r.core, r.eng, r.num) = w := by
  simp [State.stillQueued]

theorem State.shootdownDue_iff (s : State) : s.shootdownDue = true ↔ s.sdBusy = true ∧
    ∀ w, w ∈ s.sdWait → ∀ e, e ∈ (s.core w.1).engines → ∀ r, r ∈ e.2.queue → (r.core, r.eng, r.num) ≠ w := by
  unfold State.shootdownDue
  rw [Bool.and_eq_true, List.all_eq_true]
  refine and_congr_right fun _ => forall_congr' fun w => imp_congr_right fun _ => ?_
  rw [Bool.not_eq_true', ← Bool.not_eq_true, State.stillQueued_iff]
  exact ⟨fun h e he r hr hw => h ⟨e, he, r, hr, hw⟩, fun h ⟨e, he, r, hr, hw⟩ => h e he r hr hw⟩

end Sys2Proof.Machine
end

section
/-! What writes to package memory leave alone (R12, R85, R86): watch bits change in the watch regions alone. -/

open Sys2Proof Sys2Proof.Machine Sys2Proof.Claims

namespace Sys2Proof.Machine

/-- Bytes of HBM change in the watch regions alone, and beside them the watch cache. -/
def rewatched (s t : State) : Prop :=
  t = { s with hbm := t.hbm, hbmGen := t.hbmGen, poison := t.poison, watch := t.watch } ∧
    ∀ a, ¬ watchByte s a → byteAt t.hbm a = byteAt s.hbm a

theorem rewatched_refl (s : State) : rewatched s s := ⟨rfl, fun _ _ => rfl⟩

theorem rewatched_trans {s t u : State} (h : rewatched s t) (k : rewatched t u) : rewatched s u := by
  obtain ⟨e, hb⟩ := h
  obtain ⟨e', hb'⟩ := k
  have hw : t.watchRegions = s.watchRegions := by rw [e]
  refine ⟨by rw [e', e], fun a ha => (hb' a ?_).trans (hb a ha)⟩
  unfold watchByte at *
  rwa [hw]

theorem rewatched_foldl {α : Type} {g : State → α → State} (hg : ∀ s x, rewatched s (g s x)) (l : List α) (s : State) :
    rewatched s (l.foldl g s) := by
  induction l generalizing s with
  | nil => exact rewatched_refl s
  | cons x l ih => exact rewatched_trans (hg s x) (ih (g s x))

/-- The place of a watch bit lies in the region of its die (R85, R97). -/
theorem State.watchByte_of_watchPlace {s : State} {g a i : Nat} (h : s.watchPlace g = some (a, i)) : watchByte s a := by
  simp only [State.watchPlace] at h
  split at h
  · rename_i he
    cases h
    exact ⟨_, he, by omega, by omega⟩
  · cases h

/-- A write at its home port changes its own bytes, their key generation and poison alone. -/
theorem State.hbmPut_frame (s : State) (gen pa : Nat) (bs : List Byte) :
    s.hbmPut gen pa bs = { s with hbm := putBytes s.hbm pa bs, hbmGen := (s.hbmPut gen pa bs).hbmGen,
                                  poison := (s.hbmPut gen pa bs).poison } := by
  unfold State.hbmPut State.hbmCured
  split <;> rfl

theorem State.rewatched_markGranule (on : Bool) (s : State) (g : Nat) : rewatched s (State.markGranule on s g) := by
  unfold State.markGranule
  split
  · rename_i a i h
    refine ⟨by rw [State.hbmPut_frame], fun c hc => ?_⟩
    rw [State.hbmPut_frame]
    refine byteAt_putBytes_outside _ _ ?_
    have hne : c ≠ a := fun e => hc (e ▸ State.watchByte_of_watchPlace h)
    simp only [List.length_singleton]
    omega
  · exact rewatched_refl s

theorem State.rewatched_rewatch (s : State) (gs : List Nat) : rewatched s (s.rewatch gs) := by
  obtain ⟨e, hb⟩ := rewatched_trans (rewatched_foldl (State.rewatched_markGranule false) (s.watch.filter fun g => !(gs.contains g)) s)
    (rewatched_foldl (State.rewatched_markGranule true) (gs.filter fun g => !(s.watch.contains g)) _)
  refine ⟨?_, hb⟩
  unfold State.rewatch
  dsimp only
  rw [e]

theorem State.rewatched_unwatch (s : State) : rewatched s s.unwatch := s.rewatched_rewatch _

/-! ## Notices (R86) -/

/-- What accepted watch notices may change: digests, entries and voided tasks, and watch bits. -/
def noticed (s t : State) : Prop :=
  t = { s with hbm := t.hbm, hbmGen := t.hbmGen, poison := t.poison, watch := t.watch, digests := t.digests
               digestCache := t.digestCache, tasks := t.tasks, results := t.results } ∧
    ∀ a, ¬ watchByte s a → byteAt t.hbm a = byteAt s.hbm a

theorem noticed_refl (s : State) : noticed s s := ⟨rfl, fun _ _ => rfl⟩

theorem noticed_trans {s t u : State} (h : noticed s t) (k : noticed t u) : noticed s u := by
  obtain ⟨e, hb⟩ := h
  obtain ⟨e', hb'⟩ := k
  have hw : t.watchRegions = s.watchRegions := by rw [e]
  refine ⟨by rw [e', e], fun a ha => (hb' a ?_).trans (hb a ha)⟩
  unfold watchByte at *
  rwa [hw]

theorem State.noticed_acceptNotice (s : State) (g : Nat) : noticed s (s.acceptNotice g) := by
  unfold State.acceptNotice
  dsimp only
  obtain ⟨e, hb⟩ := State.rewatched_unwatch { s with
    digests := s.digests.filter fun d => !(d.granules.contains g)
    digestCache := s.digestCache.filter fun d => !(d.granules.contains g)
    tasks := s.tasks.map fun p =>
      if p.2.granules.contains g && p.2.phase != TaskPhase.copying then (p.1, { p.2 with void := true }) else p
    results := s.results.filter fun r => !((s.extentGranules r.tenant r.block r.blocks).contains g) }
  exact ⟨by rw [e], hb⟩

theorem State.noticed_watchWrite (s : State) (pa n : Nat) : noticed s (s.watchWrite pa n) := by
  have hfold : ∀ (l : List Nat) (s : State), noticed s (l.foldl
      (fun s i => if s.watched (pa / 4096 + i) then s.acceptNotice (pa / 4096 + i) else s) s) := by
    intro l
    induction l with
    | nil => exact noticed_refl
    | cons i l ih =>
      intro s
      refine noticed_trans ?_ (ih _)
      dsimp only
      split
      · exact s.noticed_acceptNotice _
      · exact noticed_refl s
  unfold State.watchWrite
  split
  · exact noticed_refl s
  · exact hfold _ s

theorem foldl_fixed_of_mem {α β : Type} {g : α → β → α} {a : α} {l : List β} (h : ∀ b, b ∈ l → g a b = a) : l.foldl g a = a := by
  induction l with
  | nil => rfl
  | cons b l ih =>
    rw [List.foldl_cons, h b List.mem_cons_self]
    exact ih fun c hc => h c (List.mem_cons_of_mem _ hc)

/-- A write to granules without a watch bit brings no notice. -/
theorem State.watchWrite_unwatched {s : State} {pa n : Nat}
    (h : ∀ g, pa / 4096 ≤ g → g * 4096 < pa + n → s.watched g = false) : s.watchWrite pa n = s := by
  unfold State.watchWrite
  split
  · rfl
  · rename_i hn
    have hn' : n ≠ 0 := by simpa using hn
    refine foldl_fixed_of_mem fun i hi => ?_
    have hi' := List.mem_range.mp hi
    have hw := h (pa / 4096 + i) (by omega) (by omega)
    rw [hw]
    rfl

/-- A write to package memory: its bytes, and outside of them watch bits alone. -/
theorem State.hbmWrite_bytes {s : State} (hm : s.memoryWf = true) (gen pa : Nat) (bs : List Byte) :
    let t := s.hbmWrite gen pa bs
    let outside := fun a => a < pa ∨ pa + bs.length ≤ a
    bytesAt t.hbm pa bs.length = bs ∧ (∀ a, outside a → ¬ watchByte s a → byteAt t.hbm a = byteAt s.hbm a) ∧
      ((∀ g, pa / 4096 ≤ g → g * 4096 < pa + bs.length → s.watched g = false) →
        ∀ a, outside a → byteAt t.hbm a = byteAt s.hbm a) ∧
      t.coreTab = s.coreTab ∧ t.hostMem = s.hostMem ∧ t.fns = s.fns := by
  intro t outside
  have ht : t = (s.watchWrite pa bs.length).hbmPut gen pa bs := rfl
  have hb : t.hbm = putBytes (s.watchWrite pa bs.length).hbm pa bs := by rw [ht, State.hbmPut_frame]
  obtain ⟨hwf, -⟩ := (State.memoryWf_iff _).mp (State.memoryWf_watchWrite hm pa bs.length)
  obtain ⟨e, hu⟩ := s.noticed_watchWrite pa bs.length
  refine ⟨?_, fun a ha hw => ?_, fun hg a ha => ?_, ?_, ?_, ?_⟩
  · rw [hb]; exact bytesAt_putBytes_self bs hwf pa
  · rw [hb, byteAt_putBytes_outside bs _ ha]; exact hu a hw
  · rw [hb, byteAt_putBytes_outside bs _ ha, State.watchWrite_unwatched hg]
  all_goals rw [ht, State.hbmPut_frame, e]

end Sys2Proof.Machine
end

section
/-! Writes of the Larder's registers (R94 to R97). -/

open Sys2Proof Sys2Proof.Machine Sys2Proof.Claims

namespace Sys2Proof.Machine

/-! ## LPOOL (R91, R95) -/

/-- The entries of a tenant are dropped; its pool and the pools of the others stay. -/
theorem State.dropResults_frame (s : State) (n : Nat) :
    (∀ r, r ∈ (s.dropResults n).results → r.tenant ≠ n) ∧ (∀ m, (s.dropResults n).pool m = s.pool m) ∧
      ∀ a, ¬ watchByte s a → byteAt (s.dropResults n).hbm a = byteAt s.hbm a := by
  obtain ⟨e, hb⟩ := State.rewatched_unwatch { s with results := s.results.filter fun r => r.tenant != n }
  refine ⟨fun r hr => ?_, fun m => ?_, hb⟩
  · rw [State.dropResults, e] at hr
    simpa using (List.mem_filter.mp hr).2
  · rw [State.dropResults, e]
    rfl

/-- A pool takes the place of a tenant's, whose entries have gone. -/
theorem lpool_others (s : State) (n : Nat) (p : Pool) :
    ((∀ r, r ∈ ((s.dropResults n).setPool n p).results → r.tenant ≠ n) ∧
      (∀ m, m ≠ n → ((s.dropResults n).setPool n p).pool m = s.pool m) ∧ sameUnwatched s ((s.dropResults n).setPool n p)) ∧
      ((s.dropResults n).setPool n p).pool n = p := by
  obtain ⟨hr, hp, hb⟩ := s.dropResults_frame n
  exact ⟨⟨hr, fun m hm => (State.pool_setPool_ne _ p hm).trans (hp m), fun _ => hb⟩, State.pool_setPool_self _ n p⟩

/-- A write of LPOOL by what its descriptor's bind gives. -/
theorem State.writeLpool_eq (s : State) (n : Nat) (v : Word) :
    let p := s.pool n
    let desc := (v.extractLsb' 7 50).toNat * 128
    s.writeLpool n v = (s.dropResults n).setPool n (if v.getLsbD 0 = true then
      (match (s.dropResults n).bindPool n desc with
        | some (rs, k) => { p with desc := desc, bad := false, en := true, runs := rs, bytes := k }
        | none => { p with desc := desc, bad := true, en := false, runs := [], bytes := 0 })
      else { p with desc := desc, en := false, runs := [], bytes := 0 }) := by
  intro p desc
  obtain ⟨-, hp, -⟩ := s.dropResults_frame n
  have hd : bvField v 7 50 * 128 = desc := by rw [bvField_eq]
  simp only [State.writeLpool, hp n, hd, bvBit_eq]
  cases v.getLsbD 0
  · rfl
  · cases (s.dropResults n).bindPool n desc <;> rfl

/-! ## LQUOTA (R96) -/

/-- The quotas of the other tenants. -/
theorem foldl_quota (n a : Nat) (m : Map Pool) :
    m.foldl (fun a p => if p.1 = n then a else a + p.2.quota) a = a + ((m.filter fun p => p.1 != n).map fun p => p.2.quota).sum := by
  induction m generalizing a with
  | nil => rfl
  | cons p m ih =>
    by_cases h : p.1 = n
    · simp [h, ih]
    · simp [h, ih, Nat.add_assoc]

/-- The older of an entry so far and the next. -/
def olderResult (a : Option Result) (r : Result) : Option Result :=
  match a with
  | some x => if r.stamp < x.stamp then some r else a
  | none => some r

theorem foldl_olderResult (l : List Result) (x : Result) :
    ∃ r, l.foldl olderResult (some x) = some r ∧ (r = x ∨ r ∈ l) := by
  induction l generalizing x with
  | nil => exact ⟨x, rfl, .inl rfl⟩
  | cons y l ih =>
    rw [List.foldl_cons, olderResult]
    split
    · obtain ⟨r, e, h⟩ := ih y
      exact ⟨r, e, .inr (List.mem_cons.mpr h)⟩
    · obtain ⟨r, e, h⟩ := ih x
      exact ⟨r, e, h.imp_right (List.mem_cons_of_mem _)⟩

theorem State.evictable_eq (s : State) (t : Nat) :
    s.evictable t = (s.results.filter fun r => r.tenant == t && r.readers.isEmpty).foldl olderResult none := rfl

/-- An entry that can go is one of the tenant's. -/
theorem State.evictable_mem {s : State} {t : Nat} {r : Result} (h : s.evictable t = some r) : r ∈ s.results := by
  rw [State.evictable_eq] at h
  cases hl : s.results.filter fun r => r.tenant == t && r.readers.isEmpty with
  | nil => rw [hl] at h; cases h
  | cons x l =>
    rw [hl, List.foldl_cons] at h
    obtain ⟨y, e, hy⟩ := foldl_olderResult l x
    have hr : r = y := Option.some.inj (h.symm.trans e)
    have hm : r ∈ s.results.filter fun r => r.tenant == t && r.readers.isEmpty := by
      rw [hl, hr]; exact List.mem_cons.mpr hy
    exact (List.mem_filter.mp hm).1

/-- While a tenant has an entry that no copy reads, one can go. -/
theorem State.evictable_isSome {s : State} {t : Nat} (hr : ∀ r, r ∈ s.results → r.readers = []) (hu : s.used t ≠ 0) :
    ∃ r, s.evictable t = some r := by
  have hf : (s.results.filter fun r => r.tenant == t && r.readers.isEmpty) = s.results.filter fun r => r.tenant == t :=
    List.filter_congr fun r h => by simp [hr r h]
  rw [State.evictable_eq, hf]
  cases hl : s.results.filter fun r => r.tenant == t with
  | nil => exact absurd (by rw [State.used, hl]; rfl) hu
  | cons x l =>
    obtain ⟨y, e, -⟩ := foldl_olderResult l x
    exact ⟨y, e⟩

/-- One eviction removes an entry. -/
theorem State.evict_results {s u : State} {t : Nat} (h : s.evict t = some u) :
    (∀ r, r ∈ u.results → r ∈ s.results) ∧ u.results.length < s.results.length ∧ u.pools = s.pools := by
  obtain ⟨r, hr, rfl⟩ := Option.map_eq_some_iff.mp h
  obtain ⟨e, -⟩ := State.rewatched_unwatch { s with results := s.results.filter fun x => x != r }
  rw [e]
  exact ⟨fun x hx => (List.mem_filter.mp hx).1,
    List.length_filter_lt_length_iff_exists.mpr ⟨r, State.evictable_mem hr, by simp⟩, rfl⟩

/-- Evictions leave a part of the entries, and no more than the quota where no copy reads one. -/
theorem State.evictTo_results (fuel : Nat) (s : State) (t n : Nat) :
    (∀ r, r ∈ (s.evictTo t n fuel).results → r ∈ s.results) ∧ (s.evictTo t n fuel).pools = s.pools ∧
      (s.results.length ≤ fuel → (∀ r, r ∈ s.results → r.readers = []) → (s.evictTo t n fuel).used t ≤ n) := by
  induction fuel generalizing s with
  | zero =>
    refine ⟨fun _ h => h, rfl, fun hl _ => ?_⟩
    have hz : s.results = [] := List.length_eq_zero_iff.mp (Nat.le_zero.mp hl)
    simp [State.evictTo, State.used, hz]
  | succ fuel ih =>
    unfold State.evictTo
    by_cases hu : s.used t ≤ n
    · rw [if_pos hu]
      exact ⟨fun _ h => h, rfl, fun _ _ => hu⟩
    · rw [if_neg hu]
      cases he : s.evict t with
      | none =>
        refine ⟨fun _ h => h, rfl, fun _ hr => ?_⟩
        obtain ⟨r, e⟩ := State.evictable_isSome hr (by omega : s.used t ≠ 0)
        rw [State.evict, e] at he
        cases he
      | some u =>
        obtain ⟨hm, hl, hp⟩ := State.evict_results he
        obtain ⟨im, ip, iu⟩ := ih u
        exact ⟨fun r h => hm r (im r h), ip.trans hp, fun hf hr => iu (by omega) fun r h => hr r (hm r h)⟩

theorem State.pool_of_pools {s t : State} (h : t.pools = s.pools) (n : Nat) : t.pool n = s.pool n := by
  unfold State.pool
  rw [h]

/-- LQUOTA beyond what the part has sets QERR; else the quota holds, and entries beyond it go. -/
theorem State.writeLquota_does (s : State) (n : Nat) (v : Word) :
    let p := s.pool n
    let quota := (v.extractLsb' 0 18).toNat
    let quotas := ((s.pools.filter fun p => p.1 != n).map fun p => p.2.quota).sum
    let t := s.writeLquota n v
    (131072 < quota + quotas → t = { s with pools := t.pools } ∧
      t.pool n = { p with qerr := true } ∧ ∀ m, m ≠ n → t.pool m = s.pool m) ∧
    (quota + quotas ≤ 131072 → t.pool n = { p with quota := quota, qerr := p.qerr && !(v.getLsbD 31) } ∧
      (∀ m, m ≠ n → t.pool m = s.pool m) ∧ (∀ r, r ∈ t.results → r ∈ s.results) ∧
      ((∀ r, r ∈ s.results → r.readers = []) → (t.results.countP fun r => r.tenant == n) ≤ quota)) := by
  intro p quota quotas t
  have ht : t = if 131072 < quota + quotas then s.setPool n { p with qerr := true }
      else (s.setPool n { p with quota := quota, qerr := p.qerr && !(v.getLsbD 31) }).evictTo n quota s.results.length := by
    simp only [t, State.writeLquota, foldl_quota, Nat.zero_add, bvField_eq, bvBit_eq]
    rfl
  refine ⟨fun h => ?_, fun h => ?_⟩
  · rw [ht, if_pos h]
    exact ⟨rfl, State.pool_setPool_self _ _ _, fun m hm => State.pool_setPool_ne _ _ hm⟩
  · rw [ht, if_neg (Nat.not_lt.mpr h)]
    obtain ⟨hm, hp, hu⟩ := State.evictTo_results s.results.length
      (s.setPool n { p with quota := quota, qerr := p.qerr && !(v.getLsbD 31) }) n quota
    refine ⟨?_, fun m hn => ?_, hm, fun hr => ?_⟩
    · rw [State.pool_of_pools hp]; exact State.pool_setPool_self _ _ _
    · rw [State.pool_of_pools hp]; exact State.pool_setPool_ne _ _ hn
    · rw [List.countP_eq_length_filter]
      exact hu (Nat.le_refl _) hr

/-! ## LWMAP (R97) -/

theorem State.writeLwmap_does (s : State) (n : Nat) (v : Word) :
    let x := mapGet s.watchRegions n ⟨0, false⟩
    let field := fun lo k => (v.extractLsb' lo k).toNat
    let t := s.writeLwmap n v
    (field 38 2 ≠ n ∨ x.en = true ∧ v.getLsbD 0 = false ∧ s.results ≠ [] → t = s) ∧
    (field 38 2 = n → x.en = false ∨ v.getLsbD 0 = true → t = { s with watchRegions := t.watchRegions } ∧
      mapGet t.watchRegions n ⟨0, false⟩ = ⟨field 23 17 * 2 ^ 23, v.getLsbD 0⟩) := by
  intro x field t
  have ht : t = if field 38 2 ≠ n then s
      else if (x.en && !(v.getLsbD 0) && !s.larderIdle) = true then s
      else { s with watchRegions := mapPut s.watchRegions n ⟨field 23 17 * 2 ^ 23, v.getLsbD 0⟩ } := by
    simp only [t, State.writeLwmap, bvField_eq, bvBit_eq]
    rfl
  refine ⟨fun h => ?_, fun h hen => ?_⟩
  · rw [ht]
    rcases h with h | ⟨h1, h2, h3⟩
    · rw [if_pos h]
    · have hi : s.larderIdle = false := by
        simp [State.larderIdle, h3]
      rw [h1, h2, hi]
      simp
  · have hc : ¬ (x.en && !(v.getLsbD 0) && !s.larderIdle) = true := by
      rcases hen with h | h <;> simp [h]
    rw [ht, if_neg (not_not.mpr h), if_neg hc]
    exact ⟨rfl, mapGet_mapPut_self _ _ _ _⟩

end Sys2Proof.Machine
end

section
/-! Services of the host (R12, R21, R94 to R97, R137, R139, R211), and all its accesses. -/

open Sys2Proof Sys2Proof.Machine Sys2Proof.Claims

namespace Sys2Proof.Machine

theorem accessParts_lpool {n : Nat} (h : n < 512) :
    accessParts hubRegAt HubReg.narrow (0x10000 + 32 * n) 8 = some [(.lpool n, 0)] :=
  accessParts_wide (by omega) (hubRegAt_larder (k := 0) h (by decide)) rfl

theorem accessParts_lquota {n : Nat} (h : n < 512) :
    accessParts hubRegAt HubReg.narrow (0x10008 + 32 * n) 8 = some [(.lquota n, 0)] :=
  accessParts_wide (by omega) (hubRegAt_larder (k := 8) h (by decide)) rfl

theorem accessParts_lwmap {n : Nat} (h : n < 4) :
    accessParts hubRegAt HubReg.narrow (0x2000 + 8 * n) 8 = some [(.lwmap n, 0)] :=
  accessParts_wide (by omega) (hubRegAt_lwmap h) rfl

theorem accessParts_dieClk {d : Nat} (h : d < 4) :
    accessParts hubRegAt HubReg.narrow (0x10 + 8 * d) 4 = some [(.dieClk d, 0)] :=
  accessParts_narrow (by omega) (hubRegAt_dieClk h) rfl

/-! ## Park entries -/

/-- The entry of a delivered PAGE: TRAPINFO names the handle slot (R209, R211). -/
theorem pageInfo {slot : Nat} (h : slot < 256) (arg : Word) :
    (Exc.atSlot slot codePAGE 0 arg).info = BitVec.ofNat 64 (0x06 + 2 ^ 9 + 2 ^ 12 * 15 + 2 ^ 24 * slot) := by
  unfold Exc.info Exc.atSlot
  simp only [codePAGE, Nat.mod_eq_of_lt h, Bool.toNat_false]
  congr 1

section
variable {s : State} {f i : Nat} (hp : s.power = true)
include hp

theorem pkctl_refused (hf : f < 64) (h : f ≠ 0 ∨ ¬ hubGrants s f true) :
    does (.pkctlRetry f i) s (deniedTo f) ∧ does (.pkctlDeliver f i) s (deniedTo f) ∧ does (.pkctlAbort f i) s (deniedTo f) := by
  have hr : ¬ hubGrants s f true ∨ f ≠ 0 ∧ HubReg.pkctl.reserved true = true := h.elim (fun h => .inr ⟨h, rfl⟩) .inl
  exact ⟨does_of_refused rfl hp hf rfl hr, does_of_refused rfl hp hf rfl hr, does_of_refused rfl hp hf rfl hr⟩

variable (hg : hubGrants s f true) (hf : f = 0)
include hg hf

theorem pkctlRetry_does {p : State → State → Prop}
    (h : p s (writePkctl (partOf true (BitVec.ofNat 64 (2 ^ 31 + 0 * 2 ^ 8 + i)) 0) s)) : does (.pkctlRetry f i) s p :=
  pkctl_does (by rw [Nat.zero_mul, Nat.add_zero]; rfl) hp hf hg h

theorem pkctlDeliver_does {p : State → State → Prop}
    (h : p s (writePkctl (partOf true (BitVec.ofNat 64 (2 ^ 31 + 1 * 2 ^ 8 + i)) 0) s)) : does (.pkctlDeliver f i) s p :=
  pkctl_does (by rw [Nat.one_mul]; rfl) hp hf hg h

theorem pkctlAbort_does {p : State → State → Prop}
    (h : p s (writePkctl (partOf true (BitVec.ofNat 64 (2 ^ 31 + 2 * 2 ^ 8 + i)) 0) s)) : does (.pkctlAbort f i) s p :=
  pkctl_does rfl hp hf hg h

theorem pkctl_free (hi : i < 256) (h : mapFind s.parks i = none) :
    does (.pkctlRetry f i) s same ∧ does (.pkctlDeliver f i) s same ∧ does (.pkctlAbort f i) s same :=
  ⟨pkctlRetry_does hp hg hf (writePkctl_free (by decide) hi h), pkctlDeliver_does hp hg hf (writePkctl_free (by decide) hi h),
    pkctlAbort_does hp hg hf (writePkctl_free (by decide) hi h)⟩

end

/-! ## Shootdowns -/

/-- SDCTL is reserved to nobody; its fields are written, and a GO starts where none is BUSY. -/
theorem shootdown_does {s : State} {f : Nat} (v : Word) {p : State → State → Prop} (hp : s.power = true) (hf : f < 64)
    (hg : hubGrants s f true) (h : p s (writeSdctl v.toNat s)) : does (.shootdown f v) s p :=
  does_of_granted (r := .sdctl) rfl hp hf rfl hg (.inr rfl) (by
    rw [show partOf HubReg.sdctl.narrow v 0 = v.toNat from partOf_wide v]
    exact h)

/-- What a GO does at once (R139). -/
theorem shootdown_starts {s : State} {f : Nat} (v : Word) (hp : s.power = true) (hf : f < 64) (hg : hubGrants s f true)
    (hb : s.sdBusy = false) (hgo : v.getLsbD 31 = true) :
    let field := fun lo k => (v.extractLsb' lo k).toNat
    does (.shootdown f v) s fun s t => t.sdBusy = true ∧ t.sdTenant = field 20 9 ∧
      t.sdPages.toNat = field 32 32 ∧
      let first := s.sdBase
      let last := s.sdBase + field 32 32 * 4096
      ∀ c k, s.taskOf c = some k →
        (k.tenant ≠ field 20 9 → t.core c = s.core c) ∧
        (k.tenant = field 20 9 →
          (∀ p, p ∈ (t.core c).handles ↔ p ∈ (s.core c).handles ∧ ¬ inRange p.2 first last) ∧
          ∀ e r, r ∈ ((s.core c).engine e).queue → (∃ b, b ∈ r.binds ∧ inRange b.2 first last) →
            (r.core, r.eng, r.num) ∈ t.sdWait) := by
  intro field
  refine shootdown_does v hp hf hg ?_
  rw [writeSdctl_eq, if_pos ⟨hgo, hb⟩]
  refine ⟨rfl, rfl, rfl, fun c k hk => ?_⟩
  have hc := State.shootDown_core (s := { s with sdPages := v.extractLsb' 32 32, sdTenant := (v.extractLsb' 20 9).toNat }) hk
  refine ⟨fun ht => hc.trans (if_neg ht), fun ht => ⟨fun p => ?_, fun e r hr hb => ?_⟩⟩
  · rw [hc, if_pos ht]
    exact Core.mem_unbindRange (s.core c) s.sdBase (s.sdBase + field 32 32 * 4096) p
  · exact State.shootDown_waits (s := { s with sdPages := v.extractLsb' 32 32, sdTenant := (v.extractLsb' 20 9).toNat }) hk ht hr hb

/-- The end of a shootdown (R139). -/
theorem shootdownComplete_does (s : State) :
    let drained := ∀ w, w ∈ s.sdWait → ∀ e, e ∈ (s.core w.1).engines → ∀ r, r ∈ e.2.queue → (r.core, r.eng, r.num) ≠ w
    (s.sdBusy = true → drained → does .shootdownComplete s fun s t => t = { s with sdBusy := false, sdWait := [] }) ∧
    (s.sdBusy = false ∨ ¬ drained → does .shootdownComplete s same) := by
  intro drained
  have hd := s.shootdownDue_iff
  refine ⟨fun hb h => ⟨_, rfl, if_pos (hd.mpr ⟨hb, h⟩)⟩, fun h => ⟨_, rfl, if_neg fun hdue => ?_⟩⟩
  obtain ⟨hb, hr⟩ := hd.mp hdue
  rcases h with h | h
  · rw [h] at hb; cases hb
  · exact h hr

/-! ## The Larder's registers -/

section
variable {s : State} {f n : Nat} (v : Word) {p : State → State → Prop} (hp : s.power = true) (hg : hubGrants s f true) (hf : f = 0)
include hp hg hf

theorem lpoolWrite_does (hn : n < 512) (h : p s (s.writeLpool n v)) : does (.lpoolWrite f n v) s p :=
  does_of_granted rfl hp (by omega) (accessParts_lpool hn) hg (.inl hf) (by
    rw [show partOf (HubReg.lpool n).narrow v 0 = v.toNat from partOf_wide v, State.writeHubReg, BitVec.ofNat_toNat, BitVec.setWidth_eq]
    exact h)

theorem lquotaWrite_does (hn : n < 512) (h : p s (s.writeLquota n v)) : does (.lquotaWrite f n v) s p :=
  does_of_granted rfl hp (by omega) (accessParts_lquota hn) hg (.inl hf) (by
    rw [show partOf (HubReg.lquota n).narrow v 0 = v.toNat from partOf_wide v, State.writeHubReg, BitVec.ofNat_toNat, BitVec.setWidth_eq]
    exact h)

theorem lwmapWrite_does (hn : n < 4) (h : p s (s.writeLwmap n v)) : does (.lwmapWrite f n v) s p :=
  does_of_granted rfl hp (by omega) (accessParts_lwmap hn) hg (.inl hf) (by
    rw [show partOf (HubReg.lwmap n).narrow v 0 = v.toNat from partOf_wide v, State.writeHubReg, BitVec.ofNat_toNat, BitVec.setWidth_eq]
    exact h)

end

/-! ## DIE_CLK_STAT (R21) -/

theorem dieClkStatRead_granted {s : State} {f n : Nat} (hp : s.power = true) (hf : f < 64) (hn : n < 4) (hg : hubGrants s f false) :
    does (.dieClkStatRead f n) s fun s t =>
      t = { s with fns := t.fns, dies := t.dies } ∧ t.die n = { s.die n with minK := (s.die n).limitK } ∧
      (∀ d, d ≠ n → t.die d = s.die d) ∧ (∀ g, g ≠ f → t.fn g = s.fn g) ∧
      t.fn f = { s.fn f with readData := BitVec.ofNat 64 ((s.die n).temp % 256 * 2 ^ 24 + (s.die n).causes.toNat * 2 ^ 16 +
        (s.die n).limitK * 2 ^ 8 + (s.die n).minK) } := by
  refine ⟨_, rfl, ?_⟩
  rw [readRegister_granted hp hf (accessParts_dieClk hn) hg rfl]
  exact ⟨rfl, State.die_setDie_self s n _, fun d h => State.die_setDie_ne s _ h, fun g h => State.fn_setFn_ne _ _ h,
    State.fn_setFn_self _ f _⟩

theorem dieClkStatRead_refused {s : State} {f n : Nat} (hp : s.power = true) (hf : f < 64) (hn : n < 4) (hg : ¬ hubGrants s f false) :
    does (.dieClkStatRead f n) s fun s t => t = { s with fns := t.fns } ∧
      (t.fn f).readData = 0xFFFFFFFF ∧ (t.fn f).denied = if (s.fn f).denied = 0xFFFF then 0xFFFF else (s.fn f).denied + 1 := by
  refine ⟨_, rfl, ?_⟩
  obtain ⟨e, hx, -⟩ := readRegister_refused hp (accessParts_dieClk hn) ((State.hubRefuses_one s hf false _).mpr (.inl hg))
  exact ⟨e, by rw [hx]; rfl, by rw [hx]⟩

/-! ## Package memory and ATS (R12, R137) -/

section
variable {s : State} {f key pa : Nat} {bs : List Byte} (hr : s.ready = true) (hb : bs ≠ [])
include hr hb

theorem hostMemoryWrite_refused (h : ¬ Claims.hostMay s f key pa bs.length true) :
    does (.hostMemoryWrite f ⟨key, pa⟩ bs) s (deniedTo f) := by
  have hm : s.hostMay f key pa bs.length true = false := by
    rw [← Bool.not_eq_true, s.hostMay_iff f key pa (List.length_pos_iff.mpr hb) true]; exact h
  have ht : hostWrites f key pa bs s = s.countDenied f := by simp [hostWrites, hr, hb, hm]
  exact ⟨_, rfl, ht ▸ deniedTo_countDenied s f⟩

theorem hostMemoryWrite_granted {p : State → State → Prop} (h : Claims.hostMay s f key pa bs.length true)
    (ht : p s (s.hbmWrite (s.keySlot key).gen pa bs)) : does (.hostMemoryWrite f ⟨key, pa⟩ bs) s p := by
  have hm := (s.hostMay_iff f key pa (List.length_pos_iff.mpr hb) true).mpr h
  have e : hostWrites f key pa bs s = s.hbmWrite (s.keySlot key).gen pa bs := by simp [hostWrites, hr, hb, hm]
  exact ⟨_, rfl, e ▸ ht⟩

end

theorem State.usesHost_iff (s : State) (f first last : Nat) :
    s.usesHost f first last = true ↔ ∃ p, p ∈ s.coreTab ∧ ∃ e, e ∈ p.2.engines ∧ ∃ r, r ∈ e.2.queue ∧ ∃ b, b ∈ r.binds ∧
      b.2.desc.space = 5 ∧ b.2.func = f ∧ inRange b.2 first last := by
  simp only [State.usesHost, List.any_eq_true, Bool.and_eq_true, beq_iff_eq, Handle.meets_iff, and_assoc]

/-- An invalidation waits for the records that use its pages, and drops the pages (R137). -/
theorem invalidatePages_does (s : State) (f page pages : Nat) :
    let first := f * 2 ^ 52 + page
    let uses := ∃ p, p ∈ s.coreTab ∧ ∃ e, e ∈ p.2.engines ∧ ∃ r, r ∈ e.2.queue ∧ ∃ b, b ∈ r.binds ∧ b.2.desc.space = 5 ∧
      b.2.func = f ∧ inRange b.2 (page * 4096) ((page + pages) * 4096)
    (uses → does (.atsInvalidation f page pages) s same) ∧
    (¬ uses → does (.atsInvalidation f page pages) s fun s t => t = { s with hostPages := t.hostPages } ∧
      ∀ x, x ∈ t.hostPages ↔ x ∈ s.hostPages ∧ ¬ (first ≤ x ∧ x < first + pages)) := by
  intro first uses
  have hu := s.usesHost_iff f (page * 4096) ((page + pages) * 4096)
  refine ⟨fun h => ⟨_, rfl, if_pos (hu.mpr h)⟩, fun h => ⟨_, rfl, ?_⟩⟩
  rw [invalidatePages, if_neg fun e => h (hu.mp e)]
  refine ⟨rfl, fun x => List.mem_filter.trans (and_congr_right fun _ => ?_)⟩
  simp only [Bool.not_eq_true', ← Bool.not_eq_true, Bool.and_eq_true, decide_eq_true_eq, first]

/-! ## All services -/

theorem hostServices_hold : hostServices := by
  intro f i n key pa page pages v bs s hp hf field granted chose
  have only0 : ∀ r : HubReg, r.reserved true = true → f ≠ 0 ∨ ¬ granted → ¬ hubGrants s f true ∨ f ≠ 0 ∧ r.reserved true = true :=
    fun r hr h => h.elim (fun h => .inr ⟨h, hr⟩) .inl
  refine ⟨fun h _ => pkctl_refused hp hf h, fun h hn => ⟨does_of_refused rfl hp hf (accessParts_lpool hn) (only0 _ rfl h),
      does_of_refused rfl hp hf (accessParts_lquota hn) (only0 _ rfl h)⟩,
    fun h hn => does_of_refused rfl hp hf (accessParts_lwmap hn) (only0 _ rfl h),
    fun h => does_of_refused (r := .sdctl) rfl hp hf rfl (.inl h), fun hg h0 hi hn => pkctl_free hp hg h0 hi hn,
    fun x hg h0 hi hx hs => ?_, fun hg hb hgo => shootdown_starts v hp hf hg hb hgo, fun hg h => ?_, shootdownComplete_does s,
    fun hg h0 hn => ?_, fun hg h0 hn => ?_, fun hn hg => dieClkStatRead_granted hp hf hn hg,
    fun hn hg => dieClkStatRead_refused hp hf hn hg, fun hr hb => ⟨hostMemoryWrite_refused hr hb, fun h hm => ?_⟩,
    invalidatePages_does s f page pages⟩
  · refine ⟨?_, fun hv hinh hslot => ?_, fun id task hc ht hid ha => ?_⟩
    · refine pkctlRetry_does hp hg h0 ?_
      rw [writePkctl_taken (by decide) hi hx]
      obtain ⟨⟨hpk, ho⟩, hst⟩ := resolvePark_retry (s := { s with pkAction := 0, pkIndex := i }) hx hs
      exact ⟨hpk, ho, hst⟩
    · refine pkctlDeliver_does hp hg h0 ?_
      rw [writePkctl_taken (by decide) hi hx]
      obtain ⟨⟨hpk, ho⟩, hst⟩ := resolvePark_deliver (s := { s with pkAction := 1, pkIndex := i }) hx hs hv hinh
      refine ⟨hpk, ho, ?_⟩
      rw [hst]
      exact ⟨rfl, rfl, rfl, rfl, pageInfo hslot _, rfl⟩
    · refine pkctlAbort_does hp hg h0 ?_
      rw [writePkctl_taken (by decide) hi hx]
      exact resolvePark_abort (s := { s with pkAction := 2, pkIndex := i }) hx hc ht hid ha
  · refine shootdown_does v hp hf hg ?_
    rw [writeSdctl_eq, if_neg]
    rintro ⟨hgo, hb⟩
    rcases h with h | h
    · rw [h] at hb; cases hb
    · rw [h] at hgo; cases hgo
  · have pool : ∀ q, s.writeLpool n v = (s.dropResults n).setPool n q → does (.lpoolWrite f n v) s fun s t =>
        ((∀ r, r ∈ t.results → r.tenant ≠ n) ∧ (∀ m, m ≠ n → t.pool m = s.pool m) ∧ sameUnwatched s t) ∧ t.pool n = q :=
      fun q e => lpoolWrite_does v hp hg h0 hn (by rw [e]; exact lpool_others s n q)
    have e := s.writeLpool_eq n v
    refine ⟨fun h => pool _ ?_, fun h hb => pool _ ?_, fun rs k h hb => pool _ ?_, ?_⟩
    · rw [e, h]; rfl
    · rw [e, if_pos h, hb]
    · rw [e, if_pos h, hb]
    · obtain ⟨hover, hfits⟩ := s.writeLquota_does n v
      exact ⟨fun h => lquotaWrite_does v hp hg h0 hn (hover h), fun h => lquotaWrite_does v hp hg h0 hn (hfits h)⟩
  · obtain ⟨hkept, hput⟩ := s.writeLwmap_does n v
    exact ⟨fun h => lwmapWrite_does v hp hg h0 hn (hkept h), fun h he => lwmapWrite_does v hp hg h0 hn (hput h he)⟩
  · exact hostMemoryWrite_granted hr hb h (State.hbmWrite_bytes hm _ pa bs)

end Sys2Proof.Machine

/-- Settles O47: each register is found at its offset, checked, and written or read by its own rule. -/
theorem hostAccesses : Obligations.HostAccesses := ⟨hostRegisters_hold, hostServices_hold, hostReading_holds⟩
end

section
/-! The bytes of a scalar access through a plain handle (R5, R131, R166, R290): what holds of the handles a bind admits, whose rank is
at least 1 (R127), and where the statement fails without that. -/

open Sys2Proof Sys2Proof.Machine Sys2Proof.Claims

namespace Sys2Proof.Machine

/-! ## Bytes as numbers (R5) -/

theorem leNat_lt (bs : List Byte) : leNat bs < 2 ^ (8 * bs.length) := by
  induction bs with
  | nil => simp [leNat]
  | cons b bs ih =>
    have hb := b.isLt
    have e : 2 ^ (8 * (b :: bs).length) = 256 * 2 ^ (8 * bs.length) := by
      rw [List.length_cons, Nat.mul_add, Nat.pow_add, Nat.mul_comm]
    rw [leNat, e]
    omega

theorem bytesAt_eq_map (m : Bytes) (a n : Nat) : bytesAt m a n = (List.range n).map fun i => byteAt m (a + i) := by
  induction n generalizing a with
  | zero => rfl
  | succ n ih =>
    rw [bytesAt, ih, List.range_succ_eq_map, List.map_cons, List.map_map]
    refine congrArg (byteAt m a :: ·) (List.map_congr_left fun i _ => ?_)
    simp only [Function.comp_apply]
    congr 1
    omega

theorem leBytes_mod (n v : Nat) : leBytes n (v % 2 ^ (8 * n)) = leBytes n v := by
  induction n generalizing v with
  | zero => rfl
  | succ n ih =>
    have e : 2 ^ (8 * (n + 1)) = 256 * 2 ^ (8 * n) := by rw [Nat.mul_add, Nat.pow_add, Nat.mul_comm]
    have hb : BitVec.ofNat 8 (v % 2 ^ (8 * (n + 1))) = BitVec.ofNat 8 v := by
      apply BitVec.eq_of_toNat_eq
      rw [BitVec.toNat_ofNat, BitVec.toNat_ofNat, Nat.mod_mod_of_dvd _ (Nat.pow_dvd_pow 2 (by omega))]
    rw [leBytes, leBytes, hb, e, Nat.mod_mul_right_div_self, ih]

/-! ## Places through a plain handle (R131) -/

/-- Without a group every dimension is a unit of its own. -/
theorem Desc.units_of_no_sym {d : Desc} (h : d.sym = []) : d.units = (List.range d.rank).map fun i => (i, none) := by
  have hf : ∀ i, i ∈ List.range d.rank → (freeSlots d.sym d.rank).contains i = true := fun i hi => by
    rw [h]
    simpa [freeSlots, upTo] using hi
  have hc : components d.sym = [] := by rw [h]; rfl
  unfold Desc.units
  rw [hc, ← List.filterMap_eq_map]
  refine List.filterMap_congr fun i hi => ?_
  simp only [List.find?_nil, hf i hi, if_true, Function.comp_apply]

theorem foldl_add_eq_sum {α : Type} (g : α → Nat) (l : List α) (a : Nat) : l.foldl (fun a x => a + g x) a = a + (l.map g).sum := by
  induction l generalizing a with
  | nil => rfl
  | cons x l ih => rw [List.foldl_cons, ih, List.map_cons, List.sum_cons, Nat.add_assoc]

/-- Bytes from BASE to the element at absolute coordinates `y`: one element a step along the first dimension, its pitch along every
other (R131). -/
def Desc.elemOff (d : Desc) (y : List Nat) : Nat :=
  y.getD 0 0 * (tyBits d.fmt / 8) + (((List.range d.rank).drop 1).map fun i => y.getD i 0 * d.pitch.getD i 0).sum

theorem Desc.bitPos_plain {d : Desc} (hs : d.sym = []) (hw : tyBits d.fmt % 8 = 0) (hr : 0 < d.rank) (y : List Nat) :
    d.bitPos y = 8 * d.elemOff y := by
  obtain ⟨r, hr⟩ := Nat.exists_eq_succ_of_ne_zero (Nat.pos_iff_ne_zero.mp hr)
  have hp : ∀ l : List Nat, ((l.map fun i => y.getD (i + 1) 0 * (8 * d.pitch.getD (i + 1) 0)).sum : Nat) =
      8 * (l.map fun i => y.getD (i + 1) 0 * d.pitch.getD (i + 1) 0).sum := by
    intro l
    rw [← List.sum_map_mul_left]
    exact congrArg List.sum (List.map_congr_left fun i _ => Nat.mul_left_comm _ _ _)
  have h0 : y.getD 0 0 * tyBits d.fmt = 8 * (y.getD 0 0 * (tyBits d.fmt / 8)) := by
    rw [Nat.mul_left_comm, Nat.mul_div_cancel' (Nat.dvd_of_mod_eq_zero hw)]
  rw [Desc.bitPos, foldl_add_eq_sum, Desc.units_of_no_sym hs, Desc.elemOff, hr, List.range_succ_eq_map]
  simp only [List.map_cons, List.map_map, List.sum_cons, List.drop_succ_cons, List.drop_zero, Function.comp_def, Desc.unitRank,
    Desc.stride, Nat.add_one_ne_zero, if_true, if_false, Nat.succ_eq_add_one, hp, h0]
  omega

/-- One byte of the S store without poison. -/
theorem State.readAt_store {s : State} (hs : s.poison = []) (c off : Nat) :
    s.readAt (.store c 2 off) 1 = [byteAt (s.core c).s off] := by
  simp [State.readAt, State.poisonAt, hs, bytesAt, Core.store]

/-- Along a byte handle the elements of an access follow one another. -/
theorem elemByte_set {h : Handle} (hr : 0 < h.desc.rank) (hb : tyBits h.desc.fmt = 8) {x : List Nat} (hx : 0 < x.length) (i : Nat) :
    elemByte h (x.set 0 (x.getD 0 0 + i)) = elemByte h x + i := by
  have h0 : (x.set 0 (x.getD 0 0 + i)).getD 0 0 = x.getD 0 0 + i := by
    simp [List.getD_eq_getElem?_getD, hx]
  have hsum : (((List.range h.desc.rank).drop 1).map fun j =>
      ((x.set 0 (x.getD 0 0 + i)).getD j 0 + h.lo.getD j 0) * h.desc.pitch.getD j 0) =
      ((List.range h.desc.rank).drop 1).map fun j => (x.getD j 0 + h.lo.getD j 0) * h.desc.pitch.getD j 0 :=
    List.map_congr_left fun j hj => by
      have hj0 : 0 ≠ j := by
        rintro rfl
        rw [List.range_eq_range', List.drop_range', List.mem_range'_1] at hj
        omega
      rw [List.getD_eq_getElem?_getD, List.getElem?_set_ne hj0, ← List.getD_eq_getElem?_getD]
  simp only [elemByte, hr, if_true, hsum, h0, hb]
  omega

section
variable {h : Handle} (hp : plainS h) (hr : 0 < h.desc.rank)
include hp hr

theorem elemByte_eq (x : List Nat) : elemByte h x = h.desc.base + h.desc.elemOff (h.abs x) := by
  obtain ⟨-, -, -, -, -, -, h6⟩ := hp
  have ha : ∀ i, i < 6 → (h.abs x).getD i 0 = x.getD i 0 + h.lo.getD i 0 := fun i hi => by
    simp [Handle.abs, upTo, List.getD_eq_getElem?_getD, hi]
  have hsum : (((List.range h.desc.rank).drop 1).map fun i => (x.getD i 0 + h.lo.getD i 0) * h.desc.pitch.getD i 0) =
      ((List.range h.desc.rank).drop 1).map fun i => (h.abs x).getD i 0 * h.desc.pitch.getD i 0 :=
    List.map_congr_left fun i hi => by
      have := List.mem_range.mp (List.mem_of_mem_drop hi)
      rw [ha i (by omega)]
  simp only [elemByte, Desc.elemOff, hr, if_true, hsum, ha 0 (by decide), Nat.add_assoc]

/-- An element of whole bytes lies in one run of bytes, is positive and canonical. -/
theorem Handle.place_plain (x : List Nat) :
    h.place x = .at ((List.range (tyBits h.desc.fmt / 8)).map fun i => h.desc.elemOff (h.abs x) + i) 0 false true := by
  obtain ⟨-, hs, hz, -, -, hw, -⟩ := hp
  have hrep : h.desc.rep (h.abs x) = some (h.abs x, false) := by rw [Desc.rep, hs]; rfl
  have hb := Desc.bitPos_plain hs hw hr (h.abs x)
  have ho : h.desc.byteOff (h.abs x) = fun i => h.desc.elemOff (h.abs x) + i := by
    funext i
    simp only [Desc.byteOff, swizzle, hz, if_true, hb, Nat.mul_div_cancel_left _ (by decide : 0 < 8)]
  have hn : (0 + tyBits h.desc.fmt + 7) / 8 = tyBits h.desc.fmt / 8 := by omega
  simp only [Handle.place, hrep, hb, ho, Nat.mul_mod_right, hn, upTo, beq_self_eq_true, Bool.not_false, Bool.and_self]

theorem State.locate_plain (s : State) (x : List Nat) (i : Nat) :
    s.locate h (h.desc.elemOff (h.abs x) + i) = .store h.target 2 (elemByte h x + i) := by
  obtain ⟨h2, -⟩ := id hp
  simp only [State.locate, h2, elemByte_eq hp hr x, Nat.add_assoc]

/-! ## Loads (R290) -/

theorem State.readElem_plain {s : State} (hs : s.poison = []) (x : List Nat) :
    s.readElem h x = leNat (bytesAt (s.core h.target).s (elemByte h x) (tyBits h.desc.fmt / 8)) := by
  have hbytes : (((List.range (tyBits h.desc.fmt / 8)).map fun i => h.desc.elemOff (h.abs x) + i).flatMap
      fun o => s.readAt (s.locate h o) 1) = bytesAt (s.core h.target).s (elemByte h x) (tyBits h.desc.fmt / 8) := by
    rw [bytesAt_eq_map, List.flatMap_map]
    simp only [State.locate_plain hp hr, State.readAt_store hs]
    exact List.flatMap_pure_eq_map _ _
  have hlt := leNat_lt (bytesAt (s.core h.target).s (elemByte h x) (tyBits h.desc.fmt / 8))
  have hw : 8 * (tyBits h.desc.fmt / 8) = tyBits h.desc.fmt := Nat.mul_div_cancel' (Nat.dvd_of_mod_eq_zero hp.2.2.2.2.2.1)
  rw [bytesAt_length, hw] at hlt
  simp only [State.readElem, Handle.place_plain hp hr, hbytes, Bool.false_eq_true, if_false, bitsAt, Nat.pow_zero, Nat.div_one]
  exact Nat.mod_eq_of_lt hlt

end

/-! ## The type of an access (R290) -/

theorem pickExc_eq_none {l : List Exc} (h : pickExc l = none) : l = [] := by
  cases l with
  | nil => rfl
  | cons e es =>
    unfold pickExc at h
    split at h
    · cases h
    · split at h <;> cases h

theorem typeFits_of_no_fault {s : State} {c k slot : Nat} {h : Handle} {ty : Ty} {wr rd : Bool} {x : List Nat}
    (hf : s.scalarFaults c k slot h ty wr rd x [] = none) : typeFits h ty = true := by
  have hl := pickExc_eq_none hf
  simp only [List.append_eq_nil_iff, List.nil_append] at hl
  obtain ⟨⟨⟨ht, -⟩, -⟩, -⟩ := hl
  unfold excIf at ht
  split at ht
  · cases ht
  · rename_i hn
    simpa using hn

theorem tyBits_of_isByteHandle {h : Handle} (hb : isByteHandle h = true) : tyBits h.desc.fmt = 8 := by
  simp only [isByteHandle, Bool.or_eq_true, beq_iff_eq] at hb
  rcases hb with hb | hb <;> rw [hb] <;> rfl

theorem tyBits_of_typeFits {h : Handle} {ty : Ty} (hb : ¬ isByteHandle h = true) (hf : typeFits h ty = true) :
    tyBits h.desc.fmt = tyBits ty := by
  simp only [typeFits, hb, Bool.false_eq_true, if_false, Bool.and_eq_true, decide_eq_true_eq] at hf
  exact hf.2

theorem State.coords_length (s : State) (xs : List Nat) : 0 < (s.coords xs).length := by
  simp only [State.coords, List.length_append, List.length_map, List.length_replicate]
  omega

/-- The bits that a scalar read through a plain handle gives. -/
theorem State.scalarRead_plain {s : State} {h : Handle} {ty : Ty} {x : List Nat} (hp : plainS h) (hr : 0 < h.desc.rank)
    (hf : typeFits h ty = true) (hs : s.poison = []) (hx : 0 < x.length) :
    s.scalarRead h ty x = leNat (bytesAt (s.core h.target).s (elemByte h x) (memBytes ty)) := by
  unfold State.scalarRead
  split
  · rename_i hb
    have h8 := tyBits_of_isByteHandle hb
    have hone : ∀ i, BitVec.ofNat 8 (s.readElem h (x.set 0 (x.getD 0 0 + i))) = byteAt (s.core h.target).s (elemByte h x + i) := by
      intro i
      rw [State.readElem_plain hp hr hs, elemByte_set hr h8 hx, h8]
      simp [bytesAt, leNat]
    simp only [scalarElems, hb, if_true, List.map_map, Function.comp_def, hone, upTo, bytesAt_eq_map]
  · rename_i hb
    rw [State.readElem_plain hp hr hs, tyBits_of_typeFits hb hf]
    rfl

/-- R5, R131, R290, for the handles a bind admits: a load reads the little-endian bytes of its element. -/
theorem readValue_plain {ty : Ty} {slot : Nat} {xs : List Nat} {h : Handle} {s : State} (hread : readable s slot h ty xs) (hp : plainS h)
    (hr : 0 < h.desc.rank) (hw : s.here.writes = []) (hs : s.poison = []) :
    readValue s h ty xs = filled ty (leNat (bytesAt (s.core h.target).s (elemByte h (s.coords xs)) (memBytes ty))) := by
  have hsight : sight s = s := by
    simp only [sight, State.seenBy, show (s.core s.cur.1).writes = [] from hw, List.isEmpty_nil, if_true]
  obtain ⟨-, -, hf, -⟩ := hread
  rw [readValue, hsight, State.scalarRead_plain hp hr (typeFits_of_no_fault hf) hs (s.coords_length xs)]

/-! ## Stores (R166, R290) -/

/-- Whole bytes gathered from an offset on. -/
def gatheredFrom (o : Nat) : List Byte → Gathered
  | [] => []
  | b :: bs => (o, (255, b.toNat)) :: gatheredFrom (o + 1) bs

/-- Bytes of an S store from an address on. -/
def bytesFrom (c a : Nat) : List Byte → List (WriteTarget × Byte)
  | [] => []
  | b :: bs => (.store c 2 a, b) :: bytesFrom c (a + 1) bs

theorem mapFind_below {α : Type} {m : Map α} {k : Nat} (h : ∀ p, p ∈ m → p.1 < k) : mapFind m k = none := by
  induction m with
  | nil => rfl
  | cons p m ih =>
    have hp := h p List.mem_cons_self
    rw [mapFind, if_neg (by omega)]
    exact ih fun q hq => h q (List.mem_cons_of_mem _ hq)

theorem mapPut_above {α : Type} {m : Map α} {k : Nat} (v : α) (h : ∀ p, p ∈ m → p.1 < k) : mapPut m k v = m ++ [(k, v)] := by
  induction m with
  | nil => rfl
  | cons p m ih =>
    have hp := h p List.mem_cons_self
    rw [mapPut, if_neg (by omega), if_neg (by omega), ih fun q hq => h q (List.mem_cons_of_mem _ hq), List.cons_append]

/-- A byte put above all gathered so far. -/
theorem gatherBits_cons {m : Gathered} {o n v : Nat} {os : List Nat} (hn : 8 ≤ n) (h : ∀ p, p ∈ m → p.1 < o) :
    gatherBits m (o :: os) 0 n v = gatherBits (m ++ [(o, (255, (BitVec.ofNat 8 v).toNat))]) os 0 (n - 8) (v / 256) := by
  have hk : Nat.min n (8 - 0) = 8 := Nat.min_eq_right hn
  have hg : mapGet m o ((0, 0) : Nat × Nat) = (0, 0) := by rw [mapGet, mapFind_below h]; rfl
  rw [gatherBits]
  simp only [hk, hg, BitVec.toNat_ofNat]
  rw [mapPut_above _ h]
  simp

theorem below_append {m : Gathered} {o : Nat} (x : Nat × Nat) (h : ∀ p, p ∈ m → p.1 < o) :
    ∀ p, p ∈ m ++ [(o, x)] → p.1 < o + 1 := by
  intro p hp
  rcases List.mem_append.mp hp with hp | hp
  · exact Nat.lt_succ_of_lt (h p hp)
  · rw [List.mem_singleton.mp hp]
    exact Nat.lt_succ_self o

/-- An element of whole bytes gathered at once. -/
theorem gatherBits_run (n : Nat) {m : Gathered} {o : Nat} (v : Nat) (h : ∀ p, p ∈ m → p.1 < o) :
    gatherBits m (List.range' o n) 0 (8 * n) v = m ++ gatheredFrom o (leBytes n v) := by
  induction n generalizing m o v with
  | zero => simp [gatherBits, leBytes, gatheredFrom]
  | succ n ih =>
    have hn : 8 * (n + 1) - 8 = 8 * n := by omega
    rw [List.range'_succ, gatherBits_cons (by omega) h, hn, ih _ (below_append _ h), leBytes, gatheredFrom, List.append_assoc,
      List.singleton_append]

/-- The elements of a byte handle gathered one by one. -/
theorem foldl_gatherBits_run (n : Nat) {m : Gathered} {o j : Nat} (v : Nat) (h : ∀ p, p ∈ m → p.1 < o + j) :
    (List.range' j n).foldl (fun m i => gatherBits m [o + i] 0 8 (bitsAt v (8 * i) 8)) m =
      m ++ gatheredFrom (o + j) (leBytes n (v / 2 ^ (8 * j))) := by
  induction n generalizing m j with
  | zero => simp [leBytes, gatheredFrom]
  | succ n ih =>
    have hb : BitVec.ofNat 8 (bitsAt v (8 * j) 8) = BitVec.ofNat 8 (v / 2 ^ (8 * j)) := by
      apply BitVec.eq_of_toNat_eq
      simp [bitsAt]
    have hd : v / 2 ^ (8 * j) / 256 = v / 2 ^ (8 * (j + 1)) := by
      rw [Nat.div_div_eq_div_mul, Nat.mul_add, Nat.pow_add]
    rw [List.range'_succ, List.foldl_cons, gatherBits_cons (Nat.le_refl 8) h, gatherBits, hb,
      ih (m := m ++ [(o + j, (255, (BitVec.ofNat 8 (v / 2 ^ (8 * j))).toNat))]) (j := j + 1) (below_append _ h), leBytes,
      gatheredFrom, hd, List.append_assoc, List.singleton_append, Nat.add_assoc]

/-- Whole bytes take nothing from the store. -/
theorem State.gatheredBytes_plain (s : State) {h : Handle} (hp : plainS h) (hr : 0 < h.desc.rank) (x : List Nat) (i : Nat) (bs : List Byte) :
    s.gatheredBytes h (gatheredFrom (h.desc.elemOff (h.abs x) + i) bs) = bytesFrom h.target (elemByte h x + i) bs := by
  induction bs generalizing i with
  | nil => rfl
  | cons b bs ih =>
    have hi := ih (i + 1)
    unfold State.gatheredBytes at hi ⊢
    rw [gatheredFrom, bytesFrom, List.map_cons, Nat.add_assoc, hi, Nat.add_assoc]
    simp only [State.locate_plain hp hr, if_true, Nat.zero_or, BitVec.ofNat_toNat, BitVec.setWidth_eq]

/-- Bytes that lie in one granule are one write (R166). -/
theorem joinBytes_granule (c : Nat) (bs : List Byte) (b : Byte) {a : Nat} (h : a % 32 + (bs.length + 1) ≤ 32) :
    joinBytes (bytesFrom c a (b :: bs)) = [(.store c 2 a, b :: bs)] := by
  induction bs generalizing a b with
  | nil => rfl
  | cons b' bs ih =>
    rw [List.length_cons] at h
    have hi := ih b' (a := a + 1) (by omega)
    have hc : (WriteTarget.store c 2 a).plus 1 = .store c 2 (a + 1) ∧ (WriteTarget.store c 2 (a + 1)).addr % 32 ≠ 0 := by
      refine ⟨rfl, ?_⟩
      show (a + 1) % 32 ≠ 0
      omega
    rw [bytesFrom, joinBytes, hi]
    exact if_pos hc

theorem memBytes_pos_of_tyMem {ty : Ty} (h : tyMem ty = true) : 0 < memBytes ty := by
  cases ty <;> simp_all [tyMem, memBytes, tyBits]

theorem eight_mul_memBytes {ty : Ty} (h : tyMem ty = true) : 8 * memBytes ty = tyBits ty := by
  cases ty <;> simp_all [tyMem, memBytes, tyBits]

/-- What a scalar store through a plain handle gathers. -/
theorem State.storeElems_plain (s : State) {h : Handle} {ty : Ty} {x : List Nat} (hp : plainS h) (hr : 0 < h.desc.rank)
    (hm : tyMem ty = true) (hf : typeFits h ty = true) (hx : 0 < x.length) (v : Nat) :
    s.storeElems h (scalarDelivers h ty x v) = (gatheredFrom (h.desc.elemOff (h.abs x)) (leBytes (memBytes ty) v), false) := by
  have hsym : h.desc.sym.isEmpty = true := by obtain ⟨-, hs, -⟩ := id hp; rw [hs]; rfl
  have hoff : ∀ n y, (List.range n).map (fun i => h.desc.elemOff (h.abs y) + i) = List.range' (h.desc.elemOff (h.abs y)) n := by
    intro n y
    rw [List.range_eq_range', List.map_add_range', Nat.add_zero]
  have hnone : ∀ p, p ∈ ([] : Gathered) → p.1 < h.desc.elemOff (h.abs x) := fun p hp => absurd hp List.not_mem_nil
  simp only [State.storeElems, State.storeWith, Handle.place_plain hp hr, hsym, Bool.true_or, if_true, scalarDelivers, hoff]
  refine congrArg (·, false) ?_
  split
  · rename_i hb
    have h8 := tyBits_of_isByteHandle hb
    have hnext : ∀ i, h.desc.elemOff (h.abs (x.set 0 (x.getD 0 0 + i))) = h.desc.elemOff (h.abs x) + i := by
      intro i
      have hi := elemByte_set hr h8 hx i
      rw [elemByte_eq hp hr, elemByte_eq hp hr] at hi
      omega
    simp only [List.foldl_map, hnext, h8, upTo, List.range_eq_range', Nat.div_self, Nat.zero_lt_succ, List.range'_one]
    simpa using foldl_gatherBits_run (memBytes ty) (o := h.desc.elemOff (h.abs x)) (j := 0) v hnone
  · rename_i hb
    have hw := eight_mul_memBytes hm
    simp only [List.foldl_cons, List.foldl_nil, tyBits_of_typeFits hb hf]
    rw [← memBytes, ← hw, gatherBits_run _ _ hnone, leBytes_mod, List.nil_append]

/-- R131, R166, R290, for the handles a bind admits: a store whose bytes lie in one granule leaves one write of its low bytes. -/
theorem storeWrites_plain {ty : Ty} {slot : Nat} {xs : List Nat} {h : Handle} {v : Word} {s : State} (hm : tyMem ty = true)
    (hwr : writable s slot h ty xs) (hp : plainS h) (hr : 0 < h.desc.rank)
    (hg : elemByte h (s.coords xs) % 32 + memBytes ty ≤ 32) :
    storeWrites s h ty xs v =
      ([⟨s.cur.2, .store h.target 2 (elemByte h (s.coords xs)), .bytes (leBytes (memBytes ty) v.toNat)⟩], false) := by
  obtain ⟨-, hf⟩ := hwr
  have hbytes := (sight s).gatheredBytes_plain hp hr (s.coords xs) 0 (leBytes (memBytes ty) v.toNat)
  obtain ⟨n, hn⟩ := Nat.exists_eq_succ_of_ne_zero (Nat.pos_iff_ne_zero.mp (memBytes_pos_of_tyMem hm))
  rw [hn] at hg hbytes ⊢
  have hjoin := joinBytes_granule h.target (leBytes n (v.toNat / 256)) (BitVec.ofNat 8 v.toNat) (a := elemByte h (s.coords xs))
    (by rwa [leBytes_length])
  simp only [storeWrites, State.storeElems_plain _ hp hr hm (typeFits_of_no_fault hf) (s.coords_length xs), hn]
  rw [← Nat.add_zero (h.desc.elemOff _), hbytes, Nat.add_zero, leBytes, hjoin, List.map_cons, List.map_nil]

/-! ## A plain handle without a dimension -/

/-- A handle on bytes of the S store that has no dimension, but a window of two places along the first. -/
def rankless : Handle :=
  { desc := { space := 2, fmt := .uint8, rank := 0, codec := 0, sealed := false, policy := 0, trap := false, rd := true, wr := true,
              swz := 0, ring := none, base := 0, ext := [2, 1, 1, 1, 1, 1], pitch := [0, 0, 0, 0, 0, 0], slink := 0, slv := false,
              tgt := 0, peer := 0, clen := 0, sym := [] }
    target := 0, runs := [], window := false, lo := [0, 0, 0, 0, 0, 0], ext := [2, 1, 1, 1, 1, 1], pwinIn := false,
    pwinOut := false, sealed := false, func := 0, isArgs := false }

/-- A core whose slot 0 holds it, over an S store whose first two bytes are 1 and 0. -/
def ranklessState : State :=
  { State.reset with coreTab := [(0, { Core.initial with s := [(0, 1)], handles := [(0, rankless)] })] }

theorem ranklessState_readable : readable ranklessState 0 rankless .uint16 [] := by
  unfold readable sight
  decide +kernel

theorem rankless_plainS : plainS rankless := by
  unfold plainS
  decide

/-- Without a dimension both bytes of the access are the one at the base. -/
theorem ranklessState_reads : readValue ranklessState rankless .uint16 [] = 0x0101 := by decide +kernel

theorem ranklessState_holds :
    filled .uint16 (leNat (bytesAt (ranklessState.core rankless.target).s (elemByte rankless (ranklessState.coords [])) (memBytes .uint16))) =
      0x0001 := by decide +kernel

theorem not_loadedBytes : ¬ loadedBytes := by
  intro h
  have e := h .uint16 0 [] rankless ranklessState rfl ranklessState_readable rankless_plainS rfl rfl
  rw [ranklessState_reads, ranklessState_holds] at e
  exact absurd e (by decide)

end Sys2Proof.Machine

/-- Refutes O21: a plain handle of rank 0, which the statement admits, has no dimension along which the bytes of an access
follow one another, so that a load of two bytes reads the byte at the base twice. With a rank of at least 1, as R127 asks of a
descriptor, `readValue_plain` and `storeWrites_plain` give both halves. -/
theorem not_plainBytes : ¬ Obligations.PlainBytes := fun h => not_loadedBytes h.1
end

section
/-! What a write to package memory may change of tasks, digests and poison (R85, R86, R215). -/

open Sys2Proof Sys2Proof.Machine Sys2Proof.Claims

namespace Sys2Proof.Machine

/-! ## Tasks made void -/

/-- A table of tasks in which those that `f` chooses are void. -/
def voided (f : Nat × Task → Bool) (m : Map Task) : Map Task := m.map fun p => if f p then (p.1, { p.2 with void := true }) else p

theorem voided_nothing (m : Map Task) : voided (fun _ => false) m = m := by simp [voided]

theorem voided_voided (f g : Nat × Task → Bool) (m : Map Task) :
    ∃ h, voided g (voided f m) = voided h m := by
  refine ⟨fun p => f p || g p, ?_⟩
  simp only [voided, List.map_map]
  refine List.map_congr_left fun p _ => ?_
  by_cases hf : f p = true <;> by_cases hg : g (p.1, { p.2 with void := true }) = true <;>
    by_cases hp : g p = true <;> simp [hf, hg, hp]

theorem mapFind_voided (f : Nat × Task → Bool) (m : Map Task) (j : Nat) :
    mapFind (voided f m) j = (mapFind m j).map fun x => { x with void := x.void || f (j, x) } := by
  unfold voided
  rw [mapFind_map _ _ (by intro p; dsimp only; split <;> rfl)]
  congr 1
  funext x
  dsimp only
  split
  · rename_i h; simp [h]
  · rename_i h; simp [h]

theorem mapSorted_map {α β : Type} {g : Nat × α → Nat × β} (hg : ∀ p, (g p).1 = p.1) {m : Map α} {lo : Option Nat}
    (h : mapSorted lo m = true) : mapSorted lo (m.map g) = true := by
  induction m generalizing lo with
  | nil => rfl
  | cons p m ih =>
    have hc : g p = (p.1, (g p).2) := Prod.ext (hg p) rfl
    simp only [mapSorted, Bool.and_eq_true] at h
    rw [List.map_cons, hc]
    simp only [mapSorted, Bool.and_eq_true]
    exact ⟨h.1, ih h.2⟩

/-! ## Writes -/

/-- What writes to package memory may change: bytes, their poison and watch bits, digests and entries dropped, tasks made void. -/
def written (s t : State) : Prop :=
  t = { s with hbm := t.hbm, hbmGen := t.hbmGen, poison := t.poison, watch := t.watch, digests := t.digests
               digestCache := t.digestCache, tasks := t.tasks, results := t.results } ∧
    (∀ u, u ∈ t.poison → u ∈ s.poison) ∧ (∀ d, d ∈ t.digests → d ∈ s.digests) ∧ ∃ f, t.tasks = voided f s.tasks

theorem written_refl (s : State) : written s s := ⟨rfl, fun _ h => h, fun _ h => h, _, (voided_nothing _).symm⟩

theorem written_trans {s t u : State} (h : written s t) (k : written t u) : written s u := by
  obtain ⟨e, hp, hd, f, hf⟩ := h
  obtain ⟨e', hp', hd', g, hg⟩ := k
  refine ⟨by rw [e', e], fun x hx => hp x (hp' x hx), fun x hx => hd x (hd' x hx), ?_⟩
  rw [hg, hf]
  exact voided_voided f g _

theorem written_foldl {α : Type} {g : State → α → State} (hg : ∀ s x, written s (g s x)) (l : List α) (s : State) :
    written s (l.foldl g s) := by
  induction l generalizing s with
  | nil => exact written_refl s
  | cons x l ih => exact written_trans (hg s x) (ih (g s x))

theorem State.hbmCured_frame (s : State) (pa n : Nat) :
    s.hbmCured pa n = { s with poison := (s.hbmCured pa n).poison } ∧ ∀ u, u ∈ (s.hbmCured pa n).poison → u ∈ s.poison := by
  unfold State.hbmCured
  split
  · exact ⟨rfl, fun _ h => h⟩
  · exact ⟨rfl, fun _ h => (List.mem_filter.mp h).1⟩

theorem State.written_hbmPut (s : State) (gen pa : Nat) (bs : List Byte) : written s (s.hbmPut gen pa bs) := by
  obtain ⟨e, hp⟩ := s.hbmCured_frame pa bs.length
  unfold State.hbmPut
  rw [e]
  exact ⟨rfl, hp, fun _ h => h, _, (voided_nothing _).symm⟩

theorem State.written_markGranule (on : Bool) (s : State) (g : Nat) : written s (State.markGranule on s g) := by
  unfold State.markGranule
  split
  · exact s.written_hbmPut _ _ _
  · exact written_refl s

theorem State.written_rewatch (s : State) (gs : List Nat) : written s (s.rewatch gs) := by
  obtain ⟨e, hp, hd, hf⟩ := written_trans (written_foldl (State.written_markGranule false) (s.watch.filter fun g => !(gs.contains g)) s)
    (written_foldl (State.written_markGranule true) (gs.filter fun g => !(s.watch.contains g)) _)
  unfold State.rewatch
  dsimp only
  refine ⟨?_, hp, hd, hf⟩
  rw [e]

theorem State.written_unwatch (s : State) : written s s.unwatch := s.written_rewatch _

theorem State.written_acceptNotice (s : State) (g : Nat) : written s (s.acceptNotice g) := by
  unfold State.acceptNotice
  dsimp only
  refine written_trans (t := { s with
    digests := s.digests.filter fun d => !(d.granules.contains g)
    digestCache := s.digestCache.filter fun d => !(d.granules.contains g)
    tasks := s.tasks.map fun p =>
      if p.2.granules.contains g && p.2.phase != TaskPhase.copying then (p.1, { p.2 with void := true }) else p
    results := s.results.filter fun r => !((s.extentGranules r.tenant r.block r.blocks).contains g) }) ?_ (State.written_unwatch _)
  exact ⟨rfl, fun _ h => h, fun _ h => (List.mem_filter.mp h).1, _, rfl⟩

theorem State.written_watchWrite (s : State) (pa n : Nat) : written s (s.watchWrite pa n) := by
  unfold State.watchWrite
  split
  · exact written_refl s
  · refine written_foldl (fun s i => ?_) _ s
    split
    · exact s.written_acceptNotice _
    · exact written_refl s

theorem State.written_hbmWrite (s : State) (gen pa : Nat) (bs : List Byte) : written s (s.hbmWrite gen pa bs) :=
  written_trans (s.written_watchWrite pa bs.length) (State.written_hbmPut _ gen pa bs)

theorem State.written_hbmFill (s : State) (gen pa n : Nat) (cells : Bytes) : written s (s.hbmFill gen pa n cells) := by
  refine written_trans (s.written_watchWrite pa n) ?_
  obtain ⟨e, hp⟩ := (s.watchWrite pa n).hbmCured_frame pa n
  unfold State.hbmFill
  dsimp only
  rw [e]
  exact ⟨rfl, hp, fun _ h => h, _, (voided_nothing _).symm⟩

theorem State.written_writeRuns (s : State) (rs : List Run) (bs : List Byte) : written s (s.writeRuns rs bs) := by
  induction rs generalizing s bs with
  | nil => exact written_refl s
  | cons r rs ih => exact written_trans (s.written_hbmWrite _ _ _) (ih _ _)

theorem State.written_gWrite {s u : State} {tenant va : Nat} {bs : List Byte} (h : s.gWrite tenant va bs = .ok u) : written s u := by
  unfold State.gWrite at h
  split at h
  · cases h
  · cases h
    exact s.written_writeRuns _ _

/-- A slot of a launch ring is written in package memory or in host memory (R58, R60). -/
theorem State.writeSlot_written {s u : State} {n : Nat} {i : BitVec 32} {bs : List Byte} (h : s.writeSlot n i bs = some u) :
    written { s with hostMem := u.hostMem } u := by
  unfold State.writeSlot at h
  dsimp only at h
  split at h
  · split at h
    · cases h
    · cases h
      exact written_refl _
  · split at h
    · rename_i t g
      cases h
      have hw := State.written_gWrite g
      have hm : u.hostMem = s.hostMem := by rw [hw.1]
      rw [hm]
      exact hw
    · cases h

end Sys2Proof.Machine
end

section
/-! TSPAWN and REQ (R60, R104, R310, R311). -/

open Sys2Proof Sys2Proof.Machine Sys2Proof.Claims

namespace Sys2Proof.Machine

/-! ## The task of a core, and a core without pending writes -/

theorem State.myTask_of_taskHere {s : State} {k : Task} (h : taskHere s k) : s.myTask = some k := by
  obtain ⟨id, hc, hk⟩ := h
  unfold State.myTask State.taskOf
  rw [show (s.core s.cur.1).task = some id from hc]
  exact hk

theorem State.inPure_of_taskHere {s : State} {k : Task} (h : taskHere s k) : s.inPure = k.pure := by
  rw [State.inPure, State.myTask_of_taskHere h]

theorem State.tenantOf_of_taskHere {s : State} {k : Task} (h : taskHere s k) : s.tenantOf s.cur.1 = k.tenant := by
  rw [State.tenantOf, show s.taskOf s.cur.1 = some k from State.myTask_of_taskHere h]

theorem State.drainCore_idle {s : State} {c : Nat} (h : (s.core c).writes = []) : s.drainCore c = s := by
  rw [State.drainCore, h]
  rfl

theorem State.seenBy_idle {s : State} {c : Nat} (h : (s.core c).writes = []) : s.seenBy c = s := by
  simp [State.seenBy, h]

/-- Bytes of a store without poison: none is reported, and they read as they stand (R216). -/
theorem State.poisonAt_clean {s : State} (h : s.poison = []) (c st off n : Nat) : s.poisonAt (.store c st off) n = [] := by
  simp [State.poisonAt, h]

theorem State.readAt_clean {s : State} (h : s.poison = []) (c off n : Nat) :
    s.readAt (.store c 2 off) n = bytesAt (s.core c).s off n := by
  simp [State.readAt, State.poisonAt_clean h, Core.store]

/-! ## The exception raised -/

theorem pickExc_mem {l : List Exc} {x : Exc} (h : pickExc l = some x) : x ∈ l := by
  induction l with
  | nil => cases h
  | cons e es ih =>
    unfold pickExc at h
    split at h
    · cases h; exact List.mem_cons_self
    · rename_i y hy
      split at h
      · cases h; exact List.mem_cons_self
      · cases h; exact List.mem_cons_of_mem _ (ih hy)

/-- The first of a list is raised where no other has a lower priority number (R206). -/
theorem pickExc_first {e : Exc} {es : List Exc} (h : ∀ x, x ∈ es → e.priority ≤ x.priority) : pickExc (e :: es) = some e := by
  unfold pickExc
  split
  · rfl
  · rename_i x hx
    rw [if_pos (h x (pickExc_mem hx))]

theorem mem_excIf {c : Bool} {e x : Exc} (h : x ∈ excIf c e) : x = e := by
  cases c
  · cases h
  · exact List.mem_singleton.mp h

/-- A check that comes before others of no lower priority number. -/
theorem pickExc_excIf {c : Bool} {e : Exc} {es : List Exc} (h : ∀ x, x ∈ es → e.priority ≤ x.priority) :
    pickExc (excIf c e ++ es) = if c then some e else pickExc es := by
  cases c
  · rfl
  · exact pickExc_first h

theorem priority_excIf_append {p : Nat} {c : Bool} {e : Exc} {es : List Exc} (he : p ≤ e.priority)
    (h : ∀ x, x ∈ es → p ≤ x.priority) : ∀ x, x ∈ excIf c e ++ es → p ≤ x.priority := by
  intro x hx
  rcases List.mem_append.mp hx with hx | hx
  · rw [mem_excIf hx]; exact he
  · exact h x hx

@[simp] theorem excIf_false (e : Exc) : excIf false e = [] := rfl

/-- The exception of a ring slot that the agent does not hold (R120). -/
def raceFaults (s : State) (a : Agent) (t : WriteTarget) : List Exc := match s.ringRace a t with | some (x, i) => [raceExc x i] | none => []

theorem raceFaults_priority {s : State} {a : Agent} {t : WriteTarget} {x : Exc} (h : x ∈ raceFaults s a t) : x.priority = 14 := by
  unfold raceFaults at h
  split at h
  · rw [List.mem_singleton.mp h]; rfl
  · cases h

theorem raceFaults_none {s : State} {a : Agent} {t : WriteTarget} (h : s.ringRace a t = none) : raceFaults s a t = [] := by
  rw [raceFaults, h]

/-! ## A result of an instruction that changed other parts of the package too -/

theorem State.registersWritten_clean {s : State} (h : s.poison = []) (u : Uses) : s.registersWritten u = s := by
  simp [State.registersWritten, h]

/-- A body that writes one scalar register in a state with the cores of before and no poison. -/
theorem finish_wS_clean {s v : State} (hs : s.seated) (hc : v.coreTab = s.coreTab) (hu : v.cur = s.cur) (hp : v.poison = [])
    (len d : Nat) (x : Word) (u : Uses) :
    let t := finish len u s (.done (v.wS d x))
    t = { v with coreTab := t.coreTab } ∧ sameBytes v t ∧ t.me = { s.me with pc := s.me.pc + len, s := t.me.s } ∧
      t.rS d = (if d = 0 then 0 else x) ∧ (∀ r, r ≠ d → t.rS r = s.rS r) ∧ t.here = s.here.setStrand s.cur.2 t.me ∧
      ∀ c, c ≠ s.cur.1 → t.core c = s.core c := by
  intro t
  have hcore : ∀ c, v.core c = s.core c := fun c => by simp [State.core, hc]
  have hhere : v.here = s.here := by rw [State.here, State.here, hu, hcore]
  have hme : v.me = s.me := by rw [State.me, State.me, hu, hhere]
  have hv : v.seated := by unfold State.seated; rw [hu, hhere]; exact hs
  have ht : t = v.setMe { s.me.setReg d x with pc := s.me.pc + len } := by
    have hp' : ({ v with coreTab := (v.setMe { v.me.setReg d x with pc := s.me.pc + len }).coreTab } : State).poison = [] := hp
    exact ((State.done_setMe v _ u _ hv).trans (State.registersWritten_clean hp' u)).trans (by rw [hme]; rfl)
  have htme : t.me = { s.me.setReg d x with pc := s.me.pc + len } := by rw [ht, State.me_setMe v _ hv]
  have hreg : ∀ r, t.rS r = if r = d ∧ d ≠ 0 then x else s.rS r := fun r => by
    rw [State.rS, htme, State.rS, ← Strand.reg_setReg]; rfl
  obtain ⟨⟨-, hoth, -, hbytes⟩, hh⟩ := onlyStrand_setMe_none v { s.me.setReg d x with pc := s.me.pc + len } hv
  rw [← ht] at hoth hbytes hh
  refine ⟨by rw [ht]; rfl, hbytes, ?_, ?_, fun r hr => ?_, by rw [hh, hhere, hu], fun c h => ?_⟩
  · rw [htme]; simp
  · rw [hreg]
    by_cases hd : d = 0
    · subst hd; simp [State.rS]
    · simp [hd]
  · rw [hreg, if_neg (fun h => hr h.1)]
  · rw [hoth c (hu ▸ h), hcore]

/-! ## TSPAWN (R60, R310) -/

/-- The checks of a TSPAWN, in the order of R310. -/
def spawnFaults (n off : Nat) (s : State) : List Exc :=
  excIf (decide (127 < n)) (Exc.illop 9) ++ excIf s.inPure (Exc.of codePURITY) ++
    excIf (decide (n ≤ 127) &&
      !(tableAllows (mapGet s.queueTables n 0) (.tenant (s.tenantOf s.cur.1)) true && (s.queue n).spawn)) (Exc.of codePERM 4) ++
    excIf (decide (Config.sBytes < off + 64)) (beyondStore off Config.sBytes) ++
    excIf (off % 64 != 0) (Exc.of codeALIGN 0 (BitVec.ofNat 64 off)) ++ raceFaults s (.strand s.cur.1 s.cur.2) (.store s.cur.1 2 off)

theorem spawn_eq (d a b : Nat) (s : State) :
    spawn d a b s = match pickExc (spawnFaults (s.rS a).toNat (s.rS b).toNat s) with
      | some e => .trap s e
      | none =>
        let t := WriteTarget.store s.cur.1 2 (s.rS b).toNat
        let u := s.drainCore s.cur.1
        let r := (u.reportUnits (u.poisonAt t 64) 1 (u.taskIdOf s.cur.1)).offer (s.rS a).toNat (u.readAt t 64)
        .done (r.1.wS d (BitVec.ofNat 64 r.2)) := rfl

theorem spawn_traps {d a b : Nat} {s : State} {e : Exc} (h : pickExc (spawnFaults (s.rS a).toNat (s.rS b).toNat s) = some e) :
    spawn d a b s = .trap s e := by
  rw [spawn_eq, h]

theorem State.offer_off {s : State} {n : Nat} {bs : List Byte} (h : (s.queue n).en = false ∨ (s.queue n).halted = true) :
    s.offer n bs = (s, 2) := by
  unfold State.offer
  rw [if_pos (by rcases h with e | e <;> simp [e])]

section
variable {s : State} {n : Nat} {bs : List Byte} (hen : (s.queue n).en = true) (hha : (s.queue n).halted = false)
include hen hha

theorem State.offer_full (full : ((s.queue n).pi - (s.queue n).ci).toNat = (s.queue n).slots) :
    s.offer n bs = (s.setQueue n { s.queue n with full := true }, 1) := by
  unfold State.offer
  rw [if_neg (by simp [hen, hha]), if_pos full]

theorem State.offer_room {u : State} (full : ¬ ((s.queue n).pi - (s.queue n).ci).toNat = (s.queue n).slots)
    (hu : s.writeSlot n (s.queue n).pi bs = some u) :
    s.offer n bs = (u.setQueue n { s.queue n with
      pi := (s.queue n).pi + 1, spawnDie := mapPut (s.queue n).spawnDie (s.queue n).pi.toNat (dieOf s.cur.1) }, 0) := by
  unfold State.offer
  rw [if_neg (by simp [hen, hha]), if_neg full]
  simp only [hu]

end

/-- A TSPAWN that passes its checks is the offer of its record (R60). -/
theorem spawn_offers {d a b : Nat} {s : State} (h : spawnFaults (s.rS a).toNat (s.rS b).toNat s = []) (hw : s.here.writes = [])
    (hp : s.poison = []) :
    spawn d a b s = .done ((s.offer (s.rS a).toNat (bytesAt s.here.s (s.rS b).toNat 64)).1.wS d
      (BitVec.ofNat 64 (s.offer (s.rS a).toNat (bytesAt s.here.s (s.rS b).toNat 64)).2)) := by
  have hd : s.drainCore s.cur.1 = s := State.drainCore_idle hw
  rw [spawn_eq, h]
  simp only [pickExc, hd, State.readAt_clean hp, State.poisonAt_clean hp, State.reportUnits, List.foldl_nil]
  rfl

section
variable {g : Guard} {d a b : Nat} {k : Task} {s : State}

/-- A TSPAWN whose checks raise `e` first. -/
theorem tspawn_faults (h : s.runs g (Uses.scalar [a, b] [d])) (hh : handled s) {code sub : Nat} {arg : Word}
    (hc : code ≠ codePURITY) (hi : (Exc.of code sub arg).info = trapInfo code sub false)
    (he : pickExc (spawnFaults (s.rS a).toNat (s.rS b).toNat s) = some (Exc.of code sub arg)) :
    does (.tspawn g d a b) s (tookException code sub false arg s.me.pc) :=
  runStrand_fault h hh 8 code sub arg hc hi (spawn_traps he)

/-- The checks of a TSPAWN outside a PURE task. -/
theorem spawnFaults_of_taskHere (ht : taskHere s k) (hk : k.pure = false) (n off : Nat) :
    spawnFaults n off s = excIf (decide (127 < n)) (Exc.illop 9) ++
      (excIf (decide (n ≤ 127) && !(tableAllows (mapGet s.queueTables n 0) (.tenant k.tenant) true && (s.queue n).spawn))
        (Exc.of codePERM 4) ++ (excIf (decide (Config.sBytes < off + 64)) (beyondStore off Config.sBytes) ++
      (excIf (off % 64 != 0) (Exc.of codeALIGN 0 (BitVec.ofNat 64 off)) ++
        raceFaults s (.strand s.cur.1 s.cur.2) (.store s.cur.1 2 off)))) := by
  simp only [spawnFaults, State.inPure_of_taskHere ht, hk, State.tenantOf_of_taskHere ht, excIf_false, List.append_nil, List.append_assoc]

/-- The first check of a TSPAWN that fails is raised (R206, R310). -/
theorem pickExc_spawnFaults (ht : taskHere s k) (hk : k.pure = false) (n off : Nat) :
    pickExc (spawnFaults n off s) =
      if 127 < n then some (Exc.illop 9)
      else if ¬ (tableAllows (mapGet s.queueTables n 0) (.tenant k.tenant) true = true ∧ (s.queue n).spawn = true) then some (Exc.of codePERM 4)
      else if Config.sBytes < off + 64 then some (beyondStore off Config.sBytes)
      else if off % 64 ≠ 0 then some (Exc.of codeALIGN 0 (BitVec.ofNat 64 off))
      else pickExc (raceFaults s (.strand s.cur.1 s.cur.2) (.store s.cur.1 2 off)) := by
  have race : ∀ p, p ≤ 14 → ∀ x, x ∈ raceFaults s (.strand s.cur.1 s.cur.2) (.store s.cur.1 2 off) → p ≤ x.priority :=
    fun p hp x hx => by rw [raceFaults_priority hx]; exact hp
  have bounds : (beyondStore off Config.sBytes).priority = 10 := rfl
  have align : (Exc.of codeALIGN 0 (BitVec.ofNat 64 off)).priority = 12 := rfl
  have perm : (Exc.of codePERM 4).priority = 7 := rfl
  have illop : (Exc.illop 9).priority = 2 := rfl
  have h12 : ∀ p, p ≤ 12 → ∀ x, x ∈ excIf (off % 64 != 0) _ ++ _ → p ≤ x.priority :=
    fun p hp => priority_excIf_append (by rw [align]; exact hp) (race p (by omega))
  have h10 : ∀ p, p ≤ 10 → ∀ x, x ∈ excIf (decide (Config.sBytes < off + 64)) _ ++ _ → p ≤ x.priority :=
    fun p hp => priority_excIf_append (by rw [bounds]; exact hp) (h12 p (by omega))
  rw [spawnFaults_of_taskHere ht hk, pickExc_excIf (priority_excIf_append (by decide) (h10 _ (by decide))),
    pickExc_excIf (h10 _ (by decide)), pickExc_excIf (h12 _ (by rw [bounds]; decide)), pickExc_excIf (race _ (by rw [align]; decide))]
  by_cases hn : 127 < n
  · simp [hn]
  · generalize tableAllows (mapGet s.queueTables n 0) (.tenant k.tenant) true = allowed
    cases allowed <;> simp [hn, Nat.not_lt.mp hn]

end

theorem beyondStore_eq (off size : Nat) :
    beyondStore off size = Exc.of 0x04 0 (BitVec.ofNat 64 (Max.max off size % 2 ^ 32 * 2 ^ 32)) := by
  rw [beyondStore, boundsArg, Nat.zero_add]
  rfl

theorem taskSpawns_hold : taskSpawns := by
  intro g d a b k s h ht hk hw hp n off q i may answers
  have hf : pickExc (spawnFaults n off s) = if 127 < n then some (Exc.illop 9) else if ¬ may then some (Exc.of codePERM 4) else _ :=
    pickExc_spawnFaults ht hk n off
  refine ⟨fun hn hm hoff hal hrace => ?_, fun hh => ⟨fun hn => ?_, fun hn hm => ?_, fun hn hm hoff => ?_, fun hn hm hoff hal => ?_⟩⟩
  · have hnil : pickExc (spawnFaults n off s) = none := by
      rw [hf, if_neg (by omega), if_neg (not_not.mpr hm), if_neg (by omega), if_neg (not_not.mpr hal), raceFaults_none hrace]
      rfl
    have hb : spawn d a b s = .done ((s.offer n (bytesAt s.here.s off 64)).1.wS d (BitVec.ofNat 64 (s.offer n (bytesAt s.here.s off 64)).2)) :=
      spawn_offers (pickExc_eq_none hnil) hw hp
    refine ⟨fun hoffq => ?_, fun hen hha full => ?_, fun hen hha full u hu => ?_⟩
    · exact runStrand_wS h 8 d 2 rfl (by rw [hb, State.offer_off hoffq]; rfl)
    · obtain ⟨e, hby, hme, hrd, hrs, hhere, hcs⟩ := finish_wS_clean (v := s.setQueue n { q with full := true }) h.1 rfl rfl hp 8 d 1
        (Uses.scalar [a, b] [d])
      have hb' : spawn d a b s = .done ((s.setQueue n { q with full := true }).wS d 1) := by rw [hb, State.offer_full hen hha full]; rfl
      refine ⟨_, runStrand_of_runs h 8 _, ?_⟩
      rw [hb']
      refine ⟨⟨hme, hrd, hrs, hhere, hcs, fun m hm => ?_⟩, hby, ?_, ?_⟩
      · rw [e]; exact State.queue_setQueue_ne s _ hm
      · rw [e]; exact State.queue_setQueue_self s n _
      · rw [e]; rfl
    · obtain ⟨eu, hpu, -, -⟩ := State.writeSlot_written hu
      have hpu' : u.poison = [] := List.eq_nil_iff_forall_not_mem.mpr fun x hx => by
        have hx' : x ∈ s.poison := hpu x hx
        rw [hp] at hx'
        cases hx'
      have hcu : u.coreTab = s.coreTab := by rw [eu]
      have hqu : u.queues = s.queues := by rw [eu]
      obtain ⟨e, hby, hme, hrd, hrs, hhere, hcs⟩ := finish_wS_clean
        (v := u.setQueue n { q with pi := q.pi + 1, spawnDie := mapPut q.spawnDie q.pi.toNat (dieOf s.cur.1) }) h.1 hcu
        (show u.cur = s.cur by rw [eu]) hpu' 8 d 0 (Uses.scalar [a, b] [d])
      have hb' : spawn d a b s = .done ((u.setQueue n { q with
          pi := q.pi + 1, spawnDie := mapPut q.spawnDie q.pi.toNat (dieOf s.cur.1) }).wS d 0) := by
        rw [hb, State.offer_room hen hha full hu]
        rfl
      refine ⟨_, runStrand_of_runs h 8 _, ?_⟩
      rw [hb']
      refine ⟨⟨hme, hrd, hrs, hhere, hcs, fun m hm => ?_⟩, hby, ?_, ?_⟩
      · rw [e]
        exact (State.queue_setQueue_ne u _ hm).trans (by unfold State.queue; rw [hqu])
      · rw [e]; rfl
      · rw [e]; exact State.queue_setQueue_self u n _
  · exact tspawn_faults h hh (by decide) (by decide) (by rw [hf, if_pos hn]; rfl)
  · exact tspawn_faults h hh (by decide) (by decide) (by rw [hf, if_neg (by omega), if_pos hm]; rfl)
  · exact tspawn_faults h hh (by decide) rfl (by rw [hf, if_neg (by omega), if_neg (not_not.mpr hm), if_pos hoff, beyondStore_eq])
  · exact tspawn_faults h hh (by decide) rfl
      (by rw [hf, if_neg (by omega), if_neg (not_not.mpr hm), if_neg (by omega), if_pos hal]; rfl)

/-! ## REQ (R104, R311) -/

/-- An instruction that writes no scalar register takes away no poison of one. -/
theorem finish_done_noWrites (len : Nat) (rs : List Nat) (s t : State) :
    finish len (Uses.scalar rs []) s (.done t) = t.setPc (s.me.pc + len) := by
  have h : t.registersWritten (Uses.scalar rs []) = t := by
    unfold State.registersWritten
    split <;> rfl
  rw [finish, h]

theorem recordParts_recordOp (op : RecOp) (h : RecHdr) (body : BitVec 384) : recordParts (recordOp op h body) = some (op, h, body) := by
  cases op <;> rfl

theorem engineOf_eq (op : RecOp) (qsel : Nat) : engineOf op qsel = op.queue qsel := by
  cases op <;> rfl

section
variable {hdr : RecHdr} (h0 : hdr.capt0 = none) (h1 : hdr.capt1 = none) (h2 : hdr.capt2 = none) (h3 : hdr.capt3 = none)
include h0 h1 h2 h3

theorem captureEntry_none (j : Nat) : captureEntry hdr j = none := by
  unfold captureEntry
  split <;> assumption

/-- A record without a capture spec enters its queue as it stands (R244). -/
theorem captured_none (read : Nat → Word) (body : BitVec 384) : captured hdr read body = body := by
  simp only [captured, captureEntry_none h0 h1 h2 h3]
  exact List.foldl_fixed _

theorem hdrCaptures_none : hdrCaptures hdr = [] := by
  simp [hdrCaptures, captureEntry_none h0 h1 h2 h3]

end

/-- An outstanding load holds no strand that names no register (R101). -/
theorem Strand.loadPending_nothing (t : Strand) : t.loadPending (Uses.scalar [] []) = false := by
  rw [Strand.loadPending, loadsPending, List.any_eq_false]
  intro l _
  cases l.dst <;> simp [Uses.scalar]

/-- The core that a REQ may name by a rank: one of its gang on its own die (R311). -/
def State.reqTarget (s : State) (k : Task) (rank : Nat) : Option Nat :=
  match s.coreOfRank k rank with | some x => if dieOf x = dieOf s.cur.1 then some x else none | none => none

theorem State.reqTarget_some {s : State} {k : Task} {rank d : Nat} (h : s.coreOfRank k rank = some d) (hd : dieOf d = dieOf s.cur.1) :
    s.reqTarget k rank = some d := by
  simp [State.reqTarget, h, hd]

theorem State.reqTarget_none {s : State} {k : Task} {rank : Nat}
    (h : s.coreOfRank k rank = none ∨ ∃ d, s.coreOfRank k rank = some d ∧ dieOf d ≠ dieOf s.cur.1) : s.reqTarget k rank = none := by
  rcases h with h | ⟨d, h, hd⟩ <;> simp [State.reqTarget, *]

/-- What a REQ with a good record does, by the core that it names. -/
def requestAt (v queue : Nat) (op : RecOp) (hdr : RecHdr) (body : BitVec 384) (s : State) : Option Nat → Eff
  | none => .trap s (Exc.of codePERM 5)
  | some d =>
    if s.clockOpen d then .hold s (.request d)
    else if s.queueFull d queue then .hold s (.engineQueue d queue)
    else match s.place d (if v.testBit 24 then s.cur.1 else d) op hdr body with
      | .error x => .trap s (Exc.atDispatch x queue)
      | .ok t => .done (t.setCore d (t.core d).wake)

section
variable {g : Guard} {a b : Nat} {op : RecOp} {hdr : RecHdr} {body : BitVec 384} {k : Task} {s : State}

theorem requestRecord_of_decode {queue word : Nat} (hw : word % 4 = 3) (hr : word / 4 % 32 = 0) (ht : word.testBit 16 = false)
    (hd : decodeN 0 word = .ok (recordOp op hdr body)) (hq : engineOf op hdr.qsel = queue) :
    requestRecord queue word = .ok (op, hdr, body) := by
  have hb : bitsAt word 2 5 = 0 := hr
  unfold requestRecord
  rw [if_neg (by simp [hw, hb, ht]), hd]
  simp only [recordParts_recordOp]
  rw [if_pos (by rw [← engineOf_eq]; exact hq)]

/-- A REQ whose operand and record are good depends on the core that it names alone. -/
theorem requestPlace_good (ht : taskHere s k) (hk : k.pure = false) (hw : s.here.writes = []) (hp : s.poison = [])
    (hv : (s.rS a).toNat < 2 ^ 25) (hz : (s.rS a).toNat / 2 ^ 19 % 2 ^ 5 = 0) (hq : (s.rS a).toNat / 2 ^ 16 % 8 ≤ 4)
    (hoff : (s.rS b).toNat + 64 ≤ Config.sBytes) (hal : (s.rS b).toNat % 64 = 0)
    (hrace : s.ringRace (.strand s.cur.1 s.cur.2) (.store s.cur.1 2 (s.rS b).toNat) = none)
    (h3 : leNat (bytesAt s.here.s (s.rS b).toNat 64) % 4 = 3) (hres : leNat (bytesAt s.here.s (s.rS b).toNat 64) / 4 % 32 = 0)
    (hbit : (leNat (bytesAt s.here.s (s.rS b).toNat 64)).testBit 16 = false)
    (hdec : requestRecord ((s.rS a).toNat / 2 ^ 16 % 8) (leNat (bytesAt s.here.s (s.rS b).toNat 64)) = .ok (op, hdr, body))
    (hc : hdrCaptures hdr = []) (hcap : captured hdr s.rS body = body) :
    requestPlace a b s = requestAt (s.rS a).toNat ((s.rS a).toNat / 2 ^ 16 % 8) op hdr body s (s.reqTarget k ((s.rS a).toNat % 2 ^ 16)) := by
  have hd : s.drainCore s.cur.1 = s := State.drainCore_idle hw
  have hs : s.seenBy s.cur.1 = s := State.seenBy_idle hw
  have hr : s.readAt (.store s.cur.1 2 (s.rS b).toNat) 64 = bytesAt s.here.s (s.rS b).toNat 64 := State.readAt_clean hp _ _ _
  have hpure : s.inPure = false := by rw [State.inPure_of_taskHere ht, hk]
  have hz' : bitsAt (s.rS a).toNat 19 5 = 0 := hz
  have hres' : bitsAt (leNat (bytesAt s.here.s (s.rS b).toNat 64)) 2 5 = 0 := hres
  have hq' : bitsAt (s.rS a).toNat 16 3 = (s.rS a).toNat / 2 ^ 16 % 8 := rfl
  have hrank : bitsAt (s.rS a).toNat 0 16 = (s.rS a).toNat % 2 ^ 16 := by simp [bitsAt]
  have hv' : (s.rS a).toNat / 2 ^ 25 = 0 := Nat.div_eq_of_lt hv
  unfold requestPlace
  simp only [State.myTask_of_taskHere ht, hd, hs, hr, hpure, hz', hres', hq', hrank, hv', hrace, hq, hoff, hal, h3, hbit, hdec,
    State.poisonAt_clean hp, State.reportUnits, List.foldl_nil, hc, hcap]
  have hreg : s.registerCheck (Uses.scalar [] []) = none := rfl
  change (match pickExc (_ ++ excIf (s.reqTarget k ((s.rS a).toNat % 2 ^ 16)).isNone _ ++ _ ++ _ ++ _ ++ _),
    s.reqTarget k ((s.rS a).toNat % 2 ^ 16) with | some e, _ => _ | none, none => _ | none, some d => _) = _
  generalize s.reqTarget k ((s.rS a).toNat % 2 ^ 16) = target
  generalize recordOf _ _ = named
  rw [Strand.loadPending_nothing, hreg]
  cases target with
  | none => cases named <;> rfl
  | some d => cases named <;> rfl

end

theorem recordRequests_hold : recordRequests := by
  intro g a b d op hdr body k s h ht hk hw hp v off queue c word i hv hz hq hoff hal hrace h3 hres hbit hdec he c0 c1 c2 c3
  have hb : requestPlace a b s = requestAt v queue op hdr body s (s.reqTarget k (v % 2 ^ 16)) :=
    requestPlace_good ht hk hw hp hv hz hq hoff hal hrace h3 hres hbit (requestRecord_of_decode h3 hres hbit hdec he)
      (hdrCaptures_none c0 c1 c2 c3) (captured_none c0 c1 c2 c3 _ _)
  refine ⟨fun hd hdie hne => ?_, fun hd hh => ?_⟩
  · intro placed
    rw [State.reqTarget_some hd hdie] at hb
    refine ⟨fun ho => ?_, fun ho hf => ?_, fun ho hf u hu => ?_, fun ho hf f hu hh hcode => ?_⟩
    · exact runStrand_hold h 8 _ (by rw [hb, requestAt, if_pos ho])
    · exact runStrand_hold h 8 _ (by rw [hb, requestAt, if_neg (by simp [ho]), if_pos hf])
    · refine ⟨_, runStrand_of_runs h 8 _, ?_⟩
      rw [hb, requestAt, if_neg (by simp [ho]), if_neg (by simp [hf])]
      rw [show s.place d (if v.testBit 24 then s.cur.1 else d) op hdr body = .ok u from hu]
      exact finish_done_noWrites 8 [a, b] s _
    · refine runStrand_trap h 8 (f.atDispatch queue) (Strand.hasHandler_of hh.1 hh.2) hcode ?_
      rw [hb, requestAt, if_neg (by simp [ho]), if_neg (by simp [hf])]
      rw [show s.place d (if v.testBit 24 then s.cur.1 else d) op hdr body = .error f from hu]
  · rw [State.reqTarget_none hd] at hb
    exact runStrand_fault h hh 8 5 5 0 (by decide) rfl hb

end Sys2Proof.Machine

/-- Settles O43: the checks of a TSPAWN raise the first that fails in R310's order, and one that passes them offers its record to
the queue; a REQ with a good record depends on the core that it names alone. -/
theorem spawnsAndRequests : Obligations.SpawnsAndRequests := ⟨taskSpawns_hold, recordRequests_hold⟩

end

section
/-! The records of a launch queue (R57, R61 to R64, R67 to R69, R77). -/

open Sys2Proof Sys2Proof.Machine Sys2Proof.Claims

namespace Sys2Proof.Machine

/-! ## The head of a queue -/

/-- The record at the head of a queue that may be read. -/
theorem State.hasRecord_of_waits {s : State} {n : Nat} {bs : List Byte} (h : waits s n bs) : s.hasRecord n = true := by
  obtain ⟨hr, hn, hen, hha, hne, -, -⟩ := h
  simp [State.hasRecord, hr, hn, hen, hha, hne]

section
variable {s : State} {n : Nat} {bs : List Byte} (h : waits s n bs) (act : State → List Byte → Option State)
include h

theorem readKind_of_waits (kind : Nat) :
    readKind n kind act s = (if 3 < bytesField bs 0 1 then s.haltQueue n 2
      else if bytesField bs 0 1 ≠ kind then s
      else (act s bs).getD (s.haltQueue n 2)).dispatch := by
  obtain ⟨-, -, -, -, -, hbs, -⟩ := id h
  rw [readKind, if_pos (State.hasRecord_of_waits h), State.readRecord, if_pos (State.hasRecord_of_waits h)]
  simp only [hbs]
  cases act s bs <;> rfl

/-- A record of no kind halts the queue at whichever event reads it (R64). -/
theorem readKind_malformed (kind : Nat) (hk : 3 < bytesField bs 0 1) : readKind n kind act s = (s.haltQueue n 2).dispatch := by
  rw [readKind_of_waits h, if_pos hk]

theorem readKind_other {kind : Nat} (hk : bytesField bs 0 1 ≤ 3) (hne : bytesField bs 0 1 ≠ kind) :
    readKind n kind act s = s.dispatch := by
  rw [readKind_of_waits h, if_neg (by omega), if_pos hne]

theorem readKind_none {kind : Nat} (hk : bytesField bs 0 1 = kind) (h3 : kind ≤ 3) (ha : act s bs = none) :
    readKind n kind act s = (s.haltQueue n 2).dispatch := by
  rw [readKind_of_waits h, if_neg (by omega), if_neg (not_not.mpr hk), ha]
  rfl

theorem readKind_some {kind : Nat} (hk : bytesField bs 0 1 = kind) (h3 : kind ≤ 3) {t : State} (ha : act s bs = some t) :
    readKind n kind act s = t.dispatch := by
  rw [readKind_of_waits h, if_neg (by omega), if_neg (not_not.mpr hk), ha]
  rfl

end

/-- A queue that halts for a bad record (R64, R77). -/
theorem State.haltQueue_haltedBad (s : State) (n : Nat) : haltedBad n s (s.haltQueue n 2) := by
  obtain ⟨fns, hostMem, e⟩ := (s.setQueue n { s.queue n with
    halted := true, ovr := (s.queue n).ovr || (2 : Nat) == 1, badrec := (s.queue n).badrec || (2 : Nat) == 2 }).postEvent_frame
    (s.queue n).func 0 n 5 0 (payloadOf (leBytes 1 2 ++ leBytes 3 0 ++ leBytes 4 (s.queue n).ci.toNat))
  have he : s.haltQueue n 2 = _ := e
  rw [he]
  refine ⟨?_, fun m hm => ?_, rfl⟩
  · exact (State.queue_setQueue_self s n _).trans (by simp)
  · exact State.queue_setQueue_ne s _ hm

/-- An act whose next state is dispatched. -/
theorem does_dispatches {i : Instr} {s t u : State} {p : State → State → Prop} (he : exec i s = .next t) (hd : t = u.dispatch) (hp : p s u) :
    does i s (dispatches p) := ⟨t, he, u, hd, hp⟩

/-! ## The start of a record -/

theorem Queue.mayStart_iff (q : Queue) (concurrent : Bool) :
    q.mayStart concurrent = true ↔ q.flight.length < 64 ∧ (concurrent = true ∨ q.flight = []) := by
  simp [Queue.mayStart]

theorem Queue.mayStart_alone {q : Queue} (hf : q.flight = []) : q.mayStart false = true :=
  (Queue.mayStart_iff _ _).mpr ⟨by simp [hf], .inr hf⟩

theorem Queue.mayStart_behind {q : Queue} (hf : q.flight ≠ []) : ¬ q.mayStart false = true := fun hm => by
  obtain ⟨-, h | h⟩ := (Queue.mayStart_iff _ _).mp hm
  · cases h
  · exact hf h

/-- With no notice waiting, a record that starts changes its queue alone (R61). -/
theorem State.consume_eq {s : State} (h : s.notices = []) (n : Nat) : s.consume n = s.setQueue n (consumed (s.queue n)) := by
  unfold State.consume
  dsimp only
  split
  · have hn : (s.setQueue n (consumed (s.queue n))).notices = [] := h
    change (s.setQueue n (consumed (s.queue n))).drainNotices (s.setQueue n (consumed (s.queue n))).notices.length = _
    rw [hn]
    rfl
  · rfl

theorem State.launch_setQueue (s : State) (n : Nat) (q : Queue) (id : Word) (concurrent : Bool) :
    (s.setQueue n q).launch n id concurrent = s.setQueue n { q with flight := q.flight ++ [⟨id, concurrent⟩] } := by
  simp [State.launch]

/-- A task that is not PURE enters the tail of its FIFO, and nothing else changes (R61). -/
theorem State.enterFifo_eq (s : State) {t : Task} (h : t.pure = false) :
    s.enterFifo t = (s.setTask t).setQueue t.queue { s.queue t.queue with fifo := (s.queue t.queue).fifo ++ [t.id.toNat] } := by
  have hf : ((s.setTask t).setQueue t.queue { s.queue t.queue with fifo := (s.queue t.queue).fifo ++ [t.id.toNat] }).task? t.id.toNat =
      some t := mapFind_mapPut_self _ _ _
  unfold State.enterFifo
  dsimp only
  rw [State.startKeying, hf]
  simp [State.larderOn, h]

theorem State.enterFifo_setQueue (s : State) {n : Nat} (q : Queue) {t : Task} (hq : t.queue = n) (hp : t.pure = false) :
    (s.setQueue n q).enterFifo t = (s.setTask t).setQueue n { q with fifo := q.fifo ++ [t.id.toNat] } := by
  rw [State.enterFifo_eq _ hp, hq, State.queue_setQueue_self]
  simp [State.setTask, State.setQueue]

theorem State.enterFifo_setQueue_graphs (s : State) {n : Nat} (q : Queue) (m : Map Graph) {t : Task} (hq : t.queue = n) (hp : t.pure = false) :
    ({ s.setQueue n q with graphs := m } : State).enterFifo t =
      (({ s with graphs := m } : State).setTask t).setQueue n { q with fifo := q.fifo ++ [t.id.toNat] } :=
  State.enterFifo_setQueue { s with graphs := m } q hq hp

theorem State.postEnding_frame (s : State) (n func : Nat) (id : Word) (notify : Bool) (e : Ending) :
    ∃ fns hostMem, s.postEnding n func id notify e = { s with fns := fns, hostMem := hostMem } := by
  unfold State.postEnding
  split
  · exact s.postEvent_frame _ _ _ _ _ _
  · exact ⟨s.fns, s.hostMem, rfl⟩

/-- SEQ of a class and index counts every event posted (R33). -/
theorem State.postEvent_seqs (s : State) (f cls index typ : Nat) (task : Word) (payload : BitVec 120) :
    mapGet ((s.postEvent f cls index typ task payload).fn f).seqs (cls * 4096 + index) 0 = mapGet (s.fn f).seqs (cls * 4096 + index) 0 + 1 := by
  unfold State.postEvent
  dsimp only
  split
  · simp [State.writeEntry, State.hostWrite, State.fn, State.setFn]
  · split <;> simp

/-! ## TASK -/

section
variable {s : State} {n : Nat} {bs : List Byte} {k : Task}

theorem State.startRecord_none (h : s.taskOfRecord n (s.taskId n (s.queue n).taken 0) none bs = none) : s.startRecord n bs = none := by
  unfold State.startRecord
  dsimp only
  rw [h]

theorem State.startRecord_waits (h : s.taskOfRecord n (s.taskId n (s.queue n).taken 0) none bs = some k)
    (hm : ¬ (s.queue n).mayStart ((bytesField bs 1 1).testBit 0) = true) : s.startRecord n bs = some s := by
  unfold State.startRecord
  dsimp only
  rw [h]
  dsimp only
  rw [if_neg hm]

/-- A TASK that starts: its launch is in flight and it enters the FIFO (R61). -/
theorem State.startRecord_starts (h : s.taskOfRecord n (s.taskId n (s.queue n).taken 0) none bs = some k)
    (hm : (s.queue n).mayStart ((bytesField bs 1 1).testBit 0) = true) (hno : s.notices = []) (hq : k.queue = n) (hp : k.pure = false) :
    s.startRecord n bs = some ((s.setTask { k with spawnDie := mapFind (s.queue n).spawnDie (s.queue n).ci.toNat }).setQueue n
      { consumed (s.queue n) with
        flight := (s.queue n).flight ++ [⟨k.id, (bytesField bs 1 1).testBit 0⟩], fifo := (s.queue n).fifo ++ [k.id.toNat] }) := by
  unfold State.startRecord
  dsimp only
  rw [h]
  dsimp only
  rw [if_pos hm, State.consume_eq hno, State.launch_setQueue]
  exact congrArg some (State.enterFifo_setQueue s _ (t := { k with spawnDie := _ }) hq hp)

end

section
variable {s : State} {n : Nat} {bs : List Byte} (h : waits s n bs)
include h

theorem taskRecord_halts (hk : bytesField bs 0 1 = 0) (hn : s.taskOfRecord n (s.taskId n (s.queue n).taken 0) none bs = none) :
    does (.task n) s (dispatches (haltedBad n)) :=
  does_dispatches rfl (readKind_none h _ hk (by decide) (State.startRecord_none hn)) (s.haltQueue_haltedBad n)

theorem taskRecord_waits (hk : bytesField bs 0 1 = 0) {k : Task} (hs : s.taskOfRecord n (s.taskId n (s.queue n).taken 0) none bs = some k)
    (hf : ¬ ((s.queue n).flight.length < 64 ∧ ((bytesField bs 1 1).testBit 0 = true ∨ (s.queue n).flight = []))) :
    does (.task n) s (dispatches same) :=
  does_dispatches rfl (readKind_some h _ hk (by decide) (State.startRecord_waits hs (fun hm => hf ((Queue.mayStart_iff _ _).mp hm)))) rfl

theorem taskRecord_starts (hk : bytesField bs 0 1 = 0) {k : Task} (hs : s.taskOfRecord n (s.taskId n (s.queue n).taken 0) none bs = some k)
    (hid : k.id = s.taskId n (s.queue n).taken 0) (hq : k.queue = n) (hp : k.pure = false)
    (hf : (s.queue n).flight.length < 64 ∧ ((bytesField bs 1 1).testBit 0 = true ∨ (s.queue n).flight = [])) :
    does (.task n) s (dispatches fun s u =>
      u.queue n = { consumed (s.queue n) with
        flight := (s.queue n).flight ++ [⟨s.taskId n (s.queue n).taken 0, (bytesField bs 1 1).testBit 0⟩]
        fifo := (s.queue n).fifo ++ [(s.taskId n (s.queue n).taken 0).toNat] } ∧
      (∀ m, m ≠ n → u.queue m = s.queue m) ∧
      u.task? (s.taskId n (s.queue n).taken 0).toNat = some { k with spawnDie := mapFind (s.queue n).spawnDie (s.queue n).ci.toNat } ∧
      (∀ j, j ≠ (s.taskId n (s.queue n).taken 0).toNat → u.task? j = s.task? j) ∧
      u = { s with queues := u.queues, tasks := u.tasks }) := by
  obtain ⟨-, -, -, -, -, -, hno⟩ := id h
  refine does_dispatches rfl (readKind_some h _ hk (by decide)
    (State.startRecord_starts hs ((Queue.mayStart_iff _ _).mpr hf) hno hq hp)) ?_
  rw [← hid]
  refine ⟨State.queue_setQueue_self _ n _, fun m hm => State.queue_setQueue_ne _ _ hm, ?_, fun j hj => ?_, rfl⟩
  · exact mapFind_mapPut_self _ _ _
  · exact mapFind_mapPut_ne _ _ hj

end

/-! ## GRAPH -/

section
variable {s : State} {n : Nat} {bs : List Byte} {g : Graph}

theorem State.startGraphRecord_none (h : s.graphOfRecord n bs = none) : s.startGraphRecord n bs = none := by
  unfold State.startGraphRecord
  rw [h]

theorem State.startGraphRecord_waits (h : s.graphOfRecord n bs = some g)
    (hm : ¬ ((s.queue n).mayStart ((bytesField bs 1 1).testBit 0) && s.countersFree g.nnodes) = true) :
    s.startGraphRecord n bs = some s := by
  unfold State.startGraphRecord
  rw [h]
  dsimp only
  rw [if_neg hm]

theorem State.startGraphRecord_starts (h : s.graphOfRecord n bs = some g)
    (hm : (s.queue n).mayStart ((bytesField bs 1 1).testBit 0) = true) (hc : s.countersFree g.nnodes = true) :
    s.startGraphRecord n bs = some (((s.consume n).launch n g.id ((bytesField bs 1 1).testBit 0)).startGraph g) := by
  unfold State.startGraphRecord
  rw [h]
  dsimp only
  rw [if_pos (Bool.and_eq_true_iff.mpr ⟨hm, hc⟩)]

/-- A graph that no node has entered yet. -/
def Graph.fresh (g : Graph) : Prop := g.live = [] ∧ g.entered = [] ∧ g.cause = none ∧ 1 ≤ g.nnodes

theorem State.graphOfRecord_fresh (h : s.graphOfRecord n bs = some g) : g.fresh := by
  unfold State.graphOfRecord at h
  dsimp only at h
  split at h
  · rename_i hok
    simp only [Bool.and_eq_true, decide_eq_true_eq] at hok
    cases h
    obtain ⟨⟨⟨⟨⟨-, hn⟩, -⟩, -⟩, -⟩, -⟩ := hok
    exact ⟨rfl, rfl, rfl, hn⟩
  · cases h

theorem State.graph?_setGraph (s : State) (g : Graph) : (s.setGraph g).graph? g.id.toNat = some g := mapFind_mapPut_self _ _ _

/-- The roots of a graph are the nodes that no other precedes. -/
theorem roots_nil {deps : List Nat} (h : ∀ d, d ∈ deps → d ≠ 0) :
    ((deps.zipIdx.filter fun p => p.1 == 0).map fun p => p.2) = [] := by
  rw [List.map_eq_nil_iff, List.filter_eq_nil_iff]
  intro p hp
  simpa using h p.1 (List.fst_mem_of_mem_zipIdx hp)

/-- A graph without roots is STUCK as it starts: it retires with its event (R61, R69). -/
theorem State.startGraph_stuck {deps : List Nat} (hd : s.graphDeps g = some deps) (h : ∀ d, d ∈ deps → d ≠ 0) (hf : g.fresh)
    (hg : s.graphs = []) :
    ∃ fns hostMem, s.startGraph g = { s.setQueue g.queue { s.queue g.queue with
      flight := (s.queue g.queue).flight.filter fun l => l.id != g.id } with fns := fns, hostMem := hostMem } := by
  obtain ⟨hl, he, hc, hn⟩ := hf
  have hs : s.startGraph g = (s.setGraph { g with counters := (deps.zipIdx.filter fun p => p.1 != 0).map fun p => (p.2, p.1) }).settleGraph
      g.id.toNat := by
    unfold State.startGraph
    rw [hd]
    dsimp only
    rw [roots_nil h, List.foldl_nil]
  generalize hg1 : ({ g with counters := (deps.zipIdx.filter fun p => p.1 != 0).map fun p => (p.2, p.1) } : Graph) = g1 at hs
  have ht : (s.setGraph g1).settleGraph g1.id.toNat = (s.setGraph g1).retireGraph g1 (.aborted 0x22 0 none) := by
    subst hg1
    unfold State.settleGraph
    rw [State.graph?_setGraph]
    simp only [hl, hc, he, List.isEmpty_nil, List.length_nil]
    rw [if_pos trivial, if_neg (by omega)]
  have hid : g1.id = g.id := by subst hg1; rfl
  have hq : g1.queue = g.queue := by subst hg1; rfl
  rw [hid] at ht
  rw [hs, ht, State.retireGraph]
  dsimp only
  obtain ⟨fns, hostMem, e⟩ := State.postEnding_frame _ g1.queue ((s.setGraph g1).queue g1.queue).func g1.id g1.notify (.aborted 0x22 0 none)
  rw [e]
  refine ⟨fns, hostMem, ?_⟩
  rw [hid, hq]
  simp [State.setGraph, State.setQueue, State.queue, hg, hid, mapPut, mapDel]

/-- A node that can be read enters the ready pool (R67). -/
theorem State.enterNode_some {gid i : Nat} {x : Task} (hg : s.graph? gid = some g) (hc : g.cause = none)
    (hx : s.nodeTask g i = some x) :
    s.enterNode gid i = (s.setGraph { g with entered := setPut g.entered i, live := setPut g.live i }).enterFifo x := by
  unfold State.enterNode
  rw [hg]
  dsimp only
  rw [hc, if_neg (by simp), hx]

/-- A graph of which node 0 alone is a root enters it (R61, R67). -/
theorem State.startGraph_root {x : Task} (hd : s.graphDeps g = some [0]) (hf : g.fresh) (hg : s.graphs = [])
    (hx : (s.setGraph { g with counters := [] }).nodeTask { g with counters := [] } 0 = some x) (hp : x.pure = false) :
    s.startGraph g = ({ s with graphs := [(g.id.toNat, { g with counters := [], entered := [0], live := [0] })] } : State).enterFifo x := by
  obtain ⟨hl, he, hc, -⟩ := hf
  have hr : ([0].zipIdx.filter fun p => p.1 == 0).map (fun p : Nat × Nat => p.2) = [0] := rfl
  have hn : ([0].zipIdx.filter fun p => p.1 != 0).map (fun p : Nat × Nat => (p.2, p.1)) = [] := rfl
  have hgr : (s.setGraph { g with counters := [] }).graph? g.id.toNat = some { g with counters := [] } := State.graph?_setGraph s _
  have hone : ((s.setGraph { g with counters := [] }).setGraph { g with counters := [], entered := [0], live := [0] }) =
      { s with graphs := [(g.id.toNat, { g with counters := [], entered := [0], live := [0] })] } := by
    simp [State.setGraph, hg, mapPut]
  have henter : (s.setGraph { g with counters := [] }).enterNode g.id.toNat 0 =
      ({ s with graphs := [(g.id.toNat, { g with counters := [], entered := [0], live := [0] })] } : State).enterFifo x := by
    rw [State.enterNode_some hgr hc hx]
    change ((s.setGraph { g with counters := [] }).setGraph
      { g with counters := [], entered := setPut g.entered 0, live := setPut g.live 0 }).enterFifo x = _
    rw [show setPut g.entered 0 = [0] by rw [he]; rfl, show setPut g.live 0 = [0] by rw [hl]; rfl, hone]
  unfold State.startGraph
  rw [hd]
  dsimp only
  rw [hr, hn, List.foldl_cons, List.foldl_nil, henter, State.enterFifo_eq _ hp]
  unfold State.settleGraph
  rw [show State.graph? _ g.id.toNat = some { g with counters := [], entered := [0], live := [0] } by
    simp [State.graph?, State.setQueue, State.setTask, mapFind]]
  rfl

end

section
variable {s : State} {n : Nat} {bs : List Byte} {g : Graph} (h : waits s n bs) (hk : bytesField bs 0 1 = 1)
include h hk

theorem graphRecord_halts (hn : s.graphOfRecord n bs = none) : does (.graph n) s (dispatches (haltedBad n)) :=
  does_dispatches rfl (readKind_none h _ hk (by decide) (State.startGraphRecord_none hn)) (s.haltQueue_haltedBad n)

theorem graphRecord_waits (hs : s.graphOfRecord n bs = some g)
    (hf : ¬ ((s.queue n).flight.length < 64 ∧ ((bytesField bs 1 1).testBit 0 = true ∨ (s.queue n).flight = []))) :
    does (.graph n) s (dispatches same) :=
  does_dispatches rfl (readKind_some h _ hk (by decide) (State.startGraphRecord_waits hs
    (fun hm => hf ((Queue.mayStart_iff _ _).mp (Bool.and_eq_true_iff.mp hm).1)))) rfl

variable (hs : s.graphOfRecord n bs = some g) (hid : g.id = s.taskId n (s.queue n).taken 0) (hq : g.queue = n)
  (hf : (s.queue n).flight.length < 64 ∧ ((bytesField bs 1 1).testBit 0 = true ∨ (s.queue n).flight = []))
  (hc : s.countersFree g.nnodes = true) (hg : s.graphs = [])
include hs hid hq hf hc hg

theorem graphRecord_stuck {deps : List Nat}
    (hd : ((s.consume n).launch n (s.taskId n (s.queue n).taken 0) ((bytesField bs 1 1).testBit 0)).graphDeps g = some deps)
    (hne : ∀ d, d ∈ deps → d ≠ 0) :
    does (.graph n) s (dispatches fun s u => u.graphs = [] ∧
      u.queue n = { consumed (s.queue n) with flight := (s.queue n).flight.filter fun l => l.id != s.taskId n (s.queue n).taken 0 } ∧
      u = { s with queues := u.queues, fns := u.fns, hostMem := u.hostMem }) := by
  obtain ⟨-, -, -, -, -, -, hno⟩ := id h
  refine does_dispatches rfl (readKind_some h _ hk (by decide)
    (State.startGraphRecord_starts hs ((Queue.mayStart_iff _ _).mpr hf) hc)) ?_
  rw [← hid] at hd ⊢
  rw [State.consume_eq hno, State.launch_setQueue] at hd ⊢
  obtain ⟨fns, hostMem, e⟩ := State.startGraph_stuck hd hne (State.graphOfRecord_fresh hs) hg
  rw [e, hq, State.queue_setQueue_self, State.setQueue_setQueue]
  refine ⟨hg, ?_, rfl⟩
  refine (State.queue_setQueue_self s n _).trans ?_
  simp [consumed]

omit hq in
theorem graphRecord_root {x : Task}
    (hd : ((s.consume n).launch n (s.taskId n (s.queue n).taken 0) ((bytesField bs 1 1).testBit 0)).graphDeps g = some [0])
    (hx : (((s.consume n).launch n (s.taskId n (s.queue n).taken 0) ((bytesField bs 1 1).testBit 0)).setGraph
      { g with counters := [] }).nodeTask { g with counters := [] } 0 = some x)
    (hxi : x.id = s.taskId n (s.queue n).taken 0) (hxq : x.queue = n) (hp : x.pure = false) :
    does (.graph n) s (dispatches fun _ u => u.task? (s.taskId n (s.queue n).taken 0).toNat = some x ∧
      u.graphs = [((s.taskId n (s.queue n).taken 0).toNat, { g with counters := [], entered := [0], live := [0] })] ∧
      u.queue n = { consumed (s.queue n) with
        flight := (s.queue n).flight ++ [⟨s.taskId n (s.queue n).taken 0, (bytesField bs 1 1).testBit 0⟩]
        fifo := (s.queue n).fifo ++ [(s.taskId n (s.queue n).taken 0).toNat] }) := by
  obtain ⟨-, -, -, -, -, -, hno⟩ := id h
  refine does_dispatches rfl (readKind_some h _ hk (by decide)
    (State.startGraphRecord_starts hs ((Queue.mayStart_iff _ _).mpr hf) hc)) ?_
  have e : ((s.consume n).launch n (s.taskId n (s.queue n).taken 0) ((bytesField bs 1 1).testBit 0)).startGraph g =
      (({ s with graphs := [(g.id.toNat, { g with counters := [], entered := [0], live := [0] })] } : State).setTask x).setQueue n
        { consumed (s.queue n) with
          flight := (s.queue n).flight ++ [⟨s.taskId n (s.queue n).taken 0, (bytesField bs 1 1).testBit 0⟩]
          fifo := (s.queue n).fifo ++ [x.id.toNat] } := by
    rw [State.startGraph_root hd (State.graphOfRecord_fresh hs) (by rw [State.consume_eq hno, State.launch_setQueue]; exact hg) hx hp,
      State.consume_eq hno, State.launch_setQueue]
    exact State.enterFifo_setQueue_graphs s _ _ hxq hp
  rw [hid, e, hid, hxi]
  refine ⟨?_, ?_, State.queue_setQueue_self _ n _⟩
  · rw [← hxi]
    exact mapFind_mapPut_self s.tasks x.id.toNat x
  · rfl

end

/-! ## QFENCE and SIGNAL -/

theorem zeroBytes_iff (bs : List Byte) (off n : Nat) : zeroBytes bs off n = true ↔ bytesField bs off n = 0 := by
  simp [zeroBytes]

section
variable {s : State} {n : Nat} {bs : List Byte}

theorem State.fenceRecord_none (hf : ¬ ((bytesField bs 1 1 = 0 ∨ bytesField bs 1 1 = 2) ∧ bytesField bs 2 62 = 0)) :
    s.fenceRecord n bs = none := by
  unfold State.fenceRecord
  dsimp only
  rw [if_neg (by rw [zeroBytes_iff]; exact hf)]

theorem State.fenceRecord_form (hf : (bytesField bs 1 1 = 0 ∨ bytesField bs 1 1 = 2) ∧ bytesField bs 2 62 = 0) :
    s.fenceRecord n bs = some (if (s.queue n).mayStart false then (s.consume n).postEnding n (s.queue n).func
      (s.taskId n (s.queue n).taken 0) (bytesField bs 1 1 == 2) .done else s) := by
  unfold State.fenceRecord
  dsimp only
  rw [if_pos (by rw [zeroBytes_iff]; exact hf)]
  split <;> rfl

/-- The form of a SIGNAL record (R63). -/
def signalForm (s : State) (n : Nat) (bs : List Byte) : Prop :=
  (bytesField bs 1 1 = 0 ∨ bytesField bs 1 1 = 2) ∧ bytesField bs 2 6 = 0 ∧ bytesField bs 24 40 = 0 ∧ bytesField bs 8 8 % 8 = 0 ∧
    (bytesField bs 8 8 = 0 ∨ s.reachable (s.queue n).tenant (bytesField bs 8 8) 8 false true = true)

theorem State.signalRecord_none (hf : ¬ signalForm s n bs) : s.signalRecord n bs = none := by
  unfold State.signalRecord
  dsimp only
  rw [if_neg (by rw [zeroBytes_iff, zeroBytes_iff]; exact hf)]

theorem State.signalRecord_waits (hf : signalForm s n bs) (hm : ¬ (s.queue n).mayStart false = true) : s.signalRecord n bs = some s := by
  unfold State.signalRecord
  dsimp only
  rw [if_pos (by rw [zeroBytes_iff, zeroBytes_iff]; exact hf), if_neg hm]

/-- The store of a SIGNAL that starts (R63). -/
def State.signalStore (s : State) (n : Nat) (bs : List Byte) : State :=
  match (if bytesField bs 8 8 = 0 then Except.ok s else s.gWrite (s.queue n).tenant (bytesField bs 8 8) ((bs.drop 16).take 8)) with
  | .ok t => t
  | .error _ => s

theorem State.signalRecord_starts (hf : signalForm s n bs) (hm : (s.queue n).mayStart false = true) (hz : bytesField bs 1 1 = 0) :
    s.signalRecord n bs = some ((s.signalStore n bs).consume n) := by
  unfold State.signalRecord
  dsimp only
  rw [if_pos (by rw [zeroBytes_iff, zeroBytes_iff]; exact hf), if_pos hm, if_neg (by omega)]
  rfl

theorem State.signalStore_nowhere (ha : bytesField bs 8 8 = 0) : s.signalStore n bs = s := by
  rw [State.signalStore, if_pos ha]

theorem State.signalStore_ok {v : State} (ha : bytesField bs 8 8 ≠ 0)
    (hv : s.gWrite (s.queue n).tenant (bytesField bs 8 8) ((bs.drop 16).take 8) = .ok v) : s.signalStore n bs = v := by
  rw [State.signalStore, if_neg ha, hv]

end

section
variable {s : State} {n : Nat} {bs : List Byte} (h : waits s n bs)
include h

theorem fenceRecord_halts (hk : bytesField bs 0 1 = 2)
    (hf : ¬ ((bytesField bs 1 1 = 0 ∨ bytesField bs 1 1 = 2) ∧ bytesField bs 2 62 = 0)) :
    does (.qfence n) s (dispatches (haltedBad n)) :=
  does_dispatches rfl (readKind_none h _ hk (by decide) (State.fenceRecord_none hf)) (s.haltQueue_haltedBad n)

theorem fenceRecord_waits (hk : bytesField bs 0 1 = 2)
    (hf : (bytesField bs 1 1 = 0 ∨ bytesField bs 1 1 = 2) ∧ bytesField bs 2 62 = 0) (hb : (s.queue n).flight ≠ []) :
    does (.qfence n) s (dispatches same) :=
  does_dispatches rfl (readKind_some h _ hk (by decide) (State.fenceRecord_form hf)) (if_neg (Queue.mayStart_behind hb))

/-- A QFENCE with nothing before it retires as it starts (R63). -/
theorem fenceRecord_retires (hk : bytesField bs 0 1 = 2)
    (hf : (bytesField bs 1 1 = 0 ∨ bytesField bs 1 1 = 2) ∧ bytesField bs 2 62 = 0) (hb : (s.queue n).flight = [])
    {p : State → State → Prop} (hp : p s ((s.setQueue n (consumed (s.queue n))).postEnding n (s.queue n).func
      (s.taskId n (s.queue n).taken 0) (bytesField bs 1 1 == 2) .done)) :
    does (.qfence n) s (dispatches p) := by
  obtain ⟨-, -, -, -, -, -, hno⟩ := id h
  refine does_dispatches rfl (readKind_some h _ hk (by decide) (State.fenceRecord_form hf)) ?_
  rw [if_pos (Queue.mayStart_alone hb), State.consume_eq hno]
  exact hp

theorem fenceRecord_quiet (hk : bytesField bs 0 1 = 2) (hf : (bytesField bs 1 1 = 0 ∨ bytesField bs 1 1 = 2) ∧ bytesField bs 2 62 = 0)
    (hb : (s.queue n).flight = []) (hz : bytesField bs 1 1 = 0) :
    does (.qfence n) s (dispatches (onlyQueue n (consumed (s.queue n)))) := by
  refine fenceRecord_retires h hk hf hb ?_
  rw [State.postEnding, if_neg (by simp [Ending.posts, hz])]
  exact onlyQueue_setQueue s n _

theorem fenceRecord_notifies (hk : bytesField bs 0 1 = 2)
    (hf : (bytesField bs 1 1 = 0 ∨ bytesField bs 1 1 = 2) ∧ bytesField bs 2 62 = 0) (hb : (s.queue n).flight = [])
    (hz : bytesField bs 1 1 = 2) :
    does (.qfence n) s (dispatches fun s u => u.queue n = consumed (s.queue n) ∧
      mapGet (u.fn (s.queue n).func).seqs n 0 = mapGet (s.fn (s.queue n).func).seqs n 0 + 1 ∧
      u = { s with queues := u.queues, fns := u.fns, hostMem := u.hostMem }) := by
  refine fenceRecord_retires h hk hf hb ?_
  rw [State.postEnding, if_pos (by simp [Ending.posts, hz])]
  have hseq := State.postEvent_seqs (s.setQueue n (consumed (s.queue n))) (s.queue n).func 0 n Ending.done.typ
    (s.taskId n (s.queue n).taken 0) Ending.done.payload
  obtain ⟨fns, hostMem, e⟩ := (s.setQueue n (consumed (s.queue n))).postEvent_frame (s.queue n).func 0 n Ending.done.typ
    (s.taskId n (s.queue n).taken 0) Ending.done.payload
  rw [Nat.zero_mul, Nat.zero_add] at hseq
  refine ⟨?_, hseq, ?_⟩
  · rw [e]
    exact State.queue_setQueue_self s n _
  · rw [e]
    rfl

theorem signalRecord_halts (hk : bytesField bs 0 1 = 3) (hf : ¬ signalForm s n bs) : does (.signal n) s (dispatches (haltedBad n)) :=
  does_dispatches rfl (readKind_none h _ hk (by decide) (State.signalRecord_none hf)) (s.haltQueue_haltedBad n)

theorem signalRecord_waits (hk : bytesField bs 0 1 = 3) (hf : signalForm s n bs) (hb : (s.queue n).flight ≠ []) :
    does (.signal n) s (dispatches same) :=
  does_dispatches rfl (readKind_some h _ hk (by decide) (State.signalRecord_waits hf (Queue.mayStart_behind hb))) rfl

theorem signalRecord_silent (hk : bytesField bs 0 1 = 3) (hf : signalForm s n bs) (hb : (s.queue n).flight = [])
    (ha : bytesField bs 8 8 = 0) (hz : bytesField bs 1 1 = 0) :
    does (.signal n) s (dispatches (onlyQueue n (consumed (s.queue n)))) := by
  obtain ⟨-, -, -, -, -, -, hno⟩ := id h
  refine does_dispatches rfl (readKind_some h _ hk (by decide) (State.signalRecord_starts hf (Queue.mayStart_alone hb) hz)) ?_
  rw [State.signalStore_nowhere ha, State.consume_eq hno]
  exact onlyQueue_setQueue s n _

/-- A SIGNAL stores its value before it retires (R63). -/
theorem signalRecord_stores (hk : bytesField bs 0 1 = 3) (hf : signalForm s n bs) (hb : (s.queue n).flight = [])
    (ha : bytesField bs 8 8 ≠ 0) (hz : bytesField bs 1 1 = 0) {v : State}
    (hv : s.gWrite (s.queue n).tenant (bytesField bs 8 8) ((bs.drop 16).take 8) = .ok v) :
    does (.signal n) s (dispatches fun _ u => u.hbm = v.hbm ∧ u.queue n = consumed (s.queue n)) := by
  obtain ⟨-, -, -, -, -, -, hno⟩ := id h
  obtain ⟨e, -⟩ := State.written_gWrite hv
  refine does_dispatches rfl (readKind_some h _ hk (by decide) (State.signalRecord_starts hf (Queue.mayStart_alone hb) hz)) ?_
  rw [State.signalStore_ok ha hv, State.consume_eq (show v.notices = [] by rw [e]; exact hno)]
  refine ⟨rfl, (State.queue_setQueue_self v n _).trans ?_⟩
  rw [show v.queue n = s.queue n by rw [e]; rfl]

end

/-! ## The records together -/

theorem malformedRecord_halts (n : Nat) (bs : List Byte) {s : State} (h : waits s n bs) (hk : 3 < bytesField bs 0 1) :
    does (.task n) s (dispatches (haltedBad n)) ∧ does (.graph n) s (dispatches (haltedBad n)) ∧
      does (.qfence n) s (dispatches (haltedBad n)) ∧ does (.signal n) s (dispatches (haltedBad n)) :=
  ⟨does_dispatches rfl (readKind_malformed h _ _ hk) (s.haltQueue_haltedBad n),
    does_dispatches rfl (readKind_malformed h _ _ hk) (s.haltQueue_haltedBad n),
    does_dispatches rfl (readKind_malformed h _ _ hk) (s.haltQueue_haltedBad n),
    does_dispatches rfl (readKind_malformed h _ _ hk) (s.haltQueue_haltedBad n)⟩

end Sys2Proof.Machine

/-- Settles O50: what a record does is read off the head of its queue, by kind, and each kind is its own lemma above. -/
theorem launchRecords : Obligations.LaunchRecords := by
  intro n bs k g s h
  refine ⟨fun hk => ?_, malformedRecord_halts n bs h, fun hk => ⟨taskRecord_halts h hk, fun hs hid hq hp =>
    ⟨taskRecord_waits h hk hs, taskRecord_starts h hk hs hid hq hp⟩⟩, fun hk => ⟨graphRecord_halts h hk, graphRecord_waits h hk,
      fun hs hid hq hf hc hg => ⟨fun deps => graphRecord_stuck h hk hs hid hq hf hc hg, fun x => graphRecord_root h hk hs hid hf hc hg⟩⟩,
    fun hk => ⟨fenceRecord_halts h hk, fenceRecord_waits h hk, fenceRecord_quiet h hk, fenceRecord_notifies h hk⟩,
    fun hk => ⟨signalRecord_halts h hk, signalRecord_waits h hk, signalRecord_silent h hk, fun v hf hb ha hz =>
      signalRecord_stores h hk hf hb ha hz⟩⟩
  exact does_dispatches rfl (readKind_other h _ (by omega) (by omega)) rfl

end

section
/-! What performing writes, posting notices and sending messages leave unchanged (R78, R167, R176). -/

open Sys2Proof Sys2Proof.Machine Sys2Proof.Claims

namespace Sys2Proof.Machine

/-! ## Cores whose stores alone differ -/

/-- A core with other bytes in its stores. -/
def Core.stored (q r : Core) : Prop := r = { q with w := r.w, a := r.a, s := r.s }

theorem Core.stored_refl (q : Core) : q.stored q := rfl

theorem Core.stored_trans {q r x : Core} (h : q.stored r) (k : r.stored x) : q.stored x := by
  unfold Core.stored at *
  rw [k, h]

theorem Core.stored_setStore (q : Core) (st : Nat) (m : Bytes) : q.stored (q.setStore st m) := by
  unfold Core.setStore
  split <;> rfl

/-- Cores that differ in their stores alone still do after one change that reads no store. -/
theorem Core.stored_writes {q r : Core} (h : q.stored r) (f : List PendingWrite → List PendingWrite) :
    Core.stored { q with writes := f q.writes } { r with writes := f r.writes } := by
  unfold Core.stored at *
  rw [h]

/-! ## The relation -/

/-- What the writes and the notices of the part may change besides the instruction or event that causes them: bytes of every memory
and store, their poison, watch bits, what the Larder drops for them, the event rings, PI of queue 0, and what leaves for other packages. -/
def background (s t : State) : Prop :=
  t = { s with
    hbm := t.hbm, hbmGen := t.hbmGen, hostMem := t.hostMem, poison := t.poison, ports := t.ports, podOut := t.podOut, pOut := t.pOut
    pTag := t.pTag, fns := t.fns, queues := t.queues, evlost := t.evlost, notices := t.notices, tasks := t.tasks, watch := t.watch
    digests := t.digests, digestCache := t.digestCache, results := t.results, coreTab := t.coreTab } ∧
  (∃ f, t.tasks = voided f s.tasks) ∧ (∀ d, d ∈ t.digests → d ∈ s.digests) ∧ (∀ u, u ∈ t.poison → u ∈ s.poison) ∧
  (∀ n, t.queue n = { s.queue n with pi := (t.queue n).pi }) ∧ ∀ c, (s.core c).stored (t.core c)

theorem background_refl (s : State) : background s s :=
  ⟨rfl, ⟨_, (voided_nothing _).symm⟩, fun _ h => h, fun _ h => h, fun _ => rfl, fun c => (s.core c).stored_refl⟩

theorem background_trans {s t u : State} (h : background s t) (k : background t u) : background s u := by
  obtain ⟨e, ⟨f, hf⟩, hd, hp, hq, hc⟩ := h
  obtain ⟨e', ⟨g, hg⟩, hd', hp', hq', hc'⟩ := k
  refine ⟨by rw [e', e], ?_, fun d h => hd d (hd' d h), fun v h => hp v (hp' v h), fun n => ?_, fun c => Core.stored_trans (hc c) (hc' c)⟩
  · rw [hg, hf]
    exact voided_voided f g _
  · rw [hq', hq]

theorem background_foldl {α : Type} {g : State → α → State} (hg : ∀ s x, background s (g s x)) (l : List α) (s : State) :
    background s (l.foldl g s) := by
  induction l generalizing s with
  | nil => exact background_refl s
  | cons x l ih => exact background_trans (hg s x) (ih (g s x))

theorem background_of_written {s t : State} (h : written s t) : background s t := by
  obtain ⟨e, hp, hd, hf⟩ := h
  have hq : t.queues = s.queues := by rw [e]
  have hc : t.coreTab = s.coreTab := by rw [e]
  refine ⟨by rw [e], hf, hd, hp, fun n => ?_, fun c => ?_⟩
  · rw [show t.queue n = s.queue n by unfold State.queue; rw [hq]]
  · rw [show t.core c = s.core c by unfold State.core; rw [hc]]
    exact Core.stored_refl _

section
variable (s : State)

theorem State.background_hostMem (m : Bytes) : background s { s with hostMem := m } :=
  ⟨rfl, ⟨_, (voided_nothing _).symm⟩, fun _ h => h, fun _ h => h, fun _ => rfl, fun c => (s.core c).stored_refl⟩

theorem State.background_events (f : Map Fn) (m : Bytes) : background s { s with fns := f, hostMem := m } :=
  ⟨rfl, ⟨_, (voided_nothing _).symm⟩, fun _ h => h, fun _ h => h, fun _ => rfl, fun c => (s.core c).stored_refl⟩

theorem State.background_notices (l : List Notice) : background s { s with notices := l } :=
  ⟨rfl, ⟨_, (voided_nothing _).symm⟩, fun _ h => h, fun _ h => h, fun _ => rfl, fun c => (s.core c).stored_refl⟩

theorem State.background_postEvent (f cls index typ : Nat) (task : Word) (payload : BitVec 120) :
    background s (s.postEvent f cls index typ task payload) := by
  obtain ⟨fns, hostMem, e⟩ := s.postEvent_frame f cls index typ task payload
  rw [e]
  exact s.background_events fns hostMem

theorem State.background_loseNotice : background s s.loseNotice := by
  refine background_trans (t := { s with evlost := if s.evlost = 0xFFFFFFFF then s.evlost else s.evlost + 1 }) ?_
    (State.background_postEvent _ _ _ _ _ _ _)
  exact ⟨rfl, ⟨_, (voided_nothing _).symm⟩, fun _ h => h, fun _ h => h, fun _ => rfl, fun c => (s.core c).stored_refl⟩

theorem State.background_writeSlot {s u : State} {n : Nat} {i : BitVec 32} {bs : List Byte} (h : s.writeSlot n i bs = some u) :
    background s u := background_trans (s.background_hostMem _) (background_of_written (State.writeSlot_written h))

theorem State.background_producer (n : Nat) (i : BitVec 32) : background s (s.setQueue n { s.queue n with pi := i }) := by
  refine ⟨rfl, ⟨_, (voided_nothing _).symm⟩, fun _ h => h, fun _ h => h, fun m => ?_, fun c => (s.core c).stored_refl⟩
  by_cases h : m = n
  · subst h
    rw [State.queue_setQueue_self]
  · rw [State.queue_setQueue_ne s _ h]

theorem State.background_deliverNotice (x : Notice) : background s (s.deliverNotice x) := by
  unfold State.deliverNotice
  dsimp only
  split
  · exact s.background_loseNotice
  · split
    · exact s.background_loseNotice
    · split
      · exact s.background_loseNotice
      · rename_i hw
        split
        · exact s.background_loseNotice
        · split
          · exact s.background_loseNotice
          · rename_i hs
            exact background_trans (background_of_written (State.written_gWrite hw)) (background_trans (State.background_writeSlot hs)
              (background_trans (State.background_producer _ _ _) (State.background_postEvent _ _ _ _ _ _ _)))

theorem State.background_postNotice (x : Notice) : background s (s.postNotice x) := by
  unfold State.postNotice
  dsimp only
  split
  · exact s.background_deliverNotice x
  · split
    · exact s.background_notices _
    · exact s.background_loseNotice

theorem State.background_reportPoison (loc bytes src : Nat) (reader : Word) : background s (s.reportPoison loc bytes src reader) :=
  s.background_postNotice _

theorem State.background_reportUnits (us : List ErrorUnit) (src : Nat) (reader : Word) : background s (s.reportUnits us src reader) :=
  background_foldl (fun s _ => s.background_reportPoison _ _ _ _) us s

theorem State.background_setPort (p : Nat) (x : Port) : background s (s.setPort p x) :=
  ⟨rfl, ⟨_, (voided_nothing _).symm⟩, fun _ h => h, fun _ h => h, fun _ => rfl, fun c => (s.core c).stored_refl⟩

theorem State.background_sendTo (vc dest : Nat) (words : List Nat) : background s (s.sendTo vc dest words) := by
  unfold State.sendTo
  split
  · exact s.background_setPort _ _
  · exact background_refl s

theorem State.background_sendPod (dest : Nat) (kind : PodKind) (task : Word) (attempt : Nat) :
    background s (s.sendPod dest kind task attempt) :=
  background_trans (t := { s with podOut := s.podOut ++ [⟨dest, kind, task, attempt⟩] })
    ⟨rfl, ⟨_, (voided_nothing _).symm⟩, fun _ h => h, fun _ h => h, fun _ => rfl, fun c => (s.core c).stored_refl⟩
    (State.background_sendTo _ _ _ _)

theorem State.background_request (peer : Nat) (write : Bool) (words : List Nat) : background s (s.request peer write words) :=
  background_trans (t := { s with pOut := s.pOut ++ [(s.pTag, peer, write)], pTag := s.pTag + 1 })
    ⟨rfl, ⟨_, (voided_nothing _).symm⟩, fun _ h => h, fun _ h => h, fun _ => rfl, fun c => (s.core c).stored_refl⟩
    (State.background_sendTo _ _ _ _)

theorem State.background_setCore {c : Nat} {q : Core} (h : (s.core c).stored q) : background s (s.setCore c q) := by
  refine ⟨rfl, ⟨_, (voided_nothing _).symm⟩, fun _ h => h, fun _ h => h, fun _ => rfl, fun d => ?_⟩
  by_cases hd : d = c
  · subst hd
    rw [State.core_setCore_self]
    exact h
  · rw [State.core_setCore_ne s q hd]
    exact Core.stored_refl _

/-- Poison of units that are no longer is taken away. -/
theorem State.background_cured (f : ErrorUnit → Bool) : background s { s with poison := s.poison.filter f } :=
  ⟨rfl, ⟨_, (voided_nothing _).symm⟩, fun _ h => h, fun _ h => (List.mem_filter.mp h).1, fun _ => rfl, fun c => (s.core c).stored_refl⟩

theorem State.background_writeAt (w : WriteTarget) (bs : List Byte) : background s (s.writeAt w bs) := by
  unfold State.writeAt
  cases w with
  | hbm pa gen => exact background_of_written (s.written_hbmWrite gen pa bs)
  | store c st off =>
    have hs := s.background_setCore (c := c) ((s.core c).stored_setStore st (putBytes ((s.core c).store st) off bs))
    dsimp only
    split
    · exact hs
    · exact background_trans hs (State.background_cured _ _)
  | host f iova => exact s.background_hostMem _
  | peer p va =>
    dsimp only
    split
    · exact s.background_request _ _ _
    · exact s.background_reportPoison _ _ _ _

/-- A write performed at its home port (R167). -/
theorem State.background_performOne (reader : Word) (w : PendingWrite) : background s (s.performOne reader w) := by
  unfold State.performOne
  split
  · exact s.background_writeAt _ _
  · exact background_trans (s.background_reportUnits _ _ _) (State.background_writeAt _ _ _)

end

/-! ## Pending writes performed -/

/-- What the parts of two states related so keep when the same cores lose the same pending writes. -/
theorem background_setCore_writes {s t : State} (h : background s t) (c : Nat) (f : List PendingWrite → List PendingWrite) :
    background (s.setCore c { s.core c with writes := f (s.core c).writes })
      (t.setCore c { t.core c with writes := f (t.core c).writes }) := by
  obtain ⟨e, hf, hd, hp, hq, hc⟩ := h
  refine ⟨?_, hf, hd, hp, hq, fun d => ?_⟩
  · have he := congrArg (State.setCore · c { t.core c with writes := f (t.core c).writes }) e
    exact he
  · by_cases hdc : d = c
    · subst hdc
      rw [State.core_setCore_self, State.core_setCore_self]
      exact Core.stored_writes (hc d) f
    · rw [State.core_setCore_ne _ _ hdc, State.core_setCore_ne _ _ hdc]
      exact hc d

/-- A core that is put back as it stood. -/
theorem background_setCore_same (s : State) (c : Nat) : background (s.setCore c (s.core c)) s := by
  refine ⟨rfl, ⟨_, (voided_nothing _).symm⟩, fun _ h => h, fun _ h => h, fun _ => rfl, fun d => ?_⟩
  by_cases hd : d = c
  · subst hd
    rw [State.core_setCore_self]
    exact Core.stored_refl _
  · rw [State.core_setCore_ne _ _ hd]
    exact Core.stored_refl _

/-- The oldest pending write of a core performed (R167). -/
theorem State.background_performNth (s : State) (c : Nat) :
    background (s.setCore c { s.core c with writes := (s.core c).writes.drop 1 }) (s.performNth c 0) := by
  unfold State.performNth
  split
  · rename_i h
    have hnil : (s.core c).writes = [] := by simpa using h
    rw [hnil]
    refine (congrArg (background · s) (congrArg (s.setCore c) ?_)).mpr (background_setCore_same s c)
    rw [List.drop_nil, ← hnil]
  · rw [List.eraseIdx_zero, ← List.drop_one]
    exact State.background_performOne _ _ _

/-- The first `n` pending writes of a core performed: they leave its list, and all else is background (R167). -/
theorem State.background_drainFrom (s : State) (c n : Nat) :
    background (s.setCore c { s.core c with writes := (s.core c).writes.drop n }) (s.drainFrom c n) := by
  induction n generalizing s with
  | zero => exact background_setCore_same s c
  | succ n ih =>
    have h := background_setCore_writes (s.background_performNth c) c (·.drop n)
    rw [State.core_setCore_self, State.setCore_setCore, List.drop_drop, Nat.add_comm 1 n] at h
    exact background_trans h (ih _)

/-- Every pending write of a core performed (R167). -/
theorem State.background_drainCore (s : State) (c : Nat) :
    background (s.setCore c { s.core c with writes := [] }) (s.drainCore c) := by
  have h := s.background_drainFrom c (s.core c).writes.length
  rw [List.drop_length] at h
  exact h

end Sys2Proof.Machine
end

section
/-! A task leaves its cores and the tables of the scheduler (R61, R77). -/

open Sys2Proof Sys2Proof.Machine Sys2Proof.Claims

namespace Sys2Proof.Machine

/-! ## Cores emptied -/

/-- What the cores of the part may do to the rest of it, besides what the instruction or event itself says: as in the background, and with
anything of the cores, and of the records and parked accesses that wait on their behalf. -/
def aside (s t : State) : Prop :=
  t = { s with
    hbm := t.hbm, hbmGen := t.hbmGen, hostMem := t.hostMem, poison := t.poison, ports := t.ports, podOut := t.podOut, pOut := t.pOut
    pTag := t.pTag, fns := t.fns, queues := t.queues, evlost := t.evlost, notices := t.notices, tasks := t.tasks, watch := t.watch
    digests := t.digests, digestCache := t.digestCache, results := t.results, coreTab := t.coreTab, dies := t.dies, parks := t.parks
    sdWait := t.sdWait } ∧
  (∃ f, t.tasks = voided f s.tasks) ∧ (∀ d, d ∈ t.digests → d ∈ s.digests) ∧ (∀ u, u ∈ t.poison → u ∈ s.poison) ∧
  ∀ n, t.queue n = { s.queue n with pi := (t.queue n).pi }

theorem aside_refl (s : State) : aside s s := ⟨rfl, ⟨_, (voided_nothing _).symm⟩, fun _ h => h, fun _ h => h, fun _ => rfl⟩

theorem aside_trans {s t u : State} (h : aside s t) (k : aside t u) : aside s u := by
  obtain ⟨e, ⟨f, hf⟩, hd, hp, hq⟩ := h
  obtain ⟨e', ⟨g, hg⟩, hd', hp', hq'⟩ := k
  refine ⟨by rw [e', e], ?_, fun d h => hd d (hd' d h), fun v h => hp v (hp' v h), fun n => ?_⟩
  · rw [hg, hf]
    exact voided_voided f g _
  · rw [hq', hq]

theorem aside_foldl {α : Type} {g : State → α → State} (hg : ∀ s x, aside s (g s x)) (l : List α) (s : State) :
    aside s (l.foldl g s) := by
  induction l generalizing s with
  | nil => exact aside_refl s
  | cons x l ih => exact aside_trans (hg s x) (ih (g s x))

theorem aside_of_background {s t : State} (h : background s t) : aside s t := by
  obtain ⟨e, hf, hd, hp, hq, -⟩ := h
  exact ⟨by rw [e], hf, hd, hp, hq⟩

theorem State.aside_setCore (s : State) (c : Nat) (q : Core) : aside s (s.setCore c q) :=
  ⟨rfl, ⟨_, (voided_nothing _).symm⟩, fun _ h => h, fun _ h => h, fun _ => rfl⟩

theorem State.aside_drainCore (s : State) (c : Nat) : aside s (s.drainCore c) :=
  aside_trans (s.aside_setCore c _) (aside_of_background (s.background_drainCore c))

theorem State.aside_stopCores (s : State) (cs : List Nat) : aside s (s.stopCores cs) := by
  obtain ⟨coreTab, dies, parks, e⟩ := s.stopCores_frame cs
  rw [e]
  exact ⟨rfl, ⟨_, (voided_nothing _).symm⟩, fun _ h => h, fun _ h => h, fun _ => rfl⟩

theorem State.aside_vacateCores (s : State) (cs : List Nat) : aside s (s.vacateCores cs) := by
  refine aside_trans (aside_trans (aside_foldl State.aside_drainCore cs s) (State.aside_stopCores _ cs)) ?_
  refine aside_trans (t := { ((cs.foldl State.drainCore s).stopCores cs) with
    sdWait := ((cs.foldl State.drainCore s).stopCores cs).sdWait.filter fun w => !(cs.contains w.1) }) ?_
    (aside_foldl (fun s c => s.aside_setCore c _) cs _)
  exact ⟨rfl, ⟨_, (voided_nothing _).symm⟩, fun _ h => h, fun _ h => h, fun _ => rfl⟩

/-- Cores that no task holds. -/
theorem freed_vacate (cs : List Nat) (s : State) : freed cs (cs.foldl (fun s c => s.setCore c (s.core c).vacate) s) := by
  have hkeep : ∀ (cs : List Nat) (s : State) (c : Nat), freed [c] s → freed [c] (cs.foldl (fun s c => s.setCore c (s.core c).vacate) s) := by
    intro cs
    induction cs with
    | nil => exact fun _ _ h => h
    | cons d cs ih =>
      intro s c h
      refine ih _ c fun x hx => ?_
      by_cases hd : x = d
      · subst hd
        rw [State.core_setCore_self]
        exact ⟨rfl, rfl, rfl⟩
      · rw [State.core_setCore_ne _ _ hd]
        exact h x hx
  induction cs generalizing s with
  | nil => exact fun _ h => by cases h
  | cons d cs ih =>
    intro c hc
    rcases List.mem_cons.mp hc with rfl | hc
    · refine hkeep cs _ c (fun x hx => ?_) c List.mem_cons_self
      rw [List.mem_singleton.mp hx, State.core_setCore_self]
      exact ⟨rfl, rfl, rfl⟩
    · exact ih _ c hc

theorem State.freed_vacateCores (s : State) (cs : List Nat) : freed cs (s.vacateCores cs) := freed_vacate cs _

theorem freed_congr {cs : List Nat} {s t : State} (h : t.coreTab = s.coreTab) (hf : freed cs s) : freed cs t := by
  intro c hc
  rw [show t.core c = s.core c by unfold State.core; rw [h]]
  exact hf c hc

/-! ## The tables of the scheduler -/

/-- The tables of the scheduler without a task, watch bits aside. -/
theorem State.removeTask_frame (s : State) (t : Task) :
    written { s.setQueue t.queue { s.queue t.queue with
        fifo := (s.queue t.queue).fifo.filter fun i => i != t.id.toNat
        flight := (s.queue t.queue).flight.filter fun l => t.node.isSome || l.id != t.id } with
      tasks := (mapDel s.tasks t.id.toNat).map fun p => if p.2.waits = some t.id.toNat then (p.1, { p.2 with waits := none }) else p
      digests := s.digests.filter fun d => d.task != t.id
      peerGangs := s.peerGangs.filter fun g => g.task != t.id
      saveFree := s.saveFree + t.saved.length } (s.removeTask t) :=
  State.written_unwatch _

end Sys2Proof.Machine
end

section
/-! Placements by the order in which they came: the count of recencies never falls, and a dispatch that places nothing leaves every core
as it stands (R70 to R72, R88). -/

open Sys2Proof Sys2Proof.Machine Sys2Proof.Claims

namespace Sys2Proof.Machine

/-! ## The count of recencies -/

/-- The count by which placements and uses of the Larder are ordered has not fallen. -/
def later (s t : State) : Prop := s.stamp ≤ t.stamp

theorem later_refl (s : State) : later s s := Nat.le_refl _

theorem later_trans {s t u : State} (h : later s t) (k : later t u) : later s u := Nat.le_trans h k

theorem later_of_eq {s t : State} (h : t.stamp = s.stamp) : later s t := Nat.le_of_eq h.symm

theorem later_foldl {α : Type} {g : State → α → State} (hg : ∀ s x, later s (g s x)) (l : List α) (s : State) : later s (l.foldl g s) := by
  induction l generalizing s with
  | nil => exact later_refl s
  | cons x l ih => exact later_trans (hg s x) (ih (g s x))

theorem later_of_written {s t : State} (h : written s t) : later s t := later_of_eq (by rw [h.1])

theorem later_of_aside {s t : State} (h : aside s t) : later s t := later_of_eq (by rw [h.1])

theorem later_of_background {s t : State} (h : background s t) : later s t := later_of_aside (aside_of_background h)

section
variable (s : State)

theorem State.later_rewatch (gs : List Nat) : later s (s.rewatch gs) := later_of_written (s.written_rewatch gs)

theorem State.later_removeTask (t : Task) : later s (s.removeTask t) := by
  have h := later_of_written (s.removeTask_frame t)
  exact h

theorem State.later_postEnding (n func : Nat) (id : Word) (notify : Bool) (e : Ending) : later s (s.postEnding n func id notify e) := by
  obtain ⟨fns, hostMem, h⟩ := s.postEnding_frame n func id notify e
  rw [h]
  exact later_refl s

theorem State.later_sendPod (dest : Nat) (kind : PodKind) (task : Word) (attempt : Nat) : later s (s.sendPod dest kind task attempt) :=
  later_of_background (s.background_sendPod _ _ _ _)

theorem State.later_vacateCores (cs : List Nat) : later s (s.vacateCores cs) := later_of_aside (s.aside_vacateCores cs)

/-! ## Keys and digests -/

theorem State.later_touchResult (tenant : Nat) (key : BitVec 256) : later s (s.touchResult tenant key) := Nat.le_succ _

theorem State.later_formKey (t : Task) : later s (s.formKey t) := by
  unfold State.formKey
  split
  · dsimp only
    split
    · exact State.later_touchResult (s.setTask _) t.tenant _
    · exact later_refl s
  · exact later_refl s

theorem State.later_startDigest (id part : Nat) : later s (State.startDigest id s part) := by
  unfold State.startDigest
  split
  · exact later_refl s
  · split
    · exact later_refl s
    · split
      · exact later_refl s
      · extract_lets g all t1 s1
        have h1 : later s s1 := s.later_rewatch _
        clear_value s1
        split
        · exact Nat.le_trans h1 (Nat.le_succ _)
        · exact h1

theorem State.later_startKeying (id : Nat) : later s (s.startKeying id) := by
  unfold State.startKeying
  split
  · exact later_refl s
  · split
    · rename_i t _ _
      have h := later_foldl (fun s p => State.later_startDigest s id p) t.parts (s.setTask { t with larder := .keying })
      dsimp only
      split
      · exact later_trans h (State.later_formKey _ _)
      · exact h
    · exact later_refl s

/-! ## Graphs -/

theorem State.later_enterFifo (t : Task) : later s (s.enterFifo t) :=
  State.later_startKeying ((s.setTask t).setQueue t.queue { s.queue t.queue with fifo := (s.queue t.queue).fifo ++ [t.id.toNat] }) _

theorem State.later_abortGraph (gid cause code : Nat) (node : Option Nat) : later s (s.abortGraph gid cause code node) := by
  unfold State.abortGraph
  split
  · exact later_refl s
  · split
    · exact later_refl s
    · exact later_foldl (fun s t => s.later_removeTask t) _ s

theorem State.later_enterNode (gid i : Nat) : later s (State.enterNode gid s i) := by
  unfold State.enterNode
  split
  · exact later_refl s
  · split
    · exact later_refl s
    · split
      · exact s.later_abortGraph _ _ _ _
      · exact State.later_enterFifo (s.setGraph _) _

theorem State.later_decrement (gid j : Nat) : later s (State.decrement gid s j) := by
  unfold State.decrement
  split
  · exact later_refl s
  · split
    · exact later_refl s
    · split
      · exact s.later_abortGraph _ _ _ _
      · exact State.later_enterNode (s.setGraph _) _ _
      · exact later_refl s

theorem State.later_settleGraph (gid : Nat) : later s (s.settleGraph gid) := by
  have hr : ∀ g e, later s (s.retireGraph g e) := fun g e =>
    State.later_postEnding { s.setQueue g.queue _ with graphs := mapDel s.graphs g.id.toNat } _ _ _ _ _
  unfold State.settleGraph
  split
  · exact later_refl s
  · split
    · split
      · exact hr _ _
      · split <;> exact hr _ _
    · exact later_refl s

theorem State.later_endNode (t : Task) (e : Ending) : later s (s.endNode t e) := by
  unfold State.endNode
  split
  · exact later_refl s
  · split
    · exact later_refl s
    · rename_i gid i _ _ g _
      dsimp only
      refine later_trans ?_ (State.later_settleGraph _ _)
      split
      · exact State.later_abortGraph (s.setGraph _) _ _ _ _
      · exact later_foldl (fun s j => s.later_decrement gid j) _ (s.setGraph _)

/-! ## The end of a task -/

theorem State.later_endMembers (t : Task) (e : Ending) : later s (s.endMembers t e) := by
  unfold State.endMembers
  split
  · exact s.later_sendPod _ _ _ _
  · exact s.later_postEnding _ _ _ _ _

theorem State.later_retire (t : Task) (e : Ending) : later s (s.retire t e) := by
  have h := later_trans (s.later_vacateCores t.cores) (State.later_removeTask _ t)
  unfold State.retire
  dsimp only
  refine later_trans ?_ (State.later_endNode _ _ _)
  split
  · exact later_trans h (State.later_postEnding _ _ _ _ _ _)
  · exact later_trans h (State.later_endMembers _ _ _)

/-! ## Cores taken -/

theorem State.later_takeCores (t : Task) (base : Nat) : later s (s.takeCores t base) := by
  refine later_foldl (fun u p => ?_) _ s
  dsimp only
  split <;> exact later_refl u

theorem State.later_bindAll {s u : State} {t : Task} {cs : List Nat} (h : s.bindAll t cs = .ok u) : later s u := by
  induction cs generalizing s with
  | nil => cases h; exact later_refl _
  | cons c cs ih =>
    unfold State.bindAll at h
    split at h
    · cases h
    · have h' := ih h
      exact h'

theorem State.later_startStrands (t : Task) : later s (s.startStrands t) :=
  later_foldl (g := fun s c => s.setCore c _) (fun s _ => later_refl s) _ s

theorem State.later_startTask (t : Task) : later s (s.startTask t) := by
  unfold State.startTask
  dsimp only
  split
  · exact State.later_retire (s.setTask _) _ _
  · rename_i h
    have h' := State.later_bindAll h
    exact later_trans h' (State.later_startStrands _ _)

/-! ## Cores resumed -/

theorem State.later_putBound (c i : Nat) (h : Option Handle) : later s (s.putBound c i h) := by
  unfold State.putBound
  split <;> exact later_refl s

theorem State.later_rebindLoop (t : Task) (c : Nat) : later s (s.rebindLoop t c) := by
  unfold State.rebindLoop
  dsimp only
  refine later_trans (later_trans ?_ (State.later_putBound _ c 1 _)) (later_foldl (fun s _ => s.later_putBound c _ _) _ _)
  split
  · exact s.later_putBound _ _ _
  · exact later_refl s

theorem State.later_rebindSlots (t : Task) (c : Nat) (m : Map Handle) : later s (s.rebindSlots t c m) := by
  refine later_foldl (fun s p => later_trans (t := s.drawIf (p.2.desc.space == 6)) ?_ (State.later_putBound _ c _ _)) m s
  unfold State.drawIf
  split <;> exact later_refl s

theorem State.later_restoreData (c : Nat) (ds : List (Nat × Nat × List Byte)) : later s (s.restoreData c ds) := by
  refine later_foldl (fun s d => ?_) ds s
  split
  · exact later_of_background (s.background_writeAt _ _)
  · exact later_refl s

theorem State.later_resumeTask (t : Task) (cores : List Nat) : later s (s.resumeTask t cores) := by
  unfold State.resumeTask
  extract_lets t1 f ctx s1 s2 s3 s4 s5
  have h1 : later s s1 := later_refl s
  have h2 : later s1 s2 := by
    refine later_foldl (fun u p => ?_) ctx s1
    dsimp only
    split <;> exact later_refl u
  have h3 : later s2 s3 := by
    refine later_foldl (fun u p => ?_) ctx s2
    split
    · exact u.later_rebindLoop _ _
    · exact u.later_rebindSlots _ _ _
  have h4 : later s3 s4 := later_foldl (fun u p => u.later_restoreData _ _) ctx s3
  have h5 : later s4 s5 := later_foldl (g := fun s c => s.rebindRecs t1 c) (fun u c => later_refl u) cores s4
  exact later_trans (later_trans h1 h2) (later_trans h3 (later_trans h4 h5))

/-! ## Placement -/

theorem State.later_tellPeers (t : Task) (k : PodKind) : later s (s.tellPeers t k) := later_foldl (fun s _ => s.later_sendPod _ _ _ _) _ s

theorem State.later_startMembers (t : Task) : later s (s.startMembers t) := by
  unfold State.startMembers
  split
  · exact State.later_startStrands (s.setTask _) _
  · exact s.later_resumeTask _ _

theorem State.later_holdMembers (t : Task) : later s (s.holdMembers t) := by
  unfold State.holdMembers
  extract_lets t1 s1 r
  have h1 : later s s1 := later_refl s
  have hr : ∀ u, r = .ok u → later s u := by
    intro u hu
    simp only [r] at hu
    split at hu
    · exact later_trans h1 (later_trans (State.later_takeCores s1 _ _) (State.later_bindAll hu))
    · cases hu
      exact later_trans h1 (later_foldl (g := fun s c => s.setCore c _) (fun s _ => later_refl s) _ s1)
  clear_value r
  cases r with
  | error code =>
    dsimp only
    split
    · exact later_trans h1 (State.later_retire s1 _ _)
    · exact later_trans h1 (later_trans (State.later_tellPeers s1 _ _)
        (later_trans (State.later_vacateCores _ _) (State.later_removeTask _ _)))
  | ok u =>
    have hu := hr u rfl
    dsimp only
    split
    · split
      · exact later_trans hu (u.later_startMembers _)
      · exact later_trans hu (u.later_tellPeers _ _)
    · split
      · exact later_trans hu (u.later_startMembers _)
      · exact hu

/-- A placement is later than all before it (R72). -/
theorem State.stamp_lt_occupy (t : Task) (cs : List Nat) : s.stamp < (s.occupy t cs).stamp := by
  have h1 : s.stamp < ({ s with stamp := s.stamp + 1 } : State).stamp := Nat.lt_succ_self _
  unfold State.occupy
  extract_lets l t1 s1
  split
  · exact Nat.lt_of_lt_of_le h1 (State.later_holdMembers s1 _)
  · split
    · exact Nat.lt_of_lt_of_le h1 (later_trans (State.later_takeCores (s1.setTask t1) _ _) (State.later_startTask _ _))
    · exact Nat.lt_of_lt_of_le h1 (State.later_resumeTask s1 _ _)

theorem State.later_putElems (h : Handle) (bs : List Byte) : later s (s.putElems h bs) := by
  unfold State.putElems
  split
  · exact later_of_written (s.written_writeRuns _ _)
  · exact later_foldl (fun s p => later_of_background (s.background_writeAt _ _)) _ s

theorem State.later_putOutputs (hs : List Handle) (bs : List Byte) : later s (s.putOutputs hs bs) := by
  induction hs generalizing s bs with
  | nil => exact later_refl s
  | cons h hs ih => exact later_trans (s.later_putElems _ _) (ih _ _)

theorem State.le_stamp_putOutputs {n : Nat} (h : n ≤ s.stamp) (hs : List Handle) (bs : List Byte) : n ≤ (s.putOutputs hs bs).stamp :=
  Nat.le_trans h (s.later_putOutputs hs bs)

/-- A hit copy counts as a use of its entry; a task that does not run one has no other core than before (R88). -/
theorem State.tryHit_cases (t : Task) :
    ((s.tryHit t).2 = true ∧ s.stamp < (s.tryHit t).1.stamp) ∨
      ((s.tryHit t).2 = false ∧ (s.tryHit t).1.stamp = s.stamp ∧ (s.tryHit t).1.coreTab = s.coreTab) := by
  unfold State.tryHit
  split
  · split
    · exact .inr ⟨rfl, rfl, rfl⟩
    · split
      · exact .inr ⟨rfl, rfl, rfl⟩
      · dsimp only
        refine .inl ⟨rfl, State.le_stamp_putOutputs _ ?_ _ _⟩
        exact Nat.le_refl (s.stamp + 1)
  · exact .inr ⟨rfl, rfl, rfl⟩

theorem State.later_placedHit (t : Task) : later s (s.placedHit t) := by
  unfold State.placedHit
  split
  · exact s.later_touchResult _ _
  · exact later_refl s

/-- Place takes cores, or leaves them as they stand (R71). -/
theorem State.placeTask_cases (t : Task) :
    ((s.placeTask t).2 = true ∧ s.stamp < (s.placeTask t).1.stamp) ∨
      ((s.placeTask t).2 = false ∧ (s.placeTask t).1.stamp = s.stamp ∧ (s.placeTask t).1.coreTab = s.coreTab) := by
  unfold State.placeTask
  extract_lets r
  have hr : (r.2 = true ∧ s.stamp < r.1.stamp) ∨ (r.2 = false ∧ r.1.stamp = s.stamp ∧ r.1.coreTab = s.coreTab) := by
    simp only [r]
    split
    · exact s.tryHit_cases t
    · exact .inr ⟨rfl, rfl, rfl⟩
  clear_value r
  obtain ⟨h2, h⟩ | ⟨h2, h, hc⟩ := hr
  · rw [if_pos h2]
    exact .inl ⟨h2, h⟩
  · rw [if_neg (by simp [h2])]
    split
    · exact .inr ⟨rfl, h, hc⟩
    · split
      · exact .inr ⟨rfl, h, hc⟩
      · refine .inl ⟨rfl, ?_⟩
        have hp := State.later_placedHit r.1
        exact Nat.lt_of_le_of_lt (h ▸ hp _) (State.stamp_lt_occupy _ _ _)

theorem State.later_tookTurn (prio : Nat) (t : Task) (n : Option Nat) : later s (s.tookTurn prio t n) := by
  unfold State.tookTurn
  split
  · exact later_refl s
  · split
    · exact later_refl s
    · extract_lets held s1
      have h1 : later s s1 := later_refl s
      split
      · exact later_trans h1 (State.later_sendPod s1 _ _ _ _)
      · exact h1

/-- A message to a package of the pod changes what leaves alone (R75). -/
theorem State.sendPod_frame (dest : Nat) (kind : PodKind) (task : Word) (attempt : Nat) :
    ∃ ports, s.sendPod dest kind task attempt = { s with podOut := s.podOut ++ [⟨dest, kind, task, attempt⟩], ports := ports } := by
  unfold State.sendPod State.sendTo
  split
  · exact ⟨_, rfl⟩
  · exact ⟨s.ports, rfl⟩

theorem State.tellPeers_frame (t : Task) (k : PodKind) : ∃ podOut ports, s.tellPeers t k = { s with podOut := podOut, ports := ports } := by
  have hl : ∀ (l : List Nat) (s : State), ∃ podOut ports,
      l.foldl (fun s p => s.sendPod p k t.id t.attempt) s = { s with podOut := podOut, ports := ports } := by
    intro l
    induction l with
    | nil => exact fun s => ⟨s.podOut, s.ports, rfl⟩
    | cons p l ih =>
      intro s
      obtain ⟨ports, e⟩ := s.sendPod_frame p k t.id t.attempt
      obtain ⟨podOut', ports', e'⟩ := ih (s.sendPod p k t.id t.attempt)
      exact ⟨podOut', ports', by rw [List.foldl_cons, e', e]⟩
  exact hl _ s

/-- A pre-emption that is asked for stops no core at once (R72). -/
theorem State.preemptFor_frame (t : Task) : (s.preemptFor t).stamp = s.stamp ∧ (s.preemptFor t).coreTab = s.coreTab := by
  unfold State.preemptFor
  split
  · exact ⟨rfl, rfl⟩
  · split
    · exact ⟨rfl, rfl⟩
    · obtain ⟨podOut, ports, e⟩ := State.tellPeers_frame _ _ _
      rw [e]
      exact ⟨rfl, rfl⟩

/-! ## The dispatch decision -/

/-- A decision places a task, which is then the latest, or leaves every core as it stands (R70). -/
theorem State.decideFrom_cases (ps : List Nat) :
    ((s.decideFrom ps).2 = true ∧ s.stamp < (s.decideFrom ps).1.stamp) ∨
      ((s.decideFrom ps).2 = false ∧ (s.decideFrom ps).1.stamp = s.stamp ∧ (s.decideFrom ps).1.coreTab = s.coreTab) := by
  induction ps with
  | nil => exact .inr ⟨rfl, rfl, rfl⟩
  | cons p ps ih =>
    unfold State.decideFrom
    split
    · exact ih
    · rename_i t n _
      split
      · exact .inr ⟨rfl, rfl, rfl⟩
      · extract_lets r
        have hr := s.placeTask_cases t
        change (r.2 = true ∧ s.stamp < r.1.stamp) ∨ (r.2 = false ∧ r.1.stamp = s.stamp ∧ r.1.coreTab = s.coreTab) at hr
        clear_value r
        obtain ⟨h2, h⟩ | ⟨h2, h, hc⟩ := hr
        · rw [if_pos h2]
          exact .inl ⟨rfl, Nat.lt_of_lt_of_le h (State.later_tookTurn _ _ _ _)⟩
        · rw [if_neg (by simp [h2])]
          split
          · obtain ⟨h', hc'⟩ := State.preemptFor_frame r.1 _
            exact .inr ⟨rfl, h'.trans h, hc'.trans hc⟩
          · exact .inr ⟨rfl, h, hc⟩

/-- A dispatch places some task, which is then the latest, or leaves every core as it stands (R70). -/
theorem State.dispatchLoop_cases (fuel : Nat) :
    s.stamp < (s.dispatchLoop fuel).stamp ∨
      ((s.dispatchLoop fuel).stamp = s.stamp ∧ (s.dispatchLoop fuel).coreTab = s.coreTab) := by
  induction fuel generalizing s with
  | zero => exact .inr ⟨rfl, rfl⟩
  | succ fuel ih =>
    unfold State.dispatchLoop
    dsimp only
    obtain ⟨h2, h⟩ | ⟨h2, h, hc⟩ := s.decideFrom_cases (upTo 8)
    · rw [if_pos h2]
      obtain h' | ⟨h', -⟩ := ih (s.decideFrom (upTo 8)).1
      · exact .inl (Nat.lt_trans h h')
      · exact .inl (h'.symm ▸ h)
    · rw [if_neg (by simp [h2])]
      exact .inr ⟨h, hc⟩

theorem State.dispatch_cases : s.stamp < s.dispatch.stamp ∨ (s.dispatch.stamp = s.stamp ∧ s.dispatch.coreTab = s.coreTab) :=
  s.dispatchLoop_cases _

/-- Where no placement has ever been made, a dispatch has left every core as it stands. -/
theorem State.dispatch_unplaced (h : s.dispatch.stamp = 0) : s.dispatch.coreTab = s.coreTab := by
  obtain h' | ⟨-, h'⟩ := s.dispatch_cases
  · omega
  · exact h'

end

end Sys2Proof.Machine
end

section
/-! A gang whose broken barrier aborts a task of another name (R76, R214): a state that PodGangs admits and that no rule of it covers. -/

open Sys2Proof Sys2Proof.Machine Sys2Proof.Claims

namespace Sys2Proof.Machine

/-- The launcher's task of a pod gang of this package and package 1, its core done. -/
def gangOfTwo : Task :=
  { id := 0, queue := 0, node := none, tenant := 1, prio := 1, func := 1, notify := false, pure := false, loop := false
    strands := 1, scope := 2, width := 1, entry := 0x1000, args := 0, arglen := 0, kernel := 0, epilogue := 0
    trip := 0, minch := 0, podmask := 3, windows := [], saveSet := [], spawnDie := none, succ := [], phase := .running
    cores := [0], former := [], doneCores := [0], patience := false, waits := none, stamp := 0, next := 0, rem := 0
    returned := [], bg := ⟨2, 0, 2, 0, 0, 0, 0⟩, bgLevel := 4, bgAt := 0, broken := false, larder := .off, void := false
    tainted := false, digests := [], key := none, granules := [], saved := [], attempt := 3, acks := [], peersDone := []
    ackTimer := false, delayed := false, peerCheck := false, aborted := none }

/-- A task that stands in the table under number 1 and carries the identity of the gang, without cores. -/
def gangNamesake : Task := { gangOfTwo with scope := 0, podmask := 0, phase := .ready, cores := [], doneCores := [] }

/-- The core of the gang, held in a wait on its barrier for the task under number 1, with no handler. -/
def waitingCore : Core :=
  { Core.initial with task := some 1, strands := [{ Strand.entry with hold := some (.barrier 16 0 8) }] }

/-- The package with both tasks, and a message of package 1 at the head of a receive buffer. -/
def namesakes : State :=
  { State.reset with
    agenda := [], mbxState := 1, tasks := [(0, gangOfTwo), (1, gangNamesake)], coreTab := [(0, waitingCore)], routes := [(1, 0)]
    ports := [(0, { Port.initial with state := 1, rx := [(0, 1, 5)] })] }

/-- The package when the message has left the buffer. -/
def namesakesHeard : State := (namesakes.take 0 1).getD namesakes

/-- LATE of package 1 for the gang. -/
def namesakesLate : State := gangLate 1 0 3 namesakesHeard

theorem namesakes_take : namesakes.take 0 1 = some namesakesHeard := by
  have h : (namesakes.take 0 1).isSome = true := by decide +kernel
  unfold namesakesHeard
  cases hx : namesakes.take 0 1 with
  | none => rw [hx] at h; cases h
  | some x => rfl

theorem exec_namesakes : exec (.late 1 0 3) namesakes = .next namesakesLate := by
  have h : exec (.late 1 0 3) namesakes = .next (namesakes.onMessage 1 (gangLate 1 0 3)) := rfl
  rw [h, State.onMessage, namesakes_take]
  rfl

theorem namesakesLate_strands : (namesakesLate.core 0).strands ≠ [] ∧ namesakesLate.stamp = 0 := by decide +kernel

/-- The clause of PodGangs on a peer that is lost when the members of this package are done, at one peer. -/
theorem late_frees (h : Obligations.PodGangs) :
    ∃ t, exec (.late 1 0 3) namesakes = .next t ∧
      dispatches (fun _ u => u.task? 0 = none ∧ freed gangOfTwo.cores u) namesakesHeard t := by
  obtain ⟨-, -, -, -, h⟩ := h 0 1 3 0 0 0 0 false 0 0 gangOfTwo [] namesakes namesakesHeard
  obtain ⟨-, -, -, h, -⟩ := h rfl rfl rfl rfl rfl
  obtain ⟨-, h, -⟩ := h (by decide) rfl namesakes_take (by decide +kernel)
  exact h (by decide) (by decide +kernel)

end Sys2Proof.Machine

/-- Refutes O49: LATE comes from the only peer of a gang whose core is done but, as that clause does not exclude, held by a task that is
not the gang's. The wait of that core's strand ends with GANGBROKEN, which aborts the task under number 1; its identity is the gang's, so
that its entry takes the gang's place, the gang never retires, and core 0 keeps its strands. A dispatch would free no core, and it placed
nothing, as no placement was ever counted (`State.dispatch_unplaced`). -/
theorem not_podGangs : ¬ Obligations.PodGangs := by
  intro h
  obtain ⟨t, he, u, hu, -, hf⟩ := late_frees h
  have ht : t = namesakesLate := by
    rw [exec_namesakes] at he
    cases he
    rfl
  obtain ⟨hs, hz⟩ := namesakesLate_strands
  rw [← ht, hu] at hs hz
  have hc := State.dispatch_unplaced u hz
  have hcore : u.dispatch.core 0 = u.core 0 := by rw [State.core, hc]; rfl
  obtain ⟨-, hstrands, -⟩ := hf 0 (by decide)
  rw [hcore] at hs
  exact hs hstrands

end

section
/-! The ends of tasks, of cores, of hit copies and of captures, and the chunks of a LOOP (R61, R70 to R75, R77, R88, R278). -/

open Sys2Proof Sys2Proof.Machine Sys2Proof.Claims

namespace Sys2Proof.Machine

/-! ## Tables of tasks -/

theorem mapSorted_voided (f : Nat × Task → Bool) {m : Map Task} (h : mapSorted none m = true) : mapSorted none (voided f m) = true :=
  mapSorted_map (fun p => by dsimp only; split <;> rfl) h

theorem mapSorted_setTask {s : State} (h : mapSorted none s.tasks = true) (t : Task) : mapSorted none (s.setTask t).tasks = true :=
  mapSorted_mapPut s.tasks t.id.toNat t none h (by simp)

@[simp] theorem State.task?_setTask_self (s : State) (t : Task) : (s.setTask t).task? t.id.toNat = some t := mapFind_mapPut_self _ _ _

theorem State.task?_setTask_ne (s : State) (t : Task) {j : Nat} (h : j ≠ t.id.toNat) : (s.setTask t).task? j = s.task? j :=
  mapFind_mapPut_ne _ _ h

theorem onlyTask_setTask (s : State) (t : Task) : onlyTask t s (s.setTask t) :=
  ⟨rfl, s.task?_setTask_self t, fun _ h => s.task?_setTask_ne t h⟩

theorem mem_setPut (l : List Nat) (a x : Nat) : x ∈ setPut l a ↔ x = a ∨ x ∈ l := by
  induction l with
  | nil => simp [setPut]
  | cons j l ih =>
    unfold setPut
    split
    · simp
    · split
      · rename_i h
        subst h
        simp
      · simp only [List.mem_cons, ih]
        tauto

/-! ## The end of a task (R61, R77) -/

/-- What a task that has retired leaves: no entry of it in the tables, and its cores free. -/
def retired (k : Task) (u : State) : Prop :=
  u.task? k.id.toNat = none ∧ freed k.cores u ∧ (∀ l, l ∈ (u.queue k.queue).flight → l.id ≠ k.id) ∧
    ∀ i, i ∈ (u.queue k.queue).fifo → i ≠ k.id.toNat

theorem State.removeTask_retires {s : State} {k : Task} (hs : mapSorted none s.tasks = true) (hn : k.node = none)
    (hf : freed k.cores s) : retired k (s.removeTask k) ∧ (s.removeTask k).pools = s.pools := by
  obtain ⟨e, -, -, f, ht⟩ := s.removeTask_frame k
  have hq : (s.removeTask k).queue k.queue = { s.queue k.queue with
      fifo := (s.queue k.queue).fifo.filter fun i => i != k.id.toNat
      flight := (s.queue k.queue).flight.filter fun l => k.node.isSome || l.id != k.id } := by
    rw [e]
    exact State.queue_setQueue_self s k.queue _
  refine ⟨⟨?_, ?_, fun l hl => ?_, fun i hi => ?_⟩, by rw [e]; rfl⟩
  · unfold State.task?
    rw [ht, mapFind_voided]
    dsimp only
    rw [mapFind_map _ _ (by intro p; split <;> rfl), mapFind_mapDel_self _ _ _ hs]
    rfl
  · exact freed_congr (by rw [e]; rfl) hf
  · rw [hq] at hl
    simpa [hn] using (List.mem_filter.mp hl).2
  · rw [hq] at hi
    simpa using (List.mem_filter.mp hi).2

/-- A task that retires leaves its cores and the tables (R61). -/
theorem State.retire_retires {s : State} {k : Task} (hs : mapSorted none s.tasks = true) (hn : k.node = none) (hq : k.queue < 128)
    (e : Ending) : retired k (s.retire k e) ∧ (s.retire k e).pools = s.pools := by
  obtain ⟨ev, ⟨f, ht⟩, -⟩ := s.aside_vacateCores k.cores
  obtain ⟨⟨h1, h2, h3, h4⟩, hp⟩ := State.removeTask_retires (k := k) (s := s.vacateCores k.cores) (by rw [ht]; exact mapSorted_voided f hs) hn
    (s.freed_vacateCores k.cores)
  obtain ⟨fns, hostMem, ep⟩ := State.postEnding_frame ((s.vacateCores k.cores).removeTask k) k.queue k.func k.id k.notify e
  have he : s.retire k e = { (s.vacateCores k.cores).removeTask k with fns := fns, hostMem := hostMem } := by
    rw [← ep]
    unfold State.retire
    dsimp only
    rw [if_pos hq, State.endNode, hn]
    cases e with
    | aborted c x i => cases i <;> rfl
    | done => rfl
    | reused => rfl
  rw [he]
  refine ⟨⟨h1, h2, h3, h4⟩, hp.trans ?_⟩
  rw [ev]

/-! ## Patience, and cores that are clear -/

theorem patienceExpires {task : Word} {k : Task} {s : State} (hk : s.task? task.toNat = some k) (hi : k.id = task)
    (hp : k.patience = false) (hf : (s.queue k.queue).fifo.head? = some task.toNat) :
    does (.placementPatienceExpiry task) s (dispatches (onlyTask { k with patience := true })) := by
  have hpat : s.patient k = true := by
    obtain ⟨l, hl⟩ := List.head?_eq_some_iff.mp hf
    simp [State.patient, hp, hl, hi]
  refine does_dispatches (t := expirePatience task s) rfl ?_ (onlyTask_setTask s _)
  rw [expirePatience, hk]
  exact if_pos hpat

theorem patienceOver {task : Word} {k : Task} {s : State} (hk : s.task? task.toNat = some k) (hp : k.patience = true) :
    does (.placementPatienceExpiry task) s same := by
  refine ⟨expirePatience task s, rfl, ?_⟩
  rw [expirePatience, hk]
  exact if_neg (by simp [State.patient, hp])

theorem clearDone (c : Nat) (s : State) :
    does (.coreClearDone c) s (fun s t => t.core c = { s.core c with clearing := false } ∧ t = { s with coreTab := t.coreTab } ∧
      ∀ d, d ≠ c → t.core d = s.core d) :=
  ⟨clearCore c s, rfl, State.core_setCore_self s c _, rfl, fun _ hd => State.core_setCore_ne s _ hd⟩

/-! ## Cores done (R61, R279) -/

theorem State.taskOf_none {s : State} {c : Nat} (h : (s.core c).task = none) : s.taskOf c = none := by
  rw [State.taskOf, h]

theorem State.taskOf_some {s : State} {c i : Nat} {k : Task} (h : (s.core c).task = some i) (hk : s.task? i = some k) :
    s.taskOf c = some k := by
  rw [State.taskOf, h]
  exact hk

theorem coreDone_idle {c : Nat} {s : State} (h : (s.core c).task = none) : does (.coreDone c) s same := by
  refine ⟨endCore c s, rfl, ?_⟩
  rw [endCore, State.coreEnds, State.taskOf_none h]
  rfl

theorem chunkRequest_idle {c : Nat} {s : State} (h : (s.core c).task = none) : does (.chunkRequest c) s same := by
  refine ⟨grantChunk c s, rfl, ?_⟩
  rw [grantChunk, State.asksChunk, State.taskOf_none h]
  rfl

/-- A core whose strands are all done and whose records have completed. -/
theorem Core.finished_of {q : Core} (hne : q.strands ≠ []) (hd : ∀ x, x ∈ q.strands → x.tdone = true)
    (he : ∀ e, e ∈ q.engines → e.2.queue = []) : q.finished = true := by
  simp only [Core.finished, Bool.and_eq_true, List.all_eq_true, Bool.not_eq_true', List.isEmpty_eq_false_iff]
  exact ⟨⟨hne, hd⟩, fun e h => by simp [he e h]⟩

section
variable {c : Nat} {k : Task} {s : State} (ht : s.taskOf c = some k) (ha : k.aborted = none)
include ht ha

theorem State.coreEnds_unreleased (hp : s.podReleased k c = false) : s.coreEnds c = none := by
  rw [State.coreEnds, ht]
  simp [ha, hp]

theorem State.coreEnds_done (hr : k.phase = .running) (hf : (s.core c).finished = true) (hc : c ∉ k.doneCores) (hp : s.podReleased k c = true) :
    s.coreEnds c = some k := by
  rw [State.coreEnds, ht]
  simp [ha, hp, hf, hc, hr]

end

theorem State.podReleased_iff (s : State) (k : Task) (c : Nat) :
    s.podReleased k c = true ↔ (k.scope = 2 → (s.core c).writes = [] ∧ s.awaitingAcks = false) := by
  by_cases h : k.scope = 2 <;> simp [State.podReleased, h]

/-- A task some core of which is not done stays. -/
theorem State.finishTask_waits {s : State} {k : Task} {d : Nat} (hd : d ∈ k.cores) (hn : d ∉ k.doneCores) : s.finishTask k = s := by
  unfold State.finishTask
  rw [if_pos]
  refine .inr (.inl ?_)
  simp only [Bool.not_eq_true', List.all_eq_false]
  exact ⟨d, hd, by simp [hn]⟩

/-- A running task all of whose cores are done retires once its peers have (R61, R75). -/
theorem State.finishTask_retires {s : State} {k : Task} (hr : k.phase = .running) (hd : ∀ d, d ∈ k.cores → d ∈ k.doneCores)
    (hp : s.peersOf k = []) : ∃ e, s.finishTask k = s.retire k e := by
  unfold State.finishTask
  rw [if_neg]
  · split
    · exact ⟨_, rfl⟩
    · split <;> exact ⟨_, rfl⟩
  · have hl : s.livePeers k = [] := by rw [State.livePeers, hp]; rfl
    have hf : s.peersFinished k = true := by rw [State.peersFinished, hl]; simp
    have ho : k.onCores = true := by rw [Task.onCores, hr]
    simpa [hf, ho] using hd

section
variable {c : Nat} {k : Task} {s : State}

/-- The end of a core of a task that is not aborted. -/
theorem endCore_of_ends (h : s.coreEnds c = some k) (ha : k.aborted = none) :
    endCore c s = (let u := { k with doneCores := setPut k.doneCores c }
      let r := (s.setTask u).finishTask u
      if (r.task? k.id.toNat).isNone then r.dispatch else r) := by
  rw [endCore, h]
  dsimp only
  rw [ha]

theorem coreDone_unreleased (ht : s.taskOf c = some k) (ha : k.aborted = none) (hp : s.podReleased k c = false) :
    does (.coreDone c) s same := by
  refine ⟨endCore c s, rfl, ?_⟩
  rw [endCore, State.coreEnds_unreleased ht ha hp]
  rfl

theorem coreDone_some (h : s.coreEnds c = some k) (ha : k.aborted = none) (hd : ∃ d, d ∈ k.cores ∧ d ≠ c ∧ d ∉ k.doneCores) :
    does (.coreDone c) s (onlyTask { k with doneCores := setPut k.doneCores c }) := by
  obtain ⟨d, hdc, hne, hnd⟩ := hd
  have hw : ((s.setTask { k with doneCores := setPut k.doneCores c }).finishTask { k with doneCores := setPut k.doneCores c }) =
      s.setTask { k with doneCores := setPut k.doneCores c } :=
    State.finishTask_waits hdc (fun hm => by
      obtain h | h := (mem_setPut _ _ _).mp hm
      · exact hne h
      · exact hnd h)
  refine ⟨endCore c s, rfl, ?_⟩
  rw [endCore_of_ends h ha]
  dsimp only
  rw [hw, if_neg]
  · exact onlyTask_setTask s _
  · have hf : (s.setTask { k with doneCores := setPut k.doneCores c }).task? k.id.toNat = some { k with doneCores := setPut k.doneCores c } :=
      State.task?_setTask_self s _
    rw [hf]
    simp

theorem coreDone_last (h : s.coreEnds c = some k) (ha : k.aborted = none) (hr : k.phase = .running) (hn : k.node = none)
    (hs : mapSorted none s.tasks = true) (hp : s.peersOf k = []) (hd : ∀ d, d ∈ k.cores → d ≠ c → d ∈ k.doneCores) (hq : k.queue < 128) :
    does (.coreDone c) s (dispatches fun _ u => retired k u) := by
  obtain ⟨e, he⟩ := State.finishTask_retires (s := s.setTask { k with doneCores := setPut k.doneCores c })
    (k := { k with doneCores := setPut k.doneCores c }) hr
    (fun d hdc => (mem_setPut _ _ _).mpr (by
      by_cases hne : d = c
      · exact .inl hne
      · exact .inr (hd d hdc hne))) hp
  obtain ⟨hret, -⟩ := State.retire_retires (k := { k with doneCores := setPut k.doneCores c }) (mapSorted_setTask hs _) hn hq e
  refine does_dispatches (t := endCore c s) rfl ?_ hret
  rw [endCore_of_ends h ha]
  dsimp only
  rw [he, if_pos]
  obtain ⟨hnone, -⟩ := hret
  exact (congrArg Option.isNone hnone).trans rfl

/-- A core of a task that was aborted (R209). -/
theorem coreDone_aborted (ht : s.taskOf c = some k) {cause code : Nat} (ha : k.aborted = some (cause, code)) (hn : k.node = none)
    (hs : mapSorted none s.tasks = true) (hq : k.queue < 128) : does (.coreDone c) s (dispatches fun _ u => retired k u) := by
  have hc : s.coreEnds c = some k := by
    rw [State.coreEnds, ht]
    simp [ha]
  obtain ⟨podOut, ports, e⟩ := s.tellPeers_frame k (.abort cause code)
  obtain ⟨hret, -⟩ := State.retire_retires (s := s.tellPeers k (.abort cause code)) (by rw [e]; exact hs) hn hq (.aborted cause code none)
  refine does_dispatches (t := endCore c s) rfl ?_ hret
  rw [endCore, hc]
  dsimp only
  rw [ha]
  dsimp only
  rw [State.endAborted, if_pos (.inl hq)]

end

/-! ## Chunks of a LOOP (R73, R74, R278) -/

theorem Core.strand_mapStrands {q : Core} {f : Nat → Strand → Strand} {j : Nat} (h : j < q.strands.length) :
    (q.mapStrands f).strand j = f j (q.strand j) := by
  simp [Core.mapStrands, Core.strand, h]

/-- A strand that leaves its KNEXT has the values of the step in s4 and s5, and keeps every register from s6 on (R278). -/
theorem Strand.leaveKnext_values (rank size index count pc j : Nat) (x : Strand) :
    let y := Strand.leaveKnext rank size index count pc j x
    y.pc = pc ∧ y.hold = none ∧ y.knext = false ∧ y.reg 4 = BitVec.ofNat 64 index ∧ y.reg 5 = BitVec.ofNat 64 count ∧
      ∀ r, 5 < r → y.reg r = x.reg r := by
  have hreg : ∀ r, (Strand.leaveKnext rank size index count pc j x).reg r =
      (((((x.setReg 1 (BitVec.ofNat 64 j)).setReg 2 (BitVec.ofNat 64 rank)).setReg 3 (BitVec.ofNat 64 size)).setReg 4
        (BitVec.ofNat 64 index)).setReg 5 (BitVec.ofNat 64 count)).reg r := fun _ => rfl
  refine ⟨rfl, rfl, rfl, ?_, ?_, fun r hr => ?_⟩
  · rw [hreg]
    simp [Strand.reg_setReg]
  · rw [hreg]
    simp [Strand.reg_setReg]
  · rw [hreg]
    simp only [Strand.reg_setReg]
    rw [if_neg (by omega), if_neg (by omega), if_neg (by omega), if_neg (by omega), if_neg (by omega)]

/-- The chunk `n` from `start` on, at `pc`, for the strands of a core. -/
def granted (c start n : Nat) (place : LoopPlace) (pc : Nat) (u : Task) (s t : State) : Prop :=
  t.task? u.id.toNat = some u ∧ (t.core c).place = place ∧ (t.core c).index = start ∧ (t.core c).count = n ∧
    (∀ d, d ≠ c → t.core d = s.core d) ∧ ∀ j, j < (s.core c).strands.length → let x := (t.core c).strand j
      x.pc = pc ∧ x.hold = none ∧ x.knext = false ∧ x.reg 4 = BitVec.ofNat 64 start ∧ x.reg 5 = BitVec.ofNat 64 n ∧
        ∀ r, 5 < r → x.reg r = ((s.core c).strand j).reg r

theorem granted_setCore (s : State) (u : Task) (c start n rank size : Nat) (place : LoopPlace) (pc : Nat) :
    granted c start n place pc u s ((s.setTask u).setCore c { (s.core c).mapStrands (Strand.leaveKnext rank size start n pc) with
      place := place, index := start, count := n }) := by
  refine ⟨s.task?_setTask_self u, ?_, ?_, ?_, fun d hd => State.core_setCore_ne _ _ hd, fun j hj => ?_⟩
  · rw [State.core_setCore_self]
  · rw [State.core_setCore_self]
  · rw [State.core_setCore_self]
  · rw [State.core_setCore_self]
    have hx := Core.strand_mapStrands (f := Strand.leaveKnext rank size start n pc) hj
    have hy := Strand.leaveKnext_values rank size start n pc j ((s.core c).strand j)
    rw [← hx] at hy
    exact hy

section
variable {c : Nat} {k : Task} {s : State} (ht : s.taskOf c = some k) (hr : k.phase = .running) (ha : k.aborted = none)
  (hl : k.loop = true) (hp : (s.core c).place = .awaiting)
include ht hr ha hl hp

theorem grantChunk_eq : grantChunk c s = (s.setTask k.nextChunk.2).setCore c ((s.core c).takeChunk k k.nextChunk.1) := by
  have h : s.asksChunk c = some k := by
    rw [State.asksChunk, ht]
    simp [hr, ha, hl, hp]
  rw [grantChunk, h]

/-- A returned range goes out first (R74). -/
theorem chunkRequest_returned {first n : Nat} {rest : List (Nat × Nat)} (hret : k.returned = (first, n) :: rest) :
    does (.chunkRequest c) s (granted c first n .kernel k.kernel { k with returned := rest }) := by
  have hn : k.nextChunk = (some (first, n), { k with returned := rest }) := by rw [Task.nextChunk, hret]
  refine ⟨grantChunk c s, rfl, ?_⟩
  rw [grantChunk_eq ht hr ha hl hp, hn]
  exact granted_setCore s _ c _ _ _ _ _ _

/-- With nothing left the core goes to its epilogue (R278). -/
theorem chunkRequest_over (hret : k.returned = []) (hrem : k.rem = 0) :
    does (.chunkRequest c) s (granted c 0 0 .epilogue k.epilogue k) := by
  have hn : k.nextChunk = (none, k) := by rw [Task.nextChunk, hret, if_pos hrem]
  refine ⟨grantChunk c s, rfl, ?_⟩
  rw [grantChunk_eq ht hr ha hl hp, hn]
  exact granted_setCore s _ c _ _ _ _ _ _

/-- A new chunk (R73). -/
theorem chunkRequest_new (hret : k.returned = []) (hrem : 0 < k.rem) {n : Nat}
    (hn : n = Min.min k.rem (Max.max (Max.max k.minch 1) ((k.rem + 2 * k.gangSize - 1) / (2 * k.gangSize)))) :
    does (.chunkRequest c) s (granted c k.next n .kernel k.kernel { k with next := k.next + n, rem := k.rem - n }) := by
  have hc : k.nextChunk = (some (k.next, n), { k with next := k.next + n, rem := k.rem - n }) := by
    rw [Task.nextChunk, hret]
    dsimp only
    rw [if_neg (by omega), hn]
    rfl
  refine ⟨grantChunk c s, rfl, ?_⟩
  rw [grantChunk_eq ht hr ha hl hp, hc]
  exact granted_setCore s _ c _ _ _ _ _ _

end

/-! ## Hit copies and captures (R88 to R90) -/

/-- The counts of LCNT stop at their largest value (R97). -/
theorem satAdd1_saturates {w : Nat} (v : BitVec w) : satAdd1 v = if v = BitVec.allOnes w then v else v + 1 := by
  unfold satAdd1
  have hl := v.isLt
  by_cases h : v = BitVec.allOnes w
  · subst h
    have hp : 0 < 2 ^ w := Nat.two_pow_pos w
    rw [if_pos rfl, if_neg]
    rw [BitVec.toNat_allOnes]
    omega
  · have hv : v.toNat ≠ 2 ^ w - 1 := fun e => h (BitVec.eq_of_toNat_eq (by rw [e, BitVec.toNat_allOnes]))
    rw [if_neg h, if_pos (by omega)]

theorem State.written_evict {s u : State} {t : Nat} (h : s.evict t = some u) : written s u := by
  obtain ⟨r, -, rfl⟩ := Option.map_eq_some_iff.mp h
  have hw : written s { s with results := s.results.filter fun x => x != r } :=
    ⟨rfl, fun _ h => h, fun _ h => h, _, (voided_nothing _).symm⟩
  exact written_trans hw (State.written_unwatch _)

theorem State.written_evictTo (fuel : Nat) (s : State) (t n : Nat) : written s (s.evictTo t n fuel) := by
  induction fuel generalizing s with
  | zero => exact written_refl s
  | succ fuel ih =>
    unfold State.evictTo
    split
    · exact written_refl s
    · split
      · exact written_refl s
      · rename_i h
        exact written_trans (State.written_evict h) (ih _)

theorem State.pool_setPool (s : State) (t : Nat) (p : Pool) : (s.setPool t p).pool t = p := by
  simp [State.setPool, State.pool]

/-- The end of a hit copy counts, and evicts as a lowered quota asks (R88, R96). -/
theorem State.endHit_frame (s : State) (k : Task) :
    (∃ f, (s.endHit k).tasks = voided f s.tasks) ∧
      (s.endHit k).pool k.tenant = { s.pool k.tenant with hits := satAdd1 (s.pool k.tenant).hits } := by
  have hw : written (State.countHit { s with results := s.results.map fun x => { x with readers := setDel x.readers k.id.toNat } } k.tenant)
      (s.endHit k) := State.written_evictTo _ _ _ _
  obtain ⟨e, -, -, f, ht⟩ := hw
  refine ⟨⟨f, ht⟩, ?_⟩
  have hp : (s.endHit k).pools = (s.setPool k.tenant { s.pool k.tenant with hits := satAdd1 (s.pool k.tenant).hits }).pools := by
    rw [e]
    rfl
  unfold State.pool at *
  rw [hp]
  exact State.pool_setPool s _ _

section
variable {task : Word} {k : Task} {s : State} (hk : s.task? task.toNat = some k)
include hk

theorem hitCopyDone_other (hp : k.phase ≠ .copying) : does (.hitCopyDone task) s same := by
  refine ⟨hitCopyEnds task s, rfl, ?_⟩
  rw [hitCopyEnds, hk]
  exact if_neg hp

theorem hitCopyDone_retires (hp : k.phase = .copying) (hn : k.node = none) (hs : mapSorted none s.tasks = true) (hq : k.queue < 128) :
    does (.hitCopyDone task) s (dispatches fun s u => retired k u ∧
      (u.pool k.tenant).hits = (let h := (s.pool k.tenant).hits; if h = 0xFFFFFF then h else h + 1)) := by
  obtain ⟨⟨f, ht⟩, hpool⟩ := s.endHit_frame k
  obtain ⟨hret, hpools⟩ := State.retire_retires (s := s.endHit k) (by rw [ht]; exact mapSorted_voided f hs) hn hq .reused
  refine does_dispatches (t := hitCopyEnds task s) rfl ?_ ⟨hret, ?_⟩
  · rw [hitCopyEnds, hk]
    exact if_pos hp
  · rw [show ((s.endHit k).retire k .reused).pool k.tenant = (s.endHit k).pool k.tenant by rw [State.pool, hpools]; rfl, hpool]
    exact satAdd1_saturates _

theorem captureDone_other (hp : k.phase ≠ .capture) : does (.captureDone task) s same := by
  refine ⟨captureEnds task s, rfl, ?_⟩
  rw [captureEnds, hk]
  exact if_neg (by simp [State.captureDue, hp])

end

/-- A capture of a task whose key is void installs nothing, and counts (R88). -/
theorem State.install_void {s : State} {k : Task} (hv : k.void = true) (hw : k.windows = []) : s.install k = s.countDrop k.tenant := by
  have ho : s.outWindows k = some [] := by simp [State.outWindows, hw]
  unfold State.install
  rw [ho]
  cases k.key with
  | none => rfl
  | some key => simp [hv]

theorem captureDone_void {task : Word} {k : Task} {s : State} (hk : s.task? task.toNat = some k) (hp : k.phase = .capture)
    (hd : ∀ d, d ∈ k.cores → d ∈ k.doneCores) (hv : k.void = true) (hq : k.queue < 128) (hw : k.windows = [])
    (he : ∀ d, d ∈ k.cores → ∀ e, e ∈ (s.core d).engines → e.2.pend = []) (hn : k.node = none) (hs : mapSorted none s.tasks = true) :
    does (.captureDone task) s (dispatches fun s u => retired k u ∧
      (u.pool k.tenant).drops = (let h := (s.pool k.tenant).drops; if h = 0xFFFF then h else h + 1)) := by
  have hdue : s.captureDue k = true := by simpa [State.captureDue, hp, hv, State.installWaits] using hd
  have hcheck : s.pendingCheck k = false := by
    simp only [State.pendingCheck, List.any_eq_false, List.any_eq_true, not_exists, not_and]
    intro d hdc e hec
    simp [he d hdc e hec]
  obtain ⟨ew, -, -, f, ht⟩ := State.written_unwatch (s.countDrop k.tenant)
  obtain ⟨hret, hpools⟩ := State.retire_retires (s := (s.countDrop k.tenant).unwatch)
    (by rw [ht]; exact mapSorted_voided f hs) hn hq .done
  refine does_dispatches (t := captureEnds task s) rfl ?_ ⟨hret, ?_⟩
  · rw [captureEnds, hk]
    dsimp only
    rw [if_pos hdue, hcheck, if_neg (by simp), State.install_void hv hw]
  · have hu : ((s.countDrop k.tenant).unwatch.retire k .done).pool k.tenant = (s.countDrop k.tenant).pool k.tenant := by
      rw [State.pool, hpools, ew]
      rfl
    rw [hu, show (s.countDrop k.tenant).pool k.tenant = _ from State.pool_setPool s _ _]
    exact satAdd1_saturates _

end Sys2Proof.Machine
end

section
/-! Digests that end and watch notices (R83, R86 to R88). -/

open Sys2Proof Sys2Proof.Machine Sys2Proof.Claims

namespace Sys2Proof.Machine

/-! ## Watch bits -/

theorem State.watch_unwatch (s : State) {w : Nat} (h : w ∈ s.unwatch.watch) : w ∈ s.watch := (List.mem_filter.mp h).1

theorem State.unwatch_frame (s : State) :
    s.unwatch = { s with hbm := s.unwatch.hbm, hbmGen := s.unwatch.hbmGen, poison := s.unwatch.poison, watch := s.unwatch.watch } :=
  s.rewatched_unwatch.1

/-! ## Digests -/

theorem State.digestOf_fields {s : State} {task : Word} {part : Nat} {d : Digest} (h : s.digestOf task part = some d) :
    d.task = task ∧ d.part = part := by
  have hp := List.find?_some h
  simpa using hp

theorem State.digestPoison_clean {s : State} (h : s.poison = []) (d : Digest) : s.digestPoison d = [] := by
  have hb : ∀ pa n, s.hbmPoison pa n = [] := fun pa n => by simp [State.hbmPoison, h]
  have hs : s.scalePoison d.source d.scales = [] := by
    unfold State.scalePoison
    split
    · rfl
    · rw [h]
      rfl
  unfold State.digestPoison
  split
  · simp [hb]
  · rw [State.windowPoison, h, hs]
    rfl

/-- A digest that enters the cache changes the cache alone (R87). -/
theorem State.cacheDigest_frame (s : State) (tenant : Nat) (d : Digest) (v : BitVec 256) :
    ∃ n l, s.cacheDigest tenant d v = { s with stamp := n, digestCache := l } := by
  unfold State.cacheDigest
  split
  · exact ⟨s.stamp, s.digestCache, rfl⟩
  · exact ⟨_, _, rfl⟩

/-- A key that is formed is the task's; the lookup may count as a use of its entry (R88). -/
theorem State.formKey_frame (s : State) (t : Task) : s.formKey t = s ∨
    ∃ key place n l, s.formKey t = { s.setTask { t with key := key, larder := place } with stamp := n, results := l } := by
  unfold State.formKey
  split
  · dsimp only
    split
    · exact .inr ⟨_, _, _, _, rfl⟩
    · exact .inr ⟨_, _, s.stamp, s.results, rfl⟩
  · exact .inl rfl

/-- After its key is formed a task is the same but for the key (R88). -/
theorem State.formKey_setTask (s : State) (t : Task) : ∃ x tasks n l,
    (s.setTask t).formKey t = { s with tasks := tasks, stamp := n, results := l } ∧
      mapFind tasks t.id.toNat = some x ∧ x.digests = t.digests ∧ x.void = t.void ∧ x.phase = t.phase := by
  obtain e | ⟨key, place, n, l, e⟩ := State.formKey_frame (s.setTask t) t
  · exact ⟨t, _, s.stamp, s.results, e, s.task?_setTask_self t, rfl, rfl, rfl⟩
  · exact ⟨_, _, n, l, e, State.task?_setTask_self (s.setTask t) { t with key := key, larder := place }, rfl, rfl, rfl⟩

section
variable {task : Word} {part : Nat} {d : Digest} {k : Task} {s : State}

theorem digestDone_none (h : s.digestOf task part = none) : does (.digestDone task part) s same := by
  refine ⟨digestPart task part s, rfl, ?_⟩
  rw [digestPart, h]
  rfl

variable (hd : s.digestOf task part = some d) (hk : s.task? task.toNat = some k)
include hd hk

/-- A digest that meets no poison is the task's (R88). -/
theorem State.finishDigest_clean (hv : k.void = false) (hp : s.digestPoison d = []) :
    s.finishDigest d = (((({ s with digests := s.digests.filter fun x => x != d } : State).cacheDigest k.tenant d (s.digestValue k.tenant d)).setTask
      { k with digests := mapPut k.digests part (s.digestValue k.tenant d) }).formKey
        { k with digests := mapPut k.digests part (s.digestValue k.tenant d) }).unwatch := by
  obtain ⟨ht, hpart⟩ := State.digestOf_fields hd
  unfold State.finishDigest
  dsimp only
  rw [ht, hk]
  dsimp only
  rw [hp]
  dsimp only
  rw [hv, hpart]
  rfl

theorem State.finishDigest_poisoned (hp : s.digestPoison d ≠ []) :
    s.finishDigest d = (((({ s with digests := s.digests.filter fun x => x != d } : State).setTask { k with void := true }).reportUnits
      (s.digestPoison d) 5 k.id)).unwatch := by
  obtain ⟨ht, -⟩ := State.digestOf_fields hd
  unfold State.finishDigest
  dsimp only
  rw [ht, hk]
  dsimp only
  split
  · rename_i h
    exact absurd h hp
  · rfl

theorem digestDone_clean (hi : k.id = task) (hv : k.void = false) (hp : s.poison = []) :
    does (.digestDone task part) s fun s t => d ∉ t.digests ∧ sameUnwatched s t ∧ t.coreTab = s.coreTab ∧
      ∃ x, t.task? task.toNat = some x ∧ mapGet x.digests part 0 = s.digestValue k.tenant d ∧ x.void = false ∧ x.phase = k.phase := by
  refine ⟨digestPart task part s, rfl, ?_⟩
  have he : digestPart task part s = s.finishDigest d := by rw [digestPart, hd]
  rw [he, State.finishDigest_clean hd hk hv (State.digestPoison_clean hp d)]
  obtain ⟨n, l, ec⟩ := State.cacheDigest_frame { s with digests := s.digests.filter fun x => x != d } k.tenant d (s.digestValue k.tenant d)
  rw [ec]
  obtain ⟨x, tasks, n', l', ef, hx, hxd, hxv, hxp⟩ := State.formKey_setTask
    { s with digests := s.digests.filter fun x => x != d, stamp := n, digestCache := l }
    { k with digests := mapPut k.digests part (s.digestValue k.tenant d) }
  rw [ef]
  obtain ⟨eu, hb⟩ := State.rewatched_unwatch { s with
    digests := s.digests.filter fun x => x != d, stamp := n', digestCache := l, tasks := tasks, results := l' }
  refine ⟨fun hm => ?_, fun _ a ha => hb a ha, by rw [eu], x, ?_, ?_, hxv.trans hv, hxp⟩
  · rw [eu] at hm
    exact absurd (List.mem_filter.mp hm).2 (by simp)
  · rw [eu, ← hi]
    exact hx
  · rw [hxd]
    simp

theorem digestDone_poisoned (hi : k.id = task) (hp : s.digestPoison d ≠ []) :
    does (.digestDone task part) s fun _ t => d ∉ t.digests ∧ ∃ x, t.task? task.toNat = some x ∧ x.void = true := by
  refine ⟨digestPart task part s, rfl, ?_⟩
  have he : digestPart task part s = s.finishDigest d := by rw [digestPart, hd]
  rw [he, State.finishDigest_poisoned hd hk hp]
  obtain ⟨-, ⟨f, hf⟩, hdig, -⟩ := State.background_reportUnits
    (({ s with digests := s.digests.filter fun x => x != d } : State).setTask { k with void := true }) (s.digestPoison d) 5 k.id
  rw [State.unwatch_frame]
  refine ⟨fun hm => ?_, ?_⟩
  · exact absurd (List.mem_filter.mp (hdig d hm)).2 (by simp)
  · refine ⟨{ k with void := true || f (task.toNat, { k with void := true }) }, ?_, rfl⟩
    unfold State.task?
    dsimp only
    rw [hf, mapFind_voided]
    have hm : mapFind (({ s with digests := s.digests.filter fun x => x != d } : State).setTask { k with void := true }).tasks task.toNat =
        some { k with void := true } := by
      rw [← hi]
      exact State.task?_setTask_self _ _
    rw [hm]
    rfl

end

/-! ## Watch notices -/

theorem watchNotice_unset {granule : Nat} {s : State} (h : s.watched granule = false) : does (.watchNotice granule) s same := by
  refine ⟨noticeGranule granule s, rfl, ?_⟩
  rw [noticeGranule, if_neg (by simp [h])]
  rfl

/-- A notice that is accepted: every digest, cached digest and entry that covers the granule goes, and the keys of the tasks that read
it are void (R86). -/
theorem State.acceptNotice_parts (s : State) (g : Nat) :
    let t := s.acceptNotice g
    t.digests = s.digests.filter (fun d => !(d.granules.contains g)) ∧
    t.digestCache = s.digestCache.filter (fun d => !(d.granules.contains g)) ∧
    t.results = s.results.filter (fun r => !((s.extentGranules r.tenant r.block r.blocks).contains g)) ∧
    t.tasks = voided (fun p => p.2.granules.contains g && p.2.phase != TaskPhase.copying) s.tasks ∧
    ∀ w, w ∈ t.watch → w ∈ s.watch := by
  intro t
  have hw : ∀ w, w ∈ t.watch → w ∈ s.watch := fun w h => State.watch_unwatch
    { s with
      digests := s.digests.filter fun d => !(d.granules.contains g)
      digestCache := s.digestCache.filter fun d => !(d.granules.contains g)
      tasks := s.tasks.map fun p =>
        if p.2.granules.contains g && p.2.phase != TaskPhase.copying then (p.1, { p.2 with void := true }) else p
      results := s.results.filter fun r => !((s.extentGranules r.tenant r.block r.blocks).contains g) } h
  have e : t = _ := State.unwatch_frame
    { s with
      digests := s.digests.filter fun d => !(d.granules.contains g)
      digestCache := s.digestCache.filter fun d => !(d.granules.contains g)
      tasks := s.tasks.map fun p =>
        if p.2.granules.contains g && p.2.phase != TaskPhase.copying then (p.1, { p.2 with void := true }) else p
      results := s.results.filter fun r => !((s.extentGranules r.tenant r.block r.blocks).contains g) }
  exact ⟨by rw [e], by rw [e], by rw [e], by rw [e]; rfl, hw⟩

theorem watchNotice_set {granule : Nat} {s : State} (h : s.watched granule = true) :
    does (.watchNotice granule) s fun s t =>
      (∀ x, x ∈ t.digests ↔ x ∈ s.digests ∧ granule ∉ x.granules) ∧
      (∀ x, x ∈ t.digestCache ↔ x ∈ s.digestCache ∧ granule ∉ x.granules) ∧
      (∀ r, r ∈ t.results ↔ r ∈ s.results ∧ granule ∉ s.extentGranules r.tenant r.block r.blocks) ∧
      (∀ j x, s.task? j = some x → t.task? j =
        some (if granule ∈ x.granules ∧ x.phase ≠ .copying then { x with void := true } else x)) ∧
      (∀ w, w ∈ t.watch → w ∈ s.watch) ∧ sameUnwatched s t ∧
      t = { s with digests := t.digests, digestCache := t.digestCache, results := t.results, tasks := t.tasks, watch := t.watch
                   hbm := t.hbm, hbmGen := t.hbmGen, poison := t.poison } := by
  refine ⟨noticeGranule granule s, rfl, ?_⟩
  rw [noticeGranule, if_pos h]
  obtain ⟨e, hb⟩ := s.noticed_acceptNotice granule
  obtain ⟨hd, hc, hr, ht, hw⟩ := s.acceptNotice_parts granule
  refine ⟨fun x => by rw [hd]; simp, fun x => by rw [hc]; simp, fun r => by rw [hr]; simp, fun j x hx => ?_, hw, fun _ a ha => hb a ha, e⟩
  unfold State.task? at *
  rw [ht, mapFind_voided, hx]
  by_cases hg : granule ∈ x.granules ∧ x.phase ≠ .copying
  · simp [hg]
  · rw [if_neg hg]
    have hf : (x.granules.contains granule && x.phase != TaskPhase.copying) = false := by simpa using hg
    rw [Option.map_some]
    dsimp only
    rw [hf, Bool.or_false]

theorem larderEvents_hold : larderEvents := fun _ _ _ _ _ _ =>
  ⟨digestDone_none, digestDone_clean, digestDone_poisoned, watchNotice_unset, watchNotice_set⟩

end Sys2Proof.Machine
end

section
/-! A pre-empted task before its save: its loads complete, what takes effect at the end of a clock does, and its writes are performed
(R185, R219). -/

open Sys2Proof Sys2Proof.Machine Sys2Proof.Claims

namespace Sys2Proof.Machine

/-! ## What comes before a save -/

/-- What completes before a save: as `aside`, with the ranks of the cores and the form of every byte space kept. -/
def settling (s t : State) : Prop :=
  aside s t ∧ (∀ c, (t.core c).rank = (s.core c).rank) ∧ (s.memoryWf = true → t.memoryWf = true)

theorem settling_refl (s : State) : settling s s := ⟨aside_refl s, fun _ => rfl, fun h => h⟩

theorem settling_trans {s t u : State} (h : settling s t) (k : settling t u) : settling s u := by
  obtain ⟨ha, hr, hm⟩ := h
  obtain ⟨ka, kr, km⟩ := k
  exact ⟨aside_trans ha ka, fun c => (kr c).trans (hr c), fun h => km (hm h)⟩

theorem settling_foldl {α : Type} {g : State → α → State} (hg : ∀ s x, settling s (g s x)) (l : List α) (s : State) :
    settling s (l.foldl g s) := by
  induction l generalizing s with
  | nil => exact settling_refl s
  | cons x l ih => exact settling_trans (hg s x) (ih (g s x))

theorem settling_of_background {s t : State} (h : background s t) (hm : s.memoryWf = true → t.memoryWf = true) : settling s t := by
  refine ⟨aside_of_background h, fun c => ?_, hm⟩
  obtain ⟨-, -, -, -, -, hc⟩ := h
  rw [hc c]

/-- A core with the rank and the local stores of another. -/
def Core.alike (q r : Core) : Prop := r.rank = q.rank ∧ r.w = q.w ∧ r.a = q.a ∧ r.s = q.s

theorem Core.alike_ringWake (q : Core) (x : Nat) (r : Ring) : q.alike (q.setRing x r).wake := ⟨rfl, rfl, rfl, rfl⟩

section
variable (s : State)

theorem State.settling_setCore {c : Nat} {q : Core} (h : (s.core c).alike q) : settling s (s.setCore c q) := by
  obtain ⟨hr, hw, ha, hs⟩ := h
  refine ⟨s.aside_setCore c q, fun d => ?_, fun hm => State.memoryWf_setCore hm ?_ c⟩
  · by_cases hd : d = c
    · subst hd
      rw [State.core_setCore_self, hr]
    · rw [State.core_setCore_ne s q hd]
  · have hq := State.core_storesWf hm c
    unfold Core.storesWf at *
    rwa [hw, ha, hs]

theorem State.settling_cured (f : ErrorUnit → Bool) : settling s { s with poison := s.poison.filter f } :=
  settling_of_background (s.background_cured f) fun h => State.memoryWf_of_eq h rfl rfl rfl

theorem State.settling_drainFrom (c n : Nat) : settling s (s.drainFrom c n) := by
  have h := s.background_drainFrom c n
  refine ⟨aside_trans (s.aside_setCore c _) (aside_of_background h), fun d => ?_, fun hm => State.memoryWf_drainFrom hm c n⟩
  obtain ⟨-, -, -, -, -, hc⟩ := h
  rw [hc d]
  by_cases hd : d = c
  · subst hd
    rw [State.core_setCore_self]
  · rw [State.core_setCore_ne _ _ hd]

theorem State.settling_drainCore (c : Nat) : settling s (s.drainCore c) := s.settling_drainFrom c _

theorem State.settling_engineWrite (c : Nat) (ws : List (WriteTarget × List Byte)) : settling s (s.engineWrite c ws) :=
  settling_foldl (fun s _ => settling_trans (s.settling_drainFrom c _)
    (settling_of_background (State.background_writeAt _ _ _) fun h => State.memoryWf_writeAt h _ _)) ws s

theorem State.settling_putVec (c d bits v : Nat) : settling s (s.putVec c d bits v) := by
  have h : settling s (s.setCore c { s.core c with v := mapPut (s.core c).v d (bvSetField ((s.core c).vec d) 0 bits v) }) :=
    s.settling_setCore ⟨rfl, rfl, rfl, rfl⟩
  unfold State.putVec
  dsimp only
  split
  · exact h
  · exact settling_trans h (State.settling_cured _ _)

theorem State.settling_putSide (c d n v : Nat) : settling s (s.putSide c d n v) := by
  have h : settling s (s.setCore c { s.core c with side := mapPut (s.core c).side d (bvSetField ((s.core c).sidecar d) 0 (8 * n) v) }) :=
    s.settling_setCore ⟨rfl, rfl, rfl, rfl⟩
  unfold State.putSide
  dsimp only
  split
  · exact h
  · exact settling_trans h (State.settling_cured _ _)

theorem State.settling_setHere {q : Core} (h : s.here.alike q) : settling s (s.setHere q) := s.settling_setCore h

theorem State.settling_streamOut (v : Nat) : settling s (s.streamOut v) := by
  unfold State.streamOut
  dsimp only
  split
  · exact settling_refl s
  · split
    · exact settling_refl s
    · exact settling_trans (settling_trans (s.settling_drainCore _) (State.settling_engineWrite _ _ _))
        (State.settling_setHere _ (Core.alike_ringWake _ _ _))

theorem State.settling_restoreVecs (q : Core) (vs : List Nat) : settling s (s.restoreVecs q vs) := by
  refine settling_foldl (fun u v => ?_) vs s
  refine u.settling_setHere ?_
  exact ⟨rfl, rfl, rfl, rfl⟩

end

/-- The executing strand is of no account. -/
theorem settling_cur {s t : State} {x : Nat × Nat} (h : settling { s with cur := x } t) : settling s { t with cur := s.cur } := by
  obtain ⟨⟨e, hrest⟩, hr, hm⟩ := h
  exact ⟨⟨congrArg (fun u : State => { u with cur := s.cur }) e, hrest⟩, hr, hm⟩

/-! ## Loads that complete -/

theorem State.settling_writeLoad {s u : State} {c k : Nat} {d : LoadDst} (h : s.writeLoad c k d = some u) : settling s u := by
  unfold State.writeLoad at h
  split at h
  · cases h
    exact settling_refl s
  · cases h
    have hs : ∀ q, (s.core c).alike q → ∀ e, settling s ((s.setCore c q).clearPoison e) := fun q hq _ =>
      settling_trans (s.settling_setCore hq) (State.settling_cured _ _)
    refine hs _ ?_ _
    exact ⟨rfl, rfl, rfl, rfl⟩
  · rename_i r bits v side sv
    have put : ∀ s : State, settling s ((s.putVec c r bits v.toNat).putSide c r side sv.toNat) := fun s =>
      settling_trans (s.settling_putVec _ _ _ _) (State.settling_putSide _ _ _ _ _)
    dsimp only at h
    split at h
    · split at h
      · cases h
      · cases h
        exact settling_cur (settling_trans (settling_trans (put _) (State.settling_streamOut _ _)) (State.settling_restoreVecs _ _ _))
    · cases h
      exact put s
  · cases h

theorem State.settling_finishLoad (s : State) (c k lc : Nat) : settling s ((s.finishLoad c k lc).getD s) := by
  unfold State.finishLoad
  split
  · exact settling_refl s
  · rename_i l rest _
    cases h : s.writeLoad c k l.dst with
    | none => exact settling_refl s
    | some u => exact settling_trans (State.settling_writeLoad h) (u.settling_setCore ⟨rfl, rfl, rfl, rfl⟩)

theorem State.settling_finishLoads (s : State) (c k : Nat) : settling s (s.finishLoads c k) :=
  settling_foldl (fun s _ => s.settling_finishLoad c k _) _ s

/-! ## The end of a clock -/

theorem Core.alike_settle (q : Core) : q.alike q.settle := by
  unfold Core.settle Core.settleBarriers
  split <;> exact ⟨rfl, rfl, rfl, rfl⟩

end Sys2Proof.Machine
end

section
/-! The save of a pre-empted task (R74, R185, R219 to R222, R225). -/

open Sys2Proof Sys2Proof.Machine Sys2Proof.Claims

namespace Sys2Proof.Machine

/-! ## The gang barrier settles -/

/-- Cores whose event latches alone may differ. -/
def Core.woke (q r : Core) : Prop := r = { q with strands := r.strands }

theorem State.wakeAll_cores (cs : List Nat) (s : State) : ∃ coreTab,
    cs.foldl (fun s c => s.setCore c (s.core c).wake) s = { s with coreTab := coreTab } ∧
      ∀ d, (s.core d).woke (State.core { s with coreTab := coreTab } d) := by
  induction cs generalizing s with
  | nil => exact ⟨s.coreTab, rfl, fun _ => rfl⟩
  | cons c cs ih =>
    obtain ⟨coreTab, e, hw⟩ := ih (s.setCore c (s.core c).wake)
    refine ⟨coreTab, e, fun d => ?_⟩
    have h := hw d
    by_cases hd : d = c
    · subst hd
      rw [State.core_setCore_self] at h
      exact h
    · rw [State.core_setCore_ne _ _ hd] at h
      exact h

theorem State.sendAll_frame (l : List Nat) (kind : PodKind) (task : Word) (attempt : Nat) (s : State) : ∃ podOut ports,
    l.foldl (fun s p => s.sendPod p kind task attempt) s = { s with podOut := podOut, ports := ports } := by
  induction l generalizing s with
  | nil => exact ⟨s.podOut, s.ports, rfl⟩
  | cons p l ih =>
    obtain ⟨ports, e⟩ := s.sendPod_frame p kind task attempt
    obtain ⟨podOut', ports', e'⟩ := ih (s.sendPod p kind task attempt)
    exact ⟨podOut', ports', by rw [List.foldl_cons, e', e]⟩

/-- The decrements of a gang barrier change the barrier of its task, latches and what leaves for other packages (R123, R124). -/
theorem State.settleBg_frame {s : State} {id : Nat} {t : Task} (h : s.task? id = some t) :
    ∃ tasks coreTab podOut ports, s.settleBg id = { s with tasks := tasks, coreTab := coreTab, podOut := podOut, ports := ports } ∧
      (tasks = s.tasks ∨ ∃ b, tasks = mapPut s.tasks t.id.toNat { t with bg := b }) ∧
      ∀ d, (s.core d).woke (State.core { s with coreTab := coreTab } d) := by
  unfold State.settleBg
  rw [h]
  dsimp only
  split
  · split
    · exact ⟨_, s.coreTab, s.podOut, s.ports, rfl, .inr ⟨_, rfl⟩, fun _ => rfl⟩
    · obtain ⟨coreTab, e, hw⟩ := State.wakeAll_cores t.cores (s.setTask { t with bg := t.bg.settle })
      rw [e]
      obtain ⟨podOut, ports, e'⟩ := State.sendAll_frame
        ((State.peersOf { s.setTask { t with bg := t.bg.settle } with coreTab := coreTab }) t) (.barrier (.phase t.bg.settle.phase)) t.id t.attempt
        { s.setTask { t with bg := t.bg.settle } with coreTab := coreTab }
      rw [e']
      exact ⟨_, coreTab, podOut, ports, rfl, .inr ⟨_, rfl⟩, hw⟩
  · split
    · obtain ⟨ports, e⟩ := State.sendPod_frame
        (s.setTask { t with bg := { t.bg with arrivals := 0, ca := t.bg.ca - (t.bg.arrivals : Int) } }) (launcherOf t.id)
        (.barrier (.arrivals t.bg.arrivals)) t.id t.attempt
      rw [e]
      exact ⟨_, s.coreTab, _, ports, rfl, .inr ⟨_, rfl⟩, fun _ => rfl⟩
    · exact ⟨s.tasks, s.coreTab, s.podOut, s.ports, rfl, .inl rfl, fun _ => rfl⟩

theorem State.memoryWf_settleBg {s : State} (h : s.memoryWf = true) (id : Nat) : (s.settleBg id).memoryWf = true := by
  unfold State.settleBg
  split
  · exact h
  · rename_i t ht
    have hset : ∀ b, (s.setTask { t with bg := b }).memoryWf = true := fun b => State.memoryWf_of_eq h rfl rfl rfl
    split
    · dsimp only
      split
      · exact hset _
      · refine State.memoryWf_foldl (fun u p hu => State.memoryWf_sendPod hu p _ _ _) _ ?_
        exact State.memoryWf_foldl (fun u c hu => State.memoryWf_setCore (q := (u.core c).wake) hu (State.core_storesWf hu c) c) _ (hset _)
    · split
      · exact State.memoryWf_sendPod (hset _) _ _ _ _
      · exact h

/-! ## The state that is saved -/

/-- The state of the part when the loads of a task have completed and its writes are performed. -/
def State.quiesced (s : State) (k : Task) : State :=
  k.cores.foldl State.drainCore (k.cores.foldl (fun s c => s.setCore c (s.core c).settle)
    (k.cores.foldl (fun s c => (upTo (s.core c).strands.length).foldl (fun s j => s.finishLoads c j) s) s))

theorem State.settling_quiesced (s : State) (k : Task) : settling s (s.quiesced k) := by
  refine settling_trans (settling_trans (settling_foldl (fun u c => settling_foldl (fun v j => v.settling_finishLoads c j) _ u) _ s)
    (settling_foldl (fun u c => ?_) _ _)) (settling_foldl (fun u c => u.settling_drainCore c) _ _)
  refine u.settling_setCore ?_
  exact Core.alike_settle _

theorem State.drainCore_writes (s : State) (c : Nat) : ((s.drainCore c).core c).writes = [] := by
  obtain ⟨-, -, -, -, -, hc⟩ := s.background_drainCore c
  have h := congrArg Core.writes (hc c)
  rw [State.core_setCore_self] at h
  exact h

theorem State.quiesced_idle (s : State) {k : Task} {d : Nat} (h : k.cores = [d]) : ((s.quiesced k).core d).writes = [] := by
  unfold State.quiesced
  rw [h]
  exact State.drainCore_writes _ d

/-- The slots of the save region that tasks hold. -/
def slotsHeld (m : Map Task) : List Nat := m.flatMap fun p => p.2.saved.map fun x => x.2.slot

theorem slotsHeld_voided (f : Nat × Task → Bool) (m : Map Task) : slotsHeld (voided f m) = slotsHeld m := by
  unfold slotsHeld voided
  rw [List.flatMap_map]
  refine List.flatMap_congr fun p _ => ?_
  dsimp only
  split <;> rfl

/-- A task replaced by one with the same saved contexts holds the same slots. -/
theorem slotsHeld_mapPut {m : Map Task} {lo : Option Nat} (h : mapSorted lo m = true) {i : Nat} {t u : Task} (ht : mapFind m i = some t)
    (hu : u.saved = t.saved) : slotsHeld (mapPut m i u) = slotsHeld m := by
  induction m generalizing lo with
  | nil => cases ht
  | cons p m ih =>
    obtain ⟨j, v⟩ := p
    simp only [mapSorted, Bool.and_eq_true] at h
    unfold mapFind at ht
    unfold mapPut
    by_cases hj : j = i
    · rw [if_pos hj] at ht
      cases ht
      rw [if_neg (by omega), if_pos hj.symm]
      simp [slotsHeld, hu]
    · rw [if_neg hj] at ht
      have hlt : ¬ i < j := fun hlt => by
        have hi : j < i := mapSorted_keys h.2 (i, t) (mem_of_mapFind ht)
        omega
      rw [if_neg hlt, if_neg (fun e => hj e.symm)]
      have := ih h.2 ht
      simp only [slotsHeld, List.flatMap_cons] at this ⊢
      rw [this]

theorem State.freeSlots_congr {s t : State} (h : slotsHeld t.tasks = slotsHeld s.tasks) (hn : t.saveSlots = s.saveSlots) :
    t.freeSlots = s.freeSlots := by
  unfold State.freeSlots
  dsimp only
  rw [hn, show (t.tasks.flatMap fun p => p.2.saved.map fun x => x.2.slot) = slotsHeld t.tasks from rfl, h]
  rfl

/-- The state of the part that the save reads: all of the gang's loads, writes and decrements have taken effect. -/
def State.toSave (s : State) (k : Task) : State := (s.quiesced k).settleBg k.id.toNat

/-- What the save reads of the state before: the task but for its barrier, the free slots, the queues and the ranks; the writes of
its cores are performed (R185, R219). -/
structure saveRead (k : Task) (s v : State) (t : Task) : Prop where
  task : v.task? k.id.toNat = some t
  same : t = { k with void := t.void, bg := t.bg }
  slots : v.freeSlots = s.freeSlots
  base : v.saveBase = s.saveBase
  fifo : ∀ n, (v.queue n).fifo = (s.queue n).fifo
  rank : ∀ c, (v.core c).rank = (s.core c).rank
  memory : s.memoryWf = true → v.memoryWf = true
  idle : ∀ d, k.cores = [d] → (v.core d).writes = []

theorem State.toSave_reads {s : State} {k : Task} (hk : s.task? k.id.toNat = some k) (hs : mapSorted none s.tasks = true) :
    ∃ t, saveRead k s (s.toSave k) t := by
  obtain ⟨⟨e, ⟨f, hf⟩, -, -, hq⟩, hr, hm⟩ := s.settling_quiesced k
  have hv : (s.quiesced k).task? k.id.toNat = some { k with void := k.void || f (k.id.toNat, k) } := by
    unfold State.task? at *
    rw [hf, mapFind_voided, hk]
    rfl
  have hslots : slotsHeld (s.quiesced k).tasks = slotsHeld s.tasks := by rw [hf, slotsHeld_voided]
  have hsort : mapSorted none (s.quiesced k).tasks = true := by rw [hf]; exact mapSorted_voided f hs
  have hsave : (s.quiesced k).saveSlots = s.saveSlots ∧ (s.quiesced k).saveBase = s.saveBase := by rw [e]; exact ⟨rfl, rfl⟩
  obtain ⟨tasks, coreTab, podOut, ports, eb, ht, hw⟩ := State.settleBg_frame hv
  have hrank : ∀ c, ((s.toSave k).core c).rank = (s.core c).rank := fun c => by
    unfold State.toSave
    rw [eb]
    have h := congrArg Core.rank (hw c)
    exact h.trans (hr c)
  have hmem : s.memoryWf = true → (s.toSave k).memoryWf = true := fun h => State.memoryWf_settleBg (hm h) _
  have hfifo : ∀ n, ((s.toSave k).queue n).fifo = (s.queue n).fifo := fun n => by
    unfold State.toSave
    rw [eb]
    have h := congrArg Queue.fifo (hq n)
    exact h
  have hbase : (s.toSave k).saveBase = s.saveBase := by
    unfold State.toSave
    rw [eb]
    exact hsave.2
  have hidle : ∀ d, k.cores = [d] → ((s.toSave k).core d).writes = [] := fun d h => by
    unfold State.toSave
    rw [eb]
    have hd := congrArg Core.writes (hw d)
    exact hd.trans (s.quiesced_idle h)
  have hfree : slotsHeld tasks = slotsHeld s.tasks → (s.toSave k).freeSlots = s.freeSlots := fun h =>
    State.freeSlots_congr (by unfold State.toSave; rw [eb]; exact h) (by unfold State.toSave; rw [eb]; exact hsave.1)
  obtain h | ⟨b, h⟩ := ht
  · refine ⟨{ k with void := k.void || f (k.id.toNat, k) }, ⟨?_, rfl, hfree (h ▸ hslots), hbase, hfifo, hrank, hmem, hidle⟩⟩
    unfold State.toSave
    rw [eb, h]
    exact hv
  · refine ⟨{ k with void := k.void || f (k.id.toNat, k), bg := b }, ⟨?_, rfl, hfree ?_, hbase, hfifo, hrank, hmem, hidle⟩⟩
    · unfold State.toSave
      rw [eb, h]
      exact mapFind_mapPut_self _ _ _
    · rw [h]
      exact (slotsHeld_mapPut (u := { k with void := k.void || f (k.id.toNat, k), bg := b }) hsort hv rfl).trans hslots

end Sys2Proof.Machine
end

section
/-! A save slot written whole: the bytes of its header (R221, R222). -/

open Sys2Proof Sys2Proof.Machine Sys2Proof.Claims

namespace Sys2Proof.Machine

/-! ## Spliced bytes -/

/-- The first cell of an address decides, and the space below where there is none. -/
theorem byteAt_putCells {m : Bytes} (h : Bytes.wf m = true) (cells : Bytes) (a : Nat) :
    byteAt (cells.foldr (fun (c : Host.Cell) m => putByte m c.1 c.2) m) a = mapGet cells a (byteAt m a) := by
  induction cells with
  | nil => rfl
  | cons c cells ih =>
    rw [List.foldr_cons]
    by_cases hc : c.1 = a
    · rw [hc, byteAt_putByte_self (Bytes.wf_putCells cells h)]
      simp [mapGet, mapFind, hc]
    · rw [byteAt_putByte_ne _ _ (Ne.symm hc), ih]
      simp [mapGet, mapFind, hc]

theorem mapFind_absent {α : Type} {m : Map α} {a : Nat} (h : ∀ p, p ∈ m → p.1 ≠ a) : mapFind m a = none := by
  induction m with
  | nil => rfl
  | cons p m ih =>
    unfold mapFind
    rw [if_neg (h p List.mem_cons_self)]
    exact ih fun q hq => h q (List.mem_cons_of_mem p hq)

theorem mapFind_append_absent {α : Type} {l m : Map α} {a : Nat} (h : ∀ p, p ∈ m → p.1 ≠ a) : mapFind (l ++ m) a = mapFind l a := by
  induction l with
  | nil => exact mapFind_absent h
  | cons p l ih =>
    rw [List.cons_append]
    unfold mapFind
    rw [ih]

/-- A spliced range reads as its cells. -/
theorem byteAt_spliceBytes {m : Bytes} (h : Bytes.wf m = true) {lo hi a : Nat} (hlo : lo ≤ a) (hhi : a < hi) (cells : Bytes) :
    byteAt (spliceBytes m lo hi cells) a = mapGet cells a unlistedByte := by
  have habove := Bytes.wf_filter (fun c => decide (hi ≤ c.1)) h
  have hbelow : mapFind (m.filter fun c => decide (c.1 < lo)) a = none := mapFind_absent fun p hp => by
    have hlt := (List.mem_filter.mp hp).2
    simp only [decide_eq_true_eq] at hlt
    omega
  have hnone : mapFind (m.filter fun c => decide (hi ≤ c.1)) a = none := mapFind_absent fun p hp => by
    have hle := (List.mem_filter.mp hp).2
    simp only [decide_eq_true_eq] at hle
    omega
  unfold spliceBytes
  rw [byteAt_putCells (Bytes.wf_putCells cells habove), byteAt_putCells habove]
  unfold byteAt mapGet
  rw [hbelow, hnone]
  rfl

/-- A run that reads as the list `bs` up to the end of `pre`. -/
theorem bytesAt_prefix {m : Bytes} {a : Nat} {pre post : List Byte}
    (h : ∀ i, i < pre.length → byteAt m (a + i) = (pre ++ post).getD i unlistedByte) : bytesAt m a pre.length = pre := by
  refine List.ext_getElem (bytesAt_length m a _) fun i hi hp => ?_
  simp only [bytesAt_eq_map, List.getElem_map, List.getElem_range]
  rw [h i hp, List.getD_append _ _ _ _ hp, List.getD_eq_getElem _ _ hp]

/-! ## Pieces -/

theorem pieceCells_keys {base : Nat} {p : Nat × List Byte} {c : Host.Cell} (h : c ∈ pieceCells base p) : base + p.1 ≤ c.1 := by
  obtain ⟨b, -, rfl⟩ := List.mem_map.mp h
  exact Nat.le_add_right _ _

/-- The cells of a run of bytes, zeros left out, read as the run. -/
theorem mapGet_cells (base : Nat) (bs : List Byte) (n i : Nat) :
    mapGet (((bs.zipIdx n).filter fun b => b.1 != unlistedByte).map fun b => (base + b.2, b.1)) (base + n + i) unlistedByte =
      bs.getD i unlistedByte := by
  induction bs generalizing n i with
  | nil => rfl
  | cons b bs ih =>
    have hrest : ∀ j, mapGet (((bs.zipIdx (n + 1)).filter fun b => b.1 != unlistedByte).map fun b => (base + b.2, b.1))
        (base + n + (j + 1)) unlistedByte = bs.getD j unlistedByte := fun j => by
      rw [← ih (n + 1) j, show base + n + (j + 1) = base + (n + 1) + j by omega]
    have hfirst : mapFind (((bs.zipIdx (n + 1)).filter fun b => b.1 != unlistedByte).map fun b => (base + b.2, b.1)) (base + n) = none := by
      refine mapFind_absent fun p hp => ?_
      obtain ⟨x, hx, rfl⟩ := List.mem_map.mp hp
      have hle := List.le_snd_of_mem_zipIdx (List.mem_filter.mp hx).1
      dsimp only
      omega
    rw [List.zipIdx_cons]
    by_cases hb : b = unlistedByte
    · rw [List.filter_cons_of_neg (by simp [hb])]
      cases i with
      | zero => simp [mapGet, hfirst, hb]
      | succ j => exact hrest j
    · rw [List.filter_cons_of_pos (by simp [hb]), List.map_cons]
      cases i with
      | zero => simp [mapGet, mapFind]
      | succ j =>
        rw [List.getD_cons_succ, ← hrest j]
        unfold mapGet
        rw [mapFind, if_neg (by dsimp only; omega)]

/-! ## The pieces behind the header -/

/-- Pieces that lie behind the header of a slot (R222). -/
def behind (l : List (Nat × List Byte)) : Prop := ∀ p, p ∈ l → 0x1000 ≤ p.1

theorem behind_append {l m : List (Nat × List Byte)} (hl : behind l) (hm : behind m) : behind (l ++ m) := fun p h =>
  (List.mem_append.mp h).elim (hl p) (hm p)

theorem behind_map {α : Type} (l : List α) {f : α → Nat × List Byte} (hf : ∀ x, 0x1000 ≤ (f x).1) : behind (l.map f) := fun p h => by
  obtain ⟨x, -, rfl⟩ := List.mem_map.mp h
  exact hf x

theorem behind_flatMap {α : Type} (l : List α) {f : α → List (Nat × List Byte)} (hf : ∀ x, behind (f x)) :
    behind (l.flatMap f) := fun p h => by
  obtain ⟨x, -, hx⟩ := List.mem_flatMap.mp h
  exact hf x p hx

theorem behind_entryPieces (e : Nat) (all rs : List Rec) (i list : Nat) : behind (entryPieces e all rs i list) := by
  induction rs generalizing i list with
  | nil => exact fun p h => by cases h
  | cons r rs ih =>
    unfold entryPieces
    split
    · exact ih i list
    · refine List.forall_mem_cons.mpr ⟨?_, ih _ _⟩
      dsimp only
      omega

theorem behind_packPieces (bs : List (List Byte)) {at_ : Nat} (ha : 0x1000 ≤ at_) : behind (packPieces bs at_) := by
  induction bs generalizing at_ with
  | nil => exact fun p h => by cases h
  | cons b bs ih => exact List.forall_mem_cons.mpr ⟨ha, ih (Nat.le_trans ha (Nat.le_add_right _ _))⟩

/-- A piece at a fixed offset plus another. -/
theorem offset_le {base n : Nat} (h : 0x1000 ≤ base) : 0x1000 ≤ base + n := Nat.le_trans h (Nat.le_add_right _ _)

theorem Core.behind_plainPieces (q : Core) (live : List Nat) (lists : List (List Byte)) : behind (q.plainPieces live lists) := by
  unfold Core.plainPieces
  refine behind_append (behind_append (behind_append (behind_append (behind_append (behind_append (behind_append (behind_append
    (behind_append (behind_append (behind_append (behind_append ?handles ?rings) ?barriers) ?pf) ?entries) ?words) ?counts) ?qs) ?qv)
    ?v) ?side) ?z) ?lists
  case handles | rings | barriers | qs | qv | v | side | z => exact behind_map _ fun p => offset_le (by decide)
  case pf => exact behind_map _ fun p => offset_le (offset_le (by decide))
  case entries => exact behind_flatMap _ fun e => behind_entryPieces e _ _ _ _
  case words => exact behind_flatMap _ fun e => behind_map _ fun p => offset_le (offset_le (by decide))
  case counts => exact List.forall_mem_singleton.mpr (by decide : 0x1000 ≤ 0x23000)
  case lists => exact behind_packPieces lists (by decide)

theorem slotPieces_eq (t : Task) (q : Core) (held : List Bool) (live : List Nat) (data : List (Nat × Nat × List Byte))
    (lists : List (List Byte)) : ∃ l, slotPieces t q held live data lists = (0, slotHeader t q live data) :: l ∧ behind l := by
  refine ⟨_, rfl, behind_append (behind_append (behind_map _ fun p => offset_le (by decide)) ?_) (behind_packPieces _ (by decide))⟩
  split
  · exact fun p h => by cases h
  · exact q.behind_plainPieces live lists

/-! ## The header of a slot -/

/-- The first bytes of a header: task, tenant and rank (R222). -/
def headerStart (t : Task) (q : Core) : List Byte := leBytes 8 t.id.toNat ++ leBytes 2 t.tenant ++ leBytes 2 q.rank

theorem headerStart_length (t : Task) (q : Core) : (headerStart t q).length = 12 := by
  simp [headerStart, leBytes_length]

theorem slotHeader_start (t : Task) (q : Core) (live : List Nat) (data : List (Nat × Nat × List Byte)) :
    ∃ post, slotHeader t q live data = headerStart t q ++ post := by
  unfold slotHeader headerStart
  simp only [List.append_assoc]
  exact ⟨_, rfl⟩

/-- A filled slot begins with the bytes of the first piece. -/
theorem mapGet_pieces {base i : Nat} (hi : i < 0x1000) (bs : List Byte) {l : List (Nat × List Byte)} (hl : behind l) :
    mapGet (((0, bs) :: l).flatMap (pieceCells base)) (base + i) unlistedByte = bs.getD i unlistedByte := by
  have habsent : ∀ c, c ∈ l.flatMap (pieceCells base) → c.1 ≠ base + i := fun c hc => by
    obtain ⟨p, hp, hc⟩ := List.mem_flatMap.mp hc
    have hoff := hl p hp
    have hkey := pieceCells_keys hc
    omega
  rw [List.flatMap_cons]
  unfold mapGet
  rw [mapFind_append_absent habsent]
  exact mapGet_cells base bs 0 i

theorem State.hbmFill_hbm (s : State) (gen pa n : Nat) (cells : Bytes) :
    (s.hbmFill gen pa n cells).hbm = spliceBytes (s.watchWrite pa n).hbm pa (pa + n) cells := by
  unfold State.hbmFill State.hbmCured
  dsimp only
  split <;> rfl

/-- The slot of a saved core begins with its task, its tenant and its rank. -/
theorem State.writeSaved_header {s : State} (h : s.memoryWf = true) (t : Task) (c : Nat) (x : SavedCore) :
    bytesAt (s.writeSaved t c x).hbm (s.saveBase + slotBytes * x.slot) 12 = headerStart t x.core := by
  obtain ⟨l, hl, hb⟩ := slotPieces_eq t x.core ((s.core c).strands.map fun y => y.hold.isSome || y.knext)
    (x.core.livePatches t t.covers) (s.saveData t c) ((s.saveLists c).map fun d => d.2.2)
  obtain ⟨post, hp⟩ := slotHeader_start t x.core (x.core.livePatches t t.covers) (s.saveData t c)
  have hlen := headerStart_length t x.core
  have hwf := State.memoryWf_watchWrite h (s.saveBase + slotBytes * x.slot) slotBytes
  unfold State.writeSaved State.writeSave
  dsimp only
  rw [hl, hp, State.hbmFill_hbm, ← hlen]
  refine bytesAt_prefix (post := post) fun i hi => ?_
  rw [byteAt_spliceBytes ((State.memoryWf_iff _).mp hwf).1 (Nat.le_add_right _ _) (by unfold slotBytes; omega)]
  exact mapGet_pieces (by omega) _ hb

end Sys2Proof.Machine
end

section
/-! PREEMPTION_COMPLETE (R72, R74, R185, R219 to R225). -/

open Sys2Proof Sys2Proof.Machine Sys2Proof.Claims

namespace Sys2Proof.Machine

/-! ## The steps of a save -/

/-- The context that a save takes of core `c`, for a slot. -/
def State.contextOf (v : State) (t : Task) (c slot : Nat) : SavedCore := (if t.loop then v.saveLoopCore else v.saveCore) t c slot

theorem State.contextOf_slot (v : State) (t : Task) (c slot : Nat) : (v.contextOf t c slot).slot = slot := by
  unfold State.contextOf
  split <;> rfl

theorem State.contextOf_rank (v : State) (t : Task) (c slot : Nat) : (v.contextOf t c slot).core.rank = (v.core c).rank := by
  unfold State.contextOf
  split <;> rfl

/-- The contexts that a save takes of a state, by place in the gang. -/
def State.contextsOf (v : State) (t : Task) : List (Nat × SavedCore) :=
  t.cores.zipIdx.map fun p => (p.2, v.contextOf t p.1 (v.freeSlots.getD p.2 0))

/-- The slots of a task written. -/
def State.writeContexts (v : State) (t : Task) : State :=
  (t.cores.zip (v.contextsOf t)).foldl (fun s p => s.writeSaved t p.1 p.2.2) v

/-- The cores of a task given back, and its place in its FIFO taken, once its slots are written. -/
def State.giveBack (v : State) (t : Task) : State := ((v.writeContexts t).backInTurn t).vacateCores t.cores

/-- A task that is saved. -/
def Task.suspended (t : Task) (saved : List (Nat × SavedCore)) (attempt : Nat) (returned : List (Nat × Nat)) : Task :=
  { t with phase := .saved, former := t.cores, cores := [], saved := saved, patience := false, attempt := attempt, returned := returned }

/-- The tasks of a table that wait for one, waiting no more. -/
def unwaited (id : Nat) (m : Map Task) : Map Task :=
  m.map fun p => if p.2.waits = some id then (p.1, { p.2 with waits := none }) else p

theorem mapFind_unwaited (id : Nat) (m : Map Task) (j : Nat) :
    mapFind (unwaited id m) j = (mapFind m j).map fun t => if t.waits = some id then { t with waits := none } else t := by
  unfold unwaited
  rw [mapFind_map m _ fun p => by split <;> rfl]
  refine congrArg (fun f => Option.map f (mapFind m j)) (funext fun t => ?_)
  dsimp only
  split <;> rfl

/-- A save is its steps in order. -/
theorem State.saveTask_eq {s : State} {k t : Task} (h : (s.toSave k).task? k.id.toNat = some t) : ∃ attempt returned free,
    s.saveTask k = { ((s.toSave k).giveBack t).setTask (t.suspended ((s.toSave k).contextsOf t) attempt returned) with
      saveFree := free
      tasks := unwaited t.id.toNat
        (((s.toSave k).giveBack t).setTask (t.suspended ((s.toSave k).contextsOf t) attempt returned)).tasks } := by
  unfold State.saveTask State.toSave State.quiesced at *
  dsimp only
  rw [h]
  exact ⟨_, _, _, rfl⟩

theorem State.written_writeSaved (s : State) (t : Task) (c : Nat) (x : SavedCore) : written s (s.writeSaved t c x) :=
  s.written_hbmFill _ _ _ _

theorem State.written_writeContexts (v : State) (t : Task) : written v (v.writeContexts t) := by
  unfold State.writeContexts
  generalize t.cores.zip (v.contextsOf t) = l
  refine written_foldl (fun s p => ?_) l v
  exact s.written_writeSaved t p.1 p.2.2

/-- A task at the head of its FIFO. -/
theorem State.backInTurn_frame (s : State) {t : Task} (hq : t.queue < 128) : ∃ tasks, s.backInTurn t =
    { s.setQueue t.queue { s.queue t.queue with fifo := t.id.toNat :: (s.queue t.queue).fifo } with tasks := tasks } := by
  unfold State.backInTurn
  rw [if_neg (by omega)]
  dsimp only
  split
  · split
    · exact ⟨_, rfl⟩
    · exact ⟨s.tasks, rfl⟩
  · exact ⟨s.tasks, rfl⟩

/-! ## What a save leaves -/

theorem State.giveBack_fifo (v : State) {t : Task} (hq : t.queue < 128) :
    ((v.giveBack t).queue t.queue).fifo = t.id.toNat :: (v.queue t.queue).fifo := by
  obtain ⟨ew, -⟩ := v.written_writeContexts t
  obtain ⟨tasks, eb⟩ := (v.writeContexts t).backInTurn_frame hq
  obtain ⟨-, -, -, -, hv⟩ := ((v.writeContexts t).backInTurn t).aside_vacateCores t.cores
  have hqueue : (v.writeContexts t).queue t.queue = v.queue t.queue := by
    rw [ew]
    rfl
  unfold State.giveBack
  rw [hv, eb, ← hqueue]
  exact congrArg Queue.fifo (State.queue_setQueue_self _ t.queue _)

theorem State.vacateCores_hbm {s : State} {d : Nat} (h : (s.core d).writes = []) : (s.vacateCores [d]).hbm = s.hbm := by
  obtain ⟨coreTab, dies, parks, e⟩ := s.stopCores_frame [d]
  unfold State.vacateCores
  dsimp only [List.foldl_cons, List.foldl_nil]
  rw [State.drainCore_idle h, e]
  rfl

/-- The bytes of the first slot written are still there when a task of one core has left it. -/
theorem State.giveBack_header {v : State} (hm : v.memoryWf = true) {t : Task} (hq : t.queue < 128) {d : Nat} (hd : t.cores = [d])
    (hw : (v.core d).writes = []) :
    bytesAt (v.giveBack t).hbm (v.saveBase + slotBytes * v.freeSlots.getD 0 0) 12 =
      leBytes 8 t.id.toNat ++ leBytes 2 t.tenant ++ leBytes 2 (v.core d).rank := by
  obtain ⟨ew, -⟩ := v.written_writeContexts t
  obtain ⟨tasks, eb⟩ := (v.writeContexts t).backInTurn_frame hq
  have hidle : (((v.writeContexts t).backInTurn t).core d).writes = [] := by
    rw [eb, ew]
    exact hw
  have hhbm : (v.giveBack t).hbm = (v.writeContexts t).hbm := by
    unfold State.giveBack
    rw [hd, State.vacateCores_hbm hidle, eb]
    rfl
  have hone : v.writeContexts t = v.writeSaved t d (v.contextOf t d (v.freeSlots.getD 0 0)) := by
    unfold State.writeContexts State.contextsOf
    rw [hd]
    rfl
  have hhead := State.writeSaved_header hm t d (v.contextOf t d (v.freeSlots.getD 0 0))
  rw [State.contextOf_slot, headerStart, State.contextOf_rank] at hhead
  rw [hhbm, hone, hhead]

theorem State.contextsOf_length (v : State) (t : Task) : (v.contextsOf t).length = t.cores.length := by
  simp [State.contextsOf]

theorem State.contextsOf_slots {v : State} {t : Task} (h : t.cores.length ≤ v.freeSlots.length) {p : Nat × SavedCore}
    (hp : p ∈ v.contextsOf t) : p.2.slot ∈ v.freeSlots := by
  obtain ⟨x, hx, rfl⟩ := List.mem_map.mp hp
  have hlt : x.2 < v.freeSlots.length := by
    have := List.snd_lt_of_mem_zipIdx hx
    omega
  dsimp only
  rw [State.contextOf_slot, List.getD_eq_getElem _ _ hlt]
  exact List.getElem_mem hlt

/-- What a save leaves: the cores free, the task saved at the head of its FIFO, and its header in the first free slot. -/
def preempted (k : Task) (s u : State) : Prop :=
  freed k.cores u ∧ (u.queue k.queue).fifo = k.id.toNat :: (s.queue k.queue).fifo ∧
    (∃ x, u.task? k.id.toNat = some x ∧ x.phase = .saved ∧ x.cores = [] ∧ x.former = k.cores ∧
      x.saved.length = k.cores.length ∧ ∀ p, p ∈ x.saved → p.2.slot ∈ s.freeSlots) ∧
    ∀ d, k.cores = [d] → s.memoryWf = true →
      bytesAt u.hbm (s.saveBase + 0xC00000 * s.freeSlots.getD 0 0) 12 =
        leBytes 8 k.id.toNat ++ leBytes 2 k.tenant ++ leBytes 2 (s.core d).rank

theorem State.saveTask_preempted {s : State} {k : Task} (hk : s.task? k.id.toNat = some k) (hs : mapSorted none s.tasks = true)
    (hq : k.queue < 128) (hf : k.cores.length ≤ s.freeSlots.length) : preempted k s (s.saveTask k) := by
  obtain ⟨t, htask, hsame, hslots, hbase, hfifo, hrank, hmem, hidle⟩ := State.toSave_reads hk hs
  obtain ⟨attempt, returned, free, e⟩ := State.saveTask_eq htask
  have hid : t.id = k.id := by rw [hsame]
  have hqueue : t.queue = k.queue := by rw [hsame]
  have hcores : t.cores = k.cores := by rw [hsame]
  have hten : t.tenant = k.tenant := by rw [hsame]
  rw [e]
  refine ⟨?cores, ?fifo, ?task, fun d hd hm => ?header⟩
  case cores =>
    rw [← hcores]
    exact State.freed_vacateCores _ t.cores
  case fifo =>
    have h := (s.toSave k).giveBack_fifo (t := t) (by rw [hqueue]; exact hq)
    rw [hid, hqueue, hfifo] at h
    exact h
  case task =>
    refine ⟨if (t.suspended ((s.toSave k).contextsOf t) attempt returned).waits = some t.id.toNat then
      { t.suspended ((s.toSave k).contextsOf t) attempt returned with waits := none }
      else t.suspended ((s.toSave k).contextsOf t) attempt returned, ?_, ?_⟩
    · unfold State.task?
      rw [mapFind_unwaited, ← hid]
      exact congrArg (Option.map _) (mapFind_mapPut_self _ _ _)
    · have hlen : ((s.toSave k).contextsOf t).length = k.cores.length := by rw [State.contextsOf_length, hcores]
      have hin : ∀ p, p ∈ (s.toSave k).contextsOf t → p.2.slot ∈ s.freeSlots := fun p hp => by
        rw [← hslots]
        exact State.contextsOf_slots (by rw [hslots, hcores]; exact hf) hp
      split <;> exact ⟨rfl, rfl, hcores, hlen, hin⟩
  case header =>
    have h := State.giveBack_header (hmem hm) (t := t) (by rw [hqueue]; exact hq) (d := d) (by rw [hcores, hd]) (hidle d hd)
    rw [hbase, hslots, hid, hten, hrank] at h
    exact h

/-! ## The event -/

theorem Core.canStop_of {q : Core}
    (h : ∀ x, x ∈ q.strands → (∀ tag, x.hold ≠ some (.response tag)) ∧ ∀ l, l ∈ x.loads → l.dst.pending = false) : q.canStop = true := by
  unfold Core.canStop
  rw [List.all_eq_true]
  intro x hx
  obtain ⟨hh, hl⟩ := h x hx
  have hany : (x.loads.any fun l => l.dst.pending) = false := by
    rw [List.any_eq_false]
    exact fun l hm => by simp [hl l hm]
  rw [hany]
  split
  · rename_i tag e
    exact absurd e (hh tag)
  · rfl

theorem Core.atStep_of {q : Core} (hs : ∀ x, x ∈ q.strands → x.knext = true ∨ x.tdone = true)
    (he : ∀ e, e ∈ q.engines → e.2.queue = []) : q.atStep = true := by
  simp only [Core.atStep, Bool.and_eq_true, List.all_eq_true, Bool.or_eq_true]
  exact ⟨hs, fun e h => by simp [he e h]⟩

section
variable {task : Word} {k : Task} {s : State} (hk : s.task? task.toNat = some k)
include hk

/-- A stop that is complete: the task is saved (R219, R221, R225). -/
theorem preemptionComplete_saves (hi : k.id = task) (hs : mapSorted none s.tasks = true) (hp : k.phase = .stopping)
    (ha : k.aborted = none) (hq : k.queue < 128) (hf : k.cores.length ≤ s.freeSlots.length)
    (hc : ∀ d, d ∈ k.cores → (k.scope = 2 → (s.core d).writes = [] ∧ s.awaitingAcks = false) ∧
      (∀ x, x ∈ (s.core d).strands → (∀ tag, x.hold ≠ some (.response tag)) ∧ ∀ l, l ∈ x.loads → l.dst.pending = false) ∧
      (k.loop = true → (∀ x, x ∈ (s.core d).strands → x.knext = true ∨ x.tdone = true) ∧
        ∀ e, e ∈ (s.core d).engines → e.2.queue = [])) :
    does (.preemptionComplete task) s (dispatches (preempted k)) := by
  have hstop : s.stopped k = true := by
    simp only [State.stopped, hp, ha, hf, Bool.and_eq_true, List.all_eq_true]
    refine ⟨by simp, fun d hd => ?_⟩
    obtain ⟨hrel, hhold, hloop⟩ := hc d hd
    refine ⟨⟨(s.podReleased_iff k d).mpr hrel, Core.canStop_of hhold⟩, ?_⟩
    cases hl : k.loop with
    | false => rfl
    | true =>
      obtain ⟨hst, hen⟩ := hloop hl
      exact Core.atStep_of hst hen
  subst hi
  refine does_dispatches (t := completePreemption k.id s) rfl ?_ (State.saveTask_preempted hk hs hq hf)
  rw [completePreemption, hk]
  exact if_pos hstop

theorem preemptionComplete_other (hp : k.phase ≠ .stopping) : does (.preemptionComplete task) s same := by
  refine ⟨completePreemption task s, rfl, ?_⟩
  rw [completePreemption, hk]
  exact if_neg (by simp [State.stopped, hp])

end

end Sys2Proof.Machine
end

section
/-! The events of tasks and of the Larder together. -/

open Sys2Proof Sys2Proof.Machine Sys2Proof.Claims

namespace Sys2Proof.Machine

/-- The chunks a core that waits for one is granted (R73, R74, R278). -/
theorem chunksGranted {c : Nat} {k : Task} {s : State} (ht : s.taskOf c = some k) (hr : k.phase = .running) (ha : k.aborted = none)
    (hl : k.loop = true) (hp : (s.core c).place = .awaiting) :
    (∀ first n rest, k.returned = (first, n) :: rest →
      does (.chunkRequest c) s (granted c first n .kernel k.kernel { k with returned := rest })) ∧
    (k.returned = [] → k.rem = 0 → does (.chunkRequest c) s (granted c 0 0 .epilogue k.epilogue k)) ∧
    (k.returned = [] → 0 < k.rem →
      let n := Min.min k.rem (Max.max (Max.max k.minch 1) ((k.rem + 2 * k.gangSize - 1) / (2 * k.gangSize)))
      does (.chunkRequest c) s (granted c k.next n .kernel k.kernel { k with next := k.next + n, rem := k.rem - n })) :=
  ⟨fun _ _ _ hret => chunkRequest_returned ht hr ha hl hp hret, chunkRequest_over ht hr ha hl hp,
    fun hret hrem => chunkRequest_new ht hr ha hl hp hret hrem rfl⟩

theorem taskEvents_hold : taskEvents := by
  intro c task k s hk hi hn hs
  subst hi
  refine ⟨fun hp hf => patienceExpires hk rfl hp hf, fun hp => patienceOver hk hp, clearDone c s,
    fun hc => ⟨coreDone_idle hc, chunkRequest_idle hc⟩, fun hc hr => ?running,
    fun hp ha hq hf hd => preemptionComplete_saves hk rfl hs hp ha hq hf hd,
    fun hp => preemptionComplete_other hk hp, fun hp hq => hitCopyDone_retires hk hp hn hs hq, fun hp => hitCopyDone_other hk hp,
    fun hp hd hv hq hw _ he => captureDone_void hk hp hd hv hq hw he hn hs, fun hp => captureDone_other hk hp⟩
  case running =>
    have ht := State.taskOf_some hc hk
    refine ⟨fun ha hpeers hcd hne hdone hidle => ?_, fun cause code ha hq => coreDone_aborted ht ha hn hs hq,
      fun ha hl hp => chunksGranted ht hr ha hl hp⟩
    have ends : s.podReleased k c = true → s.coreEnds c = some k :=
      State.coreEnds_done ht ha hr (Core.finished_of hne hdone hidle) hcd
    refine ⟨fun h => coreDone_unreleased ht ha ?_, fun h hd => coreDone_some (ends ((s.podReleased_iff k c).mpr h)) ha hd,
      fun h hd hq => coreDone_last (ends ((s.podReleased_iff k c).mpr h)) ha hr hn hs hpeers hd hq⟩
    rw [← Bool.not_eq_true, s.podReleased_iff k c]
    exact h

end Sys2Proof.Machine

/-- Settles O51: the events of tasks, the save by the state it reads and the steps it takes, and the events of the Larder. -/
theorem tasksAndLarder : Obligations.TasksAndLarder := ⟨taskEvents_hold, larderEvents_hold⟩

end

section
/-! A step runs what its agenda names: the issue of a strand (R99, R100, R286) and an event. -/

open Sys2Proof Sys2Proof.Machine Sys2Proof.Claims

namespace Sys2Proof.Machine

theorem Strand.sawIssue_ready (k : Nat) (t : Strand) : (t.sawIssue k).ready = t.ready := by
  unfold Strand.sawIssue
  split
  · rename_i h
    simp [Strand.ready, h]
  · rfl

theorem Strand.sawIssue_pc (k : Nat) (t : Strand) : (t.sawIssue k).pc = t.pc := by
  unfold Strand.sawIssue
  split <;> rfl

theorem Core.strands_sawIssue (q : Core) (k : Nat) : (q.mapStrands fun _ => Strand.sawIssue k).strands = q.strands.map (Strand.sawIssue k) := by
  apply List.ext_getElem <;> simp [Core.mapStrands]

/-- The strands of a core that have seen strand `k` issue, as the statement writes them. -/
theorem State.issuing_eq (s : State) (c k : Nat) (ks : List Nat) (rest : List Act) :
    issuing c k ks rest s =
      { s.setCore c { (s.core c).mapStrands (fun _ => Strand.sawIssue k) with picks := some ks } with cur := (c, k), agenda := rest } := by
  have h : (s.core c).mapStrands (fun _ => Strand.sawIssue k) =
      { s.core c with strands := (s.core c).strands.map (Strand.sawIssue k) } := by
    rw [← Core.strands_sawIssue]; rfl
  rw [h]
  rfl

theorem State.core_issuing (s : State) (c k : Nat) (ks : List Nat) (rest : List Act) :
    (issuing c k ks rest s).core c = { s.core c with picks := some ks, strands := (s.core c).strands.map (Strand.sawIssue k) } :=
  mapGet_mapPut_self _ _ _ _

theorem State.me_issuing (s : State) (c k : Nat) (ks : List Nat) (rest : List Act) :
    (issuing c k ks rest s).me = ((s.core c).strand k).sawIssue k := by
  have h : (issuing c k ks rest s).me = ((issuing c k ks rest s).core c).strand k := rfl
  rw [h, s.core_issuing c k ks rest]
  simp only [Core.strand, List.getD_eq_getElem?_getD, List.getElem?_map]
  cases (s.core c).strands[k]? <;> rfl

theorem State.taskOf_issuing (s : State) (c k : Nat) (ks : List Nat) (rest : List Act) :
    (issuing c k ks rest s).taskOf c = s.taskOf c := by
  unfold State.taskOf
  rw [s.core_issuing c k ks rest]
  rfl

theorem State.issues_issuing (s : State) (c k : Nat) (ks : List Nat) (rest : List Act) :
    (issuing c k ks rest s).issues c = s.issues c := by
  unfold State.issues State.enginesRun
  rw [s.taskOf_issuing c k ks rest, s.core_issuing c k ks rest]
  rfl

/-- The fetch of bytes that decode to an instruction (R100, R235, R250). -/
theorem State.fetch_ok {s : State} {t : Task} {pc : Nat} {w bs : List Byte} {i : Instr} (hw : s.codeBytes t pc 4 = .ok w)
    (hb : s.codeBytes t pc (Min.min (lengthOf (leNat w)) (64 - pc % 64)) = .ok bs) (hd : decode (pc % 64) bs = .ok i) :
    s.fetch t pc = .ok i := by
  have hb' : s.codeBytes t pc (Nat.min (lengthOf (leNat w)) (64 - pc % 64)) = .ok bs := hb
  simp only [State.fetch, hw, hb', hd]

/-- The issue of a picked strand that is ready, its fetch good: its instruction runs. -/
theorem issue_run {s : State} {c k : Nat} {ks : List Nat} {rest : List Act} {t : Task} {i : Instr} (ht : s.taskOf c = some t)
    (hi : s.issues c = true) (hr : ((s.core c).strand k).ready = true)
    (hf : (issuing c k ks rest s).fetch t ((s.core c).strand k).pc = .ok i) :
    issue c k ks { s with agenda := rest } =
      .run i ((issuing c k ks rest s).setHere ((issuing c k ks rest s).here.occupyVe k i)) := by
  have hu : (issuing c k ks rest s).me.pc = ((s.core c).strand k).pc := by rw [s.me_issuing, Strand.sawIssue_pc]
  have hm : (issuing c k ks rest s).me.ready = true := by rw [s.me_issuing, Strand.sawIssue_ready, hr]
  have ht' : (issuing c k ks rest s).taskOf c = some t := by rw [s.taskOf_issuing, ht]
  have hi' : (issuing c k ks rest s).issues c = true := by rw [s.issues_issuing, hi]
  unfold issue
  have e : ({ State.setCore { s with agenda := rest } c { (State.core { s with agenda := rest } c).mapStrands (fun _ => Strand.sawIssue k)
      with picks := some ks } with cur := (c, k) } : State) = issuing c k ks rest s := by rw [s.issuing_eq]; rfl
  simp only [e, ht', hi', hm, hu, hf, Bool.not_true, Bool.or_false, Bool.false_eq_true, if_false]

/-- A step of a core whose agenda stands at it, a strand of its clock still picked. -/
theorem step_core {s : State} {c k : Nat} {ks : List Nat} {rest : List Act} (ha : s.agenda = .core c :: rest) (hc : c < 256)
    (hp : (s.core c).picks = some (k :: ks)) {i : Instr} {t : State} (h : issue c k ks { s with agenda := rest } = .run i t) :
    Machine.step s = exec i t := by
  have hp' : (State.core { s with agenda := rest } c).picks = some (k :: ks) := hp
  have hc' : c < Config.cores := hc
  simp only [step, plan, ha, actPlan, hc', if_true, coreStep, hp', h]

/-- A step of an event that the part has. -/
theorem step_event {s : State} {i : Instr} {rest : List Act} (ha : s.agenda = .event i :: rest) (he : encode i = none)
    (hw : wellFormed i = true) : Machine.step s = exec i { s with agenda := rest } := by
  have hi : isEvent i = true := by simp [isEvent, he]
  simp only [step, plan, ha, actPlan, hi, hw, Bool.and_self, if_true]

end Sys2Proof.Machine

/-- Settles O53: the issue of a ready strand runs what its fetch decodes to, and an event of the agenda runs as it is. -/
theorem stepRunsDecoded : Obligations.StepRunsDecoded := by
  intro c k ks rest task w bs i s
  refine ⟨fun ha hc hp ht hi => ?_, fun ha he hw => step_event ha he hw⟩
  intro u pc hr hw hb hd
  exact step_core ha hc hp (issue_run ht hi hr (State.fetch_ok hw hb hd))

end

section
/-! What the accesses of a scalar raise, in the order of R206 (R109, R111, R131, R147, R289, R290). -/

open Sys2Proof Sys2Proof.Machine Sys2Proof.Claims

namespace Sys2Proof.Machine

/-! ## Faults that concern a slot -/

/-- TRAPINFO of a fault of a strand instruction that concerns a slot (R209). -/
theorem Exc.info_atSlot {slot code sub : Nat} (arg : Word) (hs : slot < 256) (hc : code < 256) (hb : sub < 256) :
    (Exc.atSlot slot code sub arg).info = BitVec.ofNat 64 (code + 2 ^ 9 + 2 ^ 12 * 15 + 2 ^ 16 * sub + 2 ^ 24 * slot) := by
  simp only [Exc.info, Exc.atSlot, Nat.mod_eq_of_lt hs, Nat.mod_eq_of_lt hc, Nat.mod_eq_of_lt hb]
  congr 1

/-- A kind F fault of a slot, of a body that has done nothing, in a strand with a handler. -/
theorem runStrand_slotFault {i : Instr} {s : State} {g : Guard} {u : Uses} (h : s.runs g u) (hh : handled s)
    {slot code sub : Nat} {arg : Word} (hs : slot < 256) (hc : code < 256) (hb : sub < 256) (hp : code ≠ codePURITY) {len : Nat}
    {body : State → Eff} (he : exec i s = runStrand len g u s body) (ht : body s = .trap s (Exc.atSlot slot code sub arg)) :
    slotFault i s slot code sub arg := by
  obtain ⟨hv, hn⟩ := hh
  obtain ⟨t, e, ho, hm⟩ := runStrand_trap h len _ (Strand.hasHandler_of hv hn) hp ht
  refine ⟨t, he.trans e, ho, ?_⟩
  have hr : ∀ r, t.rS r = s.rS r := fun r => by rw [State.rS, hm]; rfl
  exact ⟨by rw [hm]; rfl, by rw [hm]; rfl, by rw [hm]; exact Exc.info_atSlot arg hs hc hb, by rw [hm]; rfl, hr⟩

/-! ## The order of the faults -/

theorem State.impure_plain {s : State} (hp : s.inPure = false) (h : Handle) (off : Nat) (write : Bool) :
    s.impure s.cur.1 h off write = false := by
  unfold State.inPure State.myTask at hp
  unfold State.impure
  split at hp <;> rename_i ht <;> rw [ht]
  · dsimp only
    rw [hp, Bool.false_and]

/-- Outside PURE code what an element inside the extents meets comes no earlier than a seal (R206). -/
theorem State.elemFaults_priority {s : State} (hp : s.inPure = false) (k slot : Nat) (h : Handle) (wr rd : Bool) (x : List Nat) :
    ∀ e, e ∈ s.elemFaults (.strand s.cur.1 k) s.cur.1 slot h wr rd x → 9 ≤ e.priority := by
  intro e he
  unfold State.elemFaults at he
  dsimp only at he
  split at he
  · rw [mem_excIf he]; show 9 ≤ 13; decide
  · have none : ∀ offs : List Nat, (offs.any fun o => s.impure s.cur.1 h o wr) = false := fun offs => by
      simp [State.impure_plain hp]
    rw [none, Bool.and_false, excIf_false, List.nil_append] at he
    rcases List.mem_append.mp he with he | he
    · rcases List.mem_append.mp he with he | he
      · rcases List.mem_append.mp he with he | he <;> rw [mem_excIf he]
        · show 9 ≤ 9; decide
        · show 9 ≤ 13; decide
      · split at he
        · cases he
        · split at he
          · rw [List.mem_singleton.mp he]; show 9 ≤ 14; decide
          · cases he
    · split at he
      · split at he
        · rw [List.mem_singleton.mp he]; show 9 ≤ 16; decide
        · cases he
      · cases he

/-- The checks of an access to a doubleword in their order (R206): the first that fails is raised. -/
theorem State.scalarFaults_doubleword {s : State} {h : Handle} (hf : h.desc.fmt = .i64) (ha : h.isArgs = false) (hp : s.inPure = false)
    (slot : Nat) (wr rd : Bool) (x : List Nat) : ∃ es, s.scalarFaults s.cur.1 s.cur.2 slot h .i64 wr rd x [] =
      (if !([2, 4, 5, 6].contains h.desc.space) then some (Exc.atSlot slot codePERM 1)
       else if (wr && !h.desc.wr) || (rd && !h.desc.rd) then some (Exc.atSlot slot codePERM 2)
       else if h.desc.codec != 0 then some (Exc.atSlot slot codeCOMPRESSED)
       else if wr && h.sealed then some (Exc.atSlot slot codeSEALED) else pickExc es) ∧
      ∀ p, outside h.ext x = some p → es = [Exc.atSlot slot codeBOUNDS 0 (boundsArg p.1 p.2)] := by
  have hb : isByteHandle h = false := by simp [isByteHandle, hf]
  have ht : typeFits h .i64 = true := by simp [typeFits, hb, hf]; decide
  have hx : scalarElems h .i64 x = [x] := by simp [scalarElems, hb]
  have bounds : ∀ p : Nat × Nat, 9 ≤ (Exc.atSlot slot codeBOUNDS 0 (boundsArg p.1 p.2)).priority := fun _ => by
    show 9 ≤ 10; decide
  have he : ∃ es, (∀ e, e ∈ es → 9 ≤ e.priority) ∧ s.scalarFaults s.cur.1 s.cur.2 slot h .i64 wr rd x [] =
      pickExc (excIf (!([2, 4, 5, 6].contains h.desc.space)) (Exc.atSlot slot codePERM 1) ++
        (excIf ((wr && !h.desc.wr) || (rd && !h.desc.rd)) (Exc.atSlot slot codePERM 2) ++
          (excIf (h.desc.codec != 0) (Exc.atSlot slot codeCOMPRESSED) ++
            (excIf (wr && h.sealed) (Exc.atSlot slot codeSEALED) ++ es)))) ∧
      ∀ p, outside h.ext x = some p → es = [Exc.atSlot slot codeBOUNDS 0 (boundsArg p.1 p.2)] := by
    cases ho : outside h.ext x with
    | some p =>
      refine ⟨[Exc.atSlot slot codeBOUNDS 0 (boundsArg p.1 p.2)], fun e m => ?_, ?_, fun q m => by cases m; rfl⟩
      · rw [List.mem_singleton.mp m]; exact bounds p
      · simp [State.scalarFaults, hx, ht, hb, ho, ha, State.accessFaults]
    | none =>
      refine ⟨s.elemFaults (.strand s.cur.1 s.cur.2) s.cur.1 slot h wr rd x, State.elemFaults_priority hp _ _ _ _ _ _, ?_,
        fun q m => by cases m⟩
      simp [State.scalarFaults, hx, ht, hb, ho, ha, State.accessFaults]
  obtain ⟨es, h9, hpick, hout⟩ := he
  have sealed : ∀ e, e ∈ excIf (wr && h.sealed) (Exc.atSlot slot codeSEALED) ++ es → 9 ≤ e.priority :=
    priority_excIf_append (by show 9 ≤ 9; decide) h9
  have coded : ∀ e, e ∈ excIf (h.desc.codec != 0) (Exc.atSlot slot codeCOMPRESSED) ++ (excIf (wr && h.sealed)
      (Exc.atSlot slot codeSEALED) ++ es) → 8 ≤ e.priority :=
    priority_excIf_append (by show 8 ≤ 8; decide) fun e m => Nat.le_trans (by decide) (sealed e m)
  have rights := priority_excIf_append (p := 7) (c := (wr && !h.desc.wr) || (rd && !h.desc.rd)) (e := Exc.atSlot slot codePERM 2)
    (by show 7 ≤ 7; decide) fun e m => Nat.le_trans (by decide) (coded e m)
  refine ⟨es, ?_, hout⟩
  rw [hpick, pickExc_excIf rights, pickExc_excIf fun e m => Nat.le_trans (by show 7 ≤ 8; decide) (coded e m),
    pickExc_excIf fun e m => Nat.le_trans (by show 8 ≤ 9; decide) (sealed e m), pickExc_excIf h9]

/-- The lowest coordinate that is not below its extent. -/
theorem outside_lowest {ext x : List Nat} {k : Nat} (hk : k < 6) (ho : ext.getD k 1 ≤ x.getD k 0)
    (hl : ∀ j, j < k → x.getD j 0 < ext.getD j 1) : outside ext x = some (k, x.getD k 0) := by
  have split : upTo 6 = List.range k ++ k :: ((List.range (6 - k - 1)).map fun i => k + 1 + i) := by
    have : k = 0 ∨ k = 1 ∨ k = 2 ∨ k = 3 ∨ k = 4 ∨ k = 5 := by omega
    rcases this with rfl | rfl | rfl | rfl | rfl | rfl <;> rfl
  have hn : ¬ x.getD k 0 < ext.getD k 1 := Nat.not_lt.mpr ho
  have hbefore : ((List.range k).map fun i => (i, x.getD i 0)).find? (fun p => !(decide (p.2 < ext.getD p.1 1))) = none := by
    rw [List.find?_eq_none]
    intro p hp
    obtain ⟨j, hj, rfl⟩ := List.mem_map.mp hp
    simp only [hl j (List.mem_range.mp hj), decide_true, Bool.not_true, Bool.false_eq_true, not_false_eq_true]
  rw [outside, split, List.map_append, List.find?_append, hbefore, List.map_cons, List.find?_cons]
  simp only [hn, decide_false, Bool.not_false, Option.none_or]

/-! ## LD and ST -/

theorem withOrder_relaxed {o : Ord} (ho : o ≠ .sc) (s : State) (act : State → Eff) : withOrder o s act = act s := by
  cases o with
  | sc => exact absurd rfl ho
  | _ => rfl

/-- The body of an LD with the first fault of its checks. -/
theorem loadScalar_fault {s : State} {ty : Ty} {o : Ord} {d slot : Nat} {xr : List Nat} {h : Handle} {e : Exc} (ho : o ≠ .sc)
    (hh : s.here.handle slot = some h) (hw : s.here.writes = [])
    (hf : s.scalarFaults s.cur.1 s.cur.2 slot h ty false true (s.coords xr) [] = some e) :
    loadScalar ty o d slot xr s = .trap s e := by
  have hv : s.seenBy s.cur.1 = s := State.seenBy_idle hw
  simp only [loadScalar, withOrder_relaxed ho, hh, hv, hf]

/-- The body of an ST with the first fault of its checks. -/
theorem storeScalar_fault {s : State} {ty : Ty} {o : Ord} {sc : Scope} {d slot : Nat} {xr : List Nat} {h : Handle} {e : Exc}
    (ho : o ≠ .sc) (hh : s.here.handle slot = some h)
    (hf : s.scalarFaults s.cur.1 s.cur.2 slot h ty true false (s.coords xr) [] = some e) :
    storeScalar ty o sc d slot xr s = .trap s e := by
  simp only [storeScalar, withOrder_relaxed ho, hh, hf]

theorem scalar_unbound {s : State} {ty : Ty} {o : Ord} {sc : Scope} {d slot : Nat} {xr : List Nat} (ho : o ≠ .sc)
    (hh : s.here.handle slot = none) : loadScalar ty o d slot xr s = .trap s (Exc.atSlot slot codeHFAULT) ∧
      storeScalar ty o sc d slot xr s = .trap s (Exc.atSlot slot codeHFAULT) := by
  exact ⟨by simp only [loadScalar, withOrder_relaxed ho, hh], by simp only [storeScalar, withOrder_relaxed ho, hh]⟩

end Sys2Proof.Machine

/-- Settles O24: the checks of a doubleword access stand in one chain of the order of R206, and each clause is one place of it. -/
theorem accessFaults : Obligations.AccessFaults := by
  intro g ty o sc d slot x0 x1 s hh hs ho rl rs both xs
  have load : ∀ {code sub arg}, code < 256 → sub < 256 → code ≠ codePURITY →
      loadScalar ty o d slot [x0, x1] s = .trap s (Exc.atSlot slot code sub arg) →
      slotFault (.ldLong g ty o sc d slot x0 x1) s slot code sub arg :=
    fun hc hb hp h => runStrand_slotFault rl hh hs hc hb hp rfl h
  have store : ∀ {code sub arg}, code < 256 → sub < 256 → code ≠ codePURITY →
      storeScalar ty o sc d slot [x0, x1] s = .trap s (Exc.atSlot slot code sub arg) →
      slotFault (.stLong g ty o sc d slot x0 x1) s slot code sub arg :=
    fun hc hb hp h => runStrand_slotFault rs hh hs hc hb hp rfl h
  refine ⟨fun hn => ?unbound, ?bound⟩
  case unbound =>
    obtain ⟨hl, hst⟩ := scalar_unbound (sc := sc) (ty := ty) (d := d) (xr := [x0, x1]) ho hn
    exact ⟨load (by decide) (by decide) (by decide) hl, store (by decide) (by decide) (by decide) hst⟩
  case bound =>
    intro h hb ha hp hw ⟨hf, hty⟩
    subst hty
    obtain ⟨el, loads, outl⟩ := State.scalarFaults_doubleword hf ha hp slot false true xs
    obtain ⟨es, stores, outs⟩ := State.scalarFaults_doubleword hf ha hp slot true false xs
    have ld : ∀ {code sub arg}, code < 256 → sub < 256 → code ≠ codePURITY →
        s.scalarFaults s.cur.1 s.cur.2 slot h .i64 false true xs [] = some (Exc.atSlot slot code sub arg) →
        slotFault (.ldLong g .i64 o sc d slot x0 x1) s slot code sub arg :=
      fun hc hb' hp' e => load hc hb' hp' (loadScalar_fault ho hb hw e)
    have st : ∀ {code sub arg}, code < 256 → sub < 256 → code ≠ codePURITY →
        s.scalarFaults s.cur.1 s.cur.2 slot h .i64 true false xs [] = some (Exc.atSlot slot code sub arg) →
        slotFault (.stLong g .i64 o sc d slot x0 x1) s slot code sub arg :=
      fun hc hb' hp' e => store hc hb' hp' (storeScalar_fault ho hb e)
    refine ⟨fun ⟨h2, h4, h5, h6⟩ => ?_, fun h2 hr => ?_, fun h2 hr => ?_, fun h2 hr hwr hc => ?_,
      fun h2 hr hwr hc hse k hk hout hlow => ?_⟩
    · exact ⟨ld (by decide) (by decide) (by decide) (by simp [loads, h2, h4, h5, h6, codePERM]),
        st (by decide) (by decide) (by decide) (by simp [stores, h2, h4, h5, h6, codePERM])⟩
    · exact ld (by decide) (by decide) (by decide) (by simp [loads, h2, hr, codePERM])
    · exact st (by decide) (by decide) (by decide) (by simp [stores, h2, hr, codePERM])
    · exact ⟨ld (by decide) (by decide) (by decide) (by simp [loads, h2, hr, hc, codeCOMPRESSED]),
        st (by decide) (by decide) (by decide) (by simp [stores, h2, hwr, hc, codeCOMPRESSED])⟩
    · have hx := outside_lowest hk hout hlow
      exact ⟨ld (by decide) (by decide) (by decide) (by simp [loads, h2, hr, hc, outl _ hx, pickExc, codeBOUNDS, boundsArg]),
        st (by decide) (by decide) (by decide) (by simp [stores, h2, hwr, hc, hse, outs _ hx, pickExc, codeBOUNDS, boundsArg])⟩

end

section
/-! Instructions that change their core: the strand goes on by its length, or is held, and nothing else of the package changes. -/

open Sys2Proof Sys2Proof.Machine Sys2Proof.Claims

namespace Sys2Proof.Machine

/-- The bytes of the stores of two cores are the same. -/
def Core.sameStores (q r : Core) : Prop := r.w = q.w ∧ r.a = q.a ∧ r.s = q.s

theorem State.here_setHere (s : State) (q : Core) : (s.setHere q).here = q := s.core_setCore_self _ q

theorem State.core_setHere_ne (s : State) (q : Core) {c : Nat} (h : c ≠ s.cur.1) : (s.setHere q).core c = s.core c :=
  s.core_setCore_ne q h

theorem State.setHere_setMe (s : State) (q : Core) (m : Strand) : (s.setHere q).setMe m = s.setHere (q.setStrand s.cur.2 m) := by
  have h : (s.setHere q).setMe m = (s.setHere q).setHere (q.setStrand s.cur.2 m) := by
    rw [State.setMe, State.here_setHere]; rfl
  rw [h]
  exact s.setCore_setCore _ _ _

theorem State.setHere_wS (s : State) (q : Core) (d : Nat) (v : Word) : (s.setHere q).wS d v = s.setHere (q.withReg s.cur.2 d v) := by
  have h : (s.setHere q).me = q.strand s.cur.2 := by rw [State.me, State.here_setHere]; rfl
  rw [State.wS, State.setHere_setMe, h]
  rfl

/-- Poison of the scalar registers an instruction writes is cleared, and nothing else of it (R215). -/
theorem State.onlyCore_setHere (s : State) (q : Core) (u : Uses) (hq : s.here.sameStores q) :
    onlyCore u.ws s ((s.setHere q).registersWritten u) := by
  obtain ⟨hw, ha, hs⟩ := hq
  refine ⟨by rw [State.registersWritten_eq]; rfl, fun c hc => ?_, fun v => ?_, fun a => ?_⟩
  · rw [State.registersWritten_core, State.core_setHere_ne s q hc]
  · rw [State.isPoisoned_registersWritten]; rfl
  · refine ⟨by rw [State.registersWritten_eq]; rfl, by rw [State.registersWritten_eq]; rfl, fun c => ?_⟩
    rw [State.registersWritten_core]
    by_cases hc : c = s.cur.1
    · subst hc
      have e : (s.setHere q).core s.cur.1 = q := s.here_setHere q
      rw [e, hw, ha, hs]
      exact ⟨rfl, rfl, rfl⟩
    · rw [State.core_setHere_ne s q hc]
      exact ⟨rfl, rfl, rfl⟩

theorem State.setHere_registersWritten (s : State) (q : Core) (u : Uses) (m : Strand) :
    ((s.setHere q).registersWritten u).setMe m = (s.setHere (q.setStrand s.cur.2 m)).registersWritten u := by
  rw [State.setMe_registersWritten, State.setHere_setMe]

/-- An instruction whose effect on its core is `q`. -/
theorem coreBecame_setHere (s : State) (q : Core) (u : Uses) (len : Nat) (hq : s.here.sameStores q) :
    coreBecame len u.ws q s (((s.setHere q).registersWritten u).setPc (s.me.pc + len)) := by
  have hm : ((s.setHere q).registersWritten u).me = q.strand s.cur.2 := by
    rw [State.registersWritten_me, State.me, State.here_setHere]; rfl
  rw [State.setPc, hm, State.setHere_registersWritten]
  exact ⟨s.onlyCore_setHere _ u hq, by rw [State.registersWritten_here, State.here_setHere]⟩

/-- An instruction whose body completes with another core. -/
theorem does_setHere {i : Instr} {s : State} {g : Guard} {u : Uses} {len : Nat} {q : Core} {body : State → Eff}
    (he : exec i s = runStrand len g u s body) (h : s.runs g u) (hb : body s = .done (s.setHere q)) (hq : s.here.sameStores q) :
    does i s (coreBecame len u.ws q) := by
  refine ⟨_, he.trans (runStrand_of_runs h len body), ?_⟩
  rw [hb, finish]
  exact coreBecame_setHere s q u len hq

/-- An instruction whose body writes one scalar register. -/
theorem gives_wS {i : Instr} {s : State} {g : Guard} {u : Uses} {len d : Nat} {v : Word} {body : State → Eff}
    (he : exec i s = runStrand len g u s body) (h : s.runs g u) (hw : u.ws = [d]) (hb : body s = .done (s.wS d v)) :
    gives i s len d v := by
  obtain ⟨t, e, ht⟩ := runStrand_wS h len d v hw hb
  exact ⟨t, he.trans e, ht⟩

end Sys2Proof.Machine
end

section
/-! Handle slots (R111, R112, R129, R134, R211, R292 to R294). -/

open Sys2Proof Sys2Proof.Machine Sys2Proof.Claims

namespace Sys2Proof.Machine

/-! ## HBIND -/

variable {s : State} {task : Task} {h a : Nat} {bs : List Byte}

theorem State.myTask_of (ht : taskHere s task) : s.myTask = some task := by
  obtain ⟨id, hc, hk⟩ := ht
  exact State.taskOf_some hc hk

theorem bindSlot_malformed (ht : taskHere s task) (hb : (sight s).descriptorBytes task s.cur.1 s.cur.2 (s.rS a) = .ok bs)
    (h0 : h ≠ 0) (hd : descOf? false bs = none) : bindSlot h a s = .trap s (Exc.atSlot h codeHFAULT) := by
  have hb' : (s.seenBy s.cur.1).descriptorBytes task s.cur.1 s.cur.2 (s.rS a) = .ok bs := hb
  have hc : ¬ (Exc.atSlot h codeHFAULT 0 0#64).code = codePAGE := by show ¬ codeHFAULT = codePAGE; decide
  simp [bindSlot, State.myTask_of ht, hb', hd, beq_false_of_ne h0, pickExc, hc]

/-- A descriptor whose binding meets no fault is bound from the next clock on (R112). -/
theorem bindSlot_binds (ht : taskHere s task) (hb : (sight s).descriptorBytes task s.cur.1 s.cur.2 (s.rS a) = .ok bs)
    (h0 : h ≠ 0) {x : Desc} (hd : descOf? false bs = some x) (hf : (s.bindDesc task s.cur.1 x coord0 x.ext false).1 = []) :
    bindSlot h a s = .done ((s.drawIf (x.space == 6)).setHere { s.here with
      bindNew := mapPut s.here.bindNew h (some (s.bindDesc task s.cur.1 x coord0 x.ext false).2) }) := by
  have hb' : (s.seenBy s.cur.1).descriptorBytes task s.cur.1 s.cur.2 (s.rS a) = .ok bs := hb
  have hh : (s.drawIf (x.space == 6)).here = s.here := by cases hc : (x.space == 6) <;> rfl
  simp [bindSlot, State.myTask_of ht, hb', hd, beq_false_of_ne h0, hf, hh]

/-- A PAGE of a bind goes to a free park entry (R211). -/
theorem bindSlot_page (ht : taskHere s task) (hb : (sight s).descriptorBytes task s.cur.1 s.cur.2 (s.rS a) = .ok bs)
    (h0 : h ≠ 0) {x : Desc} (hd : descOf? false bs = some x) {va : Word}
    (hf : (s.bindDesc task s.cur.1 x coord0 x.ext false).1 = [⟨0x06, 0, va⟩]) :
    bindSlot h a s = parkOrTrap h x.rd x.wr ((⟨0x06, 0, va⟩ : BindErr).exc h) (s.drawIf (x.space == 6)) := by
  have hb' : (s.seenBy s.cur.1).descriptorBytes task s.cur.1 s.cur.2 (s.rS a) = .ok bs := hb
  have hc : ((⟨0x06, 0, va⟩ : BindErr).exc h).code = codePAGE := rfl
  simp [bindSlot, State.myTask_of ht, hb', hd, beq_false_of_ne h0, hf, pickExc, hc]

theorem State.drawIf_eq (s : State) (c : Bool) : s.drawIf c = { s with free := s.free + if c then 1 else 0 } := by
  cases c <;> rfl

/-- A strand that parks is held in its entry, whatever its notice does (R79, R211). -/
theorem parkOrTrap_parks (rd wr : Bool) {e : Exc} {i : Nat} (hi : s.freePark = some i) :
    ∃ u, parkOrTrap h rd wr e s = .hold u (.parked i) ∧ background { s with parks := mapPut s.parks i ⟨s.cur.1, s.cur.2, h, e.arg.toNat⟩ } u := by
  unfold parkOrTrap
  rw [hi]
  exact ⟨_, rfl, State.background_postNotice _ _⟩

theorem background_me {s t : State} (hb : background s t) : t.cur = s.cur ∧ t.parks = s.parks ∧ t.here.strands = s.here.strands ∧
    t.me = s.me := by
  obtain ⟨e, -, -, -, -, hc⟩ := hb
  have hcur : t.cur = s.cur := by rw [e]
  have hh : s.here.stored t.here := by rw [State.here, State.here, hcur]; exact hc s.cur.1
  have hstr : t.here.strands = s.here.strands := by rw [hh]
  exact ⟨hcur, by rw [e], hstr, by rw [State.me, State.me, Core.strand, Core.strand, hstr, hcur]⟩

/-- HBIND of a page that is not there (R211). -/
theorem hbind_parks {g : Guard} (hr : s.runs g (Uses.scalar [a] [])) (ht : taskHere s task)
    (hb : (sight s).descriptorBytes task s.cur.1 s.cur.2 (s.rS a) = .ok bs) (h0 : h ≠ 0) {x : Desc} (hd : descOf? false bs = some x)
    {va : Word} {i : Nat} (hf : (s.bindDesc task s.cur.1 x coord0 x.ext false).1 = [⟨0x06, 0, va⟩]) (hi : s.freePark = some i) :
    does (.hbind g h a) s fun s t => t.me = { s.me with hold := some (.parked i) } ∧
      mapFind t.parks i = some ⟨s.cur.1, s.cur.2, h, va.toNat⟩ := by
  have hi' : (s.drawIf (x.space == 6)).freePark = some i := by rw [State.drawIf_eq]; exact hi
  obtain ⟨u, hu, hback⟩ := parkOrTrap_parks (h := h) (e := (⟨0x06, 0, va⟩ : BindErr).exc h) x.rd x.wr hi'
  obtain ⟨hcur, hparks, hstr, hme⟩ := background_me hback
  have hsame : ∀ v : State, v = s.drawIf (x.space == 6) → v.cur = s.cur ∧ v.here = s.here ∧ v.me = s.me := fun v e => by
    rw [e, State.drawIf_eq]; exact ⟨rfl, rfl, rfl⟩
  obtain ⟨dcur, dhere, dme⟩ := hsame _ rfl
  have mu : u.me = s.me := hme.trans dme
  have seat : u.seated := by
    have e : u.here.strands = s.here.strands := hstr.trans (congrArg Core.strands dhere)
    rw [State.seated, e, hcur]
    exact dcur ▸ hr.1
  refine ⟨_, runStrand_of_runs hr 8 _, ?_⟩
  rw [show bindSlot h a s = .hold u (.parked i) from (bindSlot_page ht hb h0 hd hf).trans hu, finish]
  refine ⟨by rw [State.me_setMe u _ seat, mu], ?_⟩
  rw [State.setMe_parks, hparks, dcur]
  exact mapFind_mapPut_self _ _ _

/-! ## HINFO -/

theorem exec_hinfo (g : Guard) (d h k : Nat) (s : State) : exec (.hinfo g d h k) s =
    runStrand 8 g (Uses.scalar [] [d]) s fun s => .done (s.wS d (BitVec.ofNat 64 (slotInfo s.here h k))) := rfl

theorem slotInfo_bits {q : Core} {x : Handle} (hx : q.handle h = some x) :
    slotInfo q h 0 = 1 + 2 * (if x.pwinIn = true then 1 else 0) + 2 ^ 2 * (if x.pwinOut = true then 1 else 0) +
      2 ^ 3 * (if x.sealed = true then 1 else 0) + 2 ^ 4 * (if x.desc.rd = true then 1 else 0) +
      2 ^ 5 * (if x.desc.wr = true then 1 else 0) + 2 ^ 8 * x.desc.space + 2 ^ 12 * fmtCode x.desc.fmt + 2 ^ 20 * x.desc.rank +
      2 ^ 24 * x.desc.codec := by
  have bit : ∀ b : Bool, b.toNat = if b = true then 1 else 0 := fun b => by cases b <;> rfl
  simp only [slotInfo, hx, bit, Nat.reducePow]

theorem slotInfo_extent {q : Core} {x : Handle} (hx : q.handle h = some x) {k : Nat} (h1 : 1 ≤ k) (h6 : k ≤ 6) :
    slotInfo q h k = x.ext.getD (k - 1) 1 := by
  simp only [slotInfo, hx]
  split
  · omega
  · omega
  · rfl

end Sys2Proof.Machine

/-- Settles O37: HBIND binds, parks or faults by what it reads, and each other form is one change of the slots. -/
theorem handleSlots : Obligations.HandleSlots := by
  intro g h a d k task s ha hn ht hs bytes
  refine ⟨fun bs x h0 hb hd => ?bind, fun bs h0 hb hd hh => ?malformed, fun h0 => ?unbind, fun hh => ?own, fun hd => ?info,
    fun hu hh => ?unbound, fun x hx => ?sealing⟩
  case bind =>
    intro b s'
    refine ⟨fun hf => ?_, fun va i hf hi => hbind_parks ha ht hb h0 hd hf hi⟩
    refine ⟨_, runStrand_of_runs ha 8 _, b.2, rfl, rfl, rfl, rfl, rfl, rfl, ?_⟩
    have e : s.drawIf (x.space == 6) = s' := by
      rw [State.drawIf_eq]
      simp only [s', beq_iff_eq]
    rw [bindSlot_binds ht hb h0 hd hf, e, finish]
    exact coreBecame_setHere s' _ (Uses.scalar [a] []) 8 ⟨rfl, rfl, rfl⟩
  case malformed =>
    exact runStrand_slotFault ha hh hs (by decide) (by decide) (by decide) rfl (bindSlot_malformed ht hb h0 hd)
  case unbind => exact does_setHere (u := Uses.none) rfl hn (if_neg h0) ⟨rfl, rfl, rfl⟩
  case own => exact runStrand_slotFault hn hh (by decide) (by decide) (by decide) (by decide) rfl (if_pos rfl)
  case info =>
    have gives_info : ∀ {k n : Nat}, slotInfo s.here h k = n → gives (.hinfo g d h k) s 8 d (BitVec.ofNat 64 n) := fun e =>
      gives_wS (exec_hinfo g d h _ s) hd rfl (congrArg (fun n => Eff.done (s.wS d (BitVec.ofNat 64 n))) e)
    refine ⟨fun hx => gives_info (by simp only [slotInfo, hx]), fun x hx => ⟨gives_info (slotInfo_bits hx),
      fun h1 h6 => gives_info (slotInfo_extent hx h1 h6), gives_info (by simp only [slotInfo, hx])⟩⟩
  case unbound =>
    exact runStrand_slotFault hn hh hs (by decide) (by decide) (by decide) rfl (by simp only [sealSlot, hu]; rfl)
  case sealing =>
    refine ⟨fun hsl => runStrand_same hn 8 rfl ?_, fun hsl hw => does_setHere (u := Uses.none) rfl hn ?_ ⟨rfl, rfl, rfl⟩,
      fun hsl hw hh => runStrand_slotFault hn hh hs (by decide) (by decide) (by decide) rfl ?_⟩
    · simp only [sealSlot, hx, hsl, if_true]
    · simp only [sealSlot, hx, hsl, hw, Bool.false_eq_true, if_false]
    · simp only [sealSlot, hx, hsl, hw, Bool.false_eq_true, if_false]; rfl

end

section
/-! Instructions by the effect of their body: they hold, go on, write a pair of predicates, or raise a fault. -/

open Sys2Proof Sys2Proof.Machine Sys2Proof.Claims

namespace Sys2Proof.Machine

variable {i : Instr} {s : State} {g : Guard} {u : Uses} {len : Nat} {body : State → Eff}

theorem does_hold (he : exec i s = runStrand len g u s body) (h : s.runs g u) {c : Hold} (hb : body s = .hold s c) :
    does i s (heldBy c) := by
  obtain ⟨t, e, ht⟩ := runStrand_hold h len c hb
  exact ⟨t, he.trans e, ht⟩

theorem does_wentOn (he : exec i s = runStrand len g u s body) (h : s.runs g u) (hu : u.ws = []) (hb : body s = .done s) :
    does i s (wentOn len) := by
  obtain ⟨t, e, ht⟩ := runStrand_same h len hu hb
  exact ⟨t, he.trans e, ht⟩

/-- A kind F fault that concerns no slot. -/
theorem does_fault (he : exec i s = runStrand len g u s body) (h : s.runs g u) (hh : handled s) {code sub : Nat} {arg : Word}
    (hp : code ≠ codePURITY) (hi : (Exc.of code sub arg).info = trapInfo code sub false)
    (hb : body s = .trap s (Exc.of code sub arg)) : does i s (tookException code sub false arg s.me.pc) := by
  obtain ⟨t, e, ht⟩ := runStrand_fault h hh len code sub arg hp hi hb
  exact ⟨t, he.trans e, ht⟩

/-! ## Pairs of predicates (R266) -/

theorem Strand.pred_setPred (t : Strand) (k : Nat) (v : Bool) {j : Nat} (hj : j < 16) :
    (t.setPred k v).pred j = if j = 0 then true else if j = k then v else t.pred j := by
  by_cases h0 : j = 0
  · simp [Strand.pred, h0]
  · by_cases hk : k = 0
    · subst hk
      simp [h0, Strand.pred]
    · have bit := getLsbD_bvSetField t.p k 1 v.toNat j hj
      by_cases e : j = k
      · subst e
        simp only [Strand.pred, Strand.setPred, h0, if_false, if_true, bvBit_eq, bit]
        rw [if_pos (by omega), Nat.sub_self]
        cases v <;> rfl
      · simp only [Strand.pred, Strand.setPred, h0, hk, e, if_false, bvBit_eq, bit]
        rw [if_neg (by omega)]

theorem State.wPair_eq (s : State) (hs : s.seated) (pt pf : Nat) (v : Bool) :
    s.wPair pt pf v = s.setMe ((s.me.setPred pt v).setPred pf (!v)) := by
  rw [State.wPair, State.wP, State.wP, State.me_setMe s _ hs, State.setMe_setMe]

/-- An instruction whose body writes a pair of predicates. -/
theorem givesPair_wPair (he : exec i s = runStrand len g u s body) (h : s.runs g u) (hu : u.ws = []) {pt pf : Nat} {v : Bool}
    (hb : body s = .done (s.wPair pt pf v)) : givesPair i s len pt pf v := by
  rw [State.wPair_eq s h.1] at hb
  obtain ⟨t, e, ho, hm⟩ := runStrand_setMe h len _ hb
  refine ⟨t, he.trans e, hu ▸ ho, ?_, fun k hk => ?_⟩
  · rw [hm]
    by_cases h1 : pt = 0 <;> by_cases h2 : pf = 0 <;> simp [Strand.setPred, h1, h2]
  · have hp : t.rP k = ((s.me.setPred pt v).setPred pf (!v)).pred k := by rw [State.rP, hm]; rfl
    rw [hp, Strand.pred_setPred _ _ _ hk, Strand.pred_setPred _ _ _ hk]
    by_cases h0 : k = 0
    · simp [h0]
    · simp only [h0, if_false]
      rfl

end Sys2Proof.Machine
end

section
/-! Queue registers (R117, R307). -/

open Sys2Proof Sys2Proof.Machine Sys2Proof.Claims

namespace Sys2Proof.Machine

/-! ## Vector registers that are bound to no ring (R116) -/

theorem filter_streams_unbound {q : Core} {vs : List Nat} (h : ∀ v, v ∈ vs → q.streamOf v = none) :
    vs.eraseDups.filter (fun v => (q.streamOf v).isSome) = [] := by
  rw [List.filter_eq_nil_iff]
  intro v hv
  simp [h v (List.mem_eraseDups.mp hv)]

theorem Core.streamClash_unbound {q : Core} {srcs dsts : List Nat} (h : ∀ v, v ∈ srcs ++ dsts → q.streamOf v = none) :
    q.streamClash srcs dsts = none := by
  unfold Core.streamClash
  dsimp only
  split
  · rename_i x hx
    obtain ⟨v, hv, e⟩ := List.exists_of_findSome?_eq_some hx
    rw [h v (List.mem_append_left _ hv)] at e
    cases e
  · refine List.findSome?_eq_none_iff.mpr fun v hv => ?_
    rw [h v (List.mem_append_right _ hv)]

/-- Where no register of an instruction is bound to a ring, its body runs as it is. -/
theorem withStreams_unbound {srcs dsts : List Nat} {s : State} {body : State → Eff}
    (h : ∀ v, v ∈ srcs ++ dsts → s.here.streamOf v = none) (ht : ∀ t e, body s = .trap t e → t = s) :
    withStreams srcs dsts s body = body s := by
  unfold withStreams
  dsimp only
  split
  · rfl
  · rw [Core.streamClash_unbound h]
    dsimp only
    rw [filter_streams_unbound fun v m => h v (List.mem_append_left _ m),
      filter_streams_unbound fun v m => h v (List.mem_append_right _ m)]
    have hs : s.streamSealed [] = false := rfl
    simp only [List.append_nil, Core.streamHold, List.findSome?_nil, hs, Bool.false_eq_true, if_false, List.foldl_nil, State.restoreVecs]
    split
    · rename_i e; rw [e]
    · rename_i e; rw [e]
    · rename_i e; rw [e]
    · rename_i e; rw [e, ht _ _ e]

theorem State.wholeCheck_clean {s : State} (h : s.poison = []) (a : Nat) : s.wholeCheck a = none := by
  simp [State.wholeCheck, State.vregPoisoned, h]

theorem bvSetField_whole {w : Nat} (v : BitVec w) (x : BitVec w) : bvSetField v 0 w x.toNat = x := by
  apply BitVec.eq_of_getLsbD_eq
  intro j hj
  rw [getLsbD_bvSetField v 0 w x.toNat j hj, if_pos (by omega)]
  rfl

/-- A vector register written whole, and nothing else, where nothing is poisoned. -/
theorem State.putWhole_clean {s : State} (h : s.poison = []) (d : Nat) (v : BitVec 16384) (x : BitVec 2048) :
    s.putWhole d v x = s.setHere { s.here with v := mapPut s.here.v d v, side := mapPut s.here.side d x } := by
  have hv : s.putVec s.cur.1 d 16384 v.toNat = s.setHere { s.here with v := mapPut s.here.v d v } := by
    simp only [State.putVec, State.setCore_poison, h, List.isEmpty_nil, if_true, bvSetField_whole]
    rfl
  have hw : (s.setHere { s.here with v := mapPut s.here.v d v }).core s.cur.1 = { s.here with v := mapPut s.here.v d v } :=
    s.here_setHere _
  have hx : bvSetField ((s.here).sidecar d) 0 (8 * 256) x.toNat = x := bvSetField_whole _ x
  have hp : (s.setHere { s.here with v := mapPut s.here.v d v }).poison = [] := h
  have hx' : bvSetField (Core.sidecar { s.here with v := mapPut s.here.v d v } d) 0 (8 * 256) x.toNat = x := hx
  simp only [State.putWhole, hv, State.putSide, hw, State.setCore_poison, hp, List.isEmpty_nil, if_true, hx']
  exact s.setCore_setCore _ _ _

/-! ## QPUSH and QPOP -/

variable {g : Guard} {n a d : Nat} {s : State}

theorem queueUses_reads (n a : Nat) : queueUses n a true = if n < 8 then Uses.scalar [a] [] else ⟨[], [], [a], []⟩ := rfl

theorem queueUses_writes (n d : Nat) : queueUses n d false = if n < 8 then Uses.scalar [] [d] else ⟨[], [], [], [d]⟩ := rfl

theorem queuePush_scalar (hn : n < 8) (hl : s.here.queueLength n < queueCapacity n) :
    queuePush n a s = .done (s.setHere (woken { s.here with
      qsNew := mapPut s.here.qsNew n (mapGet s.here.qsNew n [] ++ [s.rS a]) })) := by
  simp only [queuePush, Nat.not_le.mpr hl, hn, if_true, if_false]
  rfl

theorem queuePush_vector (hn : ¬ n < 8) (hs : s.here.streamOf a = none) (hp : s.poison = [])
    (hl : s.here.queueLength n < queueCapacity n) : queuePush n a s = .done (s.setHere (woken { s.here with
      qvNew := mapPut s.here.qvNew n (mapGet s.here.qvNew n [] ++ [(s.here.vec a, s.here.sidecar a)]) })) := by
  simp only [queuePush, Nat.not_le.mpr hl, hn, if_false]
  rw [withStreams_unbound (by simpa using hs) fun t e h => by rw [State.wholeCheck_clean hp] at h; cases h]
  simp only [State.wholeCheck_clean hp]
  rfl

theorem queuePush_full (hl : queueCapacity n ≤ s.here.queueLength n) : queuePush n a s = .hold s (.queueFull n) := if_pos hl

theorem State.popPoison_clean (h : s.poison = []) (n : Nat) : s.popPoison n = s := by simp [State.popPoison, h]

theorem queuePop_scalar (hn : n < 8) (hp : s.poison = []) {v : Word} {rest : List Word} (hq : mapGet s.here.qs n [] = v :: rest) :
    queuePop d n s = .done (s.setHere ((woken { s.here with qs := mapPut s.here.qs n rest }).withReg s.cur.2 d v)) := by
  have e : (s.setHere (woken { s.here with qs := mapPut s.here.qs n rest })).popPoison n =
      s.setHere (woken { s.here with qs := mapPut s.here.qs n rest }) := State.popPoison_clean (s := s.setHere _) hp n
  rw [← State.setHere_wS, ← e]
  simp only [queuePop, hn, if_true, hq, hp, List.any_nil, Bool.false_eq_true, if_false]
  rfl

theorem queuePop_vector (hn : ¬ n < 8) (hs : s.here.streamOf d = none) (hp : s.poison = []) {v : BitVec 16384 × BitVec 2048}
    {rest : List (BitVec 16384 × BitVec 2048)} (hq : mapGet s.here.qv n [] = v :: rest) :
    queuePop d n s = .done (s.setHere (woken { s.here with
      qv := mapPut s.here.qv n rest, v := mapPut s.here.v d v.1, side := mapPut s.here.side d v.2 })) := by
  have e : (s.setHere (woken { s.here with qv := mapPut s.here.qv n rest })).popPoison n =
      s.setHere (woken { s.here with qv := mapPut s.here.qv n rest }) := State.popPoison_clean (s := s.setHere _) hp n
  have w : (s.setHere (woken { s.here with qv := mapPut s.here.qv n rest })).putWhole d v.1 v.2 =
      s.setHere (woken { s.here with qv := mapPut s.here.qv n rest, v := mapPut s.here.v d v.1, side := mapPut s.here.side d v.2 }) := by
    rw [State.putWhole_clean (show (s.setHere _).poison = [] from hp), State.here_setHere]
    exact s.setCore_setCore _ _ _
  rw [← w, ← e]
  simp only [queuePop, hn, if_false]
  rw [withStreams_unbound (by simpa using hs) fun t x h => by simp [hq, hp] at h]
  simp only [hq, hp, List.any_nil, Bool.false_eq_true, if_false]
  rfl

theorem queuePop_empty (hs : ¬ n < 8 → s.here.streamOf d = none)
    (hq : if n < 8 then mapGet s.here.qs n [] = [] else mapGet s.here.qv n [] = []) :
    queuePop d n s = .hold s (.queueEmpty n) := by
  by_cases hn : n < 8
  · simp only [hn, if_true] at hq
    simp only [queuePop, hn, if_true, hq]
  · simp only [hn, if_false] at hq
    simp only [queuePop, hn, if_false]
    rw [withStreams_unbound (by simpa using hs hn) fun t e h => by simp [hq] at h]
    simp only [hq]

end Sys2Proof.Machine

/-- Settles O40: a push and a pop are each one change of the core or a hold, in both forms, for scalars and for vectors. -/
theorem queueRegisters : Obligations.QueueRegisters := by
  intro g n a d pt pf s hn16 hp hr hpf scalar len room both pops
  have push : ∀ {p : Nat → State → State → Prop}, (∀ i len, exec i s = runStrand len g (queueUses n a true) s (queuePush n a) →
      does i s (p len)) → both p := fun h => ⟨h _ 4 rfl, h _ 8 rfl⟩
  have pop : ∀ {p : Nat → State → State → Prop}, (∀ i len, exec i s = runStrand len g (queueUses n d false) s (queuePop d n) →
      does i s (p len)) → pops p := fun h => ⟨h _ 4 rfl, h _ 8 rfl⟩
  clear_value both pops
  refine ⟨fun hn ha hl => push fun i l he => ?pushScalar, fun hn ⟨ha, hs, _⟩ hl => push fun i l he => ?pushVector,
    fun ha ⟨hv, _, _⟩ hl => push fun i l he => ?full, fun v rest hn hd hq => pop fun i l he => ?popScalar,
    fun v rest hn ⟨hd, hs, _⟩ hq => pop fun i l he => ?popVector,
    fun hd ⟨hv, hs, _⟩ hq => pop fun i l he => ?empty, ?entry, ?room⟩
  case pushScalar =>
    rw [queueUses_reads, if_pos hn] at he
    exact does_setHere he ha (queuePush_scalar hn hl) ⟨rfl, rfl, rfl⟩
  case pushVector =>
    rw [queueUses_reads, if_neg hn] at he
    exact does_setHere he ha (queuePush_vector hn (hs a (by simp)) hp hl) ⟨rfl, rfl, rfl⟩
  case full =>
    refine does_hold he ?_ (queuePush_full hl)
    rw [queueUses_reads]
    split
    · exact ha
    · exact hv
  case popScalar =>
    rw [queueUses_writes, if_pos hn] at he
    exact does_setHere he hd (queuePop_scalar hn hp hq) ⟨rfl, rfl, rfl⟩
  case popVector =>
    rw [queueUses_writes, if_neg hn] at he
    obtain ⟨t, ht, hb⟩ := does_setHere he hd (queuePop_vector hn (hs d (by simp)) hp hq) ⟨rfl, rfl, rfl⟩
    have hv : t.here.v = mapPut s.here.v d v.1 := by rw [hb.2]; rfl
    have hside : t.here.side = mapPut s.here.side d v.2 := by rw [hb.2]; rfl
    refine ⟨t, ht, by rw [hv, hside]; exact hb, ?_, ?_, fun e hne => ⟨?_, ?_⟩⟩
    · rw [Core.vec, hv]; exact mapGet_mapPut_self _ _ _ _
    · rw [Core.sidecar, hside]; exact mapGet_mapPut_self _ _ _ _
    · rw [Core.vec, hv]; exact mapGet_mapPut_ne _ _ _ hne
    · rw [Core.sidecar, hside]; exact mapGet_mapPut_ne _ _ _ hne
  case empty =>
    refine does_hold he ?_ (queuePop_empty (fun _ => hs d (by simp)) hq)
    rw [queueUses_writes]
    split
    · exact hd
    · exact hv
  case entry => exact givesPair_wPair rfl hr rfl rfl
  case room => exact givesPair_wPair rfl hr rfl rfl

end

section
/-! Timelines, completion words, engines and patches as a strand reads them (R106, R212, R308, R312, R313). -/

open Sys2Proof Sys2Proof.Machine Sys2Proof.Claims

namespace Sys2Proof.Machine

variable {g : Guard} {s : State} {e a d : Nat}

/-! ## Engines of a core -/

theorem Core.engine_setEngine_self (q : Core) (e : Nat) (x : Engine) : (q.setEngine e x).engine e = x := mapGet_mapPut_self _ _ _ _

theorem Core.engine_setEngine_ne (q : Core) {e f : Nat} (x : Engine) (h : f ≠ e) : (q.setEngine e x).engine f = q.engine f :=
  mapGet_mapPut_ne _ _ _ h

theorem Core.engine_setStrand (q : Core) (k e : Nat) (t : Strand) : (q.setStrand k t).engine e = q.engine e := rfl

theorem Engine.places_eq (x : Engine) : x.places = x.queue.countP fun r => !r.member := List.countP_eq_length_filter.symm

theorem Engine.completed_iff (x : Engine) (n : Nat) :
    x.completed n = true ↔ n ≤ x.tl ∨ n ≤ x.last ∧ ∀ r, r ∈ x.queue → r.num ≠ n := by
  simp [Engine.completed]

theorem State.registersWritten_none (s : State) : s.registersWritten Uses.none = s := by
  unfold State.registersWritten
  split <;> rfl

/-! ## WAITT (R212, R308) -/

theorem timelineWait_held (h : (s.here.engine e).tl < (s.rS a).toNat) :
    timelineWait e a s = .hold s (.timeline e (s.rS a).toNat) := if_pos h

theorem timelineWait_over (h : (s.rS a).toNat ≤ (s.here.engine e).tl)
    (hp : ∀ n sub, (n, sub) ∈ (s.here.engine e).pend → (s.rS a).toNat < n) : timelineWait e a s = .done s := by
  have none : (s.here.engine e).pendingUpTo (s.rS a).toNat = none :=
    List.find?_eq_none.mpr fun p m => by simpa using hp p.1 p.2 m
  simp only [timelineWait, Nat.not_lt.mpr h, if_false, none]

/-- TRAPINFO of a machine check that an engine left behind (R209, R212). -/
def pendingCheck (e n sub : Nat) : Exc := { Exc.of codeMCHECK sub (BitVec.ofNat 64 n) with src := 2, eng := e }

theorem timelineWait_check (h : (s.rS a).toNat ≤ (s.here.engine e).tl) {n sub : Nat} {rest : Map Nat}
    (hp : (s.here.engine e).pend = (n, sub) :: rest) (hn : n ≤ (s.rS a).toNat) :
    timelineWait e a s = .trap (s.setHere (s.here.setEngine e
      { s.here.engine e with pend := mapDel (s.here.engine e).pend n })) (pendingCheck e n sub) := by
  have first : (s.here.engine e).pendingUpTo (s.rS a).toNat = some (n, sub) := by
    simp only [Engine.pendingUpTo, hp, List.find?_cons, hn, decide_true]
  simp only [timelineWait, Nat.not_lt.mpr h, if_false, first]
  rfl

/-- A strand whose body changed its core and raised a kind F exception enters its handler on that core. -/
theorem State.raise_setHere {q : Core} {x : Exc} {len : Nat} (hq : q.strand s.cur.2 = s.me) (hh : handled s) (hk : x.kindC = false)
    (hp : x.code ≠ codePURITY) :
    (s.setHere q).raise x len = s.setHere (q.setStrand s.cur.2 (s.me.enterHandler x s.me.pc)) := by
  have hm : (s.setHere q).me = s.me := by rw [State.me, State.here_setHere]; exact hq
  have hc : (s.setHere q).me.hasHandler = true := by rw [hm]; exact Strand.hasHandler_of hh.1 hh.2
  rw [State.raise_handler _ _ _ hc hp, State.setHere_setMe, hm, hk]
  rfl

/-- A pending machine check is taken once, and by a wait that its record meets (R212). -/
theorem waitt_check {i : Instr} {len : Nat} (he : exec i s = runStrand len g (Uses.scalar [a] []) s (timelineWait e a))
    (hr : s.runs g (Uses.scalar [a] [])) (hh : handled s) (h : (s.rS a).toNat ≤ (s.here.engine e).tl) {n sub : Nat} {rest : Map Nat}
    (hp : (s.here.engine e).pend = (n, sub) :: rest) (hn : n ≤ (s.rS a).toNat) (he5 : e < 5) (hsub : sub < 256) :
    does i s fun s t => onlyCore [] s t ∧ t.here.engine e = { s.here.engine e with pend := mapDel (s.here.engine e).pend n } ∧
      (∀ f, f ≠ e → t.here.engine f = s.here.engine f) ∧ t.me.pc = s.me.trapvec.toNat ∧
      t.me.trappc = BitVec.ofNat 64 s.me.pc ∧ t.me.traparg = BitVec.ofNat 64 n ∧
      t.me.trapinfo = BitVec.ofNat 64 (0x10 + 2 ^ 9 + 2 ^ 10 * 2 + 2 ^ 12 * e + 2 ^ 16 * sub + 2 ^ 24 * 255) ∧
      ∀ r, t.rS r = s.rS r := by
  let q := s.here.setEngine e { s.here.engine e with pend := mapDel (s.here.engine e).pend n }
  let m := s.me.enterHandler (pendingCheck e n sub) s.me.pc
  have hraise := State.raise_setHere (s := s) (q := q) (x := pendingCheck e n sub) (len := len) rfl hh rfl
    (show codeMCHECK ≠ codePURITY by decide)
  have hme : (s.setHere (q.setStrand s.cur.2 m)).me = m := by
    rw [State.me, State.here_setHere]
    exact Core.strand_setStrand_self q m hr.1
  have info : (pendingCheck e n sub).info =
      BitVec.ofNat 64 (0x10 + 2 ^ 9 + 2 ^ 10 * 2 + 2 ^ 12 * e + 2 ^ 16 * sub + 2 ^ 24 * 255) := by
    have h16 : e % 16 = e := Nat.mod_eq_of_lt (by omega)
    simp only [Exc.info, pendingCheck, Exc.of, h16, Nat.mod_eq_of_lt hsub]
    rfl
  refine ⟨s.setHere (q.setStrand s.cur.2 m), ?_, ?_, ?_, fun f hf => ?_, by rw [hme]; rfl, by rw [hme]; rfl, by rw [hme]; rfl,
    by rw [hme]; exact info, fun r => by rw [State.rS, hme]; rfl⟩
  · rw [he, runStrand_of_runs hr, timelineWait_check h hp hn, finish, hraise]
  · have frame := s.onlyCore_setHere (q.setStrand s.cur.2 m) Uses.none ⟨rfl, rfl, rfl⟩
    rwa [State.registersWritten_none] at frame
  · rw [State.here_setHere, Core.engine_setStrand]
    exact Core.engine_setEngine_self _ _ _
  · rw [State.here_setHere, Core.engine_setStrand]
    exact Core.engine_setEngine_ne _ _ hf

/-! ## RDTL (R308) -/

theorem completionWord_zero (h : (s.rS a).toNat = 0) : completionWord d e a s = .trap s (Exc.illop 9) := if_pos h

theorem completionWord_held (h : (s.rS a).toNat ≠ 0) (hc : (s.here.engine e).completed (s.rS a).toNat = false) :
    completionWord d e a s = .hold s (.word e (s.rS a).toNat) := by
  simp only [completionWord, h, hc, if_false, Bool.not_false, if_true]

theorem completionWord_known (h : (s.rS a).toNat ≠ 0) (hc : (s.here.engine e).completed (s.rS a).toNat = true) {w : Word}
    (hw : mapFind (s.here.engine e).words (s.rS a).toNat = some w) : completionWord d e a s = .done (s.wS d w) := by
  simp [completionWord, h, hc, hw]

theorem completionWord_lost (h : (s.rS a).toNat ≠ 0) (hc : (s.here.engine e).completed (s.rS a).toNat = true)
    (hw : mapFind (s.here.engine e).words (s.rS a).toNat = none) : completionWord d e a s = .trap s (Exc.illop 9) := by
  simp [completionWord, h, hc, hw]

/-! ## ECTL (R312) -/

theorem exec_ectl (g : Guard) (e item d : Nat) (s : State) : exec (.ectl g e item d) s =
    runStrand 8 g (Uses.scalar [] [d]) s fun s => .done (s.wS d (BitVec.ofNat 64 (engineItem (s.here.engine e) item))) := rfl

theorem engineItem_index {x : Engine} {item : Nat} (h2 : 2 ≤ item) (h7 : item ≤ 7) :
    engineItem x item = match x.running with | some r => r.upc.getD (item - 2) 0 | none => 0 := by
  unfold engineItem
  split
  · omega
  · omega
  · omega
  · rfl

/-! ## ZSTAT (R313) -/

theorem State.wPair_setMe_self (hs : s.seated) (pt pf : Nat) (v : Bool) : (s.setMe s.me).wPair pt pf v = s.wPair pt pf v := by
  have hs' : (s.setMe s.me).seated := by rw [State.seated, State.here_setMe, Core.setStrand_length]; exact hs
  rw [State.wPair_eq _ hs', State.wPair_eq _ hs, State.me_setMe s _ hs, State.setMe_setMe]

/-- Some record of the matrix engine that a wait of a patch is for (R313, R335). -/
def patchNamed (s : State) (z : Nat) : Prop :=
  ∃ r, r ∈ (s.here.engine 0).queue ∧ z ∈ r.patches ∧ r.num ≤ (s.here.engine 0).last

/-- The clocks after the drain of a patch are not over (R313). -/
def patchEarly (s : State) (z : Nat) : Prop := ∃ c, (s.here.patch z).drained = some c ∧ s.here.clk < c + Config.drainDelay

theorem patchNamed_iff (s : State) (z : Nat) : patchNamed s z ↔
    ((s.here.engine 0).queue.any fun r => decide (r.num ≤ (s.here.engine 0).last) && r.patches.contains z) = true := by
  simp only [patchNamed, List.any_eq_true, Bool.and_eq_true, decide_eq_true_eq, List.contains_iff_mem]
  exact ⟨fun ⟨r, h, hz, hn⟩ => ⟨r, h, hn, hz⟩, fun ⟨r, h, hn, hz⟩ => ⟨r, h, hz, hn⟩⟩

theorem patchEarly_iff (s : State) (z : Nat) : patchEarly s z ↔ (match (s.here.patch z).drained with
    | some k => decide (s.here.clk < k + Config.drainDelay) | none => false) = true := by
  unfold patchEarly
  cases (s.here.patch z).drained <;> simp

theorem awaitPatch_over {z : Nat} (hw : s.me.waiting = none) (hn : ¬ patchNamed s z) (he : ¬ patchEarly s z) (act : State → Eff) :
    awaitPatch z true s act = act (s.setMe s.me) := by
  have hm : { s.me with waiting := none } = s.me := by rw [← hw]
  simp only [awaitPatch, hw, Bool.true_and]
  refine (if_neg ?_).trans (by rw [hm])
  rw [Bool.or_eq_true]
  exact fun h => h.elim (fun h => hn ((patchNamed_iff s z).mpr h)) fun h => he ((patchEarly_iff s z).mpr h)

theorem awaitPatch_held {z : Nat} (hw : s.me.waiting = none) (h : patchNamed s z ∨ patchEarly s z) (act : State → Eff) :
    awaitPatch z true s act = .hold (s.setMe { s.me with waiting := some (z, (s.here.engine 0).last) })
      (.patch (s.here.engine 0).last true z) := by
  rw [patchNamed_iff, patchEarly_iff] at h
  have hc := (Bool.or_eq_true _ _).mpr h
  simp only [awaitPatch, hw, Bool.true_and]
  exact if_pos hc

end Sys2Proof.Machine

/-- Settles O41: each instruction reads its engine or patch, and one of the cases above answers it. -/
theorem engineStatus : Obligations.EngineStatus := by
  intro g e a d pt pf z k item s ha had hd hr he5 hpf v x waits
  have wait : ∀ {p : Nat → State → State → Prop}, (∀ i len, exec i s = runStrand len g (Uses.scalar [a] []) s (timelineWait e a) →
      does i s (p len)) → waits p := fun h => ⟨h _ 4 rfl, h _ 8 rfl⟩
  clear_value waits
  refine ⟨fun h => wait fun i l hi => does_hold hi ha (timelineWait_held h),
    fun h hp => wait fun i l hi => does_wentOn hi ha rfl (timelineWait_over h hp),
    fun n sub rest h hp hn hh hsub => wait fun i l hi => waitt_check hi ha hh h hp hn he5 hsub,
    fun h hh => does_fault rfl had hh (by decide) (by decide) (completionWord_zero h), ?_⟩
  have elected : ∀ {m n : Nat}, engineItem x m = n → gives (.ectl g e m d) s 8 d (BitVec.ofNat 64 n) := fun h =>
    gives_wS (exec_ectl g e _ d s) hd rfl (congrArg (fun n => Eff.done (s.wS d (BitVec.ofNat 64 n))) h)
  intro completed
  have hcompleted : x.completed v = true ↔ completed := x.completed_iff v
  refine ⟨fun h hc => ?held, fun h hc => ⟨fun w hw => ?known, fun hw hh => ?lost⟩, elected x.places_eq, elected rfl,
    ⟨elected rfl, fun h2 h7 => elected (engineItem_index h2 h7)⟩, fun hw => ?patch⟩
  case held => exact does_hold rfl had (completionWord_held h (Bool.eq_false_iff.mpr fun t => hc (hcompleted.mp t)))
  case known => exact gives_wS rfl had rfl (completionWord_known h (hcompleted.mpr hc) hw)
  case lost => exact does_fault rfl had hh (by decide) (by decide) (completionWord_lost h (hcompleted.mpr hc) hw)
  case patch =>
    refine ⟨fun hn hearly => ?_, fun h => ?_⟩
    · refine givesPair_wPair rfl hr rfl ((awaitPatch_over hw hn hearly _).trans ?_)
      rw [State.wPair_setMe_self hr.1, State.here_setMe]
      rfl
    · refine ⟨_, runStrand_of_runs hr 8 _, ?_⟩
      rw [show patchStatus pt pf z k s = _ from awaitPatch_held hw h _, finish, State.me_setMe s _ hr.1, State.setMe_setMe]
      exact ⟨onlyStrand_setMe_none s _ hr.1, State.me_setMe s _ hr.1⟩

end

section
/-! Rings and stream bindings (R116, R118 to R120, R304 to R306, R309). -/

open Sys2Proof Sys2Proof.Machine Sys2Proof.Claims

namespace Sys2Proof.Machine

variable {g : Guard} {s : State} {a b d x v : Nat} {r : Ring}

/-! ## The fields of a ring (R304) -/

theorem Ring.log2N_eq (r : Ring) : r.log2N = r.shape.toNat % 16 := by simp [Ring.log2N, bvField, bitsAt]

theorem Ring.count_eq (r : Ring) : r.count = 2 ^ (r.shape.toNat % 16) := by rw [Ring.count, Ring.log2N_eq]

theorem Ring.size_eq (r : Ring) :
    r.size = if r.shape.toNat / 2 ^ 16 % 2 ^ 10 = 0 then 65536 else r.shape.toNat / 2 ^ 16 % 2 ^ 10 * 64 := rfl

theorem Ring.base_eq (r : Ring) : r.base = r.place.toNat % 2 ^ 22 := by simp [Ring.base, bvField, bitsAt]

theorem Ring.inStore_eq (r : Ring) : r.inStore = if r.place.toNat / 2 ^ 32 % 2 = 1 then 1 else 2 := by
  simp [Ring.inStore, bvBit, Nat.testBit_eq_decide_div_mod_eq]

theorem Ring.size_tile (r : Ring) : r.size = 2048 ↔ r.shape.toNat / 2 ^ 16 % 2 ^ 10 = 32 := by
  rw [Ring.size_eq]
  split <;> omega

theorem State.token_toNat (s : State) (a : Nat) : (s.token a).toNat = ((s.rS a).setWidth 32 : BitVec 32).toNat := by
  simp [State.token]

/-! ## Claims and releases -/

/-- The slot in turn for a claim. -/
def Ring.next (r : Ring) (fill : Bool) : Nat := (if fill then r.fh else r.ch).toNat % r.count

/-- The ring after a claim of its slot in turn by a strand. -/
def Ring.claimed (r : Ring) (fill : Bool) (k : Nat) : Ring :=
  { r with slots := r.slots.set (r.next fill) ⟨if fill then .filling else .draining, some (.strand k), none⟩
           fh := if fill then r.fh + 1 else r.fh
           ch := if fill then r.ch else r.ch + 1 }

theorem Ring.claim_one (r : Ring) (fill : Bool) (k : Nat) : r.claim fill 1 (.strand k) =
    if (r.slot (r.next fill)).state = neededState fill then some (r.claimed fill k, [r.next fill]) else none := by
  have turn : r.turn fill 1 = [r.next fill] := by simp [Ring.turn, Ring.next, upTo]
  have room : 1 ≤ r.count := Nat.one_le_two_pow
  simp only [Ring.claim, turn, room, decide_true, Bool.true_and, List.all_cons, List.all_nil, Bool.and_true, beq_iff_eq]
  rfl

theorem bound_any {r : Ring} {fill : Bool} (h : ∀ u, r.bound ≠ some (u, fill)) : r.bound.any (fun u => u.2 == fill) = false := by
  cases e : r.bound with
  | none => rfl
  | some u => simpa using fun h' : u.2 = fill => h u.1 (by rw [e, ← h'])

theorem ringClaim_claims (hr : mapFind s.here.rings x = some r) {fill : Bool} (hb : ∀ u, r.bound ≠ some (u, fill))
    (hs : (r.slot (r.next fill)).state = neededState fill) : ringClaim fill d x s =
      .done (s.setHere ((s.here.setRing x (r.claimed fill s.cur.2)).withReg s.cur.2 d (BitVec.ofNat 64 (r.next fill)))) := by
  rw [← State.setHere_wS]
  simp only [ringClaim, hr, bound_any hb, Bool.false_eq_true, if_false, Ring.claim_one, hs, if_true]
  rfl

theorem ringClaim_held (hr : mapFind s.here.rings x = some r) {fill : Bool} (hb : ∀ u, r.bound ≠ some (u, fill))
    (hs : (r.slot (r.next fill)).state ≠ neededState fill) :
    ringClaim fill d x s = .hold s (if fill then .ringFree x else .ringFull x) := by
  simp only [ringClaim, hr, bound_any hb, Bool.false_eq_true, if_false, Ring.claim_one, hs]

theorem ringClaim_race (hr : mapFind s.here.rings x = some r) {fill : Bool} {u : Nat} (hb : r.bound = some (u, fill)) :
    ringClaim fill d x s = .trap s (raceExc x 0) := by
  simp only [ringClaim, hr, hb, Option.any_some, beq_self_eq_true, if_true]

/-- A strand may release slot `i` of a ring: it holds it, and has not released it in this clock (R120, R305). -/
def releasable (s : State) (r : Ring) (fill : Bool) (i : Nat) : Prop :=
  (r.slot i).holder = some (.strand s.cur.2) ∧ (r.slot i).next = none ∧ (r.slot i).state = if fill then .filling else .draining

theorem releasable_iff (s : State) (r : Ring) (fill : Bool) (i : Nat) : releasable s r fill i ↔
    ((r.slot i).holder == some (.strand s.cur.2) && (r.slot i).next.isNone &&
      (r.slot i).state == (if fill then .filling else .draining)) = true := by
  simp [releasable, and_assoc]

theorem ringRelease_releases (hr : mapFind s.here.rings x = some r) {fill : Bool} (hi : (s.token a).toNat < r.count)
    (hw : s.here.writes = []) (h : releasable s r fill (s.token a).toNat) :
    ringRelease fill x a s = .done (s.setHere (s.here.setRing x (r.release fill (s.token a).toNat)).wake) := by
  have drained : s.releaseAt s.cur.1 .die = s := by
    have hn : (s.core s.cur.1).writes = [] := hw
    simp [State.releaseAt, State.drainCore, hn, State.drainFrom]
  simp only [ringRelease, hr, Nat.not_le.mpr hi, if_false, (releasable_iff s r fill _).mp h, if_true, drained]

theorem ringRelease_race (hr : mapFind s.here.rings x = some r) {fill : Bool} (hi : (s.token a).toNat < r.count)
    (h : ¬ releasable s r fill (s.token a).toNat) : ringRelease fill x a s = .trap s (raceExc x (s.token a).toNat) := by
  rw [releasable_iff] at h
  simp only [ringRelease, hr, Nat.not_le.mpr hi, if_false]
  exact if_neg h

theorem ringRelease_beyond (hr : mapFind s.here.rings x = some r) {fill : Bool} (hi : r.count ≤ (s.token a).toNat) :
    ringRelease fill x a s = .trap s (Exc.illop 9) := by
  simp only [ringRelease, hr, hi, if_true]

/-! ## RQRY (R306) -/

theorem ringQuery_eq (hr : mapFind s.here.rings x = some r) (k : Nat) : ringQuery d x k s = .done (s.wS d (BitVec.ofNat 64 (match k with
    | 0 => r.fh.toNat | 1 => r.ch.toNat
    | 2 => r.slots.countP fun t => t.state == .full
    | 3 => r.slots.countP fun t => t.state == .free
    | _ => r.place.toNat % 2 ^ 33 + 2 ^ 40 * (r.shape.toNat % 16) + 2 ^ 48 * (r.shape.toNat / 2 ^ 16 % 2 ^ 10)))) := by
  simp only [ringQuery, hr, List.countP_eq_length_filter, Ring.log2N_eq, bvField, bitsAt, pow_zero, Nat.div_one] <;> rfl

/-! ## Stream bindings (R309) -/

theorem streamBind_binds {dir : Nat} (hr : mapFind s.here.rings x = some r) (hz : r.size = 2048) (hv : s.here.streamOf v = none)
    (hb : r.bound = none)
    (hh : ∀ t, t ∈ r.slots → t.holder ≠ none → t.state ≠ if dir = 1 then .filling else .draining) :
    streamBind v x dir s = .done (s.setHere (s.here.setRing x { r with bound := some (v, dir == 1) })) := by
  have held : (r.slots.any fun t => t.holder.isSome && t.state == (if dir = 1 then SlotState.filling else .draining)) = false := by
    rw [List.any_eq_false]
    intro t ht
    rw [Bool.and_eq_true, beq_iff_eq]
    exact fun ⟨h1, h2⟩ => hh t ht (Option.isSome_iff_ne_none.mp h1) h2
  simp only [streamBind, hr, hz, hv, hb, held, Option.isSome_none, Bool.or_self, Bool.false_eq_true, ne_eq, not_true_eq_false, if_false]

theorem streamBind_small {dir : Nat} (hr : mapFind s.here.rings x = some r) (hz : r.size ≠ 2048) :
    streamBind v x dir s = .trap s (Exc.of codeHFAULT) := by
  simp only [streamBind, hr, ne_eq, hz, not_false_eq_true, if_true]

theorem streamBind_bound {dir : Nat} (hr : mapFind s.here.rings x = some r) (hz : r.size = 2048) (hb : r.bound ≠ none) :
    streamBind v x dir s = .trap s (raceExc x 0) := by
  have some_ : r.bound.isSome = true := Option.isSome_iff_ne_none.mpr hb
  simp only [streamBind, hr, hz, some_, Bool.or_true, Bool.true_or, ne_eq, not_true_eq_false, if_false, if_true]

theorem streamUnbind_bound (hv : s.here.streamOf v ≠ none) :
    streamUnbind v s = .done (s.setHere { s.here with unbindStream := setPut s.here.unbindStream v }) := by
  unfold streamUnbind
  split
  · rfl
  · rename_i e; exact absurd e hv

/-! ## RINIT (R118, R304) -/

theorem ringInit_sets {r : Ring} (hr : r = ⟨s.rS a, s.rS b, 0, 0, [], none⟩) (hbits : ringBitsOk r.place r.shape = true)
    (hn : r.log2N ≤ 8) (hbytes : r.count * r.size ≤ 2 ^ 20) (halign : r.base % 64 = 0)
    (hin : r.base + r.count * r.size ≤ storeBytes r.inStore) (hrings : s.here.rings = []) :
    ringInit x a b s = .done (s.setHere (s.here.setRing x { r with slots := List.replicate r.count RingSlot.idle })) := by
  subst hr
  simp only [ringInit, hbits, Nat.not_lt.mpr hn, Nat.not_lt.mpr hbytes, halign, Nat.not_lt.mpr hin, hrings, mapFind, List.any_nil,
    decide_false, Bool.not_true, Bool.or_self, bne_self_eq_false, excIf_false, List.append_nil, pickExc]

theorem ringBitsOk_of {place shape : Word} (hp : place.toNat < 2 ^ 33) (hp' : place.toNat / 2 ^ 22 % 2 ^ 10 = 0)
    (hs : shape.toNat / 2 ^ 4 % 2 ^ 12 = 0) (hs' : shape.toNat < 2 ^ 26) : ringBitsOk place shape = true := by
  simp only [ringBitsOk, bvField, bitsAt, hp', hs, Nat.div_eq_of_lt hp, Nat.div_eq_of_lt hs', decide_true, Bool.and_self]

/-! ## Faults -/

theorem ring_absent (hr : mapFind s.here.rings x = none) (fill : Bool) (k dir : Nat) :
    ringClaim fill d x s = .trap s (Exc.of codeHFAULT) ∧ ringRelease fill x a s = .trap s (Exc.of codeHFAULT) ∧
      ringQuery d x k s = .trap s (Exc.of codeHFAULT) ∧ streamBind v x dir s = .trap s (Exc.of codeHFAULT) := by
  simp only [ringClaim, ringRelease, ringQuery, streamBind, hr, and_self]

/-- RACE on a slot of a ring (R210). -/
theorem does_race {i : Instr} {u : Uses} {len : Nat} {body : State → Eff} (hx : x < 32)
    (he : exec i s = runStrand len g u s body) (h : s.runs g u) (hh : handled s) {slot : Nat} (hb : body s = .trap s (raceExc x slot)) :
    does i s (tookException 0x0B 0 false (BitVec.ofNat 64 (x + 256 * (slot % 256))) s.me.pc) := by
  have arg : raceArg x slot = BitVec.ofNat 64 (x + 256 * (slot % 256)) := by rw [raceArg, Nat.mod_eq_of_lt hx]
  exact arg ▸ does_fault he h hh (by decide) rfl hb

end Sys2Proof.Machine

/-- Settles O39: each instruction of a ring is one of the cases above, read off its ring. -/
theorem rings : Obligations.Rings := by
  intro g x a b d v dir s ha hd hab hn hx hdir puts race
  refine ⟨fun r hr => ?ring, fun hv => does_wentOn rfl hn rfl (by simp only [streamUnbind, hv]),
    fun hv => does_setHere (u := Uses.none) rfl hn (streamUnbind_bound hv) ⟨rfl, rfl, rfl⟩, fun hr hh i hi => ?absent, ?init⟩
  case ring =>
    intro n slot claims
    have claim : ∀ (i : Instr) (fill : Bool), exec i s = runStrand 8 g (Uses.scalar [] [d]) s (ringClaim fill d x) →
        claims i (r.next fill) (neededState fill) (if fill then .filling else .draining)
          (if fill then .ringFree x else .ringFull x) fill
          { r with fh := if fill then r.fh + 1 else r.fh, ch := if fill then r.ch else r.ch + 1 } := fun i fill he =>
      ⟨fun hb hs => does_setHere he hd (ringClaim_claims hr hb hs) ⟨rfl, rfl, rfl⟩,
        fun hb hs => does_hold he hd (ringClaim_held hr hb hs), fun u hb hh => does_race hx he hd hh (ringClaim_race hr hb)⟩
    have hcount : r.count = n := r.count_eq
    have hnext : ∀ fill, r.next fill = (if fill then r.fh else r.ch).toNat % n := fun fill => by rw [Ring.next, hcount]
    have query : ∀ (k : Nat) {w : Word}, ringQuery d x k s = .done (s.wS d w) → gives (.rqry g d x k) s 8 d w :=
      fun k _ h => gives_wS rfl hd rfl h
    have width : ∀ w : BitVec 32, BitVec.ofNat 64 w.toNat = w.setWidth 64 := fun w => by
      apply BitVec.eq_of_toNat_eq; simp
    refine ⟨hnext true ▸ claim _ true rfl, hnext false ▸ claim _ false rfl, ?release, width r.fh ▸ query 0 (ringQuery_eq hr 0),
      width r.ch ▸ query 1 (ringQuery_eq hr 1), query 2 (ringQuery_eq hr 2), query 3 (ringQuery_eq hr 3),
      ⟨_, query 4 (ringQuery_eq hr 4), ?fields⟩,
      fun hz hv hb hh => does_setHere (u := Uses.none) rfl hn (streamBind_binds hr (r.size_tile.mpr hz) hv hb hh) ⟨rfl, rfl, rfl⟩,
      fun hz hh => does_fault rfl hn hh (by decide) rfl (streamBind_small hr fun e => hz (r.size_tile.mp e)),
      fun hz hb hh => does_race hx rfl hn hh (streamBind_bound hr (r.size_tile.mpr hz) hb)⟩
    case release =>
      intro i mine released
      have hi : (s.token a).toNat = i := s.token_toNat a
      have release : ∀ (j : Instr) (fill : Bool), exec j s = runStrand 8 g (Uses.scalar [a] []) s (ringRelease fill x a) →
          (i < n → s.here.writes = [] → releasable s r fill i → does j s (released (if fill then .full else .free))) ∧
          (i < n → handled s → ¬ releasable s r fill i → does j s (race i)) ∧
          (n ≤ i → handled s → does j s (tookException 1 9 false 0 s.me.pc)) := fun j fill he => by
        rw [← hi, ← hcount]
        exact ⟨fun hl hw h => does_setHere he ha (ringRelease_releases hr hl hw h) ⟨rfl, rfl, rfl⟩,
          fun hl hh h => does_race hx he ha hh (ringRelease_race hr hl h),
          fun hl hh => does_fault he ha hh (by decide) (by decide) (ringRelease_beyond hr hl)⟩
      obtain ⟨pub, pubRace, pubBeyond⟩ := release (.rpub g x a) true rfl
      obtain ⟨ret, retRace, retBeyond⟩ := release (.rret g x a) false rfl
      exact ⟨fun hl hw => ⟨pub hl hw, ret hl hw⟩, fun hl hh => ⟨pubRace hl hh, retRace hl hh⟩,
        fun hl hh => ⟨pubBeyond hl hh, retBeyond hl hh⟩⟩
    case fields =>
      show (BitVec.ofNat 64 (r.place.toNat % 2 ^ 33 + 2 ^ 40 * (r.shape.toNat % 16) +
        2 ^ 48 * (r.shape.toNat / 2 ^ 16 % 2 ^ 10))).toNat = _
      rw [BitVec.toNat_ofNat]
      exact Nat.mod_eq_of_lt (by omega)
  case absent =>
    have absent := fun fill => ring_absent (d := d) (a := a) (v := v) hr fill 0 dir
    have fault : ∀ {j : Instr} {u : Uses} {body : State → Eff}, exec j s = runStrand 8 g u s body → s.runs g u →
        body s = .trap s (Exc.of codeHFAULT) → does j s (tookException 0x03 0 false 0 s.me.pc) :=
      fun he h hb => does_fault he h hh (by decide) (by decide) hb
    obtain ⟨claim, release, query, bind⟩ := absent true
    obtain ⟨claim', release', -, -⟩ := absent false
    fin_cases hi
    · exact fault rfl hd claim
    · exact fault rfl hd claim'
    · exact fault rfl ha release
    · exact fault rfl ha release'
    · exact fault rfl hd query
    · exact fault rfl hn bind
  case init =>
    intro place shape m size base store hp hp' hs hs' h8 hbytes halign hin hrings
    let r : Ring := ⟨s.rS a, s.rS b, 0, 0, [], none⟩
    have sets := ringInit_sets (x := x) (r := r) rfl (ringBitsOk_of hp hp' hs hs') (by rw [Ring.log2N_eq]; exact h8)
      (by rw [Ring.count_eq, Ring.size_eq]; exact hbytes) (by rw [Ring.base_eq]; exact halign)
      (by rw [Ring.base_eq, Ring.count_eq, Ring.size_eq, Ring.inStore_eq]; exact hin) hrings
    rw [r.count_eq] at sets
    exact does_setHere rfl hab sets ⟨rfl, rfl, rfl⟩

end

section
/-! Barriers (R123 to R125, R176, R214, R302, R303, R314). -/

open Sys2Proof Sys2Proof.Machine Sys2Proof.Claims

namespace Sys2Proof.Machine

variable {g : Guard} {s : State} {x a d pt pf : Nat} {b : Barrier}

/-! ## Phases and tokens (R302) -/

theorem phasePassed_iff (phase token : BitVec 32) : phasePassed phase token = true ↔ passed phase token := by
  simp [phasePassed, passed]

theorem State.token_eq (s : State) (a : Nat) : s.token a = (s.rS a).setWidth 32 := by
  apply BitVec.eq_of_toNat_eq
  simp [State.token]

theorem ofNat_toNat_setWidth (w : BitVec 32) : BitVec.ofNat 64 w.toNat = w.setWidth 64 := by
  apply BitVec.eq_of_toNat_eq
  simp

/-! ## The barrier that a field names (R302, R303) -/

theorem State.barrierAt_core (hx : x < 16) (hb : mapFind s.here.barriers x = some b) : s.barrierAt x = .ok b := by
  simp only [State.barrierAt, Nat.ne_of_lt hx, if_false, hb]

theorem State.barrierAt_gang {k : Task} (ht : taskHere s k) (hg : 1 < k.gangSize) (hb : k.broken = false) :
    s.barrierAt 16 = .ok k.bg := by
  simp [State.barrierAt, State.myTask_of ht, Nat.not_le.mpr hg, hb]

theorem State.barrierAt_of (h : barrierIs s x b) : s.barrierAt x = .ok b := by
  rcases h with ⟨hx, hb⟩ | ⟨rfl, k, ht, hg, hb, rfl⟩
  · exact State.barrierAt_core hx hb
  · exact State.barrierAt_gang ht hg hb

theorem State.barrierAt_absent (hx : x < 16) (hb : mapFind s.here.barriers x = none) : s.barrierAt x = .error (Exc.of codeHFAULT) := by
  simp only [State.barrierAt, Nat.ne_of_lt hx, if_false, hb]

theorem State.barrierAt_alone {k : Task} (ht : taskHere s k) (hg : k.gangSize ≤ 1) : s.barrierAt 16 = .error (Exc.of codePERM 1) := by
  simp only [State.barrierAt, State.myTask_of ht, hg, if_true]

theorem State.barrierAt_broken {k : Task} (ht : taskHere s k) (hg : 1 < k.gangSize) (hb : k.broken = true) :
    s.barrierAt 16 = .error (Exc.of codeGANGBROKEN) := by
  simp only [State.barrierAt, State.myTask_of ht, Nat.not_le.mpr hg, hb, if_true, if_false]
  rfl

/-- A barrier that cannot be used: what names it raises why. -/
theorem barrier_faults {e : Exc} (h : s.barrierAt x = .error e) : barrierArrive d x s = .trap s e ∧
    (∀ len, barrierWait len x a s = .trap s e) ∧ barrierTest pt pf x a s = .trap s e := by
  simp only [barrierArrive, barrierWait, barrierTest, h, implies_true, and_self]

/-! ## BARV, BWAIT, BSYNC and BTEST (R302) -/

theorem barrierWait_passed (h : s.barrierAt x = .ok b) (hp : passed b.phase ((s.rS a).setWidth 32)) (len : Nat) :
    barrierWait len x a s = .done s := by
  simp only [barrierWait, h, s.token_eq a, (phasePassed_iff _ _).mpr hp, if_true]

theorem barrierWait_held (h : s.barrierAt x = .ok b) (hp : ¬ passed b.phase ((s.rS a).setWidth 32)) (len : Nat) :
    barrierWait len x a s = .hold s (.barrier x ((s.rS a).setWidth 32) len) := by
  rw [← phasePassed_iff] at hp
  simp only [barrierWait, h, s.token_eq a]
  exact if_neg hp

theorem barrierTest_eq (h : s.barrierAt x = .ok b) {v : Bool} (hv : v = true ↔ passed b.phase ((s.rS a).setWidth 32)) :
    barrierTest pt pf x a s = .done (s.wPair pt pf v) := by
  have e : phasePassed b.phase ((s.rS a).setWidth 32) = v := Bool.eq_iff_iff.mpr ((phasePassed_iff _ _).trans hv.symm)
  simp only [barrierTest, h, s.token_eq a, e]

theorem barrierArrive_core (hx : x < 16) (hb : mapFind s.here.barriers x = some b) : barrierArrive d x s =
    .done (s.setHere (Core.withReg { s.here with barriers := mapPut s.here.barriers x { b with arrivals := b.arrivals + 1 } }
      s.cur.2 d (b.phase.setWidth 64))) := by
  have scope : s.barrierScope x = .core := if_neg (Nat.ne_of_lt hx)
  have notPod : (Scope.core == Scope.pod) = false := rfl
  simp only [barrierArrive, State.barrierAt_core hx hb, scope, State.releaseAt, notPod, Bool.false_and, Bool.false_eq_true, if_false,
    State.putBarrier, Nat.ne_of_lt hx, State.setHere_wS, ofNat_toNat_setWidth]

theorem barrierPost_core (hx : x < 16) (hb : mapFind s.here.barriers x = some b) : barrierPost x a s = .done (s.setHere { s.here with
    barriers := mapPut s.here.barriers x { b with bytes := b.bytes + ((s.rS a).setWidth 32 : BitVec 32).toNat } }) := by
  simp only [barrierPost, Nat.ne_of_lt hx, if_false, State.barrierAt_core hx hb, State.putBarrier, s.token_eq a]

/-- The scope of a gang barrier is pod exactly at its level 4, and no scope at which it releases is within the core (R56, R123). -/
theorem State.barrierScope_gang {k : Task} (ht : taskHere s k) (h1 : 1 ≤ k.bgLevel) (h4 : k.bgLevel ≤ 4) :
    (s.barrierScope 16 == .pod) = decide (k.bgLevel = 4) := by
  have level : k.bgLevel = 1 ∨ k.bgLevel = 2 ∨ k.bgLevel = 3 ∨ k.bgLevel = 4 := by omega
  simp only [State.barrierScope, State.myTask_of ht, if_true]
  rcases level with e | e | e | e <;> rw [e] <;> rfl

theorem State.releaseAt_idle (hw : s.here.writes = []) (r : Scope) : s.releaseAt s.cur.1 r = s := by
  have hn : (s.core s.cur.1).writes = [] := hw
  have hd : s.drainCore s.cur.1 = s := by simp [State.drainCore, hn, State.drainFrom]
  cases r <;> simp [State.releaseAt, hd]

theorem barrierArrive_gang {k : Task} (ht : taskHere s k) (hg : 1 < k.gangSize) (hb : k.broken = false) (h1 : 1 ≤ k.bgLevel)
    (h4 : k.bgLevel ≤ 4) (hw : s.here.writes = []) : barrierArrive d 16 s =
      if k.bgLevel = 4 ∧ s.awaitingAcks = true then .hold s .acks
      else .done ((s.setTask { k with bg := { k.bg with arrivals := k.bg.arrivals + 1 } }).wS d (k.bg.phase.setWidth 64)) := by
  simp only [barrierArrive, State.barrierAt_gang ht hg hb, State.releaseAt_idle hw, State.barrierScope_gang ht h1 h4,
    State.putBarrier, State.myTask_of ht, if_true, ofNat_toNat_setWidth, Bool.and_eq_true, decide_eq_true_eq]

/-- What an arrival at the gang barrier leaves: the task's barrier counts it, and s[d] has its phase. -/
theorem does_arrive_gang {i : Instr} {len : Nat} (he : exec i s = runStrand len g (Uses.scalar [] [d]) s (barrierArrive d 16))
    (hr : s.runs g (Uses.scalar [] [d])) {k u : Task} {v : Word}
    (hb : barrierArrive d 16 s = .done ((s.setTask u).wS d v)) (hu : u.id = k.id) :
    does i s fun s t => t.task? k.id.toNat = some u ∧ (∀ j, j ≠ k.id.toNat → t.task? j = s.task? j) ∧
      (∀ c, c ≠ s.cur.1 → t.core c = s.core c) ∧ t = { s with coreTab := t.coreTab, tasks := t.tasks, poison := t.poison } ∧
      t.here = s.here.setStrand s.cur.2 t.me ∧ t.me = { s.me with pc := s.me.pc + len, s := t.me.s } ∧
      t.rS d = (if d = 0 then 0 else v) ∧ ∀ r, r ≠ d → t.rS r = s.rS r := by
  have w := wroteScalar_wS (s.setTask u) (Uses.scalar [] [d]) len d v hr.1 rfl
  refine ⟨_, by rw [he, runStrand_of_runs hr, hb], ?_⟩
  generalize ht : finish len (Uses.scalar [] [d]) s (.done ((s.setTask u).wS d v)) = t
  rw [show finish len (Uses.scalar [] [d]) (s.setTask u) (.done ((s.setTask u).wS d v)) = t from ht] at w
  obtain ⟨⟨⟨whole, others, -, -⟩, here⟩, me, rd, rest⟩ := w
  have tasks : t.tasks = mapPut s.tasks k.id.toNat u := by rw [whole, ← hu]; rfl
  rw [BitVec.or_zero] at me
  refine ⟨?_, fun j hj => ?_, others, ?_, here, me, rd, rest⟩
  · rw [State.task?, tasks]; exact mapFind_mapPut_self _ _ _
  · rw [State.task?, tasks]; exact mapFind_mapPut_ne _ _ hj
  · rw [tasks]
    exact whole.trans (by rw [← hu]; rfl)

/-! ## BINIT (R302, R314) -/

/-- A decrement of barrier `x` is still to come in the clock of the executing strand. -/
def decrementIsPicked (s : State) (x : Nat) : Prop :=
  ∃ j g' d', j ∈ s.here.picks.getD [] ∧ (s.here.strand j).pred g'.g = !g'.n ∧
    ∃ n, s.nextOf s.cur.1 j = some n ∧ (n = .barv g' d' x ∨ n = .barvLong g' d' x ∨ n = .bsync g' x d')

theorem decrementComes_iff (s : State) (x : Nat) : s.decrementComes x = true ↔ decrementIsPicked s x := by
  simp only [State.decrementComes, List.any_eq_true]
  constructor
  · rintro ⟨j, hj, h⟩
    split at h
    · rename_i g' d' y hn
      obtain ⟨hy, hp⟩ := (Bool.and_eq_true _ _).mp h
      exact ⟨j, g', d', hj, beq_iff_eq.mp hp, _, hn, .inl (by rw [beq_iff_eq.mp hy])⟩
    · rename_i g' d' y hn
      obtain ⟨hy, hp⟩ := (Bool.and_eq_true _ _).mp h
      exact ⟨j, g', d', hj, beq_iff_eq.mp hp, _, hn, .inr (.inl (by rw [beq_iff_eq.mp hy]))⟩
    · rename_i g' y d' hn
      obtain ⟨hy, hp⟩ := (Bool.and_eq_true _ _).mp h
      exact ⟨j, g', d', hj, beq_iff_eq.mp hp, _, hn, .inr (.inr (by rw [beq_iff_eq.mp hy]))⟩
    · cases h
  · rintro ⟨j, g', d', hj, hp, n, hn, rfl | rfl | rfl⟩ <;> exact ⟨j, hj, by simp [hn, hp]⟩

theorem waitsOn_iff (q : Core) (x : Nat) :
    q.waitsOn x = false ↔ ∀ j, j < q.strands.length → ∀ w n, (q.strand j).hold ≠ some (.barrier x w n) := by
  simp only [Core.waitsOn, List.any_eq_false, Core.strand]
  constructor
  · intro h j hj w n hold
    have hm : q.strands.getD j Strand.entry ∈ q.strands := by
      rw [List.getD_eq_getElem _ _ hj]; exact List.getElem_mem hj
    have := h _ hm
    rw [hold] at this
    exact this (beq_self_eq_true x)
  · intro h t ht
    obtain ⟨j, hj, rfl⟩ := List.mem_iff_getElem.mp ht
    have := h j hj
    rw [List.getD_eq_getElem _ _ hj] at this
    split
    · rename_i y w n hold
      rw [beq_iff_eq]
      rintro rfl
      exact this w n hold
    · exact Bool.false_ne_true

/-- Nothing stands against setting barrier `x` up (R302, R314). -/
def barrierIdle (s : State) (x : Nat) : Prop :=
  (∀ o, mapFind s.here.barriers x = some o → o.arrivals = 0 ∧ o.bytes = 0) ∧ ¬ decrementIsPicked s x ∧
    (∀ j, j < s.here.strands.length → ∀ w n, (s.here.strand j).hold ≠ some (.barrier x w n)) ∧
    s.namedByRecord s.cur.1 [3] x = false

/-- The counts that BINIT refuses (R302). -/
def countsRefused (ea eb : Nat) : Prop := 65535 < ea ∨ 2 ^ 32 ≤ eb ∨ ea = 0 ∧ eb = 0

/-- BINIT by its three checks, in the order of R206. -/
theorem barrierInit_checks (x a d : Nat) (s : State) : ∃ busy refused : Bool, (busy = false ↔ barrierIdle s x) ∧
    (refused = true ↔ countsRefused (s.rS a).toNat (s.rS d).toNat) ∧ barrierInit x a d s =
      (match pickExc (excIf (x == 16) (Exc.of codePERM 1) ++ excIf refused (Exc.illop 9) ++
          excIf (x != 16 && busy) (Exc.of codeRACE)) with
        | some e => .trap s e
        | none => .done (s.putBarrier x ⟨(s.rS a).toNat, (s.rS d).toNat, (s.rS a).toNat, (s.rS d).toNat, 0, 0, 0⟩)) := by
  refine ⟨_, _, ?_, ?_, rfl⟩
  · simp only [Bool.or_eq_false_iff, ← decrementComes_iff, barrierIdle, ← waitsOn_iff, Bool.not_eq_true, and_assoc]
    have stands : (match mapFind s.here.barriers x with
        | some o => decide (o.arrivals ≠ 0) || decide (o.bytes ≠ 0) | none => false) = false ↔
        ∀ o, mapFind s.here.barriers x = some o → o.arrivals = 0 ∧ o.bytes = 0 := by
      cases mapFind s.here.barriers x <;> simp
    exact and_congr_left' stands
  · simp [countsRefused, or_assoc]

theorem barrierInit_sets (hx : x < 16) (hc : ¬ countsRefused (s.rS a).toNat (s.rS d).toNat) (hi : barrierIdle s x) :
    barrierInit x a d s = .done (s.setHere { s.here with
      barriers := mapPut s.here.barriers x ⟨(s.rS a).toNat, (s.rS d).toNat, (s.rS a).toNat, (s.rS d).toNat, 0, 0, 0⟩ }) := by
  obtain ⟨busy, refused, hb, hr, e⟩ := barrierInit_checks x a d s
  rw [← hr, Bool.not_eq_true] at hc
  rw [e, hb.mpr hi, hc, beq_false_of_ne (Nat.ne_of_lt hx), Bool.and_false]
  exact congrArg Eff.done (if_neg (Nat.ne_of_lt hx))

theorem barrierInit_race (hx : x < 16) (hc : ¬ countsRefused (s.rS a).toNat (s.rS d).toNat) (hi : ¬ barrierIdle s x) :
    barrierInit x a d s = .trap s (Exc.of codeRACE) := by
  obtain ⟨busy, refused, hb, hr, e⟩ := barrierInit_checks x a d s
  rw [← hr, Bool.not_eq_true] at hc
  rw [← hb, Bool.not_eq_false] at hi
  rw [e, hi, hc, bne, beq_false_of_ne (Nat.ne_of_lt hx)]
  rfl

theorem barrierInit_refused (hx : x < 16) (hc : countsRefused (s.rS a).toNat (s.rS d).toNat) :
    barrierInit x a d s = .trap s (Exc.illop 9) := by
  obtain ⟨busy, refused, -, hr, e⟩ := barrierInit_checks x a d s
  rw [e, hr.mpr hc, bne, beq_false_of_ne (Nat.ne_of_lt hx)]
  cases busy <;> rfl

theorem barrierInit_gang (hc : ¬ countsRefused (s.rS a).toNat (s.rS d).toNat) :
    barrierInit 16 a d s = .trap s (Exc.of codePERM 1) := by
  obtain ⟨busy, refused, -, hr, e⟩ := barrierInit_checks 16 a d s
  rw [← hr, Bool.not_eq_true] at hc
  rw [e, hc]
  rfl

end Sys2Proof.Machine

/-- Settles O38: each instruction is answered by the barrier its field names, or by why that cannot be used. -/
theorem barriers : Obligations.Barriers := by
  intro g x a d pt pf b s ha hd token puts all
  have faults : ∀ {code sub : Nat}, code ≠ codePURITY → (Exc.of code sub 0).info = trapInfo code sub false → handled s →
      s.barrierAt x = .error (Exc.of code sub) → all code sub := fun hp hi hh h => by
    obtain ⟨arrive, wait, test⟩ := barrier_faults (d := d) (a := a) (pt := pt) (pf := pf) h
    exact ⟨does_fault rfl hd hh hp hi arrive, does_fault rfl hd hh hp hi arrive, does_fault rfl ha hh hp hi (wait 4),
      does_fault rfl ha hh hp hi (wait 8), does_fault rfl ha hh hp hi test⟩
  refine ⟨fun hx hb => ⟨?_, ?_, ?_⟩, fun k hx ht hid hg hb h1 h4 hw => ?gang, fun hb => ?named,
    fun hh => ⟨fun hx hb => faults (by decide) (by decide) hh (State.barrierAt_absent hx hb), fun k hx ht => ?absent⟩,
    fun had => ?init⟩
  · exact does_setHere rfl hd (barrierArrive_core hx hb) ⟨rfl, rfl, rfl⟩
  · exact does_setHere rfl hd (barrierArrive_core hx hb) ⟨rfl, rfl, rfl⟩
  · exact does_setHere rfl ha (barrierPost_core hx hb) ⟨rfl, rfl, rfl⟩
  case gang =>
    subst hx
    intro arrives
    have eff := barrierArrive_gang (d := d) ht hg hb h1 h4 hw
    refine ⟨fun h => ?_, fun h hk => ?_⟩
    · have hn : ¬ (k.bgLevel = 4 ∧ s.awaitingAcks = true) := by
        rintro ⟨e, hk⟩
        rcases h with h | h
        · omega
        · rw [hk] at h; cases h
      rw [if_neg hn] at eff
      exact ⟨does_arrive_gang rfl hd eff rfl, does_arrive_gang rfl hd eff rfl⟩
    · rw [if_pos ⟨h, hk⟩] at eff
      exact ⟨does_hold rfl hd eff, does_hold rfl hd eff⟩
  case named =>
    have hat := State.barrierAt_of hb
    exact ⟨fun hp => ⟨does_wentOn rfl ha rfl (barrierWait_passed hat hp 4), does_wentOn rfl ha rfl (barrierWait_passed hat hp 8)⟩,
      fun hp => ⟨does_hold rfl ha (barrierWait_held hat hp 4), does_hold rfl ha (barrierWait_held hat hp 8)⟩,
      fun v hv _ => givesPair_wPair rfl ha rfl (barrierTest_eq hat hv)⟩
  case absent =>
    subst hx
    exact ⟨fun hg => faults (by decide) (by decide) hh (State.barrierAt_alone ht hg),
      fun hg hb => faults (by decide) (by decide) hh (State.barrierAt_broken ht hg hb)⟩
  case init =>
    intro ea eb bad comes free
    refine ⟨fun hx hc hf => does_setHere rfl had (barrierInit_sets hx hc hf) ⟨rfl, rfl, rfl⟩,
      fun hx hc hf hh => does_fault rfl had hh (by decide) (by decide) (barrierInit_race hx hc hf),
      fun hx hc hh => does_fault rfl had hh (by decide) (by decide) (barrierInit_refused hx hc), fun hx hc hh => ?_⟩
    subst hx
    exact does_fault rfl had hh (by decide) (by decide) (barrierInit_gang hc)

end


section
/-! A record for the neighbour engine, dispatched by a core with a pending write to another core (R103, R104). -/

open Sys2Proof Sys2Proof.Machine Sys2Proof.Claims

namespace Sys2Proof.Machine

/-- An RNOP for the neighbour engine, without specs. -/
def neNop : RecHdr := ⟨⟨0, false⟩, 4, ⟨0, 0, 0⟩, ⟨0, 0, 0⟩, none, none, none, none⟩

/-- A strand of core 0 executes; its store of the byte 5 to the first byte of the S store of core 1 is still pending. -/
def storingAcross : State :=
  { State.reset with
    agenda := [], mbxState := 1
    coreTab := [(0, { Core.initial with
      task := some 0, strands := [Strand.entry], writes := [⟨0, .store 1 2 0, .bytes [5]⟩] })] }

theorem storingAcross_runs : storingAcross.runs neNop.guard (Uses.scalar [] []) := by
  unfold State.runs State.seated
  decide +kernel

/-- What the dispatch leaves: the byte has reached the store of core 1. -/
def storedAcross : State := storingAcross.enterQueue (storingAcross.newRec 0 0 .rnop neNop 0 1 false)

/-- The check passes, and entering the queue releases the writes of core 0 towards the engine (R103). -/
theorem storingAcross_place : storingAcross.place 0 0 .rnop neNop (captured neNop storingAcross.rS 0) = .ok storedAcross := by
  have passes : pickExc (storingAcross.recFaults (storingAcross.newRec 0 0 .rnop neNop 0 1 false)) = none := by decide +kernel
  have body : captured neNop storingAcross.rS 0 = 0 := captured_none rfl rfl rfl rfl _ _
  have number : ((storingAcross.core 0).engine (RecOp.rnop.queue neNop.qsel)).last + 1 = 1 := rfl
  simp only [body, State.place, number, passes]
  rfl

theorem storedAcross_byte : byteAt (storedAcross.core 1).s 0 ≠ byteAt (storingAcross.core 1).s 0 := by decide +kernel

end Sys2Proof.Machine

/-- Refutes O42: a record that enters the queue of the neighbour engine first releases the writes of its core towards that engine (R103),
and a pending write may be to another core of the gang, which the clause that no other core changes leaves out. -/
theorem not_recordDispatch : ¬ Obligations.RecordDispatch := by
  intro h
  obtain ⟨-, -, enters, -⟩ := h .rnop neNop 0 storingAcross storingAcross_runs
  obtain ⟨t, -, -, -, -, -, others⟩ := enters (by decide +kernel) storedAcross storingAcross_place
  exact storedAcross_byte (by rw [others 1 (by decide)])

end

section
/-! Writes performed and errors of stored data (R42, R79, R165, R167, R215 to R218). -/

open Sys2Proof Sys2Proof.Machine Sys2Proof.Claims

namespace Sys2Proof.Machine

variable {s : State}

/-! ## Writes performed (R165, R167) -/

/-- A write to an S store, performed: the list of its core without it, and the store with its bytes. -/
theorem performWrite_store {c j e off k : Nat} {bs : List Byte} (hr : s.ready = true) (hp : s.poison = []) (hf : (s.core c).writeFree j = true)
    (hw : (s.core c).writes[j]? = some ⟨k, .store e 2 off, .bytes bs⟩) :
    performWrite c j s =
      let u := s.setCore c { s.core c with writes := (s.core c).writes.eraseIdx j }
      u.setCore e { u.core e with s := putBytes (u.core e).s off bs } := by
  have hc : ∀ u : State, u.poison = [] → u.writeAt (.store e 2 off) bs = u.setCore e { u.core e with s := putBytes (u.core e).s off bs } := by
    intro u hu
    have empty : (u.setCore e { u.core e with s := putBytes (u.core e).s off bs }).poison.isEmpty = true := by
      rw [List.isEmpty_iff]; exact hu
    exact if_pos empty
  rw [performWrite, hr, hf, Bool.and_true, if_pos rfl, State.performNth, hw]
  exact hc _ hp

/-- A core whose list of pending writes alone is another. -/
theorem State.core_setWrites (s : State) (c : Nat) (ws : List PendingWrite) (x : Nat) :
    (s.setCore c { s.core c with writes := ws }).core x = { s.core x with writes := if x = c then ws else (s.core x).writes } := by
  by_cases hx : x = c
  · subst hx
    rw [State.core_setCore_self, if_pos rfl]
  · rw [State.core_setCore_ne _ _ hx, if_neg hx]

theorem State.core_setBytes (s : State) (e : Nat) (m : Bytes) (x : Nat) :
    (s.setCore e { s.core e with s := m }).core x = { s.core x with s := if x = e then m else (s.core x).s } := by
  by_cases hx : x = e
  · subst hx
    rw [State.core_setCore_self, if_pos rfl]
  · rw [State.core_setCore_ne _ _ hx, if_neg hx]

theorem writesPerformed_hold : writesPerformed := by
  intro c j e off k bs s hr hm hp hf hw
  refine ⟨_, rfl, ?_⟩
  rw [performWrite_store hr hp hf hw]
  dsimp only
  generalize hu : s.setCore c { s.core c with writes := (s.core c).writes.eraseIdx j } = u
  have cores : ∀ x, (u.setCore e { u.core e with s := putBytes (u.core e).s off bs }).core x =
      { s.core x with
        writes := if x = c then (s.core c).writes.eraseIdx j else (s.core x).writes
        s := if x = e then putBytes (s.core e).s off bs else (s.core x).s } := by
    intro x
    rw [State.core_setBytes, ← hu, State.core_setWrites, State.core_setWrites]
  have sorted : Bytes.wf (s.core e).s = true := Core.store_wf (State.core_storesWf hm e) 2
  refine ⟨?_, ?_, fun b => ⟨?_, ?_, fun x => ⟨?_, ?_, fun h => ?_⟩⟩, fun x hc he => ?_⟩
  · rw [cores, if_pos rfl]; exact bytesAt_putBytes_self bs sorted off
  · rw [cores, if_pos rfl]
  · rw [← hu]; rfl
  · rw [← hu]; rfl
  · rw [cores]
  · rw [cores]
  · rw [cores]
    by_cases hx : x = e
    · subst hx
      rw [if_pos rfl]
      exact byteAt_putBytes_outside bs _ (h.resolve_left fun hn => hn rfl)
    · rw [if_neg hx]
  · rw [cores, if_neg hc, if_neg he]

/-! ## Errors of stored data (R215 to R218) -/

theorem counted_eq (n : BitVec 16) : satAdd1 n = counted n := satAdd1_eq n

theorem satAdd1_ue (n : BitVec 12) : satAdd1 n = if n = 0xFFF then 0xFFF else n + 1 := by
  rw [satAdd1_saturates, show BitVec.allOnes 12 = 0xFFF from rfl]
  split
  · assumption
  · rfl

theorem onlyDie_setDie (s : State) (d : Nat) (x : Die) : onlyDie d x s (s.setDie d x) :=
  ⟨rfl, s.die_setDie_self d x, fun _ h => s.die_setDie_ne x h⟩

/-- The registers of a die that counts an uncorrectable error of an SRAM word, or of a unit of HBM (R218). -/
def Die.countedSram (x : Die) : Die := { x with ue := satAdd1 x.ue, lastSram := true }
def Die.countedHbm (x : Die) (u : Nat) : Die := { x with ue := satAdd1 x.ue, lastUE := BitVec.ofNat 35 u, lastSram := false }

theorem State.isPoisoned_addPoison (s : State) (u z : ErrorUnit) : (s.addPoison u).isPoisoned z = (s.isPoisoned z || z == u) := by
  rw [Bool.eq_iff_iff]
  unfold State.addPoison
  split
  · rename_i h
    have hu : s.poison.contains u = true := h
    simp only [State.isPoisoned, Bool.or_eq_true, beq_iff_eq]
    exact ⟨.inl, fun hz => hz.elim id fun e => e ▸ hu⟩
  · simp [State.isPoisoned, or_comm]

theorem State.addPoison_frame (s : State) (u : ErrorUnit) : s.addPoison u = { s with poison := (s.addPoison u).poison } := by
  unfold State.addPoison
  split <;> rfl

/-- An error that is counted in a die and poisons its unit. -/
theorem setDie_addPoison (s : State) (d : Nat) (x : Die) (y : ErrorUnit) :
    let t := (s.setDie d x).addPoison y
    t = { s with dies := t.dies, poison := t.poison } ∧ t.die d = x ∧ (∀ f, f ≠ d → t.die f = s.die f) ∧
      ∀ z, t.isPoisoned z = (s.isPoisoned z || z == y) := by
  have frame := (s.setDie d x).addPoison_frame y
  have dies : ∀ f, ((s.setDie d x).addPoison y).die f = (s.setDie d x).die f := fun f => by rw [frame]; rfl
  refine ⟨?_, ?_, fun f hf => ?_, fun z => ?_⟩
  · conv_lhs => rw [frame]
    rw [frame]
    rfl
  · rw [dies, State.die_setDie_self]
  · rw [dies, State.die_setDie_ne _ _ hf]
  · rw [State.isPoisoned_addPoison]; rfl

theorem softError_store {c st w : Nat} (hr : s.ready = true) (hc : c < 256) (hs : st < 3) (hw : w * 8 < storeBytes st) :
    softErrorAt (.store c st w) true s = s.setDie (dieOf c) { s.die (dieOf c) with ce := satAdd1 (s.die (dieOf c)).ce } ∧
    softErrorAt (.store c st w) false s = (s.setDie (dieOf c) (s.die (dieOf c)).countedSram).addPoison (.store c st w) := by
  have ex : unitExists (.store c st w) = true := by simp [unitExists, hc, hs, hw]
  simp only [softErrorAt, hr, ex, Bool.not_true, Bool.or_self, Bool.false_eq_true, if_false, if_true]
  exact ⟨rfl, rfl⟩

theorem softError_hbm {u : Nat} (hr : s.ready = true) (hu : u < 2 ^ 35) :
    let d := homeDie (u * 32)
    softErrorAt (.hbm u) true s = s.setDie d { s.die d with ce := satAdd1 (s.die d).ce } ∧
    softErrorAt (.hbm u) false s = (s.setDie d ((s.die d).countedHbm u)).addPoison (.hbm u) := by
  have ex : unitExists (.hbm u) = true := by exact decide_eq_true hu
  simp only [softErrorAt, hr, ex, Bool.not_true, Bool.or_self, Bool.false_eq_true, if_false, if_true]
  exact ⟨rfl, rfl⟩

/-- Without the table of notices a report of poison counts as lost, and poisons and clears nothing (R78, R79). -/
theorem State.poison_reportPoison (he : s.evtab = 0) (loc bytes src : Nat) (reader : Word) :
    (s.reportPoison loc bytes src reader).poison = s.poison := by
  have lost : s.loseNotice.poison = s.poison := by
    obtain ⟨fns, hostMem, e⟩ := State.postEvent_frame
      { s with evlost := if s.evlost = 0xFFFFFFFF then s.evlost else s.evlost + 1 } 0 1 0 2 0
      (payloadOf (leBytes 4 (if s.evlost = 0xFFFFFFFF then s.evlost else s.evlost + 1).toNat))
    rw [State.loseNotice, e]
  have delivered : ∀ x, (s.deliverNotice x).poison = s.poison := fun x => by
    rw [State.deliverNotice, if_pos he, lost]
  unfold State.reportPoison State.postNotice
  dsimp only
  split
  · exact delivered _
  · split
    · rfl
    · exact lost

theorem State.die_background {t : State} (h : background s t) (d : Nat) : t.die d = s.die d := by
  obtain ⟨e, -⟩ := h
  rw [e]
  rfl

theorem scrubUnit_uncorrectable {u : Nat} (hr : s.ready = true) :
    scrubUnit u .uncorrectable s =
      ((s.setDie (homeDie (u * 32)) ((s.die (homeDie (u * 32))).countedHbm u)).addPoison (.hbm u)).reportPoison (u * 32) 32 3 0 := by
  rw [scrubUnit, hr]
  rfl

/-- A core that the reset of its die left (R217). -/
def Core.reset (q : Core) : Core := { q.vacate with clean := false }

/-- The cores of die `d` as its reset leaves them. -/
def State.resetCores (s : State) (d : Nat) : State :=
  { s with coreTab := s.coreTab.map fun p => if dieOf p.1 = d then (p.1, (s.core p.1).reset) else p }

theorem State.mapFind_resetCores (s : State) (d c : Nat) : mapFind (s.resetCores d).coreTab c =
    (mapFind s.coreTab c).map fun q => if dieOf c = d then (s.core c).reset else q := by
  rw [State.resetCores, mapFind_map _ _ fun p => by split <;> rfl]
  congr 1
  funext q
  split <;> rfl

theorem State.core_resetCores {s : State} {d c : Nat} (hc : mapFind s.coreTab c ≠ none) (hd : dieOf c = d) :
    (s.resetCores d).core c = (s.core c).reset := by
  obtain ⟨q, hq⟩ := Option.ne_none_iff_exists'.mp hc
  rw [State.core, mapGet, State.mapFind_resetCores, hq, Option.map_some, if_pos hd, Option.getD_some]

theorem State.core_resetCores_ne (s : State) {d c : Nat} (hd : dieOf c ≠ d) : (s.resetCores d).core c = s.core c := by
  rw [State.core, mapGet, State.mapFind_resetCores, State.core, mapGet]
  simp only [if_neg hd, Option.map_id']

/-- The reset of a die while the package runs no task: its cores are vacated, its queue of records is emptied, and a notice tells it
(R217). -/
theorem resetDie_taskless (d cause : Nat) (ht : s.tasks = []) : s.resetDie d cause =
    (((s.resetCores d).setDie d { s.die d with neQueue := [] }).postNotice ⟨3, 0, causeOf (leBytes 1 d ++ leBytes 1 cause)⟩).dispatch := by
  have noTask : (s.tasks.filterMap fun p => if p.2.cores.any (fun c => dieOf c == d) then some p.1 else none) = [] := by rw [ht]; rfl
  rw [State.resetDie, noTask]
  rfl

theorem State.coreTab_postEvent (s : State) (f cls index typ : Nat) (task : Word) (payload : BitVec 120) :
    (s.postEvent f cls index typ task payload).coreTab = s.coreTab := by
  obtain ⟨fns, hostMem, e⟩ := s.postEvent_frame f cls index typ task payload
  rw [e]

theorem State.coreTab_loseNotice (s : State) : s.loseNotice.coreTab = s.coreTab := State.coreTab_postEvent _ _ _ _ _ _ _

theorem coreTab_of_written {s t : State} (h : written s t) : t.coreTab = s.coreTab := by
  obtain ⟨e, -⟩ := h
  rw [e]

theorem State.coreTab_deliverNotice (s : State) (x : Notice) : (s.deliverNotice x).coreTab = s.coreTab := by
  unfold State.deliverNotice
  dsimp only
  split
  · exact s.coreTab_loseNotice
  · split
    · exact s.coreTab_loseNotice
    · split
      · exact s.coreTab_loseNotice
      · rename_i hw
        split
        · exact s.coreTab_loseNotice
        · split
          · exact s.coreTab_loseNotice
          · rename_i hs
            have block := coreTab_of_written (State.written_gWrite hw)
            have slot := coreTab_of_written (State.writeSlot_written hs)
            exact (State.coreTab_postEvent _ _ _ _ _ _ _).trans (slot.trans block)

/-- A notice writes no core. -/
theorem State.coreTab_postNotice (s : State) (x : Notice) : (s.postNotice x).coreTab = s.coreTab := by
  unfold State.postNotice
  dsimp only
  split
  · exact s.coreTab_deliverNotice x
  · split
    · rfl
    · exact s.coreTab_loseNotice

theorem softError_control {d : Nat} (cause : Nat) (hr : s.ready = true) (hd : d < 4) (ht : s.tasks = []) :
    softErrorAt (.control d cause) false s = (((s.setDie d (s.die d).countedSram).resetCores d).setDie d
      { (s.die d).countedSram with neQueue := [] } |>.postNotice ⟨3, 0, causeOf (leBytes 1 d ++ leBytes 1 cause)⟩).dispatch := by
  have ex : unitExists (.control d cause) = true := decide_eq_true hd
  simp only [softErrorAt, hr, ex, Bool.not_true, Bool.or_self, Bool.false_eq_true, if_false]
  have die : (s.setDie d (s.die d).countedSram).die d = (s.die d).countedSram := s.die_setDie_self d _
  exact (resetDie_taskless (s := s.setDie d (s.die d).countedSram) d cause ht).trans (by rw [die])

theorem errorEvents_hold : errorEvents := by
  intro c st w u d cause s
  refine ⟨fun hr => ?unready, fun hr => ?_⟩
  case unready => exact ⟨⟨_, rfl, by rw [softErrorAt, hr]; rfl⟩, ⟨_, rfl, by rw [scrubUnit, hr]; rfl⟩⟩
  intro more poisoned home
  have sram : ∀ x : Die, x.countedSram = { more x with lastSram := true } := fun x => by
    rw [Die.countedSram, satAdd1_ue]
  have hbm : ∀ x : Die, x.countedHbm u = { more x with lastUE := BitVec.ofNat 35 u, lastSram := false } := fun x => by
    rw [Die.countedHbm, satAdd1_ue]
  refine ⟨fun hc hst hw => ?store, fun hu => ?hbm, ⟨_, rfl, by rw [softErrorAt, hr]; rfl⟩, ⟨_, rfl, ?hub⟩, fun hd ht => ?control⟩
  case store =>
    obtain ⟨corrected, uncorrectable⟩ := softError_store hr hc hst hw
    refine ⟨⟨_, rfl, ?_⟩, ⟨_, rfl, ?_⟩⟩
    · rw [corrected, counted_eq]; exact onlyDie_setDie _ _ _
    · rw [uncorrectable, sram]; exact setDie_addPoison _ _ _ _
  case hbm =>
    obtain ⟨corrected, uncorrectable⟩ := softError_hbm hr hu
    refine ⟨⟨_, rfl, ?_⟩, ⟨_, rfl, ?_⟩, ⟨_, rfl, by rw [scrubUnit, hr]; rfl⟩, ⟨_, rfl, ?_⟩, ⟨_, rfl, ?_⟩⟩
    · rw [corrected, counted_eq]; exact onlyDie_setDie _ _ _
    · rw [uncorrectable, hbm]; exact setDie_addPoison _ _ _ _
    · rw [scrubUnit, hr, ← counted_eq]; exact onlyDie_setDie _ _ _
    · rw [scrubUnit_uncorrectable hr, hbm]
      obtain ⟨frame, die, others, poison⟩ := setDie_addPoison s home { more (s.die home) with lastUE := BitVec.ofNat 35 u, lastSram := false } (.hbm u)
      generalize hv : (s.setDie home { more (s.die home) with lastUE := BitVec.ofNat 35 u, lastSram := false }).addPoison (.hbm u) = v at *
      have dies : ∀ f, (v.reportPoison (u * 32) 32 3 0).die f = v.die f := State.die_background (State.background_reportPoison v _ _ _ _)
      refine ⟨fun he => ?_, ?_, fun f hf => ?_⟩
      · have hev : v.evtab = 0 := by rw [frame]; exact he
        rw [State.isPoisoned, State.poison_reportPoison hev]
        exact (poison (.hbm u)).trans (by rw [beq_self_eq_true, Bool.or_true])
      · exact (dies home).trans die
      · exact (dies f).trans (others f hf)
  case hub =>
    have safe : softErrorAt .hub false s = State.enterSafe (s.logStep 6 0) := by rw [softErrorAt, hr]; rfl
    rw [safe]
    exact ⟨rfl, rfl, rfl, by unfold State.logStep; split <;> rfl⟩
  case control =>
    refine does_dispatches rfl (softError_control cause hr hd ht) ?_
    set v := ((s.setDie d (s.die d).countedSram).resetCores d).setDie d { (s.die d).countedSram with neQueue := [] }
    have cores : ∀ c, (v.postNotice ⟨3, 0, causeOf (leBytes 1 d ++ leBytes 1 cause)⟩).core c = (s.resetCores d).core c := fun c => by
      rw [State.core, State.coreTab_postNotice]; rfl
    have die : (v.postNotice ⟨3, 0, causeOf (leBytes 1 d ++ leBytes 1 cause)⟩).die d = { (s.die d).countedSram with neQueue := [] } :=
      (State.die_background (State.background_postNotice v _) d).trans (State.die_setDie_self _ _ _)
    refine ⟨fun c hc hcd => ?_, fun c hcd => ?_, ?_, ?_⟩
    · rw [cores, State.core_resetCores hc hcd]; exact ⟨rfl, rfl, rfl⟩
    · rw [cores, State.core_resetCores_ne s hcd]
    · rw [die, sram]
    · rw [die]

end Sys2Proof.Machine
end

section
/-! Loads, holds and the watchdog of a strand (R100, R101, R116, R208, R213, R297). -/

open Sys2Proof Sys2Proof.Machine Sys2Proof.Claims

namespace Sys2Proof.Machine

variable {s : State} {c k : Nat}

/-! ## One strand of one core -/

theorem onlyCoreIs_setCore (s : State) (c : Nat) (q : Core) : onlyCoreIs c q s (s.setCore c q) :=
  ⟨rfl, s.core_setCore_self c q, fun _ h => s.core_setCore_ne q h⟩

/-! ## Loads complete (R297) -/

theorem takeLoad_none {lc : Nat} {ls : List OutLoad} (h : ∀ l, l ∈ ls → l.lc ≠ lc) : takeLoad lc ls = none := by
  induction ls with
  | nil => rfl
  | cons l ls ih =>
    rw [takeLoad, if_neg (h l List.mem_cons_self), ih fun x hx => h x (List.mem_cons_of_mem _ hx)]
    rfl

theorem takeLoad_head (lc : Nat) (d : LoadDst) (ls : List OutLoad) : takeLoad lc (⟨lc, d⟩ :: ls) = some (⟨lc, d⟩, ls) := if_pos rfl

theorem Strand.loadDone_reg (t : Strand) (lc : Nat) (rest : List OutLoad) (r : Nat) : (t.loadDone lc rest).reg r = t.reg r := rfl

theorem Strand.loadDone_hold_load {t : Strand} {rs vs : List Nat} (h : t.hold = some (.load rs vs)) (lc : Nat) (rest : List OutLoad) :
    (t.loadDone lc rest).hold = if loadsPending rest rs vs then t.hold else none := by
  simp only [Strand.loadDone, h]

theorem Strand.loadDone_hold_counter {t : Strand} {lc : Nat} (h : t.hold = some (.counterFull lc)) (rest : List OutLoad) :
    (t.loadDone lc rest).hold = none := by
  simp only [Strand.loadDone, h, if_true]

/-- A hold that no load ends stays. -/
theorem Strand.loadDone_hold_other {t : Strand} {lc : Nat} (hl : ∀ rs vs, t.hold ≠ some (.load rs vs))
    (hc : t.hold ≠ some (.counterFull lc)) (rest : List OutLoad) : (t.loadDone lc rest).hold = t.hold := by
  unfold Strand.loadDone
  dsimp only
  split
  · rename_i rs vs h
    exact absurd h (hl rs vs)
  · rename_i n h
    have hn : n ≠ lc := fun e => hc (e ▸ h)
    rw [if_neg hn, h]
  · rfl

theorem Strand.loadDone_heldTicks {t : Strand} {lc : Nat} {rest : List OutLoad} (h : (t.loadDone lc rest).hold ≠ none) :
    (t.loadDone lc rest).heldTicks = t.heldTicks := by
  have held : (t.loadDone lc rest).hold.isNone = false := by rw [Bool.eq_false_iff]; exact fun hn => h (Option.isNone_iff_eq_none.mp hn)
  change (if (t.loadDone lc rest).hold.isNone then 0 else t.heldTicks) = t.heldTicks
  rw [held]
  rfl

/-- A scalar load in issue order: the register has its value, without poison, and the strand has one load less. -/
theorem finishLoad_scalar {lc d : Nat} {v : Word} {rest : List OutLoad} (hl : ((s.core c).strand k).loads = ⟨lc, .scalar d v⟩ :: rest)
    (hk : k < (s.core c).strands.length) : s.finishLoad c k lc =
      some (((s.setCore c ((s.core c).setStrand k (((s.core c).strand k).setReg d v))).clearPoison (.sreg c k d)).setCore c
        (((s.core c).setStrand k (((s.core c).strand k).setReg d v)).setStrand k ((((s.core c).strand k).setReg d v).loadDone lc rest))) := by
  rw [State.finishLoad, hl, takeLoad_head]
  have core : ((s.setCore c ((s.core c).setStrand k (((s.core c).strand k).setReg d v))).clearPoison (.sreg c k d)).core c =
      (s.core c).setStrand k (((s.core c).strand k).setReg d v) := State.core_setCore_self _ _ _
  dsimp only [State.writeLoad, Option.map_some]
  rw [core, Core.strand_setStrand_self _ _ hk]

theorem finishLoad_nothing {lc : Nat} {rest : List OutLoad} (hl : ((s.core c).strand k).loads = ⟨lc, .nothing⟩ :: rest) :
    s.finishLoad c k lc = some (s.setCore c ((s.core c).setStrand k (((s.core c).strand k).loadDone lc rest))) := by
  rw [State.finishLoad, hl, takeLoad_head]
  rfl

/-! ## Holds end (R101) -/

/-- STRAND_HOLD_RELEASE, by whether the condition is over. -/
theorem does_releaseHold (c k : Nat) {met : Prop} (h : s.holdOver c k = true ↔ met) :
    (met → does (.strandHoldRelease c k) s (onlyCoreIs c ((s.core c).setStrand k
      { (s.core c).strand k with hold := none, heldTicks := 0 }))) ∧
    (¬ met → does (.strandHoldRelease c k) s same) := by
  refine ⟨fun hm => ⟨_, rfl, ?_⟩, fun hm => ⟨_, rfl, ?_⟩⟩
  · rw [releaseHold, if_pos (h.mpr hm)]
    exact onlyCoreIs_setCore _ _ _
  · exact if_neg fun ho => hm (h.mp ho)

/-! ## The watchdog (R213) -/

theorem raiseWatchdog_idle (h : s.overdue c k = false) : raiseWatchdog c k s = s := by
  rw [raiseWatchdog, h]
  rfl

theorem overdue_early (h : s.wdlimit = 0 ∨ ((s.core c).strand k).heldTicks ≤ s.wdlimit.toNat) : s.overdue c k = false := by
  rcases h with h | h
  · simp [State.overdue, h]
  · simp [State.overdue, Nat.not_lt.mpr h]

theorem overdue_unwatched {h : Hold} (hh : ((s.core c).strand k).hold = some h) (hw : h.watched = false) : s.overdue c k = false := by
  simp [State.overdue, hh, hw]

theorem overdue_free (hh : ((s.core c).strand k).hold = none) : s.overdue c k = false := by
  simp [State.overdue, hh]

theorem overdue_of {h : Hold} (h0 : s.wdlimit ≠ 0) (ht : s.wdlimit.toNat < ((s.core c).strand k).heldTicks)
    (hh : ((s.core c).strand k).hold = some h) (hw : h.watched = true) : s.overdue c k = true := by
  simp only [State.overdue, hh, hw, bne_iff_ne.mpr h0, decide_eq_true ht, Bool.and_self]

/-- The strand of an overdue hold enters its handler with WATCHDOG at the held instruction (R206, R213). -/
theorem raiseWatchdog_taken (hk : k < (s.core c).strands.length) (h : s.overdue c k = true)
    (hh : ((s.core c).strand k).hasHandler = true) : raiseWatchdog c k s = s.setCore c ((s.core c).setStrand k
      (({ (s.core c).strand k with knext := false }).enterHandler
        (Exc.of codeWATCHDOG 0 (BitVec.ofNat 64 ((s.core c).strand k).heldTicks)) ((s.core c).strand k).pc)) := by
  have strand : ((s.setCore c ((s.core c).setStrand k { (s.core c).strand k with knext := false })).core c).strand k =
      { (s.core c).strand k with knext := false } := by
    rw [State.core_setCore_self, Core.strand_setStrand_self _ _ hk]
  rw [raiseWatchdog, if_pos h]
  dsimp only
  rw [State.raiseAt_handler _ (by rw [strand]; exact hh) (show codeWATCHDOG ≠ codePURITY by decide), strand, State.core_setCore_self,
    State.setCore_setCore, Core.setStrand, Core.setStrand, List.set_set]
  rfl

theorem strandEvents_hold : strandEvents := by
  intro c k lc d n v w rest s hk x released holds
  have ends : ∀ {h : Hold} {met : Prop}, (((s.core c).strand k).hold = some h → (s.holdOver c k = true ↔ met)) → holds h met :=
    fun ended hh => does_releaseHold c k (ended hh)
  have stays : s.holdOver c k = false → does (.strandHoldRelease c k) s same := fun h =>
    (does_releaseHold c k (met := False) (by rw [h]; decide)).2 id
  have sleeps : s.overdue c k = false → does (.watchdog c k) s same := fun h => ⟨_, rfl, raiseWatchdog_idle h⟩
  refine ⟨fun hl => ?untaken, fun hl => ?scalar, fun hl => ?nothing, fun hh => ?free, ends fun hh => ?event, ends fun hh => ?counter,
    ends fun hh => ?branch, ends fun hh => ?timeline, fun rs vs => ends fun hh => ?load, ends fun hh => ?full, ends fun hh => ?acks,
    ends fun hh => ?word, ends fun hh => ?request, ends fun hh => ?queue, ends fun hh => ?engine, fun hh => ?others,
    fun hlc => ends fun hh => ?empty, fun b hlc hb => ends fun hh => ?barrier, fun hw => sleeps (overdue_early hw), fun hh => ?unwatched,
    fun h0 ht hh hv hi => ?taken⟩
  case untaken => exact ⟨_, rfl, by rw [State.finishLoad, takeLoad_none hl]; rfl⟩
  case scalar =>
    refine ⟨_, by rw [exec, execLdaCompletion, finishLoad_scalar hl hk], ?_⟩
    rw [Option.getD_some]
    dsimp only
    rw [State.core_setCore_self, Core.strand_setStrand_self _ _ (by rw [Core.setStrand_length]; exact hk)]
    have value : ∀ r, (x.setReg d v).reg r = if r = d ∧ d ≠ 0 then v else x.reg r := fun r => x.reg_setReg d r v
    have hold : (x.setReg d v).hold = x.hold := by unfold Strand.setReg; split <;> rfl
    have ticks : (x.setReg d v).heldTicks = x.heldTicks := by unfold Strand.setReg; split <;> rfl
    refine ⟨?_, fun r hr => ?_, rfl, Strand.setReg_pc _ _ _, fun rs vs hh => ?_, fun hh => ?_, fun h1 h2 => ?_, fun hh => ?_, ?_,
      fun j hj => ?_, fun b hb => ?_⟩
    · rw [Strand.loadDone_reg, value]
      by_cases h0 : d = 0
      · subst h0; rfl
      · rw [if_pos ⟨rfl, h0⟩, if_neg h0]
    · rw [Strand.loadDone_reg, value, if_neg fun h => hr h.1]
    · rw [← hold] at hh ⊢; exact Strand.loadDone_hold_load hh lc rest
    · rw [← hold] at hh; exact Strand.loadDone_hold_counter hh rest
    · rw [← hold] at h1 h2 ⊢; exact Strand.loadDone_hold_other h1 h2 rest
    · rw [← ticks]; exact Strand.loadDone_heldTicks hh
    · refine (State.isPoisoned_clearPoison (s.setCore c ((s.core c).setStrand k (x.setReg d v))) (.sreg c k d) (.sreg c k d)).trans ?_
      rw [beq_self_eq_true, Bool.not_true, Bool.and_false]
    · rw [Core.strand_setStrand_ne _ _ hj, Core.strand_setStrand_ne _ _ hj]
    · rw [State.core_setCore_ne _ _ hb]
      exact State.core_setCore_ne s _ hb
  case nothing =>
    refine ⟨_, by rw [exec, execLdaCompletion, finishLoad_nothing hl], ?_⟩
    rw [Option.getD_some]
    dsimp only
    rw [State.core_setCore_self, Core.strand_setStrand_self _ _ hk]
    exact ⟨rfl, fun b hb => State.core_setCore_ne s _ hb⟩
  case free =>
    have hh' : ((s.core c).strand k).hold = none := hh
    exact ⟨stays (by simp only [State.holdOver, hh']), sleeps (overdue_free hh')⟩
  case event => simp only [State.holdOver, hh, x]
  case counter =>
    simp only [State.holdOver, hh]
    exact decide_eq_true_iff
  case branch => simp only [State.holdOver, hh, decide_eq_true_eq]
  case timeline => simp only [State.holdOver, hh, decide_eq_true_eq]
  case load => simp only [State.holdOver, hh, Bool.not_eq_true', x]
  case full =>
    simp only [State.holdOver, hh]
    exact decide_eq_true_iff
  case acks => simp only [State.holdOver, hh, Bool.not_eq_true']
  case word => simp only [State.holdOver, hh]
  case request => simp only [State.holdOver, hh, Bool.and_eq_true, bne_iff_ne, Bool.not_eq_true']
  case queue => simp only [State.holdOver, hh, decide_eq_true_eq]
  case engine => simp only [State.holdOver, hh, Bool.not_eq_true']
  case others =>
    have other : ∀ {h : Hold}, x.hold = some h → h = .iteration ∨ h = .parked n ∨ h = .fence n ∨ h = .response n → s.holdOver c k = false := by
      intro h hh ho
      have hh' : ((s.core c).strand k).hold = some h := hh
      rcases ho with rfl | rfl | rfl | rfl <;> simp only [State.holdOver, hh']
    rcases hh with hh | hh | hh | hh
    · exact stays (other hh (.inl rfl))
    · exact stays (other hh (.inr (.inl rfl)))
    · exact stays (other hh (.inr (.inr (.inl rfl))))
    · exact stays (other hh (.inr (.inr (.inr rfl))))
  case empty =>
    simp only [State.holdOver, hh, if_pos hlc, Bool.not_eq_true', List.isEmpty_eq_false_iff]
  case barrier =>
    have hat : State.barrierAt { s with cur := (c, k) } lc = .ok b := State.barrierAt_core hlc hb
    simp only [State.holdOver, hh, hat]
    exact phasePassed_iff _ _
  case unwatched =>
    rcases hh with hh | hh | hh | hh | ⟨js, hh⟩ <;> exact sleeps (overdue_unwatched hh rfl)
  case taken =>
    have raised := raiseWatchdog_taken hk (overdue_of h0 ht hh rfl) (Strand.hasHandler_of hv hi)
    refine ⟨_, by rw [exec, execWatchdog, raised], ?_⟩
    dsimp only
    rw [State.core_setCore_self, Core.strand_setStrand_self _ _ hk]
    exact ⟨rfl, rfl, rfl, rfl, rfl, rfl, rfl, rfl, fun j hj => Core.strand_setStrand_ne _ _ hj, fun b hb => State.core_setCore_ne s _ hb⟩

end Sys2Proof.Machine
end

section
/-! Records start, step and complete (R102, R104 to R106, R124, R219, R243, R340, R352, R367). -/

open Sys2Proof Sys2Proof.Machine Sys2Proof.Claims

namespace Sys2Proof.Machine

variable {s : State} {c e : Nat} {r : Rec} {rest : List Rec}

/-- A core whose engine `e` has another queue. -/
def Core.queued (q : Core) (e : Nat) (rs : List Rec) : Core := q.setEngine e { q.engine e with queue := rs }

/-- Record `r` is the first of its engine's queue, in dispatch order. -/
structure heads (s : State) (c e : Nat) (r : Rec) (rest : List Rec) : Prop where
  runs : s.enginesRun c = true
  queue : ((s.core c).engine e).queue = r :: rest
  core : r.core = c
  eng : r.eng = e
  order : ∀ y, y ∈ rest → r.num < y.num

/-- The head of a queue replaced in it, in a state that has the same queue. -/
theorem putRec_head {t : State} (h : heads s c e r rest) (ht : ((t.core c).engine e).queue = r :: rest) {y : Rec} (hn : y.num = r.num)
    (hc : y.core = r.core) (he : y.eng = r.eng) : t.putRec y = t.setCore c ((t.core c).queued e (y :: rest)) := by
  have keeps : rest.map (fun x => if x.num = y.num then y else x) = rest := by
    refine (List.map_congr_left fun x hx => ?_).trans (List.map_id' rest)
    have := h.order x hx
    exact if_neg (by omega)
  have hq : (((t.core c).engine e).queue.map fun x => if x.num = y.num then y else x) = y :: rest := by
    rw [ht, List.map_cons, if_pos hn.symm, keeps]
  rw [State.putRec, hc, he, h.core, h.eng]
  exact congrArg (fun l => t.setCore c ((t.core c).queued e l)) hq

/-! ## RECORD_START (R104, R243) -/

theorem candidate_head (h : heads s c e r rest) (hs : r.started = false) (hm : r.member = false) :
    ((s.core c).engine e).candidate = some r := by
  have found : ((s.core c).engine e).queue.find? (fun r => !r.started) = some r := by
    rw [h.queue]
    exact List.find?_cons_of_pos (by rw [hs]; rfl)
  have first : (((s.core c).engine e).queue.any fun y => decide (y.num < r.num) && !y.ended) = false := by
    rw [h.queue, List.any_eq_false]
    intro y hy
    rcases List.mem_cons.mp hy with rfl | hy
    · simp
    · have := h.order y hy
      simp only [Bool.and_eq_true, decide_eq_true_eq]
      omega
  simp only [Engine.candidate, found, first, hm, Bool.false_eq_true, if_false]

/-- The head of the queue of ME, a copy engine or IE starts exactly when its wait, which claims no ring, is met. -/
theorem startRecord_head (h : heads s c e r rest) (hs : r.started = false) (hm : r.member = false) (h0 : e ≠ 0) (h4 : e ≠ 4)
    (hk : r.hdr.wait.kind = 0 ∨ r.hdr.wait.kind = 3) (met : Bool) (hw : s.meetWait r = if met then some (s, r) else none) :
    startRecord c e s = if met then s.setCore c ((s.core c).queued e ({ r with started := true } :: rest)) else s := by
  have cand := candidate_head h hs hm
  have claims : r.claims = none := if_neg (by omega)
  have free : (s.core c).patchBlocked r = false := by
    rw [Core.patchBlocked, h.eng, beq_false_of_ne h0, Bool.false_and]
  have serves : s.neServes r = true := by
    rw [State.neServes, h.eng, bne_iff_ne.mpr h4, Bool.true_or]
  have now : s.startNow c e = if met then some (s.putRec { r with started := true }) else none := by
    rw [State.startNow, h.runs, cand]
    simp only [free, serves, hw]
    cases met <;> rfl
  rw [startRecord, State.startable, cand]
  simp only [Option.bind_some, claims, now]
  cases met
  · rfl
  · exact putRec_head h h.queue (y := { r with started := true }) rfl rfl rfl

theorem meetWait_none (hk : r.hdr.wait.kind = 0) : s.meetWait r = some (s, r) := by
  simp only [State.meetWait, hk]

theorem meetWait_barrier {b : Barrier} (hk : r.hdr.wait.kind = 3) (hx : r.hdr.wait.obj < 16)
    (hb : mapFind (s.core r.objCore).barriers r.hdr.wait.obj = some b) : s.meetWait r =
      if (decide (r.hdr.wait.count ≤ (b.phase - r.phase).toNat) && decide ((b.phase - r.phase).toNat < 2 ^ 31)) then some (s, r) else none := by
  have phase : s.phaseOf r.objCore r.hdr.wait.obj = b.phase := by
    rw [State.phaseOf, if_neg (Nat.ne_of_lt hx), hb]
  simp only [State.meetWait, hk, phase, beq_false_of_ne (Nat.ne_of_lt hx), Bool.false_and, Bool.false_or]

/-! ## ENGINE_ITERATION of RNOP and MCLR (R352, R367) -/

/-- The running head of a queue takes the step of its op. -/
theorem iterateEngine_head (h : heads s c e r rest) (hs : r.started = true) (he : r.ended = false) (hn : s.neServes r = true)
    (hc : r.consumers = []) {y : Job} (hy : (Job.mk s r).iterate = some y) : iterateEngine c e s = y.s.putRec y.r := by
  have running : ((s.core c).engine e).running = some r := by
    rw [Engine.running, h.queue]
    exact List.find?_cons_of_pos (by rw [hs, he]; rfl)
  rw [iterateEngine, State.iterable, h.runs, running]
  simp only [hn, hc, hy]
  rfl

/-- A core in which MCLR has cleared row `row` of patch `z`, and with row 0 its status (R352). -/
def Core.rowCleared (q : Core) (z row : Nat) : Core :=
  (if row = 0 then q.setPatch z { q.patch z with status := 0, broken := false, written := true } else q).setZRow z row (List.replicate 128 0)

/-- The record after that row (R219, R352). -/
def Rec.rowCleared (r : Rec) (z row : Nat) : Rec :=
  { r.wroteZ z row 128 with
    count := r.count + if row = 95 then 1 else 0, upc := [0, 0, z, row + 1], ended := if row = 95 then true else r.ended }

section
variable (r : Rec) (z row n : Nat)

/-- The list of the ranges that a record has written is apart from all else of it. -/
theorem Rec.wroteZ_frame : r.wroteZ z row n = { r with wrote := (r.wroteZ z row n).wrote } := by
  unfold Rec.wroteZ
  split <;> rfl

theorem Rec.wroteZ_num : (r.wroteZ z row n).num = r.num := by rw [Rec.wroteZ_frame]
theorem Rec.wroteZ_core : (r.wroteZ z row n).core = r.core := by rw [Rec.wroteZ_frame]
theorem Rec.wroteZ_eng : (r.wroteZ z row n).eng = r.eng := by rw [Rec.wroteZ_frame]
theorem Rec.wroteZ_started : (r.wroteZ z row n).started = r.started := by rw [Rec.wroteZ_frame]
theorem Rec.wroteZ_count : (r.wroteZ z row n).count = r.count := by rw [Rec.wroteZ_frame]
theorem Rec.wroteZ_ended : (r.wroteZ z row n).ended = r.ended := by rw [Rec.wroteZ_frame]

end

theorem packElems_zeros (w n : Nat) : packElems w (List.replicate n 0) = 0 := by
  induction n with
  | zero => rfl
  | succ n ih => rw [List.replicate_succ, packElems, ih, Nat.zero_mod, Nat.mul_zero]

theorem Core.zRow_setZRow_self (q : Core) (z row : Nat) (cells : List Nat) :
    (q.setZRow z row cells).zRow z row = BitVec.ofNat 4096 (packElems 32 cells) := mapGet_mapPut_self _ _ _ _

/-- Rows below 96 of two places are apart. -/
theorem Core.zRow_setZRow_ne (q : Core) {z row y i : Nat} (cells : List Nat) (hrow : row < 96) (hi : i < 96) (h : y ≠ z ∨ i ≠ row) :
    (q.setZRow z row cells).zRow y i = q.zRow y i := mapGet_mapPut_ne _ _ _ (by omega)

theorem Core.rowCleared_zRow (q : Core) (z row : Nat) : (q.rowCleared z row).zRow z row = 0 := by
  rw [Core.rowCleared, Core.zRow_setZRow_self, packElems_zeros]
  rfl

theorem Core.rowCleared_zRow_ne (q : Core) {z row y i : Nat} (hrow : row < 96) (hi : i < 96) (h : y ≠ z ∨ i ≠ row) :
    (q.rowCleared z row).zRow y i = q.zRow y i := by
  rw [Core.rowCleared, Core.zRow_setZRow_ne _ _ hrow hi h]
  split <;> rfl

theorem Core.rowCleared_patch (q : Core) (z : Nat) :
    (q.rowCleared z 0).patch z = { q.patch z with status := 0, broken := false, written := true } := mapGet_mapPut_self _ _ _ _

theorem State.core_putZRow (s : State) (c z row n : Nat) (cells : List Nat) (d : Nat) :
    (s.putZRow c z row n cells).core d = (s.setCore c ((s.core c).setZRow z row cells)).core d := by
  unfold State.putZRow
  dsimp only
  split <;> rfl

/-- An MCLR of one patch clears one row in a step (R219, R352). -/
theorem mclrStep_row {z row : Nat} (hp : r.patches = [z]) (hu : r.upc = [0, 0, z, row]) (hrow : row < 96) :
    ((Job.mk s r).mclrStep).r = r.rowCleared z row ∧
    ∀ d, ((Job.mk s r).mclrStep).s.core d = (s.setCore r.core ((s.core r.core).rowCleared z row)).core d := by
  have z2 : r.upc.getD 2 0 = z := by rw [hu]; rfl
  have r3 : r.upc.getD 3 0 = row := by rw [hu]; rfl
  have first : r.patches.find? (fun y => decide (r.upc.getD 2 0 ≤ y)) = some z := by
    rw [hp, z2]; exact List.find?_cons_of_pos (decide_eq_true (Nat.le_refl z))
  have noNext : r.patches.find? (fun y => decide (z < y)) = none := by
    rw [hp]; simp
  have count := r.wroteZ_count z row 128
  have ended := r.wroteZ_ended z row 128
  refine ⟨?_, fun d => ?_⟩
  · simp only [Job.mclrStep, first, noNext]
    by_cases h : row = 95
    · subst h
      simp only [z2, r3, if_true, Rec.rowCleared, count]
      rfl
    · have hlt : row + 1 < 96 := by omega
      simp only [z2, r3, if_true, if_pos hlt, Rec.rowCleared, if_neg h, Nat.add_zero, ← count, ← ended]
  · simp only [Job.mclrStep, first]
    simp only [z2, r3, if_true]
    rw [State.core_putZRow, State.setCore_setCore, State.core_setCore_self]
    rfl

/-- The cores after an MCLR of one patch has cleared one row. -/
theorem iterateEngine_mclr {z row : Nat} (h : heads s c e r rest) (hs : r.started = true) (he : r.ended = false) (hn : s.neServes r = true)
    (hop : r.op = .mclr) (hp : r.patches = [z]) (hu : r.upc = [0, 0, z, row]) (hrow : row < 96) (d : Nat) : (iterateEngine c e s).core d =
      (s.setCore c (((s.core c).rowCleared z row).queued e (r.rowCleared z row :: rest))).core d := by
  have step : (Job.mk s r).iterate = some (Job.mk s r).mclrStep := by simp only [Job.iterate, hop]
  obtain ⟨rec, cores⟩ := mclrStep_row (s := s) hp hu hrow
  rw [h.core] at cores
  have core : (Job.mk s r).mclrStep.s.core c = (s.core c).rowCleared z row := (cores c).trans (State.core_setCore_self _ _ _)
  have queue : (((s.core c).rowCleared z row).engine e).queue = r :: rest := by
    refine Eq.trans ?_ h.queue
    unfold Core.rowCleared
    split <;> rfl
  rw [iterateEngine_head h hs he hn (by simp only [Rec.consumers, hop]) step, rec,
    putRec_head h (by rw [core]; exact queue) (y := r.rowCleared z row) (Rec.wroteZ_num r z row 128) (Rec.wroteZ_core r z row 128)
      (Rec.wroteZ_eng r z row 128), core]
  by_cases hd : d = c
  · subst hd
    rw [State.core_setCore_self, State.core_setCore_self]
  · rw [State.core_setCore_ne _ _ hd, cores, State.core_setCore_ne _ _ hd, State.core_setCore_ne _ _ hd]

/-! ## RECORD_COMPLETION (R105, R106) -/

theorem completing_none {q : Core} (h : ∀ y, y ∈ (q.engine e).queue → y.ended = false) : q.completing e = none := by
  rw [Core.completing, List.find?_eq_none]
  intro y hy
  rw [h y hy, Bool.false_and]
  exact Bool.false_ne_true

theorem Core.strand_wake {q : Core} {j : Nat} (h : j < q.strands.length) : q.wake.strand j = { q.strand j with latch := true } := by
  simp [Core.wake, Core.strand, h]

/-- The timeline when a queue of records in order is left: below each of them (R106). -/
theorem foldl_min_le (ys : List Rec) (a : Nat) : ys.foldl (fun a z => Nat.min a (z.num - 1)) a ≤ a ∧
    ∀ u, u ∈ ys → ys.foldl (fun a z => Nat.min a (z.num - 1)) a ≤ u.num - 1 := by
  induction ys generalizing a with
  | nil => exact ⟨Nat.le_refl a, fun u hu => absurd hu List.not_mem_nil⟩
  | cons y ys ih =>
    obtain ⟨le, all⟩ := ih (Nat.min a (y.num - 1))
    rw [List.foldl_cons]
    refine ⟨Nat.le_trans le (Nat.min_le_left _ _), fun u hu => ?_⟩
    rcases List.mem_cons.mp hu with rfl | hu
    · exact Nat.le_trans le (Nat.min_le_right _ _)
    · exact all u hu

/-- The head of a queue leaves it with its word (R106). -/
theorem Engine.retire_head {x : Engine} (hq : x.queue = r :: rest) (ho : ∀ y, y ∈ rest → r.num < y.num) (hm : r.mcheck = none) :
    (x.retire r).queue = rest ∧ (x.retire r).last = x.last ∧ (x.retire r).pend = x.pend ∧
      (x.retire r).words = keepWords x.words r.num r.word ∧ (rest = [] → (x.retire r).tl = x.last) ∧
      ∀ u, u ∈ rest → (x.retire r).tl ≤ u.num - 1 := by
  have left : (x.queue.filter fun y => y.num != r.num) = rest := by
    rw [hq, List.filter_cons_of_neg (by simp)]
    refine List.filter_eq_self.mpr fun y hy => ?_
    have := ho y hy
    simp only [bne_iff_ne]
    omega
  refine ⟨left, rfl, ?_, rfl, fun he => ?_, fun u hu => ?_⟩
  · simp only [Engine.retire, hm]
  · simp only [Engine.retire, left, he]
  · cases rest with
    | nil => cases hu
    | cons y ys =>
      simp only [Engine.retire, left]
      rcases List.mem_cons.mp hu with rfl | hu
      · exact (foldl_min_le ys _).1
      · exact (foldl_min_le ys _).2 u hu

theorem mapFind_append_self {α : Type} {m : Map α} {k : Nat} (v : α) (h : mapFind m k = none) : mapFind (m ++ [(k, v)]) k = some v := by
  induction m with
  | nil => exact if_pos rfl
  | cons p m ih =>
    rw [mapFind] at h
    by_cases hp : p.1 = k
    · rw [if_pos hp] at h; cases h
    · rw [if_neg hp] at h
      rw [List.cons_append, mapFind, if_neg hp, ih h]

/-- Fewer than 64 words keep their room for one more (R106). -/
theorem mapFind_keepWords {m : Map Word} (num : Nat) (w : Word) (hl : m.length < 64) (h : mapFind m num = none) :
    mapFind (keepWords m num w) num = some w := by
  rw [keepWords, Nat.sub_eq_zero_of_le (by omega), List.drop_zero]
  exact mapFind_append_self w h

/-- What the completion of an RNOP without a post spec leaves, outside ME and the neighbour engine. -/
def State.retired (s : State) (c e : Nat) (r : Rec) : State :=
  { s.setCore c (((s.core c).setEngine e (((s.core c).engine e).retire r)).wake) with sdWait := s.sdWait.filter fun w => w != (c, e, r.num) }

theorem completeRecord_head (h : heads s c e r rest) (own : r.objCore = c) (he : r.ended = true) (hop : r.op = .rnop) (hp : r.hdr.post.kind = 0)
    (hm : r.mcheck = none) (h0 : e ≠ 0) (h4 : e ≠ 4) : completeRecord c e s = s.retired c e r := by
  have next : (s.core c).completing e = some r := by
    rw [Core.completing, h.queue]
    exact List.find?_cons_of_pos (by rw [he, hop]; rfl)
  have left : (r.op == .cpys && (s.core c).unconsumed r) = false := by rw [hop]; rfl
  have marks : (r.markIf false wCHUNKMIX).markIf r.mcheck.isSome wMCHK = r := by rw [hm]; rfl
  have post : ∀ t : State, t.postRecord r = t := fun t => by
    rw [State.postRecord]
    simp only [hp, true_or, if_true]
  rw [completeRecord, State.completable, h.runs, next]
  simp only [Bool.not_true, Bool.false_eq_true, if_false, Option.map_some, Option.getD_some, State.completeRec, h.core, left, marks, post,
    h.eng, own, if_neg h0, if_neg h4, if_true, State.core_setCore_self, State.setCore_setCore]
  rfl

theorem engineEvents_hold : engineEvents := by
  intro c e z row r rest s hrun q x becomes
  refine ⟨fun hq => ?empty, fun hq hc he ho hord => ?_⟩
  case empty =>
    have hq' : ((s.core c).engine e).queue = [] := hq
    have cand : ((s.core c).engine e).candidate = none := by rw [Engine.candidate, hq']; rfl
    have running : ((s.core c).engine e).running = none := by rw [Engine.running, hq']; rfl
    have next : (s.core c).completing e = none := by rw [Core.completing, hq']; rfl
    refine ⟨⟨_, rfl, ?_⟩, ⟨_, rfl, ?_⟩, ⟨_, rfl, ?_⟩⟩
    · rw [startRecord, State.startable, cand, State.startNow, hrun, cand]; rfl
    · rw [iterateEngine, State.iterable, hrun, running]; rfl
    · rw [completeRecord, State.completable, hrun, next]; rfl
  have h : heads s c e r rest := ⟨hrun, hq, hc, he, hord⟩
  refine ⟨fun hs hn hm h0 h4 => ?start, fun hs hn hop hserve => ?rnop, fun hs hn hop hserve hp hu hrow => ?mclr,
    fun hn hop hp hm h0 h4 hl hw => ?complete⟩
  case start =>
    intro w starts
    have go : s.meetWait r = some (s, r) → (w.kind = 0 ∨ w.kind = 3) → does (.recordStart c e) s starts := fun met hk =>
      ⟨_, rfl, by rw [startRecord_head h hs hm h0 h4 hk true met]; exact onlyCoreIs_setCore _ _ _⟩
    refine ⟨fun hk => go (meetWait_none hk) (.inl hk), fun b hk hx hb => ?_, fun hrest => ⟨_, rfl, ?_⟩⟩
    · have met := meetWait_barrier (s := s) hk hx (by rw [ho]; exact hb)
      refine ⟨fun h1 h2 => go (met.trans (by rw [decide_eq_true h1, decide_eq_true h2]; rfl)) (.inr hk), fun hd => ⟨_, rfl, ?_⟩⟩
      rw [startRecord_head h hs hm h0 h4 (.inr hk) _ met, if_neg]
      · rfl
      · simp only [Bool.and_eq_true, decide_eq_true_eq]
        exact fun ⟨h1, h2⟩ => hd.elim (Nat.not_lt.mpr h1) fun h => Nat.not_lt.mpr h h2
    · rw [completeRecord, State.completable, hrun, completing_none]
      · rfl
      · intro y hy
        rw [h.queue] at hy
        rcases List.mem_cons.mp hy with rfl | hy
        · exact hn
        · exact hrest y hy
  case rnop =>
    have step : (Job.mk s r).iterate = some ⟨s, { r with ended := true }⟩ := by simp only [Job.iterate, hop]
    refine ⟨_, rfl, ?_⟩
    rw [iterateEngine_head h hs hn hserve (by simp only [Rec.consumers, hop]) step]
    dsimp only
    rw [putRec_head h h.queue (y := { r with ended := true }) rfl rfl rfl]
    exact onlyCoreIs_setCore _ _ _
  case mclr =>
    refine ⟨_, rfl, ?_⟩
    have cores := iterateEngine_mclr h hs hn hserve hop hp hu hrow
    have core : (iterateEngine c e s).core c = (q.rowCleared z row).queued e (r.rowCleared z row :: rest) :=
      (cores c).trans (State.core_setCore_self _ _ _)
    dsimp only
    rw [core]
    have ended : (r.rowCleared z row).ended = decide (row = 95) := by
      change (if row = 95 then true else r.ended) = _
      rw [hn]
      by_cases h95 : row = 95 <;> simp [h95]
    refine ⟨q.rowCleared_zRow z row, fun y i hi hne => q.rowCleared_zRow_ne hrow hi hne, fun h0 => ?_,
      ⟨r.rowCleared z row, ?_, Rec.wroteZ_num r z row 128, ?_, ended, rfl, rfl⟩, fun d hd => ?_⟩
    · have patch : ((q.rowCleared z row).queued e (r.rowCleared z row :: rest)).patch z = (q.rowCleared z row).patch z := rfl
      rw [patch, h0, Core.rowCleared_patch]
      exact ⟨rfl, rfl⟩
    · rw [Core.queued, Core.engine_setEngine_self]
    · exact (Rec.wroteZ_started r z row 128).trans hs
    · rw [cores, State.core_setCore_ne _ _ hd]
  case complete =>
    obtain ⟨queue, last, pend, words, idle, below⟩ := Engine.retire_head h.queue hord hm
    refine ⟨_, rfl, ?_⟩
    rw [completeRecord_head h ho hn hop hp hm h0 h4]
    have core : (s.retired c e r).core c = ((s.core c).setEngine e (((s.core c).engine e).retire r)).wake := State.core_setCore_self _ _ _
    have engine : ((s.retired c e r).core c).engine e = ((s.core c).engine e).retire r := by
      rw [core]; exact Core.engine_setEngine_self _ _ _
    dsimp only
    rw [engine, core]
    refine ⟨queue, last, pend, ?_, idle, below, fun j hj => ?_, fun f hf => Core.engine_setEngine_ne _ _ hf,
      fun d hd => State.core_setCore_ne s _ hd, rfl⟩
    · rw [words]; exact mapFind_keepWords _ _ hl hw
    · exact Core.strand_wake hj

end Sys2Proof.Machine

/-- Settles O52: each event of an engine is followed through the head of its queue, each of a strand through its hold or its loads, and an
error of stored data through the registers of its die and the list of poisoned units. -/
theorem enginesAndErrors : Obligations.EnginesAndErrors := ⟨engineEvents_hold, strandEvents_hold, writesPerformed_hold, errorEvents_hold⟩

end

section
/-! Elements of a record through plain handles of the S store, in bytes (R131, R144, R167). -/

open Sys2Proof Sys2Proof.Machine Sys2Proof.Claims

namespace Sys2Proof.Machine

/-! ## Places through a plain handle of any rank (R131) -/

/-- Bytes from BASE to the element at window coordinates `x`. -/
def Handle.offsetOf (h : Handle) (x : List Nat) : Nat := h.desc.bitPos (h.abs x) / 8

section
variable {h : Handle} (hp : plainS h)
include hp

theorem plainS_bytes : 8 * (tyBits h.desc.fmt / 8) = tyBits h.desc.fmt := by
  obtain ⟨-, -, -, -, -, hw, -⟩ := hp
  exact Nat.mul_div_cancel' (Nat.dvd_of_mod_eq_zero hw)

/-- The element starts at a whole byte, which the statement's formula gives. -/
theorem plainS_offset (x : List Nat) : h.desc.bitPos (h.abs x) = 8 * h.offsetOf x ∧ elemByte h x = h.desc.base + h.offsetOf x := by
  obtain ⟨-, hs, -, -, -, hw, -⟩ := id hp
  unfold Handle.offsetOf
  by_cases hr : 0 < h.desc.rank
  · rw [elemByte_eq hp hr, Desc.bitPos_plain hs hw hr, Nat.mul_div_cancel_left _ (by decide)]
    exact ⟨rfl, rfl⟩
  · have h0 : h.desc.rank = 0 := Nat.eq_zero_of_not_pos hr
    have hb : h.desc.bitPos (h.abs x) = 0 := by rw [Desc.bitPos, Desc.units_of_no_sym hs, h0]; rfl
    rw [hb, elemByte, h0]
    exact ⟨rfl, rfl⟩

theorem plainS_place (x : List Nat) :
    h.place x = .at (List.range' (h.offsetOf x) (tyBits h.desc.fmt / 8)) 0 false true := by
  obtain ⟨-, hs, hz, -, -, hw, -⟩ := id hp
  have rep : h.desc.rep (h.abs x) = some (h.abs x, false) := by rw [Desc.rep, hs]; rfl
  have bit := (plainS_offset hp x).1
  have off : h.desc.byteOff (h.abs x) = (h.offsetOf x + ·) := by
    funext i
    simp only [Desc.byteOff, swizzle, hz, if_true, bit, Nat.mul_div_cancel_left _ (by decide : 0 < 8)]
  have count : (8 * h.offsetOf x % 8 + tyBits h.desc.fmt + 7) / 8 = tyBits h.desc.fmt / 8 := by omega
  simp only [Handle.place, rep, off, bit, upTo, beq_self_eq_true, Bool.not_false, Bool.and_self]
  rw [count, List.range_eq_range', List.map_add_range', Nat.add_zero, Nat.mul_mod_right]

theorem plainS_locate (s : State) (o : Nat) : s.locate h o = .store h.target 2 (h.desc.base + o) := by
  obtain ⟨h2, -⟩ := id hp
  simp only [State.locate, h2]

theorem plainS_through (r : Rec) (x : List Nat) : r.through h x = x := by
  obtain ⟨-, -, -, -, hring, -⟩ := id hp
  rw [Rec.through, hring]
  rfl

/-- R5, R131: an element read through a plain handle is the little-endian number of its bytes. -/
theorem plainS_readElem {s : State} (hs : s.poison = []) (x : List Nat) :
    s.readElem h x = leNat (bytesAt (s.core h.target).s (elemByte h x) (tyBits h.desc.fmt / 8)) := by
  have bytes : (List.range' (h.offsetOf x) (tyBits h.desc.fmt / 8)).flatMap (fun o => s.readAt (s.locate h o) 1) =
      bytesAt (s.core h.target).s (elemByte h x) (tyBits h.desc.fmt / 8) := by
    have start : List.range' (h.offsetOf x) (tyBits h.desc.fmt / 8) = (List.range (tyBits h.desc.fmt / 8)).map (h.offsetOf x + ·) := by
      rw [List.range_eq_range', List.map_add_range', Nat.add_zero]
    rw [bytesAt_eq_map, start, List.flatMap_map]
    simp only [plainS_locate hp, State.readAt_store hs, (plainS_offset hp x).2, Nat.add_assoc]
    exact List.flatMap_pure_eq_map _ _
  have lt := leNat_lt (bytesAt (s.core h.target).s (elemByte h x) (tyBits h.desc.fmt / 8))
  rw [bytesAt_length, plainS_bytes hp] at lt
  simp only [State.readElem, plainS_place hp, bytes, Bool.false_eq_true, if_false, bitsAt, Nat.pow_zero, Nat.div_one]
  exact Nat.mod_eq_of_lt lt

end

/-! ## Whole bytes gathered (R166) -/

/-- A gathering that writes every bit of each of its bytes. -/
def Gathered.whole (m : Gathered) : Prop := mapSorted none m = true ∧ m.all (fun p => p.2.1 == 255) = true

theorem whole_put {m : Gathered} (h : Gathered.whole m) (o v : Nat) : Gathered.whole (mapPut m o (255, v)) := by
  obtain ⟨hs, hm⟩ := h
  exact ⟨mapSorted_mapPut m o _ none hs (fun l hl => by cases hl), all_mapPut _ m o _ hm rfl⟩

theorem whole_mask {m : Gathered} (h : Gathered.whole m) {p : Nat × Nat × Nat} (hp : p ∈ m) : p.2.1 = 255 :=
  beq_iff_eq.mp (List.all_eq_true.mp h.2 p hp)

/-- A byte put whole replaces what was gathered of it. -/
theorem gatherBits_byte {m : Gathered} (h : Gathered.whole m) (o n v : Nat) (os : List Nat) (hn : 8 ≤ n) :
    gatherBits m (o :: os) 0 n v = gatherBits (mapPut m o (255, v % 256)) os 0 (n - 8) (v / 256) := by
  have hk : Nat.min n (8 - 0) = 8 := Nat.min_eq_right hn
  have mask : (mapGet m o ((0, 0) : Nat × Nat)).1 ||| 255 = 255 := by
    rw [mapGet]
    cases hf : mapFind m o with
    | none => rfl
    | some v => rw [Option.getD_some, whole_mask h (mem_of_mapFind hf)]; rfl
  rw [gatherBits]
  simp only [hk]
  norm_num [mask]

/-- An element of `n` whole bytes covers them, and leaves every other byte as it was gathered. -/
theorem gatherBits_wholes (n : Nat) {m : Gathered} (h : Gathered.whole m) (o v : Nat) :
    Gathered.whole (gatherBits m (List.range' o n) 0 (8 * n) v) ∧
    ∀ a, mapFind (gatherBits m (List.range' o n) 0 (8 * n) v) a =
      if o ≤ a ∧ a < o + n then some (255, ((leBytes n v).getD (a - o) 0).toNat) else mapFind m a := by
  induction n generalizing m o v with
  | zero => exact ⟨h, fun a => (if_neg (by omega)).symm⟩
  | succ n ih =>
    have rest : 8 * (n + 1) - 8 = 8 * n := by omega
    rw [List.range'_succ, gatherBits_byte h o _ v _ (by omega), rest]
    obtain ⟨whole, bytes⟩ := ih (whole_put h o (v % 256)) (o + 1) (v / 256)
    refine ⟨whole, fun a => ?_⟩
    rw [bytes a]
    by_cases ha : a = o
    · subst ha
      rw [if_neg (by omega), if_pos (by omega), mapFind_mapPut_self, Nat.sub_self, leBytes, List.getD_cons_zero, BitVec.toNat_ofNat]
    · by_cases hin : o + 1 ≤ a ∧ a < o + 1 + n
      · have shift : a - o = (a - (o + 1)) + 1 := by omega
        rw [if_pos hin, if_pos (by omega), shift, leBytes, List.getD_cons_succ]
      · rw [if_neg hin, if_neg (by omega), mapFind_mapPut_ne _ _ ha]

/-! ## Joined bytes written one after another (R166) -/

/-- Bytes at addresses of the S store of core `c`. -/
def storeAt (c : Nat) (l : List (Nat × Byte)) : List (WriteTarget × Byte) := l.map fun p => (.store c 2 p.1, p.2)

/-- Neighbouring bytes that are joined are in one store, and put there what the bytes put one by one. -/
theorem joinBytes_storeAt (c : Nat) (l : List (Nat × Byte)) :
    (∀ w, w ∈ joinBytes (storeAt c l) → ∃ a, w.1 = .store c 2 a) ∧
    ∀ m : Bytes, (joinBytes (storeAt c l)).foldl (fun m w => putBytes m w.1.addr w.2) m = l.foldl (fun m p => putByte m p.1 p.2) m := by
  induction l with
  | nil => exact ⟨fun w hw => absurd hw List.not_mem_nil, fun m => rfl⟩
  | cons p l ih =>
    obtain ⟨all, puts⟩ := ih
    change (∀ w, w ∈ joinBytes ((.store c 2 p.1, p.2) :: storeAt c l) → _) ∧
      ∀ m : Bytes, (joinBytes ((.store c 2 p.1, p.2) :: storeAt c l)).foldl (fun m w => putBytes m w.1.addr w.2) m = _
    rw [joinBytes]
    cases hj : joinBytes (storeAt c l) with
    | nil =>
      rw [hj] at puts
      refine ⟨fun w hw => ⟨p.1, by rw [List.mem_singleton.mp hw]⟩, fun m => ?_⟩
      exact puts (putByte m p.1 p.2)
    | cons w more =>
      obtain ⟨u, bs⟩ := w
      rw [hj] at all puts
      obtain ⟨a, rfl⟩ := all _ List.mem_cons_self
      dsimp only
      split
      · rename_i hn
        have next : a = p.1 + 1 := by
          obtain ⟨e, -⟩ := hn
          injection e with _ _ e
          exact e.symm
        refine ⟨fun w hw => ?_, fun m => ?_⟩
        · rcases List.mem_cons.mp hw with rfl | hw
          · exact ⟨p.1, rfl⟩
          · exact all w (List.mem_cons_of_mem _ hw)
        · rw [List.foldl_cons, List.foldl_cons, ← puts, List.foldl_cons]
          subst next
          rfl
      · refine ⟨fun w hw => ?_, fun m => puts (putByte m p.1 p.2)⟩
        rcases List.mem_cons.mp hw with rfl | hw
        · exact ⟨p.1, rfl⟩
        · exact all w hw

/-- Bytes put from a sorted gathering at distinct addresses from `base` on. -/
theorem byteAt_foldl_gathered (base : Nat) (f : Nat × Nat → Byte) {g : Gathered} {lo : Option Nat} (hg : mapSorted lo g = true) {m : Bytes}
    (hm : Bytes.wf m = true) (a : Nat) :
    byteAt ((g.map fun p => (base + p.1, f p.2)).foldl (fun m p => putByte m p.1 p.2) m) a =
      match (if base ≤ a then mapFind g (a - base) else none) with | some v => f v | none => byteAt m a := by
  induction g generalizing lo m with
  | nil => split <;> rename_i h <;> split at h <;> cases h; all_goals rfl
  | cons p g ih =>
    obtain ⟨o, v⟩ := p
    have sorted : mapSorted (some o) g = true := by
      simp only [mapSorted, Bool.and_eq_true] at hg
      exact hg.2
    rw [List.map_cons, List.foldl_cons, ih sorted (Bytes.wf_putByte hm _ _), mapFind]
    by_cases ha : a = base + o
    · subst ha
      have absent : mapFind g o = none := mapFind_sorted_none g o o sorted (Nat.le_refl o)
      rw [if_pos (Nat.le_add_right _ _), if_pos (Nat.le_add_right _ _), Nat.add_sub_cancel_left, absent, if_pos rfl]
      exact byteAt_putByte_self hm _ _
    · rw [byteAt_putByte_ne _ _ ha]
      by_cases hb : base ≤ a
      · rw [if_pos hb, if_pos hb, if_neg (by omega)]
      · rw [if_neg hb, if_neg hb]

/-! ## Writes of an engine to one S store (R167; log 8) -/

/-- The S store of core `c` is `m`; nothing else changes. -/
def storeBecame (c : Nat) (m : Bytes) (s t : State) : Prop :=
  t = { s with coreTab := t.coreTab } ∧ ∀ d, t.core d = { s.core d with s := if d = c then m else (s.core d).s }

theorem engineWrite_store {k c : Nat} {ws : List (WriteTarget × List Byte)} (hws : ∀ w, w ∈ ws → ∃ a, w.1 = .store c 2 a) {s : State}
    (hp : s.poison = []) (hw : (s.core k).writes = []) :
    storeBecame c (ws.foldl (fun m w => putBytes m w.1.addr w.2) (s.core c).s) s (s.engineWrite k ws) := by
  induction ws generalizing s with
  | nil =>
    refine ⟨rfl, fun d => ?_⟩
    by_cases hd : d = c
    · subst hd; rw [if_pos rfl]; rfl
    · rw [if_neg hd]; rfl
  | cons w ws ih =>
    obtain ⟨a, ha⟩ := hws w List.mem_cons_self
    have settled : s.settleRange k w.1 w.2.length = s := by
      have none_ : (s.core k).writesUpTo w.1 w.2.length = 0 := by rw [Core.writesUpTo, hw]; rfl
      rw [State.settleRange, none_]
      rfl
    have wrote : s.writeAt w.1 w.2 = s.setCore c { s.core c with s := putBytes (s.core c).s a w.2 } := by
      rw [ha]
      exact if_pos (by rw [List.isEmpty_iff]; exact hp)
    have cores : ∀ d, (s.writeAt w.1 w.2).core d = { s.core d with s := if d = c then putBytes (s.core c).s a w.2 else (s.core d).s } := by
      intro d
      rw [wrote, State.core_setBytes]
    obtain ⟨frame, became⟩ := ih (fun w hw => hws w (List.mem_cons_of_mem _ hw)) (s := s.writeAt w.1 w.2) (by rw [wrote]; exact hp)
      (by rw [cores]; exact hw)
    have first : s.engineWrite k (w :: ws) = (s.writeAt w.1 w.2).engineWrite k ws := by
      rw [State.engineWrite, List.foldl_cons, settled]
      rfl
    rw [first]
    refine ⟨?_, fun d => ?_⟩
    · refine frame.trans ?_
      rw [wrote]
      rfl
    · rw [became, cores, cores, List.foldl_cons, if_pos rfl, ha]
      by_cases hd : d = c
      · subst hd; simp only [if_true, WriteTarget.addr]
      · rw [if_neg hd, if_neg hd, if_neg hd]

/-! ## What elements put (R144, R167) -/

/-- The gathering of elements through a plain handle: whole bytes, of each the last that covers it. -/
theorem storeElems_plainS {h : Handle} (hp : plainS h) (s : State) (es : List (List Nat × Nat)) :
    Gathered.whole (s.storeElems h es).1 ∧ ∀ (a : Nat) (old : Byte),
      (match (if h.desc.base ≤ a then mapFind (s.storeElems h es).1 (a - h.desc.base) else none) with
        | some v => BitVec.ofNat 8 v.2 | none => old) = byteOf h es old a := by
  obtain ⟨-, hs, -⟩ := id hp
  have sym : h.desc.sym.isEmpty = true := by rw [hs]; rfl
  have gathers : (s.storeElems h es).1 = es.foldl (fun m x =>
      gatherBits m (List.range' (h.offsetOf x.1) (tyBits h.desc.fmt / 8)) 0 (8 * (tyBits h.desc.fmt / 8)) x.2) [] := by
    simp only [State.storeElems, State.storeWith, plainS_place hp, sym, Bool.true_or, if_true, plainS_bytes hp]
  rw [gathers]
  clear gathers
  induction es using List.reverseRecOn with
  | nil =>
    refine ⟨⟨rfl, rfl⟩, fun a old => ?_⟩
    rw [List.foldl_nil, show byteOf h [] old a = old from rfl]
    split
    · rename_i h
      split at h <;> cases h
    · rfl
  | append_singleton es x ih =>
    obtain ⟨whole, bytes⟩ := ih
    rw [List.foldl_append, List.foldl_cons, List.foldl_nil]
    obtain ⟨whole', found⟩ := gatherBits_wholes (tyBits h.desc.fmt / 8) whole (h.offsetOf x.1) x.2
    refine ⟨whole', fun a old => ?_⟩
    have start := (plainS_offset hp x.1).2
    rw [found, byteOf, List.reverse_append, List.reverse_singleton, List.singleton_append, List.find?_cons, start]
    by_cases hin : h.desc.base + h.offsetOf x.1 ≤ a ∧ a < h.desc.base + h.offsetOf x.1 + tyBits h.desc.fmt / 8
    · obtain ⟨h1, h2⟩ := hin
      rw [if_pos (by omega), if_pos (by omega), decide_eq_true h1, decide_eq_true h2]
      simp only [Bool.and_self]
      rw [start, BitVec.ofNat_toNat, BitVec.setWidth_eq, Nat.sub_add_eq]
    · have out : (decide (h.desc.base + h.offsetOf x.1 ≤ a) && decide (a < h.desc.base + h.offsetOf x.1 + tyBits h.desc.fmt / 8)) = false := by
        rw [Bool.eq_false_iff]
        simpa using hin
      rw [out]
      refine Eq.trans ?_ (bytes a old)
      by_cases hb : h.desc.base ≤ a
      · rw [if_pos hb, if_pos hb, if_neg (by omega)]
      · rw [if_neg hb, if_neg hb]

theorem engineSight_idle {r : Rec} {s : State} (hw : (s.core r.core).writes = []) : engineSight r s = s := by
  unfold engineSight
  split
  · rfl
  · exact State.seenBy_idle hw

theorem plainElements_hold : plainElements := by
  intro r h es x s hp hs hw hm
  rw [elemIn, engineSight_idle hw, plainS_through hp]
  refine ⟨plainS_readElem hp hs x, ?_⟩
  intro t
  obtain ⟨whole, bytes⟩ := storeElems_plainS hp s es
  have list : s.gatheredBytes h (s.storeElems h es).1 =
      storeAt h.target ((s.storeElems h es).1.map fun p => (h.desc.base + p.1, BitVec.ofNat 8 p.2.2)) := by
    rw [State.gatheredBytes, storeAt, List.map_map]
    refine List.map_congr_left fun p hp' => ?_
    simp only [whole_mask whole hp', if_true, Nat.zero_or, plainS_locate hp, Function.comp_apply]
  obtain ⟨targets, joined⟩ := joinBytes_storeAt h.target ((s.storeElems h es).1.map fun p => (h.desc.base + p.1, BitVec.ofNat 8 p.2.2))
  have ht : t = s.engineWrite r.core (joinBytes (storeAt h.target
      ((s.storeElems h es).1.map fun p => (h.desc.base + p.1, BitVec.ofNat 8 p.2.2)))) := by
    have same : (es.map fun y => (r.through h y.1, y.2)) = es := by
      simp only [plainS_through hp, Prod.mk.eta, List.map_id']
    rw [← list]
    change elemsPut r [(h, es)] s = _
    simp only [elemsPut, List.foldl_cons, List.foldl_nil, engineSight_idle hw, same]
  obtain ⟨frame, became⟩ := engineWrite_store targets hs hw
  rw [← ht] at frame became
  refine ⟨fun a => ?_, frame, fun d => ⟨?_, fun hd => ?_⟩⟩
  · rw [became, if_pos rfl, joined]
    exact (byteAt_foldl_gathered h.desc.base (fun v => BitVec.ofNat 8 v.2) whole.1 (Core.store_wf (State.core_storesWf hm h.target) 2) a).trans
      (bytes a _)
  · rw [became]
  · rw [became, if_neg hd]

end Sys2Proof.Machine
end

section
/-! How a running record reads, writes and moves on (R102, R167, R219). -/

open Sys2Proof Sys2Proof.Machine Sys2Proof.Claims

namespace Sys2Proof.Machine

/-! ## What the writes of an engine leave unchanged (R167) -/

/-- No unit is poisoned, and every core is as it was but for its stores and its pending writes. -/
def engineWrote (s t : State) : Prop :=
  t.poison = [] ∧ ∀ d, t.core d = { s.core d with w := (t.core d).w, a := (t.core d).a, s := (t.core d).s, writes := (t.core d).writes }

theorem engineWrote_refl {s : State} (hp : s.poison = []) : engineWrote s s := ⟨hp, fun _ => rfl⟩

theorem engineWrote_trans {s t u : State} (h : engineWrote s t) (k : engineWrote t u) : engineWrote s u := by
  obtain ⟨-, hc⟩ := h
  obtain ⟨hp, hc'⟩ := k
  exact ⟨hp, fun d => by rw [hc', hc]⟩

theorem engineWrote_of_background {s t : State} (hp : s.poison = []) (h : background s t) : engineWrote s t := by
  obtain ⟨-, -, -, poison, -, cores⟩ := h
  refine ⟨List.eq_nil_iff_forall_not_mem.mpr fun u hu => ?_, fun d => ?_⟩
  · have := poison u hu
    rw [hp] at this
    exact List.not_mem_nil this
  · rw [cores d]

theorem engineWrote_drainFrom {s : State} (hp : s.poison = []) (c n : Nat) : engineWrote s (s.drainFrom c n) := by
  refine engineWrote_trans (t := s.setCore c { s.core c with writes := (s.core c).writes.drop n }) ⟨hp, fun d => ?_⟩
    (engineWrote_of_background hp (s.background_drainFrom c n))
  by_cases hd : d = c
  · subst hd
    rw [State.core_setCore_self]
  · rw [State.core_setCore_ne _ _ hd]

theorem engineWrote_engineWrite {s : State} (hp : s.poison = []) (c : Nat) (ws : List (WriteTarget × List Byte)) :
    engineWrote s (s.engineWrite c ws) := by
  induction ws generalizing s with
  | nil => exact engineWrote_refl hp
  | cons w ws ih =>
    have settled := engineWrote_drainFrom hp c ((s.core c).writesUpTo w.1 w.2.length)
    have wrote := engineWrote_trans settled (engineWrote_of_background settled.1 (State.background_writeAt _ w.1 w.2))
    exact engineWrote_trans wrote (ih wrote.1)

theorem engineWrote_elemsPut (r : Rec) {s : State} (hp : s.poison = []) (ws : List (Handle × List (List Nat × Nat))) :
    engineWrote s (elemsPut r ws s) := by
  induction ws generalizing s with
  | nil => exact engineWrote_refl hp
  | cons w ws ih =>
    have first := engineWrote_engineWrite hp r.core (joinBytes ((engineSight r s).gatheredBytes w.1
      ((engineSight r s).storeElems w.1 (w.2.map fun y => (r.through w.1 y.1, y.2))).1))
    exact engineWrote_trans first (ih first.1)

theorem engineSight_clean (r : Rec) {s : State} (hp : s.poison = []) : (engineSight r s).poison = [] := by
  unfold engineSight
  split
  · exact hp
  · unfold State.seenBy
    split
    · exact hp
    · exact (engineWrote_drainFrom hp _ _).1

theorem elemsPut_append (r : Rec) (ws us : List (Handle × List (List Nat × Nat))) (s : State) :
    elemsPut r (ws ++ us) s = elemsPut r us (elemsPut r ws s) := List.foldl_append

/-! ## What a step changes of its record (R219, R222) -/

/-- A record that has run on. -/
def Rec.ranOn (r y : Rec) : Prop :=
  y = { r with ended := y.ended, upc := y.upc, count := y.count, flags := y.flags, wrote := y.wrote, aux := y.aux, mcheck := y.mcheck }

theorem Rec.ranOn_refl (r : Rec) : r.ranOn r := rfl

theorem Rec.ranOn_trans {r y z : Rec} (h : r.ranOn y) (k : y.ranOn z) : r.ranOn z := by
  unfold Rec.ranOn at *
  rw [k, h]

theorem Rec.ranOn_markIf (r : Rec) (c : Bool) (bit : Nat) : r.ranOn (r.markIf c bit) := by
  unfold Rec.markIf
  split <;> rfl

theorem Rec.markIf_eq (r : Rec) (c : Bool) (bit : Nat) : ∃ f, r.markIf c bit = { r with flags := f } := by
  unfold Rec.markIf
  split
  · exact ⟨_, rfl⟩
  · exact ⟨r.flags, rfl⟩

/-- Steps that change status bits alone do so together. -/
theorem foldl_flags {α : Type} {g : Rec → α → Rec} (hg : ∀ r x, ∃ f, g r x = { r with flags := f }) (l : List α) (r : Rec) :
    ∃ f, l.foldl g r = { r with flags := f } := by
  induction l generalizing r with
  | nil => exact ⟨r.flags, rfl⟩
  | cons x l ih =>
    obtain ⟨f, hf⟩ := hg r x
    obtain ⟨f', hf'⟩ := ih (g r x)
    exact ⟨f', by rw [List.foldl_cons, hf', hf]⟩

/-- Status bits of a delivered value are all that it changes of its record (R341). -/
theorem Rec.delivered_eq (r : Rec) (ty : Ty) (v fl : Nat) : ∃ f, r.delivered ty v fl = { r with flags := f } := by
  obtain ⟨f, hf⟩ := r.markIf_eq (decide (fl &&& flagSAT ≠ 0)) wSAT
  unfold Rec.delivered
  rw [hf]
  dsimp only
  split
  · split
    · exact ⟨_, rfl⟩
    · exact ⟨_, rfl⟩
    · exact ⟨_, rfl⟩
  · obtain ⟨f', hf'⟩ := Rec.markIf_eq { r with flags := f } (ty == .e8m0 && decide (v = 0xFF)) wNAN
    exact ⟨f', hf'⟩

theorem Rec.deliveredAll_eq (r : Rec) (ty : Ty) (vs : List Nat) : ∃ f, r.deliveredAll ty vs = { r with flags := f } :=
  foldl_flags (fun r v => r.delivered_eq ty v 0) vs r

section
variable {r y : Rec} (h : r.ranOn y)
include h

theorem elemIn_ranOn : elemIn y = elemIn r := by rw [h]; rfl
theorem elemsPut_ranOn : elemsPut y = elemsPut r := by rw [h]; rfl

end

/-! ## Reads and deliveries of a job -/

section
variable {x : Job} {h : Handle}

/-- Elements read where no unit is poisoned (R167, R216). -/
theorem Job.read_clean (hp : x.s.poison = []) (h6 : h.desc.space ≠ 6) (cs : List (List Nat)) :
    x.read h cs = (cs.map (elemIn x.r x.s h), x) := by
  have clean : x.view.poison.isEmpty = true := by rw [List.isEmpty_iff]; exact engineSight_clean x.r hp
  have draw : (h.desc.space == 6) = false := beq_false_of_ne h6
  simp only [Job.read, clean, if_true, draw, List.map_map]
  rfl

theorem Job.readBytes_clean (hp : x.s.poison = []) (off n : Nat) : (x.readBytes h off n).2 = x := by
  have clean : x.view.poison.isEmpty = true := by rw [List.isEmpty_iff]; exact engineSight_clean x.r hp
  simp only [Job.readBytes, clean, if_true]

/-- What a policy stores does not depend on what it compares with (R144). -/
theorem State.storeWith_fst (v : State) (h : Handle) (xs : List (List Nat × Nat)) (value : List Nat → Option Nat) :
    (v.storeWith h xs value).1 = (v.storeElems h xs).1 := by
  unfold State.storeElems State.storeWith
  dsimp only
  split <;> rfl

/-- Elements delivered: what they put, and a record that has written them. -/
theorem Job.deliver_eq (x : Job) (h : Handle) (es : List (List Nat × Nat)) (value : List Nat → Option Nat) :
    ∃ w f, x.deliver h es value = ⟨elemsPut x.r [(h, es)] x.s, { x.r with wrote := w, flags := f }⟩ := by
  unfold Job.deliver
  dsimp only [Job.put]
  rw [State.storeWith_fst]
  obtain ⟨f, hf⟩ := Rec.markIf_eq { x.r with wrote := _ } _ wSYMBREAK
  exact ⟨_, f, congrArg (Job.mk _) hf⟩

/-- No element, no write. -/
theorem elemsPut_no_elements (r : Rec) (h : Handle) (s : State) : elemsPut r [(h, [])] s = s := by
  have none_ : ((engineSight r s).storeElems h []).1 = [] := by
    unfold State.storeElems State.storeWith
    dsimp only
    split <;> rfl
  simp only [elemsPut, List.foldl_cons, List.foldl_nil, List.map_nil, none_]
  rfl

/-- A status bit that is set stays set. -/
theorem Job.deliver_flag (x : Job) (h : Handle) (es : List (List Nat × Nat)) (value : List Nat → Option Nat) {i : Nat}
    (hi : x.r.flags.getLsbD i = true) : (x.deliver h es value).r.flags.getLsbD i = true := by
  unfold Job.deliver
  dsimp only [Job.put, Rec.markIf]
  split
  · dsimp only [Rec.mark]
    rw [BitVec.getLsbD_or, hi, Bool.true_or]
  · exact hi

end

/-! ## The iteration of the head of a queue -/

section
variable {s : State} {c e : Nat} {op : RecOp} {r : Rec} {rest : List Rec}

/-- What is said of the state after is said of it with the state before. -/
theorem does_here {i : Instr} {p : State → State → Prop} (h : does i s fun _ t => p s t) : does i s p := h

theorem does_mono {i : Instr} {s : State} {p q : State → State → Prop} (h : does i s p) (hpq : ∀ t, p s t → q s t) : does i s q := by
  obtain ⟨t, ht, hp⟩ := h
  exact ⟨t, ht, hpq t hp⟩

theorem heads_of_recordRuns (h : recordRuns c e op r rest s) : heads s c e r rest := by
  obtain ⟨runs, queue, order, core, eng, -⟩ := h
  exact ⟨runs, queue, core, eng, order⟩

/-- The state and the record after a step; the ring that it may claim is its to claim. -/
theorem iterateEngine_turn (h : recordRuns c e op r rest s) (turn : ∀ x, x ∈ r.consumers → s.claimTurn c e (x.1, x.2, true) = true) :
    iterateEngine c e s = match (Job.mk s r).iterate with | some y => y.s.putRec y.r | none => s := by
  obtain ⟨runs, queue, -, -, -, -, started, ended, serves, -⟩ := h
  have running : ((s.core c).engine e).running = some r := by
    rw [Engine.running, queue]
    exact List.find?_cons_of_pos (by rw [started, ended]; rfl)
  have turns : (r.consumers.all fun x => s.claimTurn c e (x.1, x.2, true)) = true := List.all_eq_true.mpr turn
  rw [iterateEngine, State.iterable, runs, running]
  simp only [serves, turns]
  cases (Job.mk s r).iterate <;> rfl

/-- A record put back in its queue has moved on, and nothing else has. -/
theorem iterated_putRec {u : State} {y : Rec} {also : Rec → Prop} (h : recordRuns c e op r rest s)
    (hq : ((u.core c).engine e).queue = r :: rest) (hy : r.ranOn y) (ha : also y) :
    iterated c e r rest y.upc y.count y.ended also u (u.putRec y) := by
  obtain ⟨-, -, -, -, -, -, started, -⟩ := id h
  have put := putRec_head (heads_of_recordRuns h) hq (y := y) (by rw [hy]) (by rw [hy]) (by rw [hy])
  have run : y.started = true := by rw [hy]; exact started
  have num : y.num = r.num := by rw [hy]
  rw [put]
  refine ⟨⟨⟨y, ?_, num, run, rfl, rfl, rfl, ha⟩, fun f hf => ?_, fun d hd => ?_⟩, rfl, fun d => ?_⟩
  · rw [State.core_setCore_self, Core.queued, Core.engine_setEngine_self]
  · rw [State.core_setCore_self, Core.queued, Core.engine_setEngine_ne _ _ hf]
  · rw [State.core_setCore_ne _ _ hd]
  · by_cases hd : d = c
    · subst hd
      rw [State.core_setCore_self]
      rfl
    · rw [State.core_setCore_ne _ _ hd]

theorem engineWrote_queue (h : recordRuns c e op r rest s) {u : State} (hw : engineWrote s u) :
    ((u.core c).engine e).queue = r :: rest := by
  obtain ⟨-, queue, -⟩ := h
  rw [hw.2 c]
  exact queue

section
variable {also : Rec → Prop} {u : State} {next : List Nat} {count : Nat} {stops : Bool} {y : Job}

/-- A step of a record that may claim a ring, in its turn. -/
theorem does_turn (h : recordRuns c e op r rest s) (turn : ∀ x, x ∈ r.consumers → s.claimTurn c e (x.1, x.2, true) = true)
    (hy : (Job.mk s r).iterate = some y) (hq : ((u.core c).engine e).queue = r :: rest) (hr : r.ranOn y.r) (ha : also y.r)
    (hu : y.s = u) (hn : y.r.upc = next) (hc : y.r.count = count) (he : y.r.ended = stops) :
    does (.engineIteration c e) s fun _ t => iterated c e r rest next count stops also u t := by
  subst hu hn hc he
  refine ⟨_, rfl, ?_⟩
  rw [iterateEngine_turn h turn, hy]
  exact iterated_putRec h hq hr ha

theorem does_turn_held (h : recordRuns c e op r rest s) (turn : ∀ x, x ∈ r.consumers → s.claimTurn c e (x.1, x.2, true) = true)
    (hy : (Job.mk s r).iterate = none) : does (.engineIteration c e) s same := by
  refine ⟨_, rfl, ?_⟩
  rw [iterateEngine_turn h turn, hy]
  rfl

end

section
variable (h : recordRuns c e op r rest s) (hop : op ≠ .nstrm)
include h hop

theorem no_consumers : ∀ x, x ∈ r.consumers → s.claimTurn c e (x.1, x.2, true) = true := by
  obtain ⟨-, -, -, -, -, hr, -⟩ := h
  intro x hx
  rw [Rec.consumers] at hx
  split at hx
  · rename_i hn
    exact absurd (hr.symm.trans hn) hop
  · cases hx

section
variable {also : Rec → Prop} {u : State} {next : List Nat} {count : Nat} {stops : Bool} {y : Job}

/-- A step that leaves the queue of its engine. -/
theorem does_step (hy : (Job.mk s r).iterate = some y) (hq : ((u.core c).engine e).queue = r :: rest) (hr : r.ranOn y.r) (ha : also y.r)
    (hu : y.s = u) (hn : y.r.upc = next) (hc : y.r.count = count) (he : y.r.ended = stops) :
    does (.engineIteration c e) s fun _ t => iterated c e r rest next count stops also u t :=
  does_turn h (no_consumers h hop) hy hq hr ha hu hn hc he

/-- A step that writes as engines do. -/
theorem does_iterate (hy : (Job.mk s r).iterate = some y) (hw : engineWrote s y.s) (hr : r.ranOn y.r) (ha : also y.r) (hu : y.s = u)
    (hn : y.r.upc = next) (hc : y.r.count = count) (he : y.r.ended = stops) :
    does (.engineIteration c e) s fun _ t => iterated c e r rest next count stops also u t :=
  does_step h hop hy (engineWrote_queue h (hu ▸ hw)) hr ha hu hn hc he

end

/-- A record that cannot step is held. -/
theorem does_held (hy : (Job.mk s r).iterate = none) : does (.engineIteration c e) s same := does_turn_held h (no_consumers h hop) hy

end

end

/-! ## CHAIN (R161, R366) -/

theorem chainIterations_hold : chainIterations := by
  intro c e r rest s
  refine ⟨fun queue started ended idle => ?_, fun h => ?_, fun y runs queue ey order core eng op started ended => ?_⟩
  · have running : ((s.core c).engine e).running = some r := by
      rw [Engine.running, queue]
      exact List.find?_cons_of_pos (by rw [started, ended]; rfl)
    refine ⟨_, rfl, ?_⟩
    rw [iterateEngine, State.iterable, running]
    cases s.enginesRun c <;> simp only [idle, Bool.not_false, Bool.not_true, Bool.true_or, Bool.false_eq_true, if_true, if_false] <;> rfl
  · obtain ⟨-, queue, order, core, eng, op, -, -, -, poison⟩ := id h
    have first : (((s.core r.core).engine r.eng).queue.any fun y => decide (y.num < r.num)) = false := by
      rw [core, eng, queue, List.any_eq_false]
      intro y hy
      rcases List.mem_cons.mp hy with rfl | hy
      · simp
      · have := order y hy
        simp only [decide_eq_true_eq]
        omega
    have step : (Job.mk s r).iterate = some ⟨s, { r with ended := true, count := r.val auxChain }⟩ := by
      simp only [Job.iterate, op, first, Bool.false_eq_true, if_false]
    exact does_iterate h (by decide) step (engineWrote_refl poison) rfl trivial rfl rfl rfl rfl
  · have running : ((s.core c).engine e).running = if y.started && !y.ended then some y else some r := by
      rw [Engine.running, queue, List.find?_cons, ey, Bool.not_true, Bool.and_false]
      exact List.find?_cons_of_pos (by rw [started, ended]; rfl)
    rw [ey, Bool.not_true, Bool.and_false, if_neg Bool.false_ne_true] at running
    have waits : (((s.core r.core).engine r.eng).queue.any fun y => decide (y.num < r.num)) = true := by
      rw [core, eng, queue]
      exact List.any_eq_true.mpr ⟨y, List.mem_cons_self, decide_eq_true order⟩
    have step : (Job.mk s r).iterate = none := by
      simp only [Job.iterate, op, waits, if_true]
    refine ⟨_, rfl, ?_⟩
    rw [iterateEngine, State.iterable, runs, running]
    simp only [Bool.not_true, Bool.false_eq_true, if_false, step, Option.map_none]
    split <;> rfl

end Sys2Proof.Machine
end

section
/-! An iteration of the copy engines: CFILL and CPY (R353 to R357). -/

open Sys2Proof Sys2Proof.Machine Sys2Proof.Claims

namespace Sys2Proof.Machine

/-! ## Running values -/

theorem Rec.val_setVal_self (r : Rec) (k v : Nat) : (r.setVal k v).val k = v := mapGet_mapPut_self _ _ _ _
theorem Rec.val_setVal_ne (r : Rec) {k i : Nat} (v : Nat) (h : i ≠ k) : (r.setVal k v).val i = r.val i := mapGet_mapPut_ne _ _ _ h

/-! ## CFILL (R357) -/

section
variable {s : State} {c e : Nat} {r : Rec} {rest : List Rec}

/-- A record at the micro-PC after `upc`, or ended where there is none. -/
def Rec.movesTo (r : Rec) (next : Option (List Nat)) : Rec :=
  match next with
  | some ix => { r with upc := ix }
  | none => { r with ended := true }

theorem Rec.movesTo_eq (r : Rec) (next : Option (List Nat)) (h : r.ended = false) :
    r.movesTo next = { r with upc := next.getD r.upc, ended := next.isNone } := by
  cases next
  · rfl
  · rw [Rec.movesTo, Option.isNone_some, ← h]
    rfl

theorem cfillStep_eq {dh : Handle} (hb : r.bind (bodyAt r.body 17 1) = some dh) :
    ∃ w f, (Job.mk s r).cfillStep =
      ⟨elemsPut r [(dh, (copyUnitAt r.body true r.upc).map fun y => (y, bodyAt r.body 24 8 % 2 ^ tyBits dh.desc.fmt))] s,
        ({ r with wrote := w, flags := f, count := r.count + 1 } : Rec).movesTo (nextIndex (copyTrips r.body) r.upc)⟩ := by
  obtain ⟨w, f, deliver⟩ := (Job.mk s r).deliver_eq dh ((copyUnitAt r.body true r.upc).map fun y => (y, fillBits r.body dh.desc.fmt))
    fun y => if (copyCoords r.body true nestOf).any (fun z => dh.abs z == y) then some (fillBits r.body dh.desc.fmt) else none
  obtain ⟨f', status⟩ := Rec.delivered_eq { r with wrote := w, flags := f } dh.desc.fmt (fillBits r.body dh.desc.fmt) 0
  simp only [Job.cfillStep, hb, deliver, status]
  cases nextIndex (copyTrips r.body) r.upc <;> exact ⟨w, f', rfl⟩

end

/-! ## CPY (R354 to R356) -/

theorem scaleCoords_length (ty : Ty) (x : List Nat) : (scaleCoords ty x).length = scalesPerBlock ty := by
  rw [scaleCoords, List.length_map, upTo, List.length_range]

/-- The parts of equal length that a list was made of. -/
theorem zipIdx_parts {α β γ : Type} (f : α → List β) (n : Nat) (hn : ∀ x, (f x).length = n) (g : α → List β → γ) (xs : List α) (k : Nat)
    (pre : List β) (hp : pre.length = n * k) :
    (xs.zipIdx k).map (fun p => g p.1 (((pre ++ xs.flatMap f).drop (n * p.2)).take n)) = xs.map fun x => g x (f x) := by
  induction xs generalizing k pre with
  | nil => rfl
  | cons x xs ih =>
    have part : ((pre ++ (f x ++ xs.flatMap f)).drop (n * k)).take n = f x := by
      rw [← hp, List.drop_left, ← hn x, List.take_left]
    have next := ih (k + 1) (pre ++ f x) (by rw [List.length_append, hp, hn, Nat.mul_add, Nat.mul_one])
    rw [List.zipIdx_cons, List.map_cons, List.map_cons, List.flatMap_cons, part, ← List.append_assoc, next]

section
variable {s : State} {r : Rec} {sh : Handle}

/-- The scales of an element of a record's operand. -/
def scalesIn (r : Rec) (s : State) (h : Handle) (x : List Nat) : List Nat :=
  match r.scaleOf h with
  | some k => (scaleCoords h.desc.fmt x).map (elemIn r s k)
  | none => []

theorem scale_parts {k : Handle} {α : Type} (g : α → List Nat) (bits : α → Nat) (xs : List α) (cs : α → List Nat)
    (hg : ∀ x, g x = (scaleCoords sh.desc.fmt (cs x)).map (elemIn r s k)) :
    (xs.map bits).zipIdx.map (fun p => (p.1, elemValue sh.desc.fmt
        ((((xs.map cs).flatMap (scaleCoords sh.desc.fmt)).map (elemIn r s k)).drop (scalesPerBlock sh.desc.fmt * p.2)
          |>.take (scalesPerBlock sh.desc.fmt)) p.1)) = xs.map fun x => (bits x, elemValue sh.desc.fmt (g x) (bits x)) := by
  have parts := zipIdx_parts (fun x => (scaleCoords sh.desc.fmt (cs x)).map (elemIn r s k)) (scalesPerBlock sh.desc.fmt)
    (fun x => by rw [List.length_map, scaleCoords_length]) (fun x l => (bits x, elemValue sh.desc.fmt l (bits x))) xs 0 [] rfl
  rw [List.nil_append] at parts
  simp only [hg, ← parts, List.zipIdx_map, List.map_map, List.flatMap_map, List.map_flatMap]
  rfl

/-- Values read through a handle, scales applied (R200). -/
theorem Job.readValues_clean (hp : s.poison = []) (h6 : sh.desc.space ≠ 6) (hk : ∀ x, r.scaleOf sh = some x → x.desc.space ≠ 6)
    (xs : List (List Nat)) : (Job.mk s r).readValues sh xs =
      (xs.map fun x => (elemIn r s sh x, elemValue sh.desc.fmt (scalesIn r s sh x) (elemIn r s sh x)), ⟨s, r⟩) := by
  rw [Job.readValues, Job.read_clean (x := ⟨s, r⟩) hp h6]
  cases hs : r.scaleOf sh with
  | none => simp only [hs, scalesIn, List.map_map]; rfl
  | some k =>
    simp only [Job.read_clean (x := ⟨s, r⟩) hp (hk k hs)]
    have parts := scale_parts (s := s) (r := r) (sh := sh) (k := k) (scalesIn r s sh) (elemIn r s sh) xs id
      (fun x => by rw [scalesIn, hs]; rfl)
    rw [List.map_id] at parts
    rw [parts]

theorem Job.frameBytes_clean (hp : s.poison = []) (h : Handle) (f : Nat) : ((Job.mk s r).frameBytes h f).2 = ⟨s, r⟩ := by
  have read : ∀ off n, ((Job.mk s r).readBytes h off n).2 = ⟨s, r⟩ := fun off n => Job.readBytes_clean (x := ⟨s, r⟩) hp off n
  unfold Job.frameBytes
  dsimp only
  split
  · exact read _ _
  · rw [read, read]

theorem Job.expand_clean (hp : s.poison = []) (h : Handle) (fs : List Nat) : ((Job.mk s r).expand h fs).2 = ⟨s, r⟩ := by
  unfold Job.expand
  generalize ([] : Map (List Byte)) = m
  induction fs generalizing m with
  | nil => rfl
  | cons f fs ih =>
    rw [List.foldl_cons]
    have frame : ((Job.mk s r).frame h f).2 = ⟨s, r⟩ := Job.frameBytes_clean hp h f
    dsimp only
    rw [frame]
    exact ih _

/-- Values read through a compressed source (R148). -/
theorem Job.readExpanded_clean (hp : s.poison = []) (hk : ∀ x, r.scaleOf sh = some x → x.desc.space ≠ 6) (xs : List (List Nat)) :
    let frames := ((Job.mk s r).expand sh ((xs.map sh.abs).flatMap sh.desc.elemFrames).eraseDups).1
    let bits := fun x => sh.desc.expandedElem frames (sh.abs x)
    (Job.mk s r).readExpanded sh xs = (xs.map fun x => (bits x, elemValue sh.desc.fmt (scalesIn r s sh x) (bits x)), ⟨s, r⟩) := by
  intro frames bits
  rw [Job.readExpanded]
  dsimp only
  rw [Job.expand_clean hp]
  cases hs : r.scaleOf sh with
  | none => simp only [hs, scalesIn, List.map_map]; rfl
  | some k =>
    simp only [Job.read_clean (x := ⟨s, r⟩) hp (hk k hs)]
    have parts := scale_parts (s := s) (r := r) (sh := sh) (k := k) (scalesIn r s sh) bits xs id
      (fun x => by rw [scalesIn, hs]; rfl)
    rw [List.map_id] at parts
    rw [← parts, List.map_map]
    rfl

end

/-! ## A unit of a CPY (R150, R355) -/

/-- A CRC of whole elements of `w` bits. -/
def crcOf (w : Nat) (vs : List Nat) (a : Nat) : Nat := vs.foldl (fun a v => crc32c a (leBytes (w / 8) v)) a

/-- What elements that enter the expanded CRC change of their record: the CRC and what waits for a whole byte, which nothing does
where the elements are whole bytes. -/
theorem crcElems (w : Nat) (vs : List Nat) (r : Rec) : ∃ aux, vs.foldl (fun r v => r.crcElem w v) r = { r with aux := aux } ∧
    (∀ k, k ≠ auxXcrc → k ≠ auxXbits → k ≠ auxXlen → mapGet aux k 0 = r.val k) ∧
    (w % 8 = 0 → r.val auxXlen = 0 → r.val auxXbits = 0 → mapGet aux auxXlen 0 = 0 ∧ mapGet aux auxXcrc 0 = crcOf w vs (r.val auxXcrc)) := by
  induction vs generalizing r with
  | nil => exact ⟨r.aux, rfl, fun _ _ _ _ => rfl, fun _ hl _ => ⟨hl, rfl⟩⟩
  | cons v vs ih =>
    have others : ∀ k, k ≠ auxXcrc → k ≠ auxXbits → k ≠ auxXlen → (r.crcElem w v).val k = r.val k := fun k hc hb hl => by
      rw [Rec.crcElem, Rec.val_setVal_ne _ _ hl, Rec.val_setVal_ne _ _ hb, Rec.val_setVal_ne _ _ hc]
    obtain ⟨aux, fold, kept, whole⟩ := ih (r.crcElem w v)
    refine ⟨aux, by rw [List.foldl_cons, fold]; rfl, fun k hc hb hl => (kept k hc hb hl).trans (others k hc hb hl), fun hw hl hb => ?_⟩
    have bytes : 8 * (w / 8) = w := Nat.mul_div_cancel' (Nat.dvd_of_mod_eq_zero hw)
    have len : (r.crcElem w v).val auxXlen = 0 := by
      rw [Rec.crcElem, Rec.val_setVal_self, hl, Nat.zero_add, hw]
    have bits : (r.crcElem w v).val auxXbits = 0 := by
      rw [Rec.crcElem, Rec.val_setVal_ne _ _ (by decide), Rec.val_setVal_self, hl, hb, Nat.zero_add, Nat.zero_add, Nat.pow_zero, Nat.mul_one, bytes]
      exact Nat.div_eq_of_lt (Nat.mod_lt _ (Nat.two_pow_pos w))
    have crc : (r.crcElem w v).val auxXcrc = crc32c (r.val auxXcrc) (leBytes (w / 8) v) := by
      rw [Rec.crcElem, Rec.val_setVal_ne _ _ (by decide), Rec.val_setVal_ne _ _ (by decide), Rec.val_setVal_self, hl, hb, Nat.zero_add,
        Nat.zero_add, Nat.pow_zero, Nat.mul_one, ← leBytes_mod (w / 8) v, bytes]
    obtain ⟨len', crc'⟩ := whole hw len bits
    exact ⟨len', by rw [crc', crc]; rfl⟩

section
variable {s : State} {r : Rec} {sh dh : Handle}

/-- The bits of an element of a source, expanded where it is compressed (R148, R355). -/
def sourceBits (r : Rec) (s : State) (sh : Handle) (xs : List (List Nat)) (x : List Nat) : Nat :=
  if sh.desc.codec = 0 then elemIn r s sh x
  else sh.desc.expandedElem (((⟨s, r⟩ : Job).expand sh ((xs.map sh.abs).flatMap sh.desc.elemFrames).eraseDups).1) (sh.abs x)

/-- The value of an element of a source. -/
def sourceValue (r : Rec) (s : State) (sh : Handle) (xs : List (List Nat)) (x : List Nat) : Machine.Num :=
  elemValue sh.desc.fmt (scalesIn r s sh x) (sourceBits r s sh xs x)

/-- The blocks that a unit becomes in a block format. -/
def copiedBlocks (r : Rec) (s : State) (sh dh : Handle) : Unit32 :=
  let xs := copyUnitAt r.body false r.upc
  quantUnit dh.desc.fmt 128 ((copyUnitAt r.body true r.upc).zip (xs.map (sourceValue r s sh xs)))

/-- The elements that a unit delivers. -/
def copiedElems (r : Rec) (s : State) (sh dh : Handle) : List (List Nat × Nat) :=
  let xs := copyUnitAt r.body false r.upc
  if isBlockTy dh.desc.fmt then (copiedBlocks r s sh dh).elems
  else (copyUnitAt r.body true r.upc).zip (xs.map fun x =>
    (engineConvert sh.desc.fmt dh.desc.fmt (copyRm r.body) (copySat r.body) (sourceBits r s sh xs x) (sourceValue r s sh xs x)).1)

/-- What a unit puts: the scales first. -/
def copiedPuts (r : Rec) (s : State) (sh dh : Handle) : List (Handle × List (List Nat × Nat)) :=
  (match r.scaleOf dh with
   | some k => [(k, if isBlockTy dh.desc.fmt then (copiedBlocks r s sh dh).scales else [])]
   | none => []) ++ [(dh, copiedElems r s sh dh)]

/-- The codes that enter the expanded CRC: those that are stored. -/
def copiedCodes (r : Rec) (s : State) (sh dh : Handle) : List Nat :=
  ((copiedElems r s sh dh).filter fun y => dh.stores (r.through dh y.1)).map fun y => y.2

section
variable (hp : s.poison = []) (h6 : sh.desc.space ≠ 6) (hk : ∀ x, r.scaleOf sh = some x → x.desc.space ≠ 6)
include hp h6 hk

/-- A unit read and converted (R355). -/
theorem cpyDelivers_clean : ∃ stats, (Job.mk s r).cpyDelivers sh dh r.upc =
    (⟨copiedElems r s sh dh, if isBlockTy dh.desc.fmt then (copiedBlocks r s sh dh).scales else [], stats⟩, ⟨s, r⟩) := by
  have reads : (if sh.desc.codec ≠ 0 then (Job.mk s r).readExpanded sh (copyUnitAt r.body false r.upc)
      else (Job.mk s r).readValues sh (copyUnitAt r.body false r.upc)) =
      ((copyUnitAt r.body false r.upc).map fun x =>
        (sourceBits r s sh (copyUnitAt r.body false r.upc) x, sourceValue r s sh (copyUnitAt r.body false r.upc) x), ⟨s, r⟩) := by
    by_cases hc : sh.desc.codec = 0
    · rw [if_neg (not_not.mpr hc), Job.readValues_clean hp h6 hk]
      simp only [sourceBits, sourceValue, if_pos hc]
    · rw [if_pos hc, Job.readExpanded_clean hp hk]
      simp only [sourceBits, sourceValue, if_neg hc]
  simp only [Job.cpyDelivers, reads]
  by_cases hb : isBlockTy dh.desc.fmt = true
  · simp only [if_pos hb, copiedElems, List.map_map]
    exact ⟨_, rfl⟩
  · simp only [if_neg hb, copiedElems, List.map_map]
    exact ⟨_, rfl⟩

omit hp h6 hk in
theorem cpyWrite_eq (x : Job) (u : Unit32) (value : List Nat → Option Nat) : ∃ w f, x.cpyWrite dh u value =
    ⟨elemsPut x.r ((match x.r.scaleOf dh with | some k => [(k, u.scales)] | none => []) ++ [(dh, u.elems)]) x.s,
      { x.r with wrote := w, flags := f }⟩ := by
  unfold Job.cpyWrite
  cases hs : x.r.scaleOf dh with
  | none => exact x.deliver_eq dh u.elems value
  | some k =>
    obtain ⟨w, f, first⟩ := x.deliver_eq k u.scales (deliveredIn k u.scales)
    obtain ⟨w', f', second⟩ := (Job.mk (elemsPut x.r [(k, u.scales)] x.s) { x.r with wrote := w, flags := f }).deliver_eq dh u.elems value
    refine ⟨w', f', ?_⟩
    dsimp only
    rw [first, second, elemsPut_append]
    rfl

/-- One unit of a CPY: what it puts, its expanded CRC, and the end after the last (R355). -/
theorem cpyUnit_eq : ∃ w f aux, (Job.mk s r).cpyUnit sh dh =
      (let y : Job := ⟨elemsPut r (copiedPuts r s sh dh) s, { r with wrote := w, flags := f, aux := aux, count := r.count + 1 }⟩
       match nextIndex (copyTrips r.body) r.upc with
       | some ix => { y with r := { y.r with upc := ix } }
       | none => y.cpyEnd) ∧
    (∀ k, k ≠ auxXcrc → k ≠ auxXbits → k ≠ auxXlen → mapGet aux k 0 = r.val k) ∧
    (copyXcrc r.body = true → tyBits dh.desc.fmt % 8 = 0 → r.val auxXlen = 0 → r.val auxXbits = 0 → mapGet aux auxXlen 0 = 0 ∧
      mapGet aux auxXcrc 0 = crcOf (tyBits dh.desc.fmt) (copiedCodes r s sh dh) (r.val auxXcrc)) := by
  obtain ⟨stats, unit⟩ := cpyDelivers_clean (dh := dh) hp h6 hk
  obtain ⟨f, flags⟩ := foldl_flags (g := fun r (p : Nat × Nat) =>
      if isBlockTy dh.desc.fmt then r.mark p.1 else r.delivered dh.desc.fmt p.1 p.2)
    (fun r p => by split; exacts [⟨_, rfl⟩, r.delivered_eq _ _ _]) stats r
  obtain ⟨aux, crc, kept, whole⟩ := crcElems (tyBits dh.desc.fmt) (copiedCodes r s sh dh) { r with flags := f }
  have taken : (if copyXcrc r.body = true then
      ((copiedElems r s sh dh).filter fun y => dh.stores (r.through dh y.1)).foldl (fun r y => r.crcElem (tyBits dh.desc.fmt) y.2)
        { r with flags := f } else { r with flags := f }) = { r with flags := f, aux := if copyXcrc r.body = true then aux else r.aux } := by
    rw [copiedCodes, List.foldl_map] at crc
    split
    · exact crc
    · rfl
  have through : ∀ x, Rec.through { r with flags := f } dh x = r.through dh x := fun x => rfl
  have write := cpyWrite_eq (dh := dh) ⟨s, { r with flags := f, aux := if copyXcrc r.body = true then aux else r.aux }⟩
    ⟨copiedElems r s sh dh, if isBlockTy dh.desc.fmt then (copiedBlocks r s sh dh).scales else [], stats⟩ ((Job.mk s r).cpyValue sh dh)
  obtain ⟨w, f', write⟩ := write
  refine ⟨w, f', if copyXcrc r.body = true then aux else r.aux, ?_, fun k hc hb hl => ?_, fun hx hw hl hb => ?_⟩
  · simp only [Job.cpyUnit, unit, flags, through, taken, write]
    rfl
  · split
    · exact kept k hc hb hl
    · rfl
  · rw [if_pos hx]
    exact whole hw hl hb

end

end

/-! ## The end of a CPY and its check (R150, R342, R356) -/

section
variable {s : State} {r : Rec} {sh dh : Handle}

theorem cpyEnd_plain (hr : copyRes r.body = none) : ∃ aux, (Job.mk s r).cpyEnd = ⟨s, { r with aux := aux, ended := true }⟩ := by
  unfold Job.cpyEnd
  split
  · refine ⟨((r.setVal auxXcrc (crc32c (r.val auxXcrc) (leBytes 1 (r.val auxXbits)))).setVal auxXlen 0).aux, ?_⟩
    simp only [Job.resultBlock, Rec.setVal, hr]
  · exact ⟨r.aux, by simp only [Job.resultBlock, hr]⟩

/-- The result block that a CPY leaves at offset `off`, with its expanded CRC (R342). -/
def resultBytes (r : Rec) (crc : Nat) : List Byte :=
  leBytes 4 (r.val auxCcrc) ++ leBytes 4 crc ++ leBytes 4 (r.val auxDecode) ++ leBytes 4 (r.val auxPoison) ++ leBytes 12 0

theorem cpyEnd_result {off : Nat} (hr : copyRes r.body = some off) (hl : copyXcrc r.body = true → r.val auxXlen = 0) :
    (Job.mk s r).cpyEnd = ⟨s.engineWrite r.core [(.store r.core 2 (off + 4),
      resultBytes r (if copyXcrc r.body = true then r.val auxXcrc else 0))], { r with ended := true }⟩ := by
  have whole : ¬ (copyXcrc r.body && decide (r.val auxXlen ≠ 0)) = true := fun h => by
    rw [Bool.and_eq_true, decide_eq_true_eq] at h
    exact h.2 (hl h.1)
  simp only [Job.cpyEnd, if_neg whole, Job.resultBlock, hr]
  rfl

/-- The step before the first unit: the frames read, and nothing else done (R356). -/
theorem cpyCheck_eq (hp : s.poison = []) (hc : copyCchk r.body = false) :
    ∃ f aux, (Job.mk s r).cpyCheck sh = ⟨s, { r with flags := f, aux := aux }⟩ ∧ mapGet aux auxSkip 0 = 1 := by
  unfold Job.cpyCheck
  dsimp only
  generalize hF : List.foldl _ _ _ = F
  have job : F.2.2 = ⟨s, r⟩ := by
    rw [← hF]
    refine List.foldlRecOn (motive := fun a : Nat × Nat × Job => a.2.2 = ⟨s, r⟩) _ _ rfl fun a ha f _ => ?_
    dsimp only
    rw [ha]
    exact Job.frameBytes_clean hp sh f
  rw [job]
  have body : ((((⟨s, r⟩ : Job).r.setVal auxCcrc F.1).setVal auxDecode F.2.1).setVal auxSkip 1).body = r.body := rfl
  simp only [body, hc, Bool.false_and, Bool.false_eq_true, if_false]
  obtain ⟨f, hf⟩ := Rec.markIf_eq (((r.setVal auxCcrc F.1).setVal auxDecode F.2.1).setVal auxSkip 1) (decide (F.2.1 ≠ 0)) wDECODE
  exact ⟨f, _, congrArg (Job.mk s) hf, Rec.val_setVal_self _ _ _⟩

/-- The nest of a CPY has an iteration. -/
theorem copyTrips_pos (b : BitVec 384) : 0 < (copyTrips b).foldl (fun a t => a * t) 1 := by
  have trips : ∀ t, t ∈ copyTrips b → 0 < t := fun t ht => by
    rw [copyTrips, copyLevels, List.map_map] at ht
    obtain ⟨l, -, rfl⟩ := List.mem_map.mp ht
    exact Nat.succ_pos _
  have all : ∀ (l : List Nat) (a : Nat), (∀ t, t ∈ l → 0 < t) → 0 < a → 0 < l.foldl (fun a t => a * t) a := fun l => by
    induction l with
    | nil => exact fun a _ ha => ha
    | cons t l ih => exact fun a hl ha => ih _ (fun t ht => hl t (List.mem_cons_of_mem _ ht)) (Nat.mul_pos ha (hl t List.mem_cons_self))
  exact all _ 1 trips Nat.one_pos

/-- A CPY stops after a unit that ends it, and where the next unit starts in another frame (R219). -/
theorem cpyUnits_one {n : Nat} (hn : 0 < n) (x : Job) (hs : (x.cpyUnit sh dh).r.ended = true ∨ sh.desc.codec = 0 ∨
    (unitFrames x.r.body sh x.r.upc).getLast? ≠ (unitFrames x.r.body sh (x.cpyUnit sh dh).r.upc).head?) :
    Job.cpyUnits sh dh n x = x.cpyUnit sh dh := by
  obtain ⟨n, rfl⟩ := Nat.exists_eq_succ_of_ne_zero (Nat.ne_of_gt hn)
  rw [Job.cpyUnits]
  refine if_pos ?_
  simp only [Bool.or_eq_true, beq_iff_eq, bne_iff_ne]
  exact or_assoc.mpr hs

section
variable {c e : Nat} {rest : List Rec} (h : recordRuns c e .cpy r rest s) (hs : r.bind (bodyAt r.body 16 1) = some sh)
  (hd : r.bind (bodyAt r.body 17 1) = some dh)
include h hs hd

theorem iterate_cpy : (Job.mk s r).iterate = some (
    if ((sh.desc.codec != 0 || copyCchk r.body) && decide (r.val auxSkip = 0)) = true then (Job.mk s r).cpyCheck sh
    else Job.cpyUnits sh dh ((copyTrips r.body).foldl (fun a t => a * t) 1) ⟨s, r⟩) := by
  obtain ⟨-, -, -, -, -, hop, -⟩ := h
  simp only [Job.iterate, hop, Job.cpyStep, hs, hd]

theorem does_cpyCheck (hc : sh.desc.codec ≠ 0) (hk : r.val auxSkip = 0) (hcc : copyCchk r.body = false) :
    does (.engineIteration c e) s fun _ t => iterated c e r rest r.upc r.count false (fun r' => r'.val auxSkip = 1) s t := by
  obtain ⟨-, -, -, -, -, -, -, ended, -, poison⟩ := id h
  obtain ⟨f, aux, check, skip⟩ := cpyCheck_eq (s := s) (sh := sh) poison hcc
  have iter := iterate_cpy h hs hd
  rw [hk, bne_iff_ne.mpr hc, Bool.true_or, Bool.true_and, decide_eq_true rfl, if_pos rfl, check] at iter
  exact does_iterate h (by decide) iter (engineWrote_refl poison) rfl skip rfl rfl rfl ended

section
variable (h6 : sh.desc.space ≠ 6) (hks : ∀ x, r.scaleOf sh = some x → x.desc.space ≠ 6)
  (hc : ¬ (sh.desc.codec ≠ 0 ∨ copyCchk r.body = true) ∨ r.val auxSkip ≠ 0)
  (hf : sh.desc.codec ≠ 0 → ∀ ix, nextIndex (copyTrips r.body) r.upc = some ix →
    (unitFrames r.body sh r.upc).getLast? ≠ (unitFrames r.body sh ix).head?)
include h6 hks hc hf

/-- A step past the check is one unit (R219, R355). -/
theorem iterate_cpyUnit : (Job.mk s r).iterate = some ((Job.mk s r).cpyUnit sh dh) := by
  obtain ⟨-, -, -, -, -, -, -, -, -, poison⟩ := id h
  have guard : ¬ ((sh.desc.codec != 0 || copyCchk r.body) && decide (r.val auxSkip = 0)) = true := fun g => by
    rw [Bool.and_eq_true, Bool.or_eq_true, bne_iff_ne, decide_eq_true_eq] at g
    exact hc.elim (fun n => n g.1) fun n => n g.2
  rw [iterate_cpy h hs hd, if_neg guard]
  refine congrArg some (cpyUnits_one (copyTrips_pos r.body) _ ?_)
  obtain ⟨w, f, aux, unit, -⟩ := cpyUnit_eq (dh := dh) poison h6 hks
  rw [unit]
  cases hn : nextIndex (copyTrips r.body) r.upc with
  | none => exact .inl rfl
  | some ix =>
    by_cases codec : sh.desc.codec = 0
    · exact .inr (.inl codec)
    · exact .inr (.inr (hf codec ix hn))

/-- A unit that is not the last, or that leaves no result block (R355). -/
theorem does_cpyUnit (hr : nextIndex (copyTrips r.body) r.upc ≠ none ∨ copyRes r.body = none) :
    does (.engineIteration c e) s fun _ t => iterated c e r rest ((nextIndex (copyTrips r.body) r.upc).getD r.upc) (r.count + 1)
      (nextIndex (copyTrips r.body) r.upc).isNone (fun _ => True) (elemsPut r (copiedPuts r s sh dh) s) t := by
  obtain ⟨-, -, -, -, -, -, -, ended, -, poison⟩ := id h
  obtain ⟨w, f, aux, unit, -⟩ := cpyUnit_eq (dh := dh) poison h6 hks
  have iter := iterate_cpyUnit h hs hd h6 hks hc hf
  have wrote := engineWrote_elemsPut r poison (copiedPuts r s sh dh)
  rw [unit] at iter
  cases hn : nextIndex (copyTrips r.body) r.upc with
  | some ix =>
    simp only [hn] at iter
    exact does_iterate h (by decide) iter wrote rfl trivial rfl rfl rfl ended
  | none =>
    obtain ⟨aux', end_⟩ := cpyEnd_plain (s := elemsPut r (copiedPuts r s sh dh) s)
      (r := { r with wrote := w, flags := f, aux := aux, count := r.count + 1 }) (hr.resolve_left fun n => n hn)
    simp only [hn, end_] at iter
    exact does_iterate h (by decide) iter wrote rfl trivial rfl rfl rfl rfl

/-- The last unit leaves the result block (R342). -/
theorem does_cpyLast {off : Nat} (hn : nextIndex (copyTrips r.body) r.upc = none) (hr : copyRes r.body = some off)
    (hx : copyXcrc r.body = true → tyBits dh.desc.fmt % 8 = 0 ∧ r.val auxXlen = 0 ∧ r.val auxXbits = 0) :
    does (.engineIteration c e) s fun _ t => iterated c e r rest r.upc (r.count + 1) true (fun _ => True)
      ((elemsPut r (copiedPuts r s sh dh) s).engineWrite c [(.store c 2 (off + 4), resultBytes r
        (if copyXcrc r.body = true then crcOf (tyBits dh.desc.fmt) (copiedCodes r s sh dh) (r.val auxXcrc) else 0))]) t := by
  obtain ⟨-, -, -, core, -, -, -, -, -, poison⟩ := id h
  obtain ⟨w, f, aux, unit, kept, whole⟩ := cpyUnit_eq (dh := dh) poison h6 hks
  have iter := iterate_cpyUnit h hs hd h6 hks hc hf
  have wrote := engineWrote_elemsPut r poison (copiedPuts r s sh dh)
  have end_ := cpyEnd_result (s := elemsPut r (copiedPuts r s sh dh) s)
    (r := { r with wrote := w, flags := f, aux := aux, count := r.count + 1 }) hr
    fun hx' => by obtain ⟨w8, len, bits0⟩ := hx hx'; exact (whole hx' w8 len bits0).1
  rw [unit] at iter
  simp only [hn, end_] at iter
  have bytes : resultBytes { r with wrote := w, flags := f, aux := aux, count := r.count + 1 }
      (if copyXcrc r.body = true then mapGet aux auxXcrc 0 else 0) = resultBytes r
        (if copyXcrc r.body = true then crcOf (tyBits dh.desc.fmt) (copiedCodes r s sh dh) (r.val auxXcrc) else 0) := by
    have crc : (if copyXcrc r.body = true then mapGet aux auxXcrc 0 else 0) =
        if copyXcrc r.body = true then crcOf (tyBits dh.desc.fmt) (copiedCodes r s sh dh) (r.val auxXcrc) else 0 := by
      by_cases hx' : copyXcrc r.body = true
      · obtain ⟨w8, len, bits0⟩ := hx hx'
        rw [if_pos hx', if_pos hx', (whole hx' w8 len bits0).2]
      · rw [if_neg hx', if_neg hx']
    rw [crc]
    simp only [resultBytes, Rec.val] at kept ⊢
    rw [kept auxCcrc (by decide) (by decide) (by decide), kept auxDecode (by decide) (by decide) (by decide),
      kept auxPoison (by decide) (by decide) (by decide)]
  refine does_iterate h (by decide) iter (engineWrote_trans wrote (engineWrote_engineWrite wrote.1 _ _)) rfl trivial ?_ rfl rfl rfl
  rw [← bytes, ← core]
  rfl

end

end

end

theorem does_cfill {s : State} {r : Rec} {rest : List Rec} {c e : Nat} {dh : Handle} (h : recordRuns c e .cfill r rest s)
    (hb : r.bind (bodyAt r.body 17 1) = some dh) :
    does (.engineIteration c e) s fun _ t => iterated c e r rest ((nextIndex (copyTrips r.body) r.upc).getD r.upc) (r.count + 1)
      (nextIndex (copyTrips r.body) r.upc).isNone (fun _ => True)
      (elemsPut r [(dh, (copyUnitAt r.body true r.upc).map fun y => (y, bodyAt r.body 24 8 % 2 ^ tyBits dh.desc.fmt))] s) t := by
  obtain ⟨-, -, -, -, -, hop, -, ended, -, poison⟩ := id h
  obtain ⟨w, f, step⟩ := cfillStep_eq (s := s) hb
  have iter : (Job.mk s r).iterate = some (Job.mk s r).cfillStep := by simp only [Job.iterate, hop]
  rw [step, Rec.movesTo_eq { r with wrote := w, flags := f, count := r.count + 1 } _ ended] at iter
  exact does_iterate h (by decide) iter (engineWrote_elemsPut r poison _) rfl trivial rfl rfl rfl rfl

theorem copyIterations_hold : copyIterations := by
  intro c e r rest sh dh s b next done ys
  refine ⟨fun h hb => does_here (does_cfill h hb), ?_⟩
  intro h hs hd h6 checks
  refine ⟨fun hc hk hcc =>
    does_here (does_cpyCheck h hs hd (hc.resolve_right fun k => Bool.false_ne_true (hcc.symm.trans k)) hk hcc), ?_⟩
  intro hc hks hf xs frames bits scales value blocks es scaled crc u
  have puts : u = elemsPut r (copiedPuts r s sh dh) s := rfl
  have codes : crc = if copyXcrc r.body = true then crcOf (tyBits dh.desc.fmt) (copiedCodes r s sh dh) (r.val auxXcrc) else 0 := by
    rw [crcOf, copiedCodes, List.foldl_map]
    rfl
  clear_value u crc
  subst puts codes
  refine ⟨fun hr => does_cpyUnit h hs hd h6 hks hc hf hr, fun off hn hr hx => ?_⟩
  have last := does_cpyLast h hs hd h6 hks hc hf hn hr hx
  have n : next = none := hn
  have moves : done = iterated c e r rest r.upc (r.count + 1) true fun _ => True := by
    change iterated c e r rest (next.getD r.upc) (r.count + 1) next.isNone _ = _
    rw [n]
    rfl
  rw [moves]
  rw [resultBytes] at last
  exact last

end Sys2Proof.Machine
end

section
/-! An iteration of a CPYS: one chunk (R122, R346, R349, R358). -/

open Sys2Proof Sys2Proof.Machine Sys2Proof.Claims

namespace Sys2Proof.Machine

/-! ## Elements packed at places -/

/-- A digit put where there was a zero changes no other digit. -/
theorem bitsAt_add_digit {t w p v : Nat} (hv : v < 2 ^ w) (h0 : bitsAt t (w * p) w = 0) (q : Nat) :
    bitsAt (t + v * 2 ^ (w * p)) (w * q) w = if q = p then v else bitsAt t (w * q) w := by
  unfold bitsAt at *
  rcases Nat.lt_trichotomy q p with hlt | rfl | hgt
  · obtain ⟨d, rfl⟩ := Nat.exists_eq_add_of_lt hlt
    have split : v * 2 ^ (w * (q + d + 1)) = 2 ^ (w * q) * (2 ^ w * (v * 2 ^ (w * d))) := by ring
    rw [if_neg (Nat.ne_of_lt hlt), split, Nat.add_mul_div_left _ _ (Nat.two_pow_pos _), Nat.add_mul_mod_self_left]
  · rw [if_pos rfl, Nat.add_mul_div_right _ _ (Nat.two_pow_pos _), Nat.add_mod, h0, Nat.zero_add, Nat.mod_mod, Nat.mod_eq_of_lt hv]
  · obtain ⟨d, rfl⟩ := Nat.exists_eq_add_of_lt hgt
    have split : 2 ^ (w * (p + d + 1)) = 2 ^ (w * p) * (2 ^ w * 2 ^ (w * d)) := by ring
    obtain ⟨k, hk⟩ := Nat.dvd_of_mod_eq_zero h0
    rw [if_neg (Nat.ne_of_gt hgt), split, ← Nat.div_div_eq_div_mul, ← Nat.div_div_eq_div_mul, ← Nat.div_div_eq_div_mul,
      ← Nat.div_div_eq_div_mul, Nat.add_mul_div_right _ _ (Nat.two_pow_pos _), hk, Nat.mul_add_div (Nat.two_pow_pos _),
      Nat.div_eq_of_lt hv, Nat.mul_div_cancel_left _ (Nat.two_pow_pos _), Nat.add_zero]

/-- What lies above a digit does not change it. -/
theorem bitsAt_add_above (t v w : Nat) {q m : Nat} (h : q < m) : bitsAt (t + v * 2 ^ (w * m)) (w * q) w = bitsAt t (w * q) w := by
  obtain ⟨d, rfl⟩ := Nat.exists_eq_add_of_lt h
  have split : v * 2 ^ (w * (q + d + 1)) = 2 ^ (w * q) * (2 ^ w * (v * 2 ^ (w * d))) := by ring
  unfold bitsAt
  rw [split, Nat.add_mul_div_left _ _ (Nat.two_pow_pos _), Nat.add_mul_mod_self_left]

/-- Elements of `w` bits put at places apart are found there. -/
theorem bitsAt_packed {α : Type} {w : Nat} (place bits : α → Nat) (hb : ∀ a, bits a < 2 ^ w) (l : List α) (hn : (l.map place).Nodup) (t : Nat)
    (h0 : ∀ a, a ∈ l → bitsAt t (w * place a) w = 0) :
    (∀ q, q ∉ l.map place → bitsAt (l.foldl (fun t a => t + bits a * 2 ^ (w * place a)) t) (w * q) w = bitsAt t (w * q) w) ∧
    ∀ a, a ∈ l → bitsAt (l.foldl (fun t a => t + bits a * 2 ^ (w * place a)) t) (w * place a) w = bits a := by
  induction l generalizing t with
  | nil => exact ⟨fun _ _ => rfl, fun a ha => absurd ha List.not_mem_nil⟩
  | cons x l ih =>
    rw [List.map_cons, List.nodup_cons] at hn
    obtain ⟨hx, hl⟩ := hn
    have digit := bitsAt_add_digit (hb x) (h0 x List.mem_cons_self)
    obtain ⟨out, own⟩ := ih hl (t + bits x * 2 ^ (w * place x)) fun a ha => by
      rw [digit, if_neg fun h => hx (List.mem_map.mpr ⟨a, ha, h⟩)]
      exact h0 a (List.mem_cons_of_mem _ ha)
    refine ⟨fun q hq => ?_, fun a ha => ?_⟩
    · rw [List.map_cons, List.mem_cons, not_or] at hq
      rw [List.foldl_cons, out q hq.2, digit, if_neg hq.1]
    · rw [List.foldl_cons]
      rcases List.mem_cons.mp ha with rfl | ha
      · rw [out _ hx, digit, if_pos rfl]
      · exact own a ha

theorem tyBits_pos (ty : Ty) : 0 < tyBits ty := by cases ty <;> decide

theorem negBits_lt (ty : Ty) (v : Nat) : negBits ty v < 2 ^ tyBits ty := by
  have pos := tyBits_pos ty
  have value := Nat.mod_lt v (Nat.two_pow_pos (tyBits ty))
  unfold negBits
  dsimp only
  split
  · exact Nat.mod_lt _ (Nat.two_pow_pos _)
  · exact Nat.xor_lt_two_pow value (Nat.pow_lt_pow_right (by decide) (by omega))
  · exact Nat.xor_lt_two_pow value (Nat.pow_lt_pow_right (by decide) (by omega))

/-- An element has the bits of its type (R143). -/
theorem State.readElem_lt (s : State) (h : Handle) (x : List Nat) : s.readElem h x < 2 ^ tyBits h.desc.fmt := by
  unfold State.readElem
  split
  · exact Nat.two_pow_pos _
  · dsimp only
    split
    · exact negBits_lt _ _
    · exact Nat.mod_lt _ (Nat.two_pow_pos _)

/-! ## The chunk of an iteration -/

/-- Rows and positions of a chunk, each pair once. -/
def gridPlaces (rows pos : Nat) : List (Nat × Nat) := (upTo rows).flatMap fun row => (upTo pos).map fun k => (row, k)

theorem mem_gridPlaces {rows pos : Nat} {p : Nat × Nat} : p ∈ gridPlaces rows pos ↔ p.1 < rows ∧ p.2 < pos := by
  obtain ⟨row, k⟩ := p
  simp only [gridPlaces, upTo, List.mem_flatMap, List.mem_map, List.mem_range, Prod.mk.injEq]
  constructor
  · rintro ⟨_, hr, _, hk, rfl, rfl⟩
    exact ⟨hr, hk⟩
  · rintro ⟨hr, hk⟩
    exact ⟨row, hr, k, hk, rfl, rfl⟩

theorem nodup_gridPlaces (rows pos : Nat) : (gridPlaces rows pos).Nodup := by
  have product : gridPlaces rows pos = upTo rows ×ˢ upTo pos := rfl
  rw [product]
  exact List.Nodup.product List.nodup_range List.nodup_range

/-- Where an element stands in the data of a chunk: position by position, a metadata chunk row by row (R122). -/
def chunkPlace (b : BitVec 384) (row i : Nat) : Nat := if feedMasks b = true then row else 32 * row + i

section
variable {b : BitVec 384} {ext ix : List Nat} (hf : feedOrbit b = false)
include hf

theorem feedShape_pos : (feedShape b ext [] ix).2 ≤ if feedMasks b = true then 1 else 32 := by
  simp only [feedShape, hf, Bool.false_eq_true, if_false]
  split
  · exact Nat.le_refl 1
  · refine Nat.le_trans (Nat.min_le_left _ _) ?_
    unfold spnPlaces
    split <;> decide

omit hf in
theorem feedShape_rows : (feedShape b ext [] ix).1 ≤ feedRows b := by
  simp only [feedShape]
  split
  · unfold feedRows
    split <;> decide
  · exact Nat.min_le_left _ _

theorem nodup_chunkPlaces :
    ((gridPlaces (feedShape b ext [] ix).1 (feedShape b ext [] ix).2).map fun p => chunkPlace b p.1 p.2).Nodup := by
  refine (nodup_gridPlaces _ _).map_on fun p hp q hq heq => ?_
  have pos := feedShape_pos (ext := ext) (ix := ix) hf
  have p2 := (mem_gridPlaces.mp hp).2
  have q2 := (mem_gridPlaces.mp hq).2
  unfold chunkPlace at heq
  split at heq
  · rename_i h
    rw [if_pos h] at pos
    exact Prod.ext heq (by omega)
  · rename_i h
    rw [if_neg h] at pos
    exact Prod.ext (by omega) (by omega)

theorem chunkPlace_lt {row i : Nat} (hr : row < (feedShape b ext [] ix).1) (hi : i < (feedShape b ext [] ix).2) :
    chunkPlace b row i < 32 * feedRows b := by
  have pos := feedShape_pos (ext := ext) (ix := ix) hf
  have rows := feedShape_rows (b := b) (ext := ext) (ix := ix)
  unfold chunkPlace
  split
  · omega
  · rename_i h
    rw [if_neg h] at pos
    omega

end

section
variable {s : State} {r : Rec} {h : Handle}

/-- The chunk of an iteration of a plain CPYS: its tag, and each element at its place (R122, R349, R358). -/
theorem chunkAt_clean (hp : s.poison = []) (h6 : h.desc.space ≠ 6) (hk : ∀ x, r.scaleOf h = some x → x.desc.space ≠ 6)
    (hf : feedOrbit r.body = false) (ix : List Nat) : ∃ k : Chunk, (Job.mk s r).chunkAt h [] ix = (k, ⟨s, r⟩) ∧
      (k.slot = bodyAt r.body 16 1 ∧ k.rdim = feedRdim r.body ∧ k.kdim = feedKdim r.body ∧ k.orbit = false ∧ k.chan = r.eng ∧ k.num = r.num ∧
        k.upc = ix ∧ k.fmt = h.desc.fmt ∧ k.rows = (feedShape r.body (r.extents h) [] ix).1 ∧
        k.pos = (feedShape r.body (r.extents h) [] ix).2) ∧
      ∀ row i, row < k.rows → i < k.pos →
        bitsAt k.data (tyBits h.desc.fmt * chunkPlace r.body row i) (tyBits h.desc.fmt) = elemIn r s h (feedPlace r.body [] ix row i) := by
  have scales : (match r.scaleOf h with
      | some kh => (Job.mk s r).read kh (((gridPlaces (feedShape r.body (r.extents h) [] ix).1 (feedShape r.body (r.extents h) [] ix).2).map
          fun p : Nat × Nat => feedPlace r.body [] ix p.1 p.2).flatMap (scaleCoords h.desc.fmt))
      | none => ([], ⟨s, r⟩)).2 = (⟨s, r⟩ : Job) := by
    cases hs : r.scaleOf h with
    | none => rfl
    | some k => exact congrArg Prod.snd (Job.read_clean (x := ⟨s, r⟩) hp (hk k hs) _)
  refine ⟨((Job.mk s r).chunkAt h [] ix).1, ?_, ?_, ?_⟩
  · refine Prod.ext rfl ?_
    simp only [Job.chunkAt, Job.read_clean (x := ⟨s, r⟩) hp h6]
    exact scales
  · exact ⟨rfl, rfl, rfl, hf, rfl, rfl, rfl, rfl, rfl, rfl⟩
  · intro row i hr hi
    have mem : (row, i) ∈ gridPlaces (feedShape r.body (r.extents h) [] ix).1 (feedShape r.body (r.extents h) [] ix).2 :=
      mem_gridPlaces.mpr ⟨hr, hi⟩
    have packed := (bitsAt_packed (w := tyBits h.desc.fmt) (fun p : Nat × Nat => chunkPlace r.body p.1 p.2)
      (fun p => elemIn r s h (feedPlace r.body [] ix p.1 p.2) % 2 ^ tyBits h.desc.fmt) (fun p => Nat.mod_lt _ (Nat.two_pow_pos _)) _
      (nodup_chunkPlaces (ext := r.extents h) (ix := ix) hf) 0 fun p _ => by rw [bitsAt, Nat.zero_div, Nat.zero_mod]).2 _ mem
    have lt : elemIn r s h (feedPlace r.body [] ix row i) < 2 ^ tyBits h.desc.fmt := State.readElem_lt _ _ _
    dsimp only at packed
    rw [Nat.mod_eq_of_lt lt] at packed
    refine Eq.trans ?_ packed
    simp only [Job.chunkAt, Job.read_clean (x := ⟨s, r⟩) hp h6, Nat.mul_assoc]
    rw [bitsAt_add_above _ _ _ (chunkPlace_lt hf hr hi), List.map_map, ← List.map_id (List.flatMap _ _), List.map_map, List.zip_map', List.foldl_map]
    rfl

end

/-! ## A CPYS moves on (R346, R358) -/

/-- An iteration that changes its own core, whose engines it leaves. -/
theorem advanced_of_setCore {c e : Nat} {r : Rec} {rest : List Rec} {next : List Nat} {count : Nat} {stops : Bool} {also : Rec → Prop}
    {s t : State} {q : Core} (hq : q.engines = (s.core c).engines) (h : iterated c e r rest next count stops also (s.setCore c q) t) :
    advanced c e r rest next count stops also s t ∧ t = { s with coreTab := t.coreTab } ∧ (∀ d, d ≠ c → t.core d = s.core d) ∧
      t.core c = { q with engines := (t.core c).engines } := by
  obtain ⟨⟨⟨y, head, rec⟩, others, cores⟩, frame, kept⟩ := h
  have engine : ∀ f, ((s.setCore c q).core c).engine f = (s.core c).engine f := fun f => by
    rw [State.core_setCore_self, Core.engine, Core.engine, hq]
  have apart : ∀ d, d ≠ c → t.core d = s.core d := fun d hd => by
    rw [kept d, cores d hd, State.core_setCore_ne _ _ hd]
  refine ⟨⟨⟨y, by rw [head, engine], rec⟩, fun f hf => (others f hf).trans (engine f), fun d hd => by rw [apart d hd]⟩, frame, apart, ?_⟩
  have own := kept c
  rw [State.core_setCore_self] at own
  exact own

/-- A core with a chunk pushed into a stream. -/
def Core.pushChunk (q : Core) (n : Nat) (k : Chunk) : Core := { q with streams := mapPut q.streams n (mapGet q.streams n [] ++ [k]) }

theorem iterate_cpys {s : State} {r : Rec} (hop : r.op = .cpys) {y : Job} (hy : (Job.mk s r).cpysStep = some y) :
    (Job.mk s r).iterate = some y := by
  simp only [Job.iterate, hop, hy]

section
variable {s : State} {c e : Nat} {r : Rec} {rest : List Rec} {h : Handle} (hr : recordRuns c e .cpys r rest s)
  (hb : r.bind (bodyAt r.body 16 1) = some h) (h6 : h.desc.space ≠ 6) (hks : ∀ x, r.scaleOf h = some x → x.desc.space ≠ 6)
  (hf : feedOrbit r.body = false)
include hr hb h6 hks hf

/-- The steps of a plain CPYS: past an iteration, held, or a chunk pushed. -/
theorem cpysStep_eq : (Job.mk s r).cpysStep =
    if feedSkips r.body r.upc = true then some ⟨s, r.movesTo (nextIndex (copyTrips r.body) r.upc)⟩
    else if 8 ≤ (mapGet (s.core c).streams (feedStream r.body) []).length then none
    else
      some ⟨s.setCore c ((s.core c).pushChunk (feedStream r.body) ((Job.mk s r).chunkAt h [] r.upc).1),
        ({ r with count := r.count + 1 } : Rec).movesTo (nextIndex (copyTrips r.body) r.upc)⟩ := by
  obtain ⟨-, -, -, rfl, -, -, -, -, -, poison⟩ := hr
  obtain ⟨k, chunk, -⟩ := chunkAt_clean (r := r) poison h6 hks hf r.upc
  have kept : feedOrbits r.body h r.partner = [] := by
    rw [Rec.partner, hf, if_neg Bool.false_ne_true]
    rfl
  have trips : feedTrips r.body [] = copyTrips r.body := by
    rw [feedTrips, hf, if_neg Bool.false_ne_true]
  simp only [Job.cpysStep, hb, kept, trips, hf, chunk, Bool.false_and, Bool.false_eq_true, if_false]
  cases nextIndex (copyTrips r.body) r.upc <;> rfl

theorem does_cpysSkip (hk : feedSkips r.body r.upc = true) :
    does (.engineIteration c e) s fun _ t => iterated c e r rest ((nextIndex (copyTrips r.body) r.upc).getD r.upc) r.count
      (nextIndex (copyTrips r.body) r.upc).isNone (fun _ => True) s t := by
  obtain ⟨-, -, -, -, -, hop, -, ended, -, poison⟩ := id hr
  have iter := iterate_cpys hop ((cpysStep_eq hr hb h6 hks hf).trans (if_pos hk))
  rw [Rec.movesTo_eq _ _ ended] at iter
  exact does_iterate hr (by decide) iter (engineWrote_refl poison) rfl trivial rfl rfl rfl rfl

theorem does_cpysHeld (hk : feedSkips r.body r.upc = false) (hl : 8 ≤ (mapGet (s.core c).streams (feedStream r.body) []).length)
    (hc : (s.core c).streamsClosed = false) : does (.engineIteration c e) s same := by
  obtain ⟨-, -, -, core, -, hop, -⟩ := id hr
  have full : (Job.mk s r).cpysStep = none := by
    rw [cpysStep_eq hr hb h6 hks hf, hk, if_neg Bool.false_ne_true, if_pos hl]
  have iter : (Job.mk s r).iterate = none := by
    simp only [Job.iterate, hop, full, core, hc, Bool.false_eq_true, if_false]
  exact does_held hr (by decide) iter

/-- A chunk pushed. -/
theorem does_cpysPush (hk : feedSkips r.body r.upc = false) (hl : (mapGet (s.core c).streams (feedStream r.body) []).length < 8) :
    does (.engineIteration c e) s fun _ t => iterated c e r rest ((nextIndex (copyTrips r.body) r.upc).getD r.upc) (r.count + 1)
      (nextIndex (copyTrips r.body) r.upc).isNone (fun _ => True)
      (s.setCore c ((s.core c).pushChunk (feedStream r.body) ((Job.mk s r).chunkAt h [] r.upc).1)) t := by
  obtain ⟨-, queue, -, -, -, hop, -, ended, -⟩ := id hr
  have push := cpysStep_eq hr hb h6 hks hf
  rw [hk, if_neg Bool.false_ne_true, if_neg (Nat.not_le.mpr hl), Rec.movesTo_eq { r with count := r.count + 1 } _ ended] at push
  exact does_step hr (by decide) (iterate_cpys hop push) (by rw [State.core_setCore_self]; exact queue) rfl trivial rfl rfl rfl rfl

end

theorem chunkIterations_hold : chunkIterations := by
  intro c e r rest h s hr hb h6 hks hf b next n q x along left rows pos place w
  obtain ⟨-, -, -, -, eng, -, -, -, -, poison⟩ := id hr
  refine ⟨fun hk => does_here (does_cpysSkip hr hb h6 hks hf hk), does_cpysHeld hr hb h6 hks hf, fun hk hl => ?_⟩
  obtain ⟨k, chunk, tag, data⟩ := chunkAt_clean (r := r) poison h6 hks hf r.upc
  have step := does_cpysPush hr hb h6 hks hf hk hl
  rw [chunk] at step
  refine does_mono step fun t ht => ?_
  obtain ⟨moved, frame, others, own⟩ := advanced_of_setCore (q := (s.core c).pushChunk (feedStream r.body) k) rfl ht
  have streams : (t.core c).streams = mapPut (s.core c).streams n (q ++ [k]) := by rw [own]; rfl
  have masks : feedMasks r.body = true ↔ 8 ≤ n := decide_eq_true_iff
  have places : ∀ row i, (if 8 ≤ n then row else 32 * row + i) = chunkPlace r.body row i := fun row i => if_congr masks.symm rfl rfl
  have shape : (feedShape r.body (r.extents h) [] r.upc).1 = rows ∧ (feedShape r.body (r.extents h) [] r.upc).2 = pos := by
    simp only [feedShape, feedRows, hf, Bool.false_eq_true, if_false, Bool.and_eq_true, decide_eq_true_eq, masks]
    exact ⟨rfl, rfl⟩
  obtain ⟨slot, rdim, kdim, orbit, chan, num, upc, fmt, hrows, hpos⟩ := tag
  refine ⟨moved, frame, others, ?_, fun m hm => ?_, k, ?_, ?_, fun row i hrow hi => ?_⟩
  · rw [streams]
    exact own
  · rw [streams]
    exact mapGet_mapPut_ne _ _ _ hm
  · rw [streams]
    exact mapGet_mapPut_self _ _ _ _
  · exact ⟨slot, rdim, kdim, orbit, chan.trans eng, num, upc, fmt, hrows.trans shape.1, hpos.trans shape.2⟩
  · have at_ := data row i (by rw [hrows, shape.1]; exact hrow) (by rw [hpos, shape.2]; exact hi)
    rw [places]
    refine at_.trans (congrArg (elemIn r s h) ?_)
    simp only [feedPlace, masks, hf, Bool.false_eq_true, if_false]
    rfl

end Sys2Proof.Machine
end

section
/-! An iteration of the neighbour engine: the pairs of a particle, NBIN and NSTRM (R151 to R158, R163, R364, R365). -/

open Sys2Proof Sys2Proof.Machine Sys2Proof.Claims

namespace Sys2Proof.Machine

/-! ## What the records read -/

section
variable {s : State} (hp : s.poison = []) {g : Handle} (hg : g.desc.space = 4)
include hp hg

theorem gridGet_clean (r : Rec) (i : Nat) : (Job.mk s r).gridGet g i = (elemIn r s g [i, 0, 0, 0, 0, 0], ⟨s, r⟩) := by
  rw [Job.gridGet, Job.read_clean (x := ⟨s, r⟩) hp (by rw [hg]; decide)]
  rfl

/-- The three fractions of a particle. -/
def fractions (r : Rec) (s : State) (p : Handle) (i : Nat) : List Nat :=
  [[0, i, 0, 0, 0, 0], [1, i, 0, 0, 0, 0], [2, i, 0, 0, 0, 0]].map (elemIn r s p)

theorem position_clean (r : Rec) (i : Nat) : (Job.mk s r).position g i = (fractions r s g i, ⟨s, r⟩) :=
  Job.read_clean (x := ⟨s, r⟩) hp (by rw [hg]; decide) _

/-- The members of a cell do not change the job, and no status bit changes them. -/
theorem members_clean (r : Rec) (k : Nat) (f : BitVec 16) :
    (Job.mk s { r with flags := f }).members g k = (((Job.mk s r).members g k).1, ⟨s, { r with flags := f }⟩) := by
  have h6 : g.desc.space ≠ 6 := by rw [hg]; decide
  simp only [Job.members, gridGet_clean hp hg, Job.read_clean (x := ⟨s, r⟩) hp h6, Job.read_clean (x := ⟨s, { r with flags := f }⟩) hp h6]
  rfl

end

/-! ## Pair records (R156, R157) -/

theorem mem_insertPair (x y : Nat × List Byte) (l : List (Nat × List Byte)) : y ∈ insertPair x l ↔ y ∈ l ∨ y = x := by
  induction l with
  | nil => simp only [insertPair, List.mem_singleton, List.not_mem_nil, false_or]
  | cons z l ih =>
    rw [insertPair]
    split
    · simp only [List.mem_cons, or_comm]
    · simp only [List.mem_cons, ih, or_assoc]

/-- What the steps of a fold enter, where the state that they run through stays good. -/
theorem mem_foldl_entered {α β σ : Type} {step : List β × σ → α → List β × σ} {good : σ → Prop} {new : α → β → Prop} {l : List α}
    (hstep : ∀ a m, m ∈ l → good a.2 → good (step a m).2 ∧ ∀ y, y ∈ (step a m).1 ↔ y ∈ a.1 ∨ new m y) (a : List β × σ) (ha : good a.2) :
    good (l.foldl step a).2 ∧ ∀ y, y ∈ (l.foldl step a).1 ↔ y ∈ a.1 ∨ ∃ m, m ∈ l ∧ new m y := by
  induction l generalizing a with
  | nil => exact ⟨ha, fun y => by simp⟩
  | cons m l ih =>
    obtain ⟨first, mem⟩ := hstep a m List.mem_cons_self ha
    obtain ⟨last, mem'⟩ := ih (fun a m hm => hstep a m (List.mem_cons_of_mem _ hm)) (step a m) first
    refine ⟨last, fun y => ?_⟩
    rw [List.foldl_cons, mem', mem, or_assoc]
    simp only [List.mem_cons, exists_eq_or_imp]

/-- A member of a stencil is a pair of particle `i`: a particle of the system, not `i` itself, of the half that the record lists, within
the cut-off (R156). -/
def pairs (r : Rec) (s : State) (p : Handle) (i : Nat) (m : Nat × Bool) : Prop :=
  m.1 < particles r.body ∧ m.1 ≠ i ∧ (fullList r.body = true ∨ i < m.1) ∧
    withinSquare (imageDist r.body (fractions r s p i) (fractions r s p m.1)).2.2.2.1 (cutSquare r.body) = true

/-- The record of such a pair (R157). -/
def pairOf (r : Rec) (s : State) (p : Handle) (k i : Nat) (io : Bool) (m : Nat × Bool) : List Byte :=
  let v := imageDist r.body (fractions r s p i) (fractions r s p m.1)
  pairBytes i m.1 v.1 v.2.1 v.2.2.1 v.2.2.2.1 (v.2.2.2.2.toNat + 2 * io.toNat + 4 * m.2.toNat) k

/-- A job that has changed its status bits alone. -/
def flagged (s : State) (r : Rec) (x : Job) : Prop := ∃ f, x = ⟨s, { r with flags := f }⟩

section
variable {s : State} {r : Rec} (hp : s.poison = []) {p g : Handle} (h4 : p.desc.space = 4) (hg : g.desc.space = 4)
include hp h4 hg

theorem mem_pairsOf (k i : Nat) (io : Bool) :
    flagged s r ((Job.mk s r).pairsOf p g k i io).2 ∧ ∀ bs, bs ∈ ((Job.mk s r).pairsOf p g k i io).1 ↔
      ∃ d, d ∈ stencil r.body k ∧ ∃ m, m ∈ ((Job.mk s r).members g d).1 ∧ pairs r s p i m ∧ bs = pairOf r s p k i io m := by
  unfold Job.pairsOf
  rw [position_clean hp h4]
  dsimp only
  generalize hF : List.foldl _ _ _ = F
  have fold : flagged s r F.2 ∧ ∀ y, y ∈ F.1 ↔ y ∈ ([] : List (Nat × List Byte)) ∨ ∃ d, d ∈ stencil r.body k ∧
      ∃ m, m ∈ ((Job.mk s r).members g d).1 ∧ pairs r s p i m ∧ y = (m.1, pairOf r s p k i io m) := by
    rw [← hF]
    refine mem_foldl_entered (fun a d _ ha => ?_) _ ⟨r.flags, rfl⟩
    obtain ⟨l, x⟩ := a
    obtain ⟨f, rfl⟩ := ha
    dsimp only
    rw [members_clean hp hg]
    refine mem_foldl_entered (fun a m _ ha => ?_) _ ⟨f, rfl⟩
    obtain ⟨l, x⟩ := a
    obtain ⟨f, rfl⟩ := ha
    dsimp only
    rw [position_clean hp h4]
    have fractions' : ∀ j, fractions { r with flags := f } s p j = fractions r s p j := fun j => rfl
    split
    · rename_i out
      refine ⟨⟨_, rfl⟩, fun y => (or_iff_left fun h => ?_).symm⟩
      exact absurd h.1.1 (Nat.not_lt.mpr out)
    · rename_i inside
      split
      · rename_i other
        refine ⟨⟨f, rfl⟩, fun y => (or_iff_left fun h => ?_).symm⟩
        obtain ⟨⟨-, ne, half, -⟩, -⟩ := h
        simp only [Bool.or_eq_true, beq_iff_eq, ne, Bool.and_eq_true, Bool.not_eq_true', decide_eq_true_eq, false_or] at other
        exact half.elim (fun h => Bool.false_ne_true (other.1.symm.trans h)) (Nat.not_lt.mpr (Nat.le_of_lt other.2))
      · rename_i other
        simp only [Bool.or_eq_true, beq_iff_eq, Bool.and_eq_true, Bool.not_eq_true', decide_eq_true_eq, not_or, not_and] at other
        have half : fullList r.body = true ∨ i < m.1 := by
          by_cases hfull : fullList r.body = true
          · exact .inl hfull
          · have := other.2 (Bool.eq_false_iff.mpr hfull)
            exact .inr (by omega)
        rw [fractions']
        split
        · rename_i near
          refine ⟨⟨f, rfl⟩, fun y => (mem_insertPair _ _ _).trans (or_congr_right ?_)⟩
          exact ⟨fun h => ⟨⟨Nat.not_le.mp inside, other.1, half, near⟩, h⟩, fun h => h.2⟩
        · rename_i far
          refine ⟨⟨f, rfl⟩, fun y => (or_iff_left fun h => ?_).symm⟩
          exact far h.1.2.2.2
  obtain ⟨job, mem⟩ := fold
  refine ⟨job, fun bs => ?_⟩
  simp only [List.mem_map, mem, List.not_mem_nil, false_or]
  constructor
  · rintro ⟨_, ⟨d, hd, m, hm, hpair, rfl⟩, rfl⟩
    exact ⟨d, hd, m, hm, hpair, rfl⟩
  · rintro ⟨d, hd, m, hm, hpair, rfl⟩
    exact ⟨_, ⟨d, hd, m, hm, hpair, rfl⟩, rfl⟩

end

theorem pairRecords_hold : pairRecords := by
  intro k i io p g r bs s hp h4 hg b x at_
  refine ((mem_pairsOf hp h4 hg k i io).2 bs).trans ?_
  constructor
  · rintro ⟨d, hd, m, hm, ⟨inside, ne, half, near⟩, rfl⟩
    exact ⟨d, m, hd, hm, inside, ne, half, near, rfl⟩
  · rintro ⟨d, m, hd, hm, inside, ne, half, near, rfl⟩
    exact ⟨d, hd, m, hm, ⟨inside, ne, half, near⟩, rfl⟩

end Sys2Proof.Machine
end

section
/-! An iteration of NBIN (R153 to R155, R163, R364; log 48). -/

open Sys2Proof Sys2Proof.Machine Sys2Proof.Claims

namespace Sys2Proof.Machine

/-- Words of the grid as elements of its handle. -/
def gridWrites (g : Handle) (ws : List (Nat × Nat)) : Handle × List (List Nat × Nat) := (g, ws.map fun w => ([w.1, 0, 0, 0, 0, 0], w.2))

theorem gridPut_eq (s : State) (r : Rec) (g : Handle) (ws : List (Nat × Nat)) :
    ∃ w f, (Job.mk s r).gridPut g ws = ⟨elemsPut r [gridWrites g ws] s, { r with wrote := w, flags := f }⟩ :=
  Job.deliver_eq _ g _ _

/-- What entering particle `i` of cell `k` into the grid writes, and the overflow count, the lost particles and the status after it. -/
def gridEntry (r : Rec) (grid : Nat → Nat) (k i : Nat) : List (Nat × Nat) × Nat × Nat × Nat :=
  let b := r.body
  let w := cellWord b k
  let n := grid w
  let novf := r.val auxOut
  let st := r.val auxStatus
  let lost := r.val auxSkip
  if n < cellCapacity b then ([(w + 2 + n, i), (w, n + 1)], novf, lost, st)
  else if novf < 4096 then
    ([(16 + 2 * novf, i), (17 + 2 * novf, k), (2, novf + 1), (w + 1, grid (w + 1) + 1), (3, st ||| 1)], novf + 1, lost, st ||| 1)
  else ([(8, lost + 1), (3, st ||| 2)], novf, lost + 1, st ||| 2)

section
variable {s : State} {c e i : Nat} {r : Rec} {rest : List Rec} {p rf g : Handle} (hp : r.bind (bodyAt r.body 16 1) = some p)
  (hrf : r.bind (bodyAt r.body 17 1) = some rf) (hg : r.bind (bodyAt r.body 18 1) = some g)

/-- The words that clear cell `i`, with the header before the first (R154; log 48). -/
def cellClears (r : Rec) (g : Handle) (i : Nat) : List (Handle × List (List Nat × Nat)) :=
  let w := cellWord r.body i
  let cell := gridWrites g ([(w, 0), (w + 1, 0)] ++ (List.range (cellCapacity r.body)).map fun j => (w + 2 + j, 0xFFFFFFFF))
  if i = 0 then [gridWrites g ((3, 0) :: (2, 0) :: (List.range 8).map fun j => (8 + j, 0)), cell] else [cell]

section
include hp hrf hg

theorem nbinStep_clears (hu : r.upc = [0, i, 0, 0]) : ∃ w f, (Job.mk s r).nbinStep = ⟨elemsPut r (cellClears r g i) s,
    { r with wrote := w, flags := f, upc := if i + 1 < 2 ^ cellBits r.body then [0, i + 1, 0, 0] else [1, 0, 0, 0] }⟩ := by
  have u0 : r.upc.getD 0 0 = 0 := by rw [hu]; rfl
  have u1 : r.upc.getD 1 0 = i := by rw [hu]; rfl
  unfold Job.nbinStep
  simp only [hp, hrf, hg, u0, u1, if_true, cellClears]
  by_cases hi : i = 0
  · obtain ⟨w, f, first⟩ := gridPut_eq s r g ((3, 0) :: (2, 0) :: (List.range 8).map fun j => (8 + j, 0))
    obtain ⟨w', f', second⟩ := gridPut_eq (elemsPut r [gridWrites g ((3, 0) :: (2, 0) :: (List.range 8).map fun j => (8 + j, 0))] s)
      { r with wrote := w, flags := f } g ([(cellWord r.body i, 0), (cellWord r.body i + 1, 0)] ++
        (List.range (cellCapacity r.body)).map fun j => (cellWord r.body i + 2 + j, 0xFFFFFFFF))
    simp only [if_pos hi, upTo, first, second]
    exact ⟨w', f', rfl⟩
  · obtain ⟨w, f, put⟩ := gridPut_eq s r g ([(cellWord r.body i, 0), (cellWord r.body i + 1, 0)] ++
        (List.range (cellCapacity r.body)).map fun j => (cellWord r.body i + 2 + j, 0xFFFFFFFF))
    simp only [if_neg hi, upTo, put]
    exact ⟨w, f, rfl⟩

theorem does_nbinClears (h : recordRuns c e .nbin r rest s) (hu : r.upc = [0, i, 0, 0]) :
    does (.engineIteration c e) s fun _ t => iterated c e r rest
      (if i + 1 < 2 ^ cellBits r.body then [0, i + 1, 0, 0] else [1, 0, 0, 0]) r.count false (fun _ => True)
      (elemsPut r (cellClears r g i) s) t := by
  obtain ⟨-, -, -, -, -, hop, -, ended, -, poison⟩ := id h
  obtain ⟨w, f, step⟩ := nbinStep_clears (s := s) hp hrf hg hu
  have iter : (Job.mk s r).iterate = some (Job.mk s r).nbinStep := by simp only [Job.iterate, hop]
  rw [step] at iter
  exact does_iterate h (by decide) iter (engineWrote_elemsPut r poison _) rfl trivial rfl rfl rfl ended

end

/-- The particle's reference position (R155). -/
def particlePlaced (r : Rec) (s : State) (p rf : Handle) (i : Nat) : Handle × List (List Nat × Nat) :=
  (rf, [[0, i, 0, 0, 0, 0], [1, i, 0, 0, 0, 0], [2, i, 0, 0, 0, 0]].zip (fractions r s p i))

/-- Its entry in the grid, and the counts after it. -/
def particleEntry (r : Rec) (s : State) (p rf g : Handle) (i : Nat) : List (Nat × Nat) × Nat × Nat × Nat :=
  gridEntry r (fun j => elemIn r (elemsPut r [particlePlaced r s p rf i] s) g [j, 0, 0, 0, 0, 0]) (cellOf r.body (fractions r s p i)) i

theorem nbinParticle_eq (hs : s.poison = []) (h4 : p.desc.space = 4) (hg4 : g.desc.space = 4) :
    ∃ w f aux, (Job.mk s r).nbinParticle p rf g i =
        ⟨elemsPut r [particlePlaced r s p rf i, gridWrites g (particleEntry r s p rf g i).1] s, { r with wrote := w, flags := f, aux := aux }⟩ ∧
      mapGet aux auxOut 0 = (particleEntry r s p rf g i).2.1 ∧ mapGet aux auxSkip 0 = (particleEntry r s p rf g i).2.2.1 ∧
      mapGet aux auxStatus 0 = (particleEntry r s p rf g i).2.2.2 := by
  obtain ⟨w, f, place⟩ := (Job.mk s r).deliver_eq rf
    ((rowCoords 3 0 i).zip (fractions r s p i)) fun _ => none
  generalize hq : ({ r with wrote := w, flags := f } : Rec) = q at place
  generalize hu : elemsPut r [particlePlaced r s p rf i] s = u
  have clean : u.poison = [] := hu ▸ (engineWrote_elemsPut r hs _).1
  have placed : (Job.mk s r).deliver rf ((rowCoords 3 0 i).zip (fractions r s p i)) (fun _ => none) = ⟨u, q⟩ := hu ▸ place
  have val : ∀ k, q.val k = r.val k := fun k => by rw [← hq]; rfl
  have ran : r.ranOn q := by rw [← hq]; rfl
  have put : ∀ (aux : Map Nat) ws, ∃ w f, (Job.mk u { q with aux := aux }).gridPut g ws =
      ⟨elemsPut r [particlePlaced r s p rf i, gridWrites g ws] s, { r with wrote := w, flags := f, aux := aux }⟩ := fun aux ws => by
    obtain ⟨w, f, h⟩ := gridPut_eq u { q with aux := aux } g ws
    refine ⟨w, f, h.trans ?_⟩
    have puts : elemsPut { q with aux := aux } = elemsPut r := by rw [← hq]; rfl
    rw [puts, ← hu, ← elemsPut_append, ← hq]
    rfl
  have grid := gridGet_clean clean hg4 q
  have word : elemIn q u g = elemIn r u g := congrFun (congrFun (elemIn_ranOn ran) u) g
  simp only [Job.nbinParticle, position_clean hs h4, placed, grid, word, val, particleEntry, gridEntry, hu]
  split
  · refine (put q.aux _).elim fun w h => h.elim fun f h => ⟨w, f, q.aux, h, val _, val _, val _⟩
  · split
    · refine (put ((q.setVal auxOut (r.val auxOut + 1)).setVal auxStatus (r.val auxStatus ||| 1)).aux _).elim fun w h => h.elim fun f h =>
        ⟨w, f, _, h, ?_, ?_, Rec.val_setVal_self _ _ _⟩
      · exact (Rec.val_setVal_ne _ _ (by decide)).trans (Rec.val_setVal_self _ _ _)
      · exact (Rec.val_setVal_ne _ _ (by decide)).trans ((Rec.val_setVal_ne _ _ (by decide)).trans (val _))
    · refine (put ((q.setVal auxSkip (r.val auxSkip + 1)).setVal auxStatus (r.val auxStatus ||| 2)).aux _).elim fun w h => h.elim fun f h =>
        ⟨w, f, _, h, ?_, ?_, Rec.val_setVal_self _ _ _⟩
      · exact (Rec.val_setVal_ne _ _ (by decide)).trans ((Rec.val_setVal_ne _ _ (by decide)).trans (val _))
      · exact (Rec.val_setVal_ne _ _ (by decide)).trans (Rec.val_setVal_self _ _ _)

/-- The header that the last particle leaves, VALID last (R154, R155). -/
def gridHeader (r : Rec) (g : Handle) (status : Nat) : List (Handle × List (List Nat × Nat)) :=
  let b := r.body
  [gridWrites g [(0, geomWord b), (1, particles b), (4, edgeBits b 0), (5, edgeBits b 1), (6, edgeBits b 2), (7, skinBits b)],
    gridWrites g [(3, status ||| 4)]]

theorem nbinEnd_eq (s : State) (q : Rec) (g : Handle) : ∃ w f, (Job.mk s q).nbinEnd g =
    ⟨elemsPut q (gridHeader q g (q.val auxStatus)) s, { q with wrote := w, flags := f, ended := true }⟩ := by
  obtain ⟨w, f, first⟩ := gridPut_eq s q g [(0, geomWord q.body), (1, particles q.body), (4, edgeBits q.body 0), (5, edgeBits q.body 1),
    (6, edgeBits q.body 2), (7, skinBits q.body)]
  generalize hu : elemsPut q [gridWrites g [(0, geomWord q.body), (1, particles q.body), (4, edgeBits q.body 0), (5, edgeBits q.body 1),
    (6, edgeBits q.body 2), (7, skinBits q.body)]] s = u at first
  obtain ⟨w', f', second⟩ := gridPut_eq u { q with wrote := w, flags := f } g [(3, q.val auxStatus ||| 4)]
  have status : Rec.val { q with wrote := w, flags := f } auxStatus = q.val auxStatus := rfl
  refine ⟨w', f', ?_⟩
  simp only [Job.nbinEnd, first, status, second]
  rw [← hu]
  rfl

theorem binned_eq (s : State) (q : Rec) : ∃ f, (Job.mk s q).binned =
    ⟨s, { q with flags := f, count := q.val auxOut % 2 ^ 13 + 2 ^ 16 * (q.val auxSkip % 2 ^ 32) }⟩ := by
  obtain ⟨f, first⟩ := q.markIf_eq ((q.val auxStatus).testBit 0) wOVERFLOW
  obtain ⟨f', second⟩ := Rec.markIf_eq { q with flags := f } ((q.val auxStatus).testBit 1) wBINFULL
  exact ⟨f', by simp only [Job.binned, first, second]⟩

section
include hp hrf hg

/-- A particle entered: the last writes the header (R155, R163). -/
theorem nbinStep_enters (hs : s.poison = []) (h4 : p.desc.space = 4) (hg4 : g.desc.space = 4) (hu : r.upc = [1, i, 0, 0])
    (ended : r.ended = false) :
    ∃ w f aux, (Job.mk s r).nbinStep = ⟨elemsPut r ([particlePlaced r s p rf i, gridWrites g (particleEntry r s p rf g i).1] ++
        if particles r.body ≤ i + 1 then gridHeader r g (particleEntry r s p rf g i).2.2.2 else []) s,
        { r with
          wrote := w, flags := f, aux := aux, upc := [1, i + 1, 0, 0], ended := decide (particles r.body ≤ i + 1)
          count := (particleEntry r s p rf g i).2.1 % 2 ^ 13 + 2 ^ 16 * ((particleEntry r s p rf g i).2.2.1 % 2 ^ 32) }⟩ ∧
      mapGet aux auxOut 0 = (particleEntry r s p rf g i).2.1 ∧ mapGet aux auxSkip 0 = (particleEntry r s p rf g i).2.2.1 ∧
      mapGet aux auxStatus 0 = (particleEntry r s p rf g i).2.2.2 := by
  have u0 : r.upc.getD 0 0 = 1 := by rw [hu]; rfl
  have u1 : r.upc.getD 1 0 = i := by rw [hu]; rfl
  obtain ⟨w, f, aux, entered, out, lost, st⟩ := nbinParticle_eq (s := s) (r := r) (p := p) (rf := rf) (g := g) (i := i) hs h4 hg4
  obtain ⟨f', binned⟩ := binned_eq (elemsPut r [particlePlaced r s p rf i, gridWrites g (particleEntry r s p rf g i).1] s)
    { r with wrote := w, flags := f, aux := aux }
  have vals : ∀ k, Rec.val { r with wrote := w, flags := f, aux := aux } k = mapGet aux k 0 := fun k => rfl
  rw [vals, vals, out, lost] at binned
  have run : ¬ r.upc.getD 0 0 = 0 := by rw [u0]; decide
  simp only [Job.nbinStep, hp, hrf, hg, if_neg run, u1, entered, binned]
  by_cases last : i + 1 < particles r.body
  · simp only [if_pos last, if_neg (Nat.not_le.mpr last), List.append_nil]
    exact ⟨w, f', aux, by rw [decide_eq_false (Nat.not_le.mpr last), ← ended], out, lost, st⟩
  · obtain ⟨w', f'', end_⟩ := nbinEnd_eq (elemsPut r [particlePlaced r s p rf i, gridWrites g (particleEntry r s p rf g i).1] s)
      { r with
        wrote := w, flags := f', aux := aux, upc := [1, i + 1, 0, 0]
        count := (particleEntry r s p rf g i).2.1 % 2 ^ 13 + 2 ^ 16 * ((particleEntry r s p rf g i).2.2.1 % 2 ^ 32) } g
    simp only [if_neg last, if_pos (Nat.not_lt.mp last), end_]
    refine ⟨w', f'', aux, ?_, out, lost, st⟩
    rw [decide_eq_true (Nat.not_lt.mp last), elemsPut_append, ← st]
    rfl

theorem does_nbinEnters (h : recordRuns c e .nbin r rest s) (h4 : p.desc.space = 4) (hg4 : g.desc.space = 4) (hu : r.upc = [1, i, 0, 0]) :
    does (.engineIteration c e) s fun _ t => iterated c e r rest [1, i + 1, 0, 0]
      ((particleEntry r s p rf g i).2.1 % 2 ^ 13 + 2 ^ 16 * ((particleEntry r s p rf g i).2.2.1 % 2 ^ 32))
      (decide (particles r.body ≤ i + 1))
      (fun r' => r'.val auxOut = (particleEntry r s p rf g i).2.1 ∧ r'.val auxSkip = (particleEntry r s p rf g i).2.2.1 ∧
        r'.val auxStatus = (particleEntry r s p rf g i).2.2.2)
      (elemsPut r ([particlePlaced r s p rf i, gridWrites g (particleEntry r s p rf g i).1] ++
        if particles r.body ≤ i + 1 then gridHeader r g (particleEntry r s p rf g i).2.2.2 else []) s) t := by
  obtain ⟨-, -, -, -, -, hop, -, ended, -, poison⟩ := id h
  obtain ⟨w, f, aux, step, out, lost, st⟩ := nbinStep_enters hp hrf hg poison h4 hg4 hu ended
  have iter : (Job.mk s r).iterate = some (Job.mk s r).nbinStep := by simp only [Job.iterate, hop]
  rw [step] at iter
  exact does_iterate h (by decide) iter (engineWrote_elemsPut r poison _) rfl ⟨out, lost, st⟩ rfl rfl rfl rfl

end

end

end Sys2Proof.Machine
end

section
/-! An iteration of NSTRM: a block in the next slot of a consumer ring (R156 to R158, R163, R365). -/

open Sys2Proof Sys2Proof.Machine Sys2Proof.Claims

namespace Sys2Proof.Machine

/-! ## A block published (R158, R173) -/

/-- The state in which a block stands in slot `j` of ring `x` of core `d`, which is full. -/
def State.published (s : State) (c d x : Nat) (q q' : Ring) (j : Nat) (block : List Byte) : State :=
  let u := (s.drainCore c).engineWrite c [(q.target d j, block)]
  u.setCore d (woken ((u.core d).setRing x (q'.release true j)))

section
variable {s : State} {r : Rec} {ring : Nat} {q : Ring}
  (hq : mapFind (s.core (r.val (auxRing ring) / 32)).rings (r.val (auxRing ring) % 32) = some q)
include hq

theorem publish_full (hf : q.claim true 1 (.record r.core r.eng r.num) = none) (bs : List Byte) : (Job.mk s r).publish ring bs = none := by
  simp only [Job.publish, hq, hf]

theorem publish_free {q' : Ring} {j : Nat} (hf : q.claim true 1 (.record r.core r.eng r.num) = some (q', [j])) (bs : List Byte) :
    ∃ w, (Job.mk s r).publish ring bs =
      some ⟨s.published r.core (r.val (auxRing ring) / 32) (r.val (auxRing ring) % 32) q q' j bs, { r with wrote := w }⟩ := by
  simp only [Job.publish, hq, hf]
  exact ⟨_, rfl⟩

end

/-- A published block leaves the queues of the engines. -/
theorem published_engines {s : State} (hp : s.poison = []) (c d x : Nat) (q q' : Ring) (j : Nat) (bs : List Byte) (f : Nat) :
    ((s.published c d x q q' j bs).core f).engines = (s.core f).engines := by
  have drained : engineWrote s (s.drainCore c) := engineWrote_drainFrom hp c _
  have wrote := engineWrote_trans drained (engineWrote_engineWrite drained.1 c [(q.target d j, bs)])
  have cores := wrote.2
  unfold State.published
  dsimp only
  by_cases hf : f = d
  · subst hf
    rw [State.core_setCore_self, cores f]
    rfl
  · rw [State.core_setCore_ne _ _ hf, cores f]

/-! ## The first step compares the grid (R156) -/

section
variable {s : State} (hs : s.poison = []) {p rf g : Handle} (hg4 : g.desc.space = 4)

/-- The grid is that of the record's system, and valid. -/
def gridFits (r : Rec) (s : State) (g : Handle) : Prop :=
  let b := r.body
  let word := fun j => elemIn r s g [j, 0, 0, 0, 0, 0]
  (word 3).testBit 2 = true ∧ word 0 = geomWord b ∧ word 1 = particles b ∧ word 4 = edgeBits b 0 ∧ word 5 = edgeBits b 1 ∧
    word 6 = edgeBits b 2 ∧ word 7 = skinBits b

include hs hg4 in
theorem gridMatches_misfit (r : Rec) (hn : ¬ gridFits r s g) : ∃ f, (Job.mk s r).gridMatches g =
      ⟨s, { r with flags := f, aux := mapPut r.aux auxSkip 1, upc := [endCell r.body, 0, 0, 0] }⟩ ∧ f.getLsbD 14 = true := by
  have words : (Job.mk s r).read g (lineCoords 8 0) = ((lineCoords 8 0).map (elemIn r s g), ⟨s, r⟩) :=
    Job.read_clean (x := ⟨s, r⟩) hs (by rw [hg4]; decide) _
  have bad : ((elemIn r s g [3, 0, 0, 0, 0, 0]).testBit 2 && elemIn r s g [0, 0, 0, 0, 0, 0] == geomWord r.body &&
      elemIn r s g [1, 0, 0, 0, 0, 0] == particles r.body && elemIn r s g [4, 0, 0, 0, 0, 0] == edgeBits r.body 0 &&
      elemIn r s g [5, 0, 0, 0, 0, 0] == edgeBits r.body 1 && elemIn r s g [6, 0, 0, 0, 0, 0] == edgeBits r.body 2 &&
      elemIn r s g [7, 0, 0, 0, 0, 0] == skinBits r.body) = false := by
    rw [Bool.eq_false_iff]
    simpa only [gridFits, ne_eq, Bool.and_eq_true, beq_iff_eq, and_assoc] using hn
  obtain ⟨f, first⟩ := r.markIf_eq ((elemIn r s g [3, 0, 0, 0, 0, 0]).testBit 0) wOVERFLOW
  obtain ⟨f', second⟩ := Rec.markIf_eq { r with flags := f } ((elemIn r s g [3, 0, 0, 0, 0, 0]).testBit 1) wBINFULL
  refine ⟨f' ||| BitVec.ofNat 16 (2 ^ wGRIDMISMATCH), ?_, ?_⟩
  · unfold Job.gridMatches
    rw [words]
    change (let st := elemIn r s g [3, 0, 0, 0, 0, 0]
      let ok := st.testBit 2 && elemIn r s g [0, 0, 0, 0, 0, 0] == geomWord r.body && elemIn r s g [1, 0, 0, 0, 0, 0] == particles r.body &&
        elemIn r s g [4, 0, 0, 0, 0, 0] == edgeBits r.body 0 && elemIn r s g [5, 0, 0, 0, 0, 0] == edgeBits r.body 1 &&
        elemIn r s g [6, 0, 0, 0, 0, 0] == edgeBits r.body 2 && elemIn r s g [7, 0, 0, 0, 0, 0] == skinBits r.body
      let r' := ((r.markIf (st.testBit 0) wOVERFLOW).markIf (st.testBit 1) wBINFULL).markIf (!ok) wGRIDMISMATCH
      (⟨s, { r'.setVal auxSkip 1 with upc := if ok then [firstCell r.body, 0, 0, 0] else [endCell r.body, 0, 0, 0] }⟩ : Job)) = _
    simp only [bad, first, second]
    rfl
  · rw [BitVec.getLsbD_or, show (BitVec.ofNat 16 (2 ^ wGRIDMISMATCH)).getLsbD 14 = true by decide, Bool.or_true]

end

/-! ## The pairs of a data block (R156, R158) -/

/-- A job that has changed its status bits and the count of stale members alone. -/
def streamed (s : State) (r : Rec) (x : Job) : Prop :=
  ∃ f aux, x = ⟨s, { r with flags := f, aux := aux }⟩ ∧ ∀ k, k ≠ auxStale → mapGet aux k 0 = r.val k

theorem streamed_trans {s : State} {r q : Rec} {x : Job} (h : streamed s r ⟨s, q⟩) (k : streamed s q x) : streamed s r x := by
  obtain ⟨f, aux, e, kept⟩ := h
  obtain ⟨f', aux', e', kept'⟩ := k
  injection e with _ e
  subst e e'
  exact ⟨f', aux', rfl, fun i hi => (kept' i hi).trans (kept i hi)⟩

section
variable {s : State} (hs : s.poison = []) {p rf g : Handle} (h4 : p.desc.space = 4) (hr4 : rf.desc.space = 4) (hg4 : g.desc.space = 4)
include hs hg4

theorem membersFrom_clean (r : Rec) (upc : List Nat) : ((Job.mk s r).membersFrom g upc).2 = ⟨s, r⟩ := by
  unfold Job.membersFrom
  dsimp only
  refine List.foldlRecOn (motive := fun a : List (Nat × Nat × Nat × Bool) × Job => a.2 = ⟨s, r⟩) _ _ rfl fun a ha i _ => ?_
  split
  · exact ha
  · dsimp only
    rw [ha]
    exact congrArg Prod.snd (members_clean hs hg4 r (firstCell r.body + i) r.flags)

include h4 hr4 in
theorem collectPairs_streamed (ms : List (Nat × Nat × Nat × Bool)) (skip : Nat) (acc : List (List Byte)) (r : Rec) :
    streamed s r (collectPairs p rf g ms skip acc ⟨s, r⟩).2.2 := by
  have still : ∀ (q : Rec) f, streamed s q ⟨s, { q with flags := f }⟩ := fun q f => ⟨f, q.aux, rfl, fun _ _ => rfl⟩
  induction ms generalizing skip acc r with
  | nil => exact still r r.flags
  | cons m ms ih =>
    obtain ⟨k, pos, i, io⟩ := m
    rw [collectPairs]
    dsimp only
    split
    · exact streamed_trans (still r _) (ih _ _ _)
    · generalize hX : ite (skip = 0) _ _ = X
      have first : streamed s r X := by
        rw [← hX]
        split
        · rw [position_clean hs h4, position_clean hs hr4]
          dsimp only
          split
          · exact still r r.flags
          · exact ⟨_, mapPut r.aux auxStale (r.val auxStale + 1), rfl, fun k hk => mapGet_mapPut_ne _ _ _ hk⟩
        · exact still r r.flags
      obtain ⟨f, aux, rfl, kept⟩ := first
      obtain ⟨f', pairs⟩ := (mem_pairsOf (r := { r with flags := f, aux := aux }) hs h4 hg4 k i io).1
      rw [pairs]
      have both : streamed s r ⟨s, { r with flags := f', aux := aux }⟩ := ⟨f', aux, rfl, kept⟩
      split
      · exact both
      · exact streamed_trans both (ih _ _ _)

end

/-! ## The steps of NSTRM (R163) -/

/-- COUNT of an NSTRM by its running values (R365). -/
def streamTotal (out last stale : Nat) : Nat := Min.min out (2 ^ 28 - 1) * 2 ^ 20 + last % 64 * 2 ^ 14 + Min.min stale 16383

/-- The end block of a consumer ring (R158). -/
def endBlockBytes (blocks : Nat) : List Byte := pairBlock [pairBytes 0xFFFFFFFF 0xFFFFFFFF 0 0 0 0 0x8000 blocks]

section
variable {s : State} {r : Rec} {q : Ring}

section
variable (hq : mapFind (s.core (r.val (auxRing (r.val auxEnds)) / 32)).rings (r.val (auxRing (r.val auxEnds)) % 32) = some q)
include hq

theorem endBlock_full (hf : q.claim true 1 (.record r.core r.eng r.num) = none) : (Job.mk s r).endBlock = none := by
  simp only [Job.endBlock, publish_full hq hf, Option.map_none]

theorem endBlock_free {q' : Ring} {j : Nat} (hf : q.claim true 1 (.record r.core r.eng r.num) = some (q', [j])) :
    ∃ w, (Job.mk s r).endBlock = some ⟨s.published r.core (r.val (auxRing (r.val auxEnds)) / 32) (r.val (auxRing (r.val auxEnds)) % 32) q q' j
        (endBlockBytes (r.val (auxRingBlocks (r.val auxEnds)))),
      { r with
        wrote := w, aux := mapPut r.aux auxEnds (r.val auxEnds + 1), upc := [endCell r.body, 0, 0, 0]
        count := streamTotal (r.val auxOut) (r.val auxLast) (r.val auxStale), ended := decide (ringCount r.body ≤ r.val auxEnds + 1) }⟩ := by
  obtain ⟨w, publish⟩ := publish_free hq hf (endBlockBytes (r.val (auxRingBlocks (r.val auxEnds))))
  exact ⟨w, congrArg (Option.map _) publish⟩

end

end

/-- An iteration publishes a block in the next slot of a consumer ring, and is held while that is not free (R158). -/
def publishing (c e : Nat) (r : Rec) (rest : List Rec) (s : State) (ring : Nat) (block : List Byte) (next : List Nat) (count : Nat)
    (stops : Bool) (also : Rec → Prop) : Prop :=
  let d := r.val (auxRing ring) / 32
  let x := r.val (auxRing ring) % 32
  ∀ q, mapFind (s.core d).rings x = some q →
    (q.claim true 1 (.record c e r.num) = none → does (.engineIteration c e) s same) ∧
    ∀ q' j, q.claim true 1 (.record c e r.num) = some (q', [j]) → does (.engineIteration c e) s fun s t =>
      iterated c e r rest next count stops also (s.published c d x q q' j block) t

section
variable {s : State} {c e : Nat} {r : Rec} {rest : List Rec} {p rf g : Handle} (h : recordRuns c e .nstrm r rest s)
  (turn : ∀ x, x ∈ r.consumers → s.claimTurn c e (x.1, x.2, true) = true)
include h turn

theorem publishing_of {ring : Nat} {block : List Byte} {next : List Nat} {count : Nat} {stops : Bool} {also : Rec → Prop}
    (step : ∀ q, mapFind (s.core (r.val (auxRing ring) / 32)).rings (r.val (auxRing ring) % 32) = some q →
      (q.claim true 1 (.record r.core r.eng r.num) = none → (Job.mk s r).nstrmStep = none) ∧
      ∀ q' j, q.claim true 1 (.record r.core r.eng r.num) = some (q', [j]) → ∃ y, (Job.mk s r).nstrmStep =
          some ⟨s.published r.core (r.val (auxRing ring) / 32) (r.val (auxRing ring) % 32) q q' j block, y⟩ ∧
        r.ranOn y ∧ also y ∧ y.upc = next ∧ y.count = count ∧ y.ended = stops) :
    publishing c e r rest s ring block next count stops also := by
  obtain ⟨-, queue, -, core, eng, hop, -, -, -, poison⟩ := id h
  have iter : (Job.mk s r).iterate = (Job.mk s r).nstrmStep := by simp only [Job.iterate, hop]
  intro q hq
  obtain ⟨full, free⟩ := step q hq
  rw [core, eng] at full free
  refine ⟨fun hf => does_turn_held h turn (iter.trans (full hf)), fun q' j hf => does_here ?_⟩
  obtain ⟨y, hy, ran, ha, hn, hc, he⟩ := free q' j hf
  refine does_turn h turn (iter.trans hy) ?_ ran ha rfl hn hc he
  rw [Core.engine, published_engines poison]
  exact queue

end

section
variable {s : State} (hs : s.poison = []) {r : Rec} {p rf g : Handle} (hp : r.bind (bodyAt r.body 16 1) = some p)
  (hrf : r.bind (bodyAt r.body 17 1) = some rf) (hg : r.bind (bodyAt r.body 18 1) = some g) (h4 : p.desc.space = 4)
  (hr4 : rf.desc.space = 4) (hg4 : g.desc.space = 4)
include hs hp hrf hg hg4

/-- With no members left, or on another's grid, an end block is due. -/
theorem nstrmStep_ends (hend : endCell r.body ≤ r.upc.getD 0 0 ∧ r.val auxSkip ≠ 0 ∨ r.val auxSkip = 0 ∧ ¬ gridFits r s g) :
    ∃ f aux upc, (Job.mk s r).nstrmStep = (Job.mk s { r with flags := f, aux := aux, upc := upc }).endBlock ∧
      (∀ k, k ≠ auxSkip → mapGet aux k 0 = r.val k) ∧ (r.val auxSkip = 0 → f.getLsbD 14 = true) := by
  rcases hend with ⟨hend, hk⟩ | ⟨hk, misfit⟩
  · refine ⟨r.flags, r.aux, r.upc, ?_, fun _ _ => rfl, fun h0 => absurd h0 hk⟩
    simp only [Job.nstrmStep, hp, hrf, hg, if_neg hk, if_neg (Nat.not_lt.mpr hend)]
  · obtain ⟨f, matches_, bit⟩ := gridMatches_misfit hs hg4 r misfit
    refine ⟨f, mapPut r.aux auxSkip 1, [endCell r.body, 0, 0, 0], ?_, fun k hk => mapGet_mapPut_ne _ _ _ hk, fun _ => bit⟩
    simp only [Job.nstrmStep, hp, hrf, hg, if_pos hk, matches_]
    exact if_neg (Nat.lt_irrefl _)

/-- With members left, a data block is due where they have pairs. -/
theorem nstrmStep_data (hk : r.val auxSkip ≠ 0) (hu : r.upc.getD 0 0 < endCell r.body) {found : List (List Byte) × Option (List Nat) × Job}
    (hfound : collectPairs p rf g ((Job.mk s r).membersFrom g r.upc).1 (r.upc.getD 2 0) [] ⟨s, r⟩ = found) (hne : found.1 ≠ []) :
    (Job.mk s r).nstrmStep = (found.2.2.publish (found.2.2.r.val auxOut % ringCount r.body) (pairBlock found.1)).map fun z =>
      let q := ((z.r.setVal auxOut (found.2.2.r.val auxOut + 1)).setVal auxLast found.1.length).setVal
        (auxRingBlocks (found.2.2.r.val auxOut % ringCount r.body)) (z.r.val (auxRingBlocks (found.2.2.r.val auxOut % ringCount r.body)) + 1)
      { z with r := { q with upc := found.2.1.getD [endCell r.body, 0, 0, 0], count := q.streamCount } } := by
  have full : found.1.isEmpty = false := by rw [Bool.eq_false_iff, ne_eq, List.isEmpty_iff]; exact hne
  simp only [Job.nstrmStep, hp, hrf, hg, if_neg hk, if_pos hu, membersFrom_clean hs hg4, hfound, full]
  rfl

end

section
variable {s : State} {c e : Nat} {r : Rec} {rest : List Rec} {p rf g : Handle} (h : recordRuns c e .nstrm r rest s)
  (turn : ∀ x, x ∈ r.consumers → s.claimTurn c e (x.1, x.2, true) = true) (hp : r.bind (bodyAt r.body 16 1) = some p)
  (hrf : r.bind (bodyAt r.body 17 1) = some rf) (hg : r.bind (bodyAt r.body 18 1) = some g) (h4 : p.desc.space = 4)
  (hr4 : rf.desc.space = 4) (hg4 : g.desc.space = 4)
include h turn hp hrf hg hg4

theorem publishes_end (hend : endCell r.body ≤ r.upc.getD 0 0 ∧ r.val auxSkip ≠ 0 ∨ r.val auxSkip = 0 ∧ ¬ gridFits r s g) :
    publishing c e r rest s (r.val auxEnds) (endBlockBytes (r.val (auxRingBlocks (r.val auxEnds)))) [endCell r.body, 0, 0, 0]
      (streamTotal (r.val auxOut) (r.val auxLast) (r.val auxStale)) (decide (ringCount r.body ≤ r.val auxEnds + 1))
      fun r' => r'.val auxEnds = r.val auxEnds + 1 ∧ (r.val auxSkip = 0 → r'.flags.getLsbD 14 = true) := by
  obtain ⟨-, -, -, -, -, -, -, -, -, poison⟩ := id h
  obtain ⟨f, aux, upc, step, kept, bit⟩ := nstrmStep_ends poison hp hrf hg hg4 hend
  generalize hy : ({ r with flags := f, aux := aux, upc := upc } : Rec) = y at step
  have val : ∀ k, k ≠ auxSkip → y.val k = r.val k := fun k hk => by rw [← hy]; exact kept k hk
  have ends := val auxEnds (by decide)
  have ring := val (auxRing (r.val auxEnds)) (by unfold auxRing auxSkip; omega)
  have blocks := val (auxRingBlocks (r.val auxEnds)) (by unfold auxRingBlocks auxSkip; omega)
  have out := val auxOut (by decide)
  have last := val auxLast (by decide)
  have stale := val auxStale (by decide)
  refine publishing_of h turn fun q hq => ?_
  have hq' : mapFind (s.core (y.val (auxRing (y.val auxEnds)) / 32)).rings (y.val (auxRing (y.val auxEnds)) % 32) = some q := by
    rw [ends, ring]; exact hq
  have num : y.num = r.num := by rw [← hy]
  have core : y.core = r.core := by rw [← hy]
  have eng : y.eng = r.eng := by rw [← hy]
  refine ⟨fun hf => step.trans (endBlock_full hq' (by rw [core, eng, num]; exact hf)), fun q' j hf => ?_⟩
  obtain ⟨w, block⟩ := endBlock_free hq' (q' := q') (j := j) (by rw [core, eng, num]; exact hf)
  rw [ends, ring, blocks, out, last, stale, core] at block
  refine ⟨_, step.trans block, ?_, ⟨Rec.val_setVal_self y _ _, fun h0 => ?_⟩, ?_, rfl, ?_⟩
  · rw [← hy]; rfl
  · rw [← hy]; exact bit h0
  · rw [← hy]
  · rw [← hy]

include h4 hr4 in
theorem publishes_data (hk : r.val auxSkip ≠ 0) (hu : r.upc.getD 0 0 < endCell r.body) {found : List (List Byte) × Option (List Nat) × Job}
    (hfound : collectPairs p rf g ((Job.mk s r).membersFrom g r.upc).1 (r.upc.getD 2 0) [] ⟨s, r⟩ = found) (hne : found.1 ≠ []) :
    publishing c e r rest s (r.val auxOut % ringCount r.body) (pairBlock found.1) (found.2.1.getD [endCell r.body, 0, 0, 0])
      (streamTotal (r.val auxOut + 1) found.1.length (found.2.2.r.val auxStale)) false
      fun r' => r'.val auxOut = r.val auxOut + 1 ∧
        r'.val (auxRingBlocks (r.val auxOut % ringCount r.body)) = r.val (auxRingBlocks (r.val auxOut % ringCount r.body)) + 1 := by
  obtain ⟨-, -, -, -, -, -, -, ended, -, poison⟩ := id h
  have step := nstrmStep_data poison hp hrf hg hg4 hk hu hfound hne
  obtain ⟨f, aux, job, kept⟩ := collectPairs_streamed poison h4 hr4 hg4 ((Job.mk s r).membersFrom g r.upc).1 (r.upc.getD 2 0) [] r
  rw [hfound] at job
  generalize hy : ({ r with flags := f, aux := aux } : Rec) = y at job
  have val : ∀ k, k ≠ auxStale → y.val k = r.val k := fun k hk => by rw [← hy]; exact kept k hk
  rw [job] at step
  dsimp only at step
  rw [val auxOut (by decide)] at step
  generalize hn : r.val auxOut % ringCount r.body = n at step
  have ring := val (auxRing n) (by unfold auxRing auxStale; omega)
  have num : y.num = r.num := by rw [← hy]
  have core : y.core = r.core := by rw [← hy]
  have eng : y.eng = r.eng := by rw [← hy]
  refine publishing_of h turn fun q hq => ?_
  have hq' : mapFind (s.core (y.val (auxRing n) / 32)).rings (y.val (auxRing n) % 32) = some q := by rw [ring]; exact hq
  refine ⟨fun hf => ?_, fun q' j hf => ?_⟩
  · rw [step, publish_full hq' (by rw [core, eng, num]; exact hf)]
    rfl
  · obtain ⟨w, publish⟩ := publish_free hq' (q' := q') (j := j) (by rw [core, eng, num]; exact hf) (pairBlock found.1)
    rw [publish, Option.map_some, ring, core] at step
    have apart : ∀ k, k = auxOut ∨ k = auxLast ∨ k = auxStale → k ≠ auxRingBlocks n := fun k hk => by
      rcases hk with rfl | rfl | rfl <;> (unfold auxRingBlocks; exact Nat.ne_of_lt (Nat.lt_of_lt_of_le (by decide) (Nat.le_add_right 136 n)))
    refine ⟨_, step, ?_, ⟨?_, ?_⟩, rfl, ?_, ?_⟩
    · rw [← hy]; rfl
    · exact (Rec.val_setVal_ne _ _ (apart _ (.inl rfl))).trans ((Rec.val_setVal_ne _ _ (by decide)).trans (Rec.val_setVal_self _ _ _))
    · refine (Rec.val_setVal_self _ _ _).trans (congrArg (· + 1) ?_)
      exact val _ (by unfold auxRingBlocks auxStale; omega)
    · dsimp only [Rec.streamCount]
      rw [Rec.val_setVal_ne _ _ (apart _ (.inl rfl)), Rec.val_setVal_ne _ _ (by decide), Rec.val_setVal_self,
        Rec.val_setVal_ne _ _ (apart _ (.inr (.inl rfl))), Rec.val_setVal_self, Rec.val_setVal_ne _ _ (apart _ (.inr (.inr rfl))),
        Rec.val_setVal_ne _ _ (by decide), Rec.val_setVal_ne _ _ (by decide), job]
      rfl
    · rw [← hy]; exact ended

end

theorem neighbourIterations_hold : neighbourIterations := by
  intro c e i r rest p rf g s hp hrf hg h4 hr4 hg4 b words novf st lost
  refine ⟨fun h hu => ?_, ?_⟩
  · intro w cell first
    exact does_here (does_nbinClears hp hrf hg h hu)
  refine ⟨fun h hu => ?_, fun h turn => ?_⟩
  · intro axes at_ placed u w grid n case stops header
    have entry : case = particleEntry r s p rf g i := rfl
    have last : header = if particles r.body ≤ i + 1 then gridHeader r g (particleEntry r s p rf g i).2.2.2 else [] :=
      if_congr decide_eq_true_iff rfl rfl
    rw [last, entry]
    exact does_here (does_nbinEnters hp hrf hg h h4 hg4 hu)
  · intro word fits publishes
    refine ⟨fun hend => publishes_end h turn hp hrf hg hg4 hend, fun hk hu => ?_⟩
    intro x m found stale n hne
    have start : m.2 = ⟨s, r⟩ := by
      obtain ⟨-, -, -, -, -, -, -, -, -, poison⟩ := h
      exact membersFrom_clean poison hg4 r r.upc
    have hfound : collectPairs p rf g ((Job.mk s r).membersFrom g r.upc).1 (r.upc.getD 2 0) [] ⟨s, r⟩ = found :=
      congrArg (collectPairs p rf g m.1 (r.upc.getD 2 0) []) start.symm
    exact publishes_data h turn hp hrf hg h4 hr4 hg4 hk hu hfound hne

end Sys2Proof.Machine
end

section
/-! An iteration of the index engine: GATH, SCAT, CMPT and MERG (R360, R361, R363). -/

open Sys2Proof Sys2Proof.Machine Sys2Proof.Claims

namespace Sys2Proof.Machine

/-! ## Rows -/

/-- A map of which some keys are left. -/
theorem mapFind_filter {α : Type} (m : Map α) (p : Nat → Bool) {k : Nat} (hk : p k = true) :
    mapFind (m.filter fun q => p q.1) k = mapFind m k := by
  induction m with
  | nil => rfl
  | cons q m ih =>
    by_cases hq : p q.1 = true
    · rw [List.filter_cons_of_pos (p := fun q : Nat × α => p q.1) hq, mapFind, mapFind, ih]
    · rw [List.filter_cons_of_neg (p := fun q : Nat × α => p q.1) hq, ih, mapFind, if_neg]
      rintro rfl
      exact hq hk

/-- What is counted anew for each row is no running value of the row's record (R377). -/
theorem Rec.val_forgetUnits (r : Rec) {k : Nat} (hk : k < auxUnit) : r.forgetUnits.val k = r.val k :=
  congrArg (Option.getD · 0) (mapFind_filter r.aux (fun i => decide (i < auxUnit)) (decide_eq_true hk))

section
variable {s : State} {c e k : Nat} {r : Rec} {rest : List Rec} {h0 h1 h2 : Handle}

/-- A step of a row-by-row record: what the row delivers, through the destination. -/
theorem rowStep_eq {row : Row} {u : State} {q : Rec} {es : List (List Nat × Nat)} (hrow : row ⟨s, r⟩ = (⟨u, q⟩, es)) (h : Handle) (n : Nat) :
    ∃ w f, (Job.mk s r).rowStep row h n = ⟨elemsPut q [(h, es)] u, { q with wrote := w, flags := f }⟩ ∧
      ∀ i, q.flags.getLsbD i = true → f.getLsbD i = true := by
  obtain ⟨w, f, deliver⟩ := (Job.mk u q).deliver_eq h es fun y => laterValue row h y n ⟨s, r⟩
  refine ⟨w, f, ?_, fun i hi => ?_⟩
  · rw [Job.rowStep, hrow]
    exact deliver
  · have flag := (Job.mk u q).deliver_flag h es (fun y => laterValue row h y n ⟨s, r⟩) hi
    rw [deliver] at flag
    exact flag

/-! ## GATH and SCAT (R360) -/

section
variable (hs : s.poison = []) (hu : r.upc = [0, 0, 0, k]) (s0 : h0.desc.space ≠ 6) (s1 : h1.desc.space ≠ 6) (s2 : h2.desc.space ≠ 6)
include hs hu s1

/-- The index of a row, as read. -/
def rowIndex (r : Rec) (s : State) (h : Handle) (k : Nat) : Int :=
  indexValue h.desc.fmt (elemIn r s h [bodyWord r.body 0 + k, 0, 0, 0, 0, 0])

omit hs s1 in
/-- A record that a row of GATH or SCAT leaves: its counts, and the row after it. -/
theorem gathCount_nextRow (q : Rec) (n : Nat) (hq : q.upc = r.upc) : (q.gathCount).nextRow n =
    { q with
      upc := [0, 0, 0, k + 1], ended := decide (n ≤ k + 1), count := q.val auxOut % 2 ^ 24 + 2 ^ 24 * (q.val auxSkip % 2 ^ 24) } := by
  have u3 : q.upc.getD 3 0 = k := by rw [hq, hu]; rfl
  rw [Rec.gathCount, Rec.nextRow]
  dsimp only
  rw [u3]

/-- The index read, the row is in the table or not (R360). -/
theorem gathRow_index (scat : Bool) : gathRow scat h0 h1 h2 ⟨s, r⟩ =
    (let x : Job := ⟨s, r.forgetUnits⟩
     let fin := fun (x : Job) => { x with r := (x.r.gathCount).nextRow (gathRows r.body) }
     let table := rowCoords (gathWidth r.body) (bodyWord r.body 2) (rowIndex r s h1 k).toNat
     let side := rowCoords (gathWidth r.body) (bodyWord r.body 3) (bodyWord r.body 1 + k)
     if rowIndex r s h1 k < 0 ∨ ((r.extents h0).getD 1 1 : Int) ≤ rowIndex r s h1 k then
       (fin { x with r := (x.r.setVal auxSkip (x.r.val auxSkip + 1)).mark wSKIPPED }, [])
     else
       let c := if scat then x.read h2 side else x.read h0 table
       let d := if scat && gathAdd r.body then c.2.read h0 table else ([], c.2)
       let vs := if scat && gathAdd r.body then (c.1.zip d.1).map fun p => rmwResult .add h0.desc.fmt p.2 p.1 else c.1
       (fin { d.2 with r := (d.2.r.deliveredAll h0.desc.fmt vs).setVal auxOut (d.2.r.val auxOut + 1) },
        (if scat then table else side).zip vs)) := by
  have u3 : r.upc.getD 3 0 = k := by rw [hu]; rfl
  have index := Job.read_clean (x := ⟨s, r.forgetUnits⟩) hs s1 [[bodyWord r.body 0 + k, 0, 0, 0, 0, 0]]
  unfold gathRow
  dsimp only
  rw [u3, index]
  refine if_congr ?_ rfl rfl
  rw [Bool.or_eq_true, decide_eq_true_eq, decide_eq_true_eq]
  rfl

/-- The record after a row of GATH or SCAT: so many rows moved, so many passed over. -/
def Rec.gathered (r : Rec) (k moved skipped : Nat) (f : BitVec 16) (aux : Map Nat) : Rec :=
  { r with
    flags := f, aux := aux, upc := [0, 0, 0, k + 1], ended := decide (gathRows r.body ≤ k + 1)
    count := moved % 2 ^ 24 + 2 ^ 24 * (skipped % 2 ^ 24) }

/-- A row whose index lies outside the table is passed over. -/
theorem gathRow_skips (scat : Bool) (hj : rowIndex r s h1 k < 0 ∨ ((r.extents h0).getD 1 1 : Int) ≤ rowIndex r s h1 k) :
    ∃ f aux, gathRow scat h0 h1 h2 ⟨s, r⟩ = (⟨s, r.gathered k (r.val auxOut) (r.val auxSkip + 1) f aux⟩, []) ∧ f.getLsbD 6 = true := by
  have out : ((r.forgetUnits.setVal auxSkip (r.forgetUnits.val auxSkip + 1)).mark wSKIPPED).val auxOut = r.val auxOut :=
    (Rec.val_setVal_ne _ _ (by decide)).trans (r.val_forgetUnits (by decide))
  have skip : ((r.forgetUnits.setVal auxSkip (r.forgetUnits.val auxSkip + 1)).mark wSKIPPED).val auxSkip = r.val auxSkip + 1 :=
    (Rec.val_setVal_self _ _ _).trans (congrArg (· + 1) (r.val_forgetUnits (by decide)))
  refine ⟨r.flags ||| BitVec.ofNat 16 (2 ^ wSKIPPED), (r.forgetUnits.setVal auxSkip (r.forgetUnits.val auxSkip + 1)).aux, ?_, ?_⟩
  · rw [gathRow_index hs hu s1]
    dsimp only
    have next := gathCount_nextRow hu ((r.forgetUnits.setVal auxSkip (r.forgetUnits.val auxSkip + 1)).mark wSKIPPED) (gathRows r.body) rfl
    rw [if_pos hj, next, out, skip]
    rfl
  · rw [BitVec.getLsbD_or, show (BitVec.ofNat 16 (2 ^ wSKIPPED)).getLsbD 6 = true by decide, Bool.or_true]

/-- The elements of the row of the table that the index names, and of the row beside it. -/
def tableRow (r : Rec) (s : State) (h : Handle) (k : Nat) : List (List Nat) :=
  rowCoords (gathWidth r.body) (bodyWord r.body 2) (rowIndex r s h k).toNat
def sideRow (r : Rec) (k : Nat) : List (List Nat) := rowCoords (gathWidth r.body) (bodyWord r.body 3) (bodyWord r.body 1 + k)

/-- What a row of GATH or SCAT delivers. -/
def gathElems (scat : Bool) (r : Rec) (s : State) (h0 h1 h2 : Handle) (k : Nat) : List (List Nat × Nat) :=
  if scat then (tableRow r s h1 k).zip (if gathAdd r.body then
      (((sideRow r k).map (elemIn r s h2)).zip ((tableRow r s h1 k).map (elemIn r s h0))).map fun p => rmwResult .add h0.desc.fmt p.2 p.1
    else (sideRow r k).map (elemIn r s h2))
  else (sideRow r k).zip ((tableRow r s h1 k).map (elemIn r s h0))

include s0 s2 in
/-- A row whose index lies in the table is moved. -/
theorem gathRow_moves (scat : Bool) (hj : ¬ (rowIndex r s h1 k < 0 ∨ ((r.extents h0).getD 1 1 : Int) ≤ rowIndex r s h1 k)) :
    ∃ f aux, gathRow scat h0 h1 h2 ⟨s, r⟩ =
      (⟨s, r.gathered k (r.val auxOut + 1) (r.val auxSkip) f aux⟩, gathElems scat r s h0 h1 h2 k) := by
  have read0 := Job.read_clean (x := ⟨s, r.forgetUnits⟩) hs s0
  have read2 := Job.read_clean (x := ⟨s, r.forgetUnits⟩) hs s2
  rw [gathRow_index hs hu s1]
  dsimp only
  rw [if_neg hj]
  have fin : ∀ vs, ∃ f aux, (((r.forgetUnits.deliveredAll h0.desc.fmt vs).setVal auxOut (r.forgetUnits.val auxOut + 1)).gathCount).nextRow
      (gathRows r.body) = r.gathered k (r.val auxOut + 1) (r.val auxSkip) f aux := fun vs => by
    obtain ⟨f, delivered⟩ := r.forgetUnits.deliveredAll_eq h0.desc.fmt vs
    generalize r.forgetUnits.deliveredAll h0.desc.fmt vs = q at delivered
    have out : (q.setVal auxOut (r.forgetUnits.val auxOut + 1)).val auxOut = r.val auxOut + 1 :=
      (Rec.val_setVal_self _ _ _).trans (congrArg (· + 1) (r.val_forgetUnits (by decide)))
    have skip : (q.setVal auxOut (r.forgetUnits.val auxOut + 1)).val auxSkip = r.val auxSkip := by
      rw [Rec.val_setVal_ne _ _ (by decide), delivered]
      exact r.val_forgetUnits (by decide)
    have next := gathCount_nextRow hu (q.setVal auxOut (r.forgetUnits.val auxOut + 1)) (gathRows r.body) (by rw [delivered]; rfl)
    rw [next, out, skip, delivered]
    exact ⟨f, _, rfl⟩
  cases scat
  · obtain ⟨f, aux, hf⟩ := fin ((tableRow r s h1 k).map (elemIn r s h0))
    refine ⟨f, aux, ?_⟩
    simp only [Bool.false_and, Bool.false_eq_true, if_false, read0, gathElems]
    exact Prod.ext (congrArg (Job.mk s) hf) rfl
  · by_cases add : gathAdd r.body = true
    · obtain ⟨f, aux, hf⟩ := fin ((((sideRow r k).map (elemIn r s h2)).zip ((tableRow r s h1 k).map (elemIn r s h0))).map
        fun p => rmwResult .add h0.desc.fmt p.2 p.1)
      refine ⟨f, aux, ?_⟩
      simp only [add, Bool.and_self, if_true, read0, read2, gathElems]
      exact Prod.ext (congrArg (Job.mk s) hf) rfl
    · obtain ⟨f, aux, hf⟩ := fin ((sideRow r k).map (elemIn r s h2))
      refine ⟨f, aux, ?_⟩
      simp only [Bool.and_eq_true, add, and_false, Bool.false_eq_true, if_true, if_false, read0, read2, gathElems]
      exact Prod.ext (congrArg (Job.mk s) hf) rfl

section
variable (b0 : r.bind (bodyAt r.body 16 1) = some h0) (b1 : r.bind (bodyAt r.body 17 1) = some h1)
  (b2 : r.bind (bodyAt r.body 18 1) = some h2) (scat : Bool)
include b0 b1 b2

omit hs hu s1 in
theorem iterate_gath (hop : r.op = if scat then .scat else .gath) : (Job.mk s r).iterate =
    some ((Job.mk s r).rowStep (gathRow scat h0 h1 h2) (if scat then h0 else h2) (gathRows r.body)) := by
  cases scat
  · rw [if_neg Bool.false_ne_true] at hop
    simp only [Job.iterate, hop, Job.gathStep, b0, b1, b2]
  · rw [if_pos rfl] at hop
    simp only [Job.iterate, hop, Job.gathStep, b0, b1, b2]

section
variable (h : recordRuns c e (if scat then .scat else .gath) r rest s)
include h

omit hs b0 b1 b2 hu s1 h in
theorem gath_consumes_nothing : (if scat then RecOp.scat else RecOp.gath) ≠ .nstrm := by
  cases scat <;> decide

theorem does_gathSkips (hj : rowIndex r s h1 k < 0 ∨ ((r.extents h0).getD 1 1 : Int) ≤ rowIndex r s h1 k) :
    does (.engineIteration c e) s fun _ t => iterated c e r rest [0, 0, 0, k + 1]
      (r.val auxOut % 2 ^ 24 + 2 ^ 24 * ((r.val auxSkip + 1) % 2 ^ 24)) (decide (gathRows r.body ≤ k + 1))
      (fun r' => r'.flags.getLsbD 6 = true) s t := by
  obtain ⟨-, -, -, -, -, hop, -⟩ := id h
  obtain ⟨f, aux, row, bit⟩ := gathRow_skips (h0 := h0) (h2 := h2) hs hu s1 scat hj
  obtain ⟨w, f', step, flags⟩ := rowStep_eq row (if scat then h0 else h2) (gathRows r.body)
  rw [elemsPut_no_elements] at step
  exact does_iterate h (gath_consumes_nothing scat) ((iterate_gath b0 b1 b2 scat hop).trans (congrArg some step)) (engineWrote_refl hs) rfl
    (flags _ bit) rfl rfl rfl rfl

include s0 s2 in
theorem does_gathMoves (hj : ¬ (rowIndex r s h1 k < 0 ∨ ((r.extents h0).getD 1 1 : Int) ≤ rowIndex r s h1 k)) :
    does (.engineIteration c e) s fun _ t => iterated c e r rest [0, 0, 0, k + 1]
      ((r.val auxOut + 1) % 2 ^ 24 + 2 ^ 24 * (r.val auxSkip % 2 ^ 24)) (decide (gathRows r.body ≤ k + 1)) (fun _ => True)
      (elemsPut r [(if scat then h0 else h2, gathElems scat r s h0 h1 h2 k)] s) t := by
  obtain ⟨-, -, -, -, -, hop, -⟩ := id h
  obtain ⟨f, aux, row⟩ := gathRow_moves hs hu s0 s1 s2 scat hj
  obtain ⟨w, f', step, -⟩ := rowStep_eq row (if scat then h0 else h2) (gathRows r.body)
  exact does_iterate h (gath_consumes_nothing scat) ((iterate_gath b0 b1 b2 scat hop).trans (congrArg some step))
    (engineWrote_elemsPut r hs _) rfl trivial rfl rfl rfl rfl

end

end

end

/-! ## CMPT (R363) -/

section
variable (hs : s.poison = []) (hu : r.upc = [0, 0, 0, k]) (s0 : h0.desc.space ≠ 6) (s1 : h1.desc.space ≠ 6)
  (b0 : r.bind (bodyAt r.body 16 1) = some h0) (b1 : r.bind (bodyAt r.body 17 1) = some h1)
  (b2 : r.bind (bodyAt r.body 18 1) = some h2)

/-- The row's flag keeps it. -/
def rowKept (r : Rec) (s : State) (h : Handle) (k : Nat) : Bool :=
  (elemIn r s h [bodyWord r.body 1 + k, 0, 0, 0, 0, 0] != 0) != (bodyBits r.body 19 0 1 == 1)

section
include hs hu s0 s1

theorem cmptRow_eq : ∃ f aux, cmptRow h0 h1 ⟨s, r⟩ = (⟨s, { r with
      flags := f, aux := aux, upc := [0, 0, 0, k + 1], ended := decide (cmptRows r.body ≤ k + 1)
      count := if rowKept r s h1 k then r.val auxOut + 1 else r.count }⟩,
      if rowKept r s h1 k then (rowCoords (cmptWidth r.body) 0 (bodyWord r.body 2 + r.val auxOut)).zip
        ((rowCoords (cmptWidth r.body) 0 (bodyWord r.body 0 + k)).map (elemIn r s h0)) else []) ∧
    mapGet aux auxOut 0 = if rowKept r s h1 k then r.val auxOut + 1 else r.val auxOut := by
  have u3 : r.upc.getD 3 0 = k := by rw [hu]; rfl
  have flag := Job.read_clean (x := ⟨s, r.forgetUnits⟩) hs s1 [[bodyWord r.body 1 + k, 0, 0, 0, 0, 0]]
  have row := Job.read_clean (x := ⟨s, r.forgetUnits⟩) hs s0 (rowCoords (cmptWidth r.body) 0 (bodyWord r.body 0 + k))
  have out : r.forgetUnits.val auxOut = r.val auxOut := r.val_forgetUnits (by decide)
  have test : (((([[bodyWord r.body 1 + k, 0, 0, 0, 0, 0]].map (elemIn r.forgetUnits s h1)).getD 0 0 != 0) != (bodyBits r.body 19 0 1 == 1))
      = rowKept r s h1 k) := rfl
  unfold cmptRow
  dsimp only
  rw [u3, flag]
  dsimp only
  rw [test]
  have next : ∀ (q : Rec) (n : Nat), q.upc = r.upc → q.nextRow n = { q with upc := [0, 0, 0, k + 1], ended := decide (n ≤ k + 1) } :=
    fun q n hq => by rw [Rec.nextRow, hq, u3]
  cases hk : rowKept r s h1 k
  · refine ⟨r.flags, r.forgetUnits.aux, ?_, out⟩
    rw [if_neg Bool.false_ne_true, next r.forgetUnits _ rfl]
    rfl
  · obtain ⟨f, delivered⟩ := r.forgetUnits.deliveredAll_eq h0.desc.fmt
      ((rowCoords (cmptWidth r.body) 0 (bodyWord r.body 0 + k)).map (elemIn r s h0))
    refine ⟨f, (r.forgetUnits.setVal auxOut (r.val auxOut + 1)).aux, ?_, Rec.val_setVal_self _ _ _⟩
    rw [if_pos rfl, row]
    dsimp only
    rw [out]
    refine Prod.ext (congrArg (Job.mk s) ?_) rfl
    have same : elemIn r.forgetUnits s h0 = elemIn r s h0 := rfl
    rw [same, delivered, next]
    · rfl
    · rfl

end

section
variable (h : recordRuns c e .cmpt r rest s)
include h hu s0 s1 b0 b1 b2

theorem does_cmpt : does (.engineIteration c e) s fun _ t => iterated c e r rest [0, 0, 0, k + 1]
    (if rowKept r s h1 k then r.val auxOut + 1 else r.count) (decide (cmptRows r.body ≤ k + 1))
    (fun r' => r'.val auxOut = if rowKept r s h1 k then r.val auxOut + 1 else r.val auxOut)
    (elemsPut r [(h2, if rowKept r s h1 k then (rowCoords (cmptWidth r.body) 0 (bodyWord r.body 2 + r.val auxOut)).zip
        ((rowCoords (cmptWidth r.body) 0 (bodyWord r.body 0 + k)).map (elemIn r s h0)) else [])] s) t := by
  obtain ⟨-, -, -, -, -, hop, -, -, -, poison⟩ := id h
  obtain ⟨f, aux, row, out⟩ := cmptRow_eq poison hu s0 s1
  obtain ⟨w, f', step, -⟩ := rowStep_eq row h2 (cmptRows r.body)
  have iter : (Job.mk s r).iterate = some ((Job.mk s r).rowStep (cmptRow h0 h1) h2 (cmptRows r.body)) := by
    simp only [Job.iterate, hop, Job.cmptStep, b0, b1, b2]
  exact does_iterate h (by decide) (iter.trans (congrArg some step)) (engineWrote_elemsPut r poison _) rfl out rfl rfl rfl rfl

end

end

end

end Sys2Proof.Machine
end

section
/-! An iteration of MERG (R361). -/

open Sys2Proof Sys2Proof.Machine Sys2Proof.Claims

namespace Sys2Proof.Machine

/-! ## The least head -/

/-- The first of the least keys among live inputs, as they are looked at in turn. -/
def leastHead (live : Nat → Bool) (key : Nat → Machine.Num) (a : Option (Nat × Machine.Num)) (i : Nat) : Option (Nat × Machine.Num) :=
  if live i then
    match a with
    | none => some (i, key i)
    | some y => if keyLess (key i) y.2 then some (i, key i) else some y
  else a

section
variable {live : Nat → Bool} {key : Nat → Machine.Num}

theorem leastHead_none {n : Nat} (h : ∀ j, j < n → live j = false) : (List.range n).foldl (leastHead live key) none = none := by
  induction n with
  | zero => rfl
  | succ n ih =>
    rw [List.range_succ, List.foldl_append, ih fun j hj => h j (Nat.lt_succ_of_lt hj), List.foldl_cons, List.foldl_nil, leastHead,
      h n (Nat.lt_succ_self n)]
    rfl

/-- What is found among the first `n` inputs is a live one with its key. -/
theorem leastHead_live (n : Nat) : (List.range n).foldl (leastHead live key) none = none ∨
    ∃ j, j < n ∧ live j = true ∧ (List.range n).foldl (leastHead live key) none = some (j, key j) := by
  induction n with
  | zero => exact .inl rfl
  | succ n ih =>
    rw [List.range_succ, List.foldl_append, List.foldl_cons, List.foldl_nil]
    by_cases hl : live n = true
    · rcases ih with ih | ⟨j, hj, lj, ih⟩
      · rw [ih, leastHead, if_pos hl]
        exact .inr ⟨n, Nat.lt_succ_self n, hl, rfl⟩
      · rw [ih, leastHead, if_pos hl]
        dsimp only
        split
        · exact .inr ⟨n, Nat.lt_succ_self n, hl, rfl⟩
        · exact .inr ⟨j, Nat.lt_succ_of_lt hj, lj, rfl⟩
    · rw [leastHead.eq_def, if_neg hl]
      exact ih.imp_right fun ⟨j, hj, lj, e⟩ => ⟨j, Nat.lt_succ_of_lt hj, lj, e⟩

/-- The least head, the lowest input first, is found. -/
theorem leastHead_least {i n : Nat} (hi : i < n) (li : live i = true)
    (least : ∀ j, j < n → live j = true → keyLess (key j) (key i) = false ∧ (j < i → keyLess (key i) (key j) = true)) :
    (List.range n).foldl (leastHead live key) none = some (i, key i) := by
  induction n with
  | zero => exact absurd hi (Nat.not_lt_zero i)
  | succ n ih =>
    rw [List.range_succ, List.foldl_append, List.foldl_cons, List.foldl_nil]
    rcases Nat.lt_or_eq_of_le (Nat.le_of_lt_succ hi) with hlt | rfl
    · rw [ih hlt fun j hj => least j (Nat.lt_succ_of_lt hj), leastHead]
      split
      · rename_i ln
        rw [(least n (Nat.lt_succ_self n) ln).1]
        rfl
      · rfl
    · rcases leastHead_live (live := live) (key := key) i with found | ⟨j, hj, lj, found⟩
      · rw [found, leastHead, if_pos li]
      · rw [found, leastHead, if_pos li]
        exact if_pos ((least j (Nat.lt_succ_of_lt hj) lj).2 hj)

end

/-- A fold whose steps leave what they carry along. -/
theorem foldl_carried {α β σ : Type} {step : α × σ → β → α × σ} {pure_ : α → β → α} {x : σ} (h : ∀ a i, step (a, x) i = (pure_ a i, x))
    (l : List β) (a : α) : l.foldl step (a, x) = (l.foldl pure_ a, x) := by
  induction l generalizing a with
  | nil => rfl
  | cons i l ih => rw [List.foldl_cons, h, ih, List.foldl_cons]

/-! ## The steps of MERG -/

section
variable {s : State} {c e i : Nat} {r : Rec} {rest : List Rec} {h0 h1 : Handle}

/-- The record that an input stands at, and its key. -/
def headRow (r : Rec) (j : Nat) : Nat := r.val (auxStart j) + r.val (auxInput + j)
def headKey (r : Rec) (s : State) (h : Handle) (j : Nat) : Machine.Num :=
  mergKeyOf (mergKey r.body) (packElems 8 ((rowCoords 8 0 (headRow r j)).map (elemIn r s h)))
def headLive (r : Rec) (j : Nat) : Bool := decide (r.val (auxInput + j) < r.val (auxCount j))

section
variable (hs : s.poison = []) (s0 : h0.desc.space ≠ 6)
include hs s0

theorem mergKeyAt_clean (row : Nat) : (Job.mk s r).mergKeyAt h0 row =
    (mergKeyOf (mergKey r.body) (packElems 8 ((rowCoords 8 0 row).map (elemIn r s h0))), ⟨s, r⟩) := by
  simp only [Job.mergKeyAt, Job.read_clean (x := ⟨s, r⟩) hs s0]

theorem mergHead_clean : (Job.mk s r).mergHead h0 =
    ((List.range (mergInputs r.body)).foldl (leastHead (headLive r) (headKey r s h0)) none, ⟨s, r⟩) := by
  refine foldl_carried (fun a i => ?_) _ none
  dsimp only
  rw [mergKeyAt_clean hs s0, leastHead.eq_def, headLive]
  by_cases hl : r.val (auxCount i) ≤ r.val (auxInput + i)
  · rw [if_pos hl, decide_eq_false (Nat.not_lt.mpr hl), if_neg Bool.false_ne_true]
  · rw [if_neg hl, decide_eq_true (Nat.not_le.mp hl), if_pos rfl]
    rfl

/-- The record of the least key copied (R361). -/
theorem mergRow_copies (hopen : mergMax r.body = 0 ∨ r.val auxOut < mergMax r.body) (hi : i < mergInputs r.body) (li : headLive r i = true)
    (least : ∀ j, j < mergInputs r.body → headLive r j = true →
      keyLess (headKey r s h0 j) (headKey r s h0 i) = false ∧ (j < i → keyLess (headKey r s h0 i) (headKey r s h0 j) = true)) :
    ∃ f, mergRow h0 ⟨s, r⟩ = (⟨s, { r with
        flags := f, aux := mapPut (mapPut r.aux auxOut (r.val auxOut + 1)) (auxInput + i) (r.val (auxInput + i) + 1)
        count := r.val auxOut + 1, upc := [0, 0, 0, r.val auxOut + 1] }⟩,
      (rowCoords (mergBytes r.body) 0 (bodyWord r.body 0 + r.val auxOut)).zip
        ((rowCoords (mergBytes r.body) 0 (headRow r i)).map (elemIn r s h0))) := by
  have limit : ¬ (decide (mergMax r.body ≠ 0) && decide (mergMax r.body ≤ r.val auxOut)) = true := by
    rw [Bool.and_eq_true, decide_eq_true_eq, decide_eq_true_eq]
    omega
  have before : (if r.val (auxInput + i) = 0 then (headKey r s h0 i, (⟨s, r⟩ : Job))
      else (Job.mk s r).mergKeyAt h0 (r.val (auxStart i) + r.val (auxInput + i) - 1)).2 = ⟨s, r⟩ := by
    split
    · rfl
    · rw [mergKeyAt_clean hs s0]
  unfold mergRow
  dsimp only
  rw [if_neg limit, mergHead_clean hs s0, leastHead_least hi li least]
  dsimp only
  generalize ite (r.val (auxInput + i) = 0) _ _ = C at before ⊢
  rw [before, Job.read_clean (x := ⟨s, r⟩) hs s0]
  dsimp only
  obtain ⟨f, mark⟩ := r.markIf_eq (decide (r.val (auxInput + i) ≠ 0) && keyLess (headKey r s h0 i) C.1) wDISORDER
  rw [mark]
  exact ⟨f, rfl⟩

/-- No head left, or no room: the consumed counts go to the table. -/
theorem mergRow_ends (hend : ¬ (mergMax r.body = 0 ∨ r.val auxOut < mergMax r.body) ∨ ∀ j, j < mergInputs r.body → headLive r j = false) :
    ∃ w, mergRow h0 ⟨s, r⟩ = (⟨s.engineWrite r.core [(.store r.core 2 (mergTab r.body + 128),
      (List.range (mergInputs r.body)).flatMap fun j => leBytes 4 (r.val (auxInput + j)))], { r with wrote := w, ended := true }⟩, []) := by
  have none_ : (if (decide (mergMax r.body ≠ 0) && decide (mergMax r.body ≤ r.val auxOut)) = true then (none, (⟨s, r⟩ : Job))
      else (Job.mk s r).mergHead h0).1 = none := by
    split
    · rfl
    · rename_i limit
      rw [Bool.and_eq_true, decide_eq_true_eq, decide_eq_true_eq] at limit
      rw [mergHead_clean hs s0]
      exact leastHead_none (hend.resolve_left fun h => h (by omega))
  unfold mergRow
  dsimp only
  rw [none_]
  exact ⟨_, rfl⟩

end

section
variable (h : recordRuns c e .merg r rest s) (b0 : r.bind (bodyAt r.body 16 1) = some h0) (b1 : r.bind (bodyAt r.body 17 1) = some h1)
  (s0 : h0.desc.space ≠ 6)
include h b0 b1

theorem iterate_merg : ∃ n, (Job.mk s r).iterate = some ((Job.mk s r).rowStep (mergRow h0) h1 n) := by
  obtain ⟨-, -, -, -, -, hop, -⟩ := h
  exact ⟨1 + (upTo 16).foldl (fun a i => a + r.val (auxCount i)) 0, by simp only [Job.iterate, hop, Job.mergStep, b0, b1]⟩

include s0

theorem does_mergCopies (hopen : mergMax r.body = 0 ∨ r.val auxOut < mergMax r.body) (hi : i < mergInputs r.body) (li : headLive r i = true)
    (least : ∀ j, j < mergInputs r.body → headLive r j = true →
      keyLess (headKey r s h0 j) (headKey r s h0 i) = false ∧ (j < i → keyLess (headKey r s h0 i) (headKey r s h0 j) = true)) :
    does (.engineIteration c e) s fun _ t => iterated c e r rest [0, 0, 0, r.val auxOut + 1] (r.val auxOut + 1) false
      (fun r' => r'.val auxOut = r.val auxOut + 1 ∧
        ∀ j, j < 16 → r'.val (auxInput + j) = r.val (auxInput + j) + if j = i then 1 else 0)
      (elemsPut r [(h1, (rowCoords (mergBytes r.body) 0 (bodyWord r.body 0 + r.val auxOut)).zip
        ((rowCoords (mergBytes r.body) 0 (headRow r i)).map (elemIn r s h0)))] s) t := by
  obtain ⟨-, -, -, -, -, -, -, ended, -, poison⟩ := id h
  obtain ⟨n, iter⟩ := iterate_merg h b0 b1
  obtain ⟨f, row⟩ := mergRow_copies poison s0 hopen hi li least
  obtain ⟨w, f', step, -⟩ := rowStep_eq row h1 n
  refine does_iterate h (by decide) (iter.trans (congrArg some step)) (engineWrote_elemsPut r poison _) rfl ⟨?_, fun j hj => ?_⟩ rfl rfl rfl ended
  · refine (mapGet_mapPut_ne _ _ _ ?_).trans (mapGet_mapPut_self _ _ _ _)
    exact Nat.ne_of_lt (Nat.lt_of_lt_of_le (by decide) (Nat.le_add_right auxInput i))
  · have out : auxInput + j ≠ auxOut := Nat.ne_of_gt (Nat.lt_of_lt_of_le (by decide) (Nat.le_add_right auxInput j))
    by_cases hji : j = i
    · subst hji
      rw [if_pos rfl]
      exact mapGet_mapPut_self _ _ _ _
    · rw [if_neg hji, Nat.add_zero]
      exact (mapGet_mapPut_ne _ _ _ (by omega)).trans (mapGet_mapPut_ne _ _ _ out)

theorem does_mergEnds (hend : ¬ (mergMax r.body = 0 ∨ r.val auxOut < mergMax r.body) ∨ ∀ j, j < mergInputs r.body → headLive r j = false) :
    does (.engineIteration c e) s fun _ t => iterated c e r rest r.upc r.count true (fun _ => True)
      (s.engineWrite c [(.store c 2 (mergTab r.body + 128), (List.range (mergInputs r.body)).flatMap fun j => leBytes 4 (r.val (auxInput + j)))]) t := by
  obtain ⟨-, -, -, rfl, -, -, -, -, -, poison⟩ := id h
  obtain ⟨n, iter⟩ := iterate_merg h b0 b1
  obtain ⟨w, row⟩ := mergRow_ends (h0 := h0) poison s0 hend
  obtain ⟨w', f', step, -⟩ := rowStep_eq row h1 n
  rw [elemsPut_no_elements] at step
  have wrote := engineWrote_engineWrite poison r.core
    [(.store r.core 2 (mergTab r.body + 128), (List.range (mergInputs r.body)).flatMap fun j => leBytes 4 (r.val (auxInput + j)))]
  refine does_step h (by decide) (iter.trans (congrArg some step)) (engineWrote_queue h wrote) rfl trivial rfl rfl rfl rfl

end

end

end Sys2Proof.Machine
end

section
/-! An iteration of TOPK, and the index engine as a whole (R360 to R363). -/

open Sys2Proof Sys2Proof.Machine Sys2Proof.Claims

namespace Sys2Proof.Machine

/-! ## The order of values (R202) -/

/-- A value on the extended rational line; NaN has no place on it. -/
def numRank : Machine.Num → WithBot (WithTop ℚ)
  | .fin n m e _ => (((signedMan n m : ℚ) * 2 ^ e : ℚ) : WithTop ℚ)
  | .inf true => ⊥
  | .inf false => ((⊤ : WithTop ℚ) : WithBot (WithTop ℚ))
  | .nan => ⊥

/-- A significand at a lower exponent. -/
theorem signedMan_scaled (n : Bool) (m : Nat) {e f : Int} (h : f ≤ e) :
    ((signedMan n (m * 2 ^ (e - f).toNat) : Int) : ℚ) * 2 ^ f = (signedMan n m : ℚ) * 2 ^ e := by
  have power : (2 : ℚ) ^ e = 2 ^ (e - f).toNat * 2 ^ f := by
    rw [← zpow_natCast, ← zpow_add₀ (by decide), Int.toNat_of_nonneg (by omega), Int.sub_add_cancel]
  rw [power]
  unfold signedMan
  split <;> push_cast <;> ring

theorem finite_lt (n n' : Bool) (m m' : Nat) (e e' : Int) :
    signedMan n (m * 2 ^ (e - Min.min e e').toNat) < signedMan n' (m' * 2 ^ (e' - Min.min e e').toNat) ↔
      ((signedMan n m : ℚ) * 2 ^ e : ℚ) < (signedMan n' m' : ℚ) * 2 ^ e' := by
  rw [← signedMan_scaled n m (min_le_left e e'), ← signedMan_scaled n' m' (min_le_right e e'),
    mul_lt_mul_iff_of_pos_right (zpow_pos (by decide) _), Int.cast_lt]

theorem finite_rank_lt {a b : ℚ} : ((a : WithTop ℚ) : WithBot (WithTop ℚ)) < ((b : WithTop ℚ) : WithBot (WithTop ℚ)) ↔ a < b := by
  rw [WithBot.coe_lt_coe, WithTop.coe_lt_coe]

theorem finite_lt_infinity (a : ℚ) : ((a : WithTop ℚ) : WithBot (WithTop ℚ)) < ((⊤ : WithTop ℚ) : WithBot (WithTop ℚ)) :=
  WithBot.coe_lt_coe.mpr (WithTop.coe_lt_top a)

/-- The order of values is that of their places. -/
theorem cmpNum_lt {x y : Machine.Num} (hx : x ≠ .nan) (hy : y ≠ .nan) : cmpNum x y = some .lt ↔ numRank x < numRank y := by
  rcases x with _ | a | ⟨n, m, e, t⟩
  · exact absurd rfl hx
  · rcases y with _ | b | ⟨n', m', e', t'⟩
    · exact absurd rfl hy
    · cases a <;> cases b <;> simp [cmpNum, numRank]
    · cases a
      · simp only [cmpNum, numRank, Bool.false_eq_true, if_false, Option.some.injEq, reduceCtorEq, false_iff]
        exact not_lt_of_gt (finite_lt_infinity _)
      · simp only [cmpNum, numRank, if_true, true_iff]
        exact WithBot.bot_lt_coe _
  · rcases y with _ | b | ⟨n', m', e', t'⟩
    · exact absurd rfl hy
    · cases b
      · simp only [cmpNum, numRank, Bool.false_eq_true, if_false, true_iff]
        exact finite_lt_infinity _
      · simp only [cmpNum, numRank, if_true, Option.some.injEq, reduceCtorEq, false_iff]
        exact not_lt_bot
    · simp only [cmpNum, numRank, Option.some.injEq]
      rw [finite_rank_lt, ← finite_lt]
      exact Int.compare_eq_lt

/-- Turned round, the order is the other. -/
theorem cmpNum_gt {x y : Machine.Num} : cmpNum x y = some .gt ↔ cmpNum y x = some .lt := by
  rcases x with _ | a | ⟨n, m, e, t⟩ <;> rcases y with _ | b | ⟨n', m', e', t'⟩
  · simp [cmpNum]
  · simp [cmpNum]
  · simp [cmpNum]
  · simp [cmpNum]
  · cases a <;> cases b <;> simp [cmpNum]
  · cases a <;> simp [cmpNum]
  · simp [cmpNum]
  · cases b <;> simp [cmpNum]
  · simp only [cmpNum, Option.some.injEq, min_comm e' e]
    rw [Int.compare_eq_gt, Int.compare_eq_lt]

/-! ## Insertion of the better keys first (R362) -/

/-- Below `n`, a strict order in which what is no better is as good. -/
structure ranks (n : Nat) (better : Nat → Nat → Bool) : Prop where
  asymm : ∀ {i j}, i < n → j < n → better i j = true → better j i = false
  split : ∀ {i j l}, i < n → j < n → l < n → better i j = true → better i l = true ∨ better l j = true

/-- An order by places in a linear order ranks. -/
theorem ranks_of_key {α : Type} [LinearOrder α] {n : Nat} {better : Nat → Nat → Bool} (key : Nat → α)
    (h : ∀ i j, i < n → j < n → (better i j = true ↔ key i < key j)) : ranks n better where
  asymm {i j} hi hj hij := by
    rw [Bool.eq_false_iff, ne_eq, h j i hj hi]
    exact lt_asymm ((h i j hi hj).mp hij)
  split {i j l} hi hj hl hij := by
    rw [h i l hi hl, h l j hl hj]
    exact (lt_or_ge (key i) (key l)).imp_right fun le => lt_of_le_of_lt le ((h i j hi hj).mp hij)

/-- A candidate goes before another: a better key, or one as good and a lower index. -/
def goesBefore (better : Nat → Nat → Bool) (i j : Nat) : Prop := better i j = true ∨ better j i = false ∧ i < j

/-- A candidate inserted before the first that it is better than. -/
def insertBest (better : Nat → Nat → Bool) (i : Nat) : List Nat → List Nat
  | [] => [i]
  | j :: l => if better i j then i :: j :: l else j :: insertBest better i l

section
variable {n : Nat} {better : Nat → Nat → Bool} (hr : ranks n better)

theorem mem_insertBest {i j : Nat} {l : List Nat} : j ∈ insertBest better i l ↔ j = i ∨ j ∈ l := by
  induction l with
  | nil => simp [insertBest]
  | cons k l ih =>
    rw [insertBest]
    split
    · simp
    · simp only [List.mem_cons, ih]
      exact or_left_comm

theorem length_insertBest (i : Nat) (l : List Nat) : (insertBest better i l).length = l.length + 1 := by
  induction l with
  | nil => rfl
  | cons k l ih =>
    rw [insertBest]
    split
    · rfl
    · rw [List.length_cons, ih, List.length_cons]

include hr in
/-- The order is kept when the candidates come by ascending index. -/
theorem pairwise_insertBest {i : Nat} {l : List Nat} (hi : i < n) (hl : ∀ j, j ∈ l → j < i) (h : l.Pairwise (goesBefore better)) :
    (insertBest better i l).Pairwise (goesBefore better) := by
  induction l with
  | nil => exact List.pairwise_singleton _ _
  | cons k l ih =>
    obtain ⟨first, rest⟩ := List.pairwise_cons.mp h
    have hk : k < n := Nat.lt_trans (hl k List.mem_cons_self) hi
    rw [insertBest]
    split
    · rename_i hik
      refine List.pairwise_cons.mpr ⟨fun j hj => ?_, h⟩
      rcases List.mem_cons.mp hj with rfl | hj
      · exact .inl hik
      · have hjn : j < n := Nat.lt_trans (hl j (List.mem_cons_of_mem _ hj)) hi
        refine .inl ((hr.split hi hk hjn hik).resolve_right fun hjk => ?_)
        rcases first j hj with hkj | ⟨hjk', -⟩
        · exact Bool.false_ne_true ((hr.asymm hk hjn hkj).symm.trans hjk)
        · exact Bool.false_ne_true (hjk'.symm.trans hjk)
    · rename_i hik
      refine List.pairwise_cons.mpr ⟨fun j hj => ?_, ih (fun j hj => hl j (List.mem_cons_of_mem _ hj)) rest⟩
      rcases mem_insertBest.mp hj with rfl | hj
      · exact .inr ⟨Bool.eq_false_iff.mpr hik, hl k List.mem_cons_self⟩
      · exact first j hj

end

/-- Every candidate below `n`, the better first. -/
def ranked (better : Nat → Nat → Bool) (n : Nat) : List Nat := (List.range n).foldl (fun l i => insertBest better i l) []

theorem ranked_succ (better : Nat → Nat → Bool) (n : Nat) : ranked better (n + 1) = insertBest better n (ranked better n) := by
  rw [ranked, List.range_succ, List.foldl_append]
  rfl

theorem length_ranked (better : Nat → Nat → Bool) (n : Nat) : (ranked better n).length = n := by
  induction n with
  | zero => rfl
  | succ n ih => rw [ranked_succ, length_insertBest, ih]

theorem mem_ranked (better : Nat → Nat → Bool) (n j : Nat) : j ∈ ranked better n ↔ j < n := by
  induction n with
  | zero => exact ⟨fun h => absurd h List.not_mem_nil, fun h => absurd h (Nat.not_lt_zero j)⟩
  | succ n ih =>
    rw [ranked_succ, mem_insertBest, ih]
    omega

theorem pairwise_ranked {better : Nat → Nat → Bool} {n m : Nat} (hr : ranks n better) (hm : m ≤ n) :
    (ranked better m).Pairwise (goesBefore better) := by
  induction m with
  | zero => exact List.Pairwise.nil
  | succ m ih =>
    rw [ranked_succ]
    exact pairwise_insertBest hr hm (fun j hj => (mem_ranked better m j).mp hj) (ih (Nat.le_of_succ_le hm))

/-- The first candidates go before the others. -/
theorem taken_goes_before {better : Nat → Nat → Bool} {n k i j : Nat} (hr : ranks n better) (hi : i ∈ (ranked better n).take k) (hj : j < n)
    (out : j ∉ (ranked better n).take k) : goesBefore better i j := by
  have all := pairwise_ranked hr (Nat.le_refl n)
  rw [← List.take_append_drop k (ranked better n), List.pairwise_append] at all
  refine all.2.2 i hi j ?_
  have mem := (mem_ranked better n j).mpr hj
  rw [← List.take_append_drop k (ranked better n), List.mem_append] at mem
  exact mem.resolve_left out

/-! ## The step of TOPK -/

section
variable {s : State} {c e : Nat} {r : Rec} {rest : List Rec} {h0 h1 h2 : Handle}

/-- A candidate's bits and value, and whether it is better than another. -/
def topkBits (r : Rec) (s : State) (h : Handle) (j : Nat) : Nat := elemIn r s h [bodyWord r.body 0 + j, 0, 0, 0, 0, 0]
def topkValue (r : Rec) (s : State) (h : Handle) (j : Nat) : Machine.Num := elemValue h.desc.fmt [] (topkBits r s h j)
def topkBest (r : Rec) (s : State) (h : Handle) (i j : Nat) : Bool := topkBetter r.body (topkValue r s h i) (topkValue r s h j)

/-- The candidates chosen, best first. -/
def topkChosen (r : Rec) (s : State) (h : Handle) : List Nat := (ranked (topkBest r s h) (topkN r.body)).take (topkK r.body)

theorem abs_ne_nan {v : Machine.Num} (h : v ≠ .nan) : v.abs ≠ .nan := by
  rcases v with _ | a | ⟨n, m, e, t⟩
  · exact absurd rfl h
  · exact fun h => Machine.Num.noConfusion h
  · exact fun h => Machine.Num.noConfusion h

/-- Keys of candidates that are no NaN rank them. -/
theorem topk_ranks (hn : ∀ j, j < topkN r.body → topkValue r s h0 j ≠ .nan) : ranks (topkN r.body) (topkBest r s h0) := by
  have key : ∀ j, j < topkN r.body → (if topkMag r.body then (topkValue r s h0 j).abs else topkValue r s h0 j) ≠ .nan := fun j hj => by
    split
    · exact abs_ne_nan (hn j hj)
    · exact hn j hj
  by_cases small : topkSmallest r.body = true
  · refine ranks_of_key (fun j => numRank (if topkMag r.body then (topkValue r s h0 j).abs else topkValue r s h0 j)) fun i j hi hj => ?_
    rw [topkBest, topkBetter, if_pos small, beq_iff_eq]
    exact cmpNum_lt (key i hi) (key j hj)
  · refine ranks_of_key (fun j => OrderDual.toDual (numRank (if topkMag r.body then (topkValue r s h0 j).abs else topkValue r s h0 j)))
      fun i j hi hj => ?_
    rw [topkBest, topkBetter, if_neg small, beq_iff_eq, OrderDual.toDual_lt_toDual]
    exact cmpNum_gt.trans (cmpNum_lt (key j hj) (key i hi))

/-- A candidate as the model carries it. -/
def topkEntry (r : Rec) (s : State) (h : Handle) (j : Nat) : Nat × Nat × Machine.Num := (j, topkBits r s h j, topkValue r s h j)

theorem topkInsert_map (i : Nat) (l : List Nat) : topkInsert r.body (topkEntry r s h0 i) (l.map (topkEntry r s h0)) =
    (insertBest (topkBest r s h0) i l).map (topkEntry r s h0) := by
  induction l with
  | nil => rfl
  | cons j l ih =>
    rw [List.map_cons, topkInsert, insertBest, ih]
    split
    · rename_i better
      rw [if_pos (show topkBest r s h0 i j = true from better)]
      rfl
    · rename_i other
      rw [if_neg (show ¬ topkBest r s h0 i j = true from other)]
      rfl

/-- With no NaN among the candidates, the best are chosen (R362). -/
theorem topkChoose_ranked (hn : ∀ j, j < topkN r.body → topkValue r s h0 j ≠ .nan) :
    topkChoose r.body h0.desc.fmt ((List.range (topkN r.body)).map (topkEntry r s h0)) =
      ((topkChosen r s h0).map fun j => (j, topkBits r s h0 j), 0) := by
  have good : ((List.range (topkN r.body)).map (topkEntry r s h0)).filter (fun c => c.2.2 != Machine.Num.nan) =
      (List.range (topkN r.body)).map (topkEntry r s h0) := by
    refine List.filter_eq_self.mpr fun c hc => ?_
    obtain ⟨j, hj, rfl⟩ := List.mem_map.mp hc
    exact bne_iff_ne.mpr (hn j (List.mem_range.mp hj))
  have bad : ((List.range (topkN r.body)).map (topkEntry r s h0)).filter (fun c => c.2.2 == Machine.Num.nan) = [] := by
    refine List.filter_eq_nil_iff.mpr fun c hc => ?_
    obtain ⟨j, hj, rfl⟩ := List.mem_map.mp hc
    rw [beq_iff_eq]
    exact hn j (List.mem_range.mp hj)
  have fold : ∀ (l acc : List Nat), (l.map (topkEntry r s h0)).foldl (fun l c => topkInsert r.body c l) (acc.map (topkEntry r s h0)) =
      (l.foldl (fun l i => insertBest (topkBest r s h0) i l) acc).map (topkEntry r s h0) := fun l => by
    induction l with
    | nil => exact fun acc => rfl
    | cons i l ih =>
      intro acc
      rw [List.map_cons, List.foldl_cons, topkInsert_map, ih]
      rfl
  have all := fold (List.range (topkN r.body)) []
  rw [List.map_nil] at all
  simp only [topkChoose, good, bad, all, List.take_nil, List.map_nil, List.append_nil, List.length_nil, ← List.map_take, List.map_map]
  rfl

theorem zipIdx_map_range {α : Type} (f : Nat → α) (n : Nat) : ((List.range n).map f).zipIdx = (List.range n).map fun i => (f i, i) := by
  refine List.ext_getElem (by simp) fun i h1 h2 => ?_
  simp

/-- What TOPK delivers. -/
def topkPuts (r : Rec) (s : State) (h0 h1 h2 : Handle) : List (Handle × List (List Nat × Nat)) :=
  (if topkValues r.body then [(h1, (rowCoords (topkK r.body) (bodyWord r.body 1) 0).zip ((topkChosen r s h0).map (topkBits r s h0)))] else []) ++
  (if topkIndices r.body then [(h2, (rowCoords (topkK r.body) (bodyWord r.body 1) 0).zip (topkChosen r s h0))] else [])

/-- Elements delivered through a handle, if there is one, by the job `y`; else the job `x` goes on. -/
def deliverTo (o : Option Handle) (x y : Job) (es : List (List Nat × Nat)) : Job :=
  match o with
  | some h => y.deliver h es (deliveredIn h es)
  | none => x

theorem deliverTo_eq (on : Bool) {x : Job} {q : Rec} {f0 : BitVec 16} {o : Option Handle} {h : Handle} (ho : on = true → o = some h)
    (hq : q = { x.r with flags := f0 }) (es : List (List Nat × Nat)) : ∃ w f, deliverTo (if on then o else none) x ⟨x.s, q⟩ es =
      ⟨elemsPut x.r (if on then [(h, es)] else []) x.s, { x.r with wrote := w, flags := f }⟩ := by
  subst hq
  cases on
  · exact ⟨x.r.wrote, x.r.flags, rfl⟩
  · rw [if_pos rfl, if_pos rfl, ho rfl]
    exact Job.deliver_eq ⟨x.s, { x.r with flags := f0 }⟩ h es _

/-- The candidates chosen, TOPK delivers their values and then their indices. -/
theorem topkStep_stages (hs : s.poison = []) (s0 : h0.desc.space ≠ 6) (b0 : r.bind (bodyAt r.body 16 1) = some h0)
    (hn : ∀ j, j < topkN r.body → topkValue r s h0 j ≠ .nan) : (Job.mk s r).topkStep =
      (let ys := rowCoords (topkK r.body) (bodyWord r.body 1) 0
       let vs := (topkChosen r s h0).map (topkBits r s h0)
       let x := deliverTo (if topkValues r.body then r.bind (bodyAt r.body 17 1) else none) ⟨s, r⟩ ⟨s, r.deliveredAll h0.desc.fmt vs⟩ (ys.zip vs)
       let y := deliverTo (if topkIndices r.body then x.r.bind (bodyAt r.body 18 1) else none) x ⟨x.s, x.r⟩ (ys.zip (topkChosen r s h0))
       { y with r := { y.r with count := topkK r.body, ended := true } }) := by
  have read := Job.read_clean (x := ⟨s, r⟩) hs s0 (lineCoords (topkN r.body) (bodyWord r.body 0))
  have bits : (lineCoords (topkN r.body) (bodyWord r.body 0)).map (elemIn r s h0) = (List.range (topkN r.body)).map (topkBits r s h0) := by
    rw [lineCoords, rowCoords, List.map_map]
    rfl
  have entries : ((List.range (topkN r.body)).map (topkBits r s h0)).zipIdx.map (fun p => (p.2, p.1, elemValue h0.desc.fmt [] p.1)) =
      (List.range (topkN r.body)).map (topkEntry r s h0) := by
    rw [zipIdx_map_range, List.map_map]
    rfl
  have seconds : ((topkChosen r s h0).map fun j => (j, topkBits r s h0 j)).map Prod.snd = (topkChosen r s h0).map (topkBits r s h0) := by
    rw [List.map_map]
    rfl
  have firsts : ((topkChosen r s h0).map fun j => (j, topkBits r s h0 j)).map Prod.fst = topkChosen r s h0 := by
    rw [List.map_map]
    exact List.map_id' _
  unfold Job.topkStep
  dsimp only
  rw [b0]
  dsimp only
  rw [read]
  dsimp only
  rw [bits, entries, topkChoose_ranked hn]
  dsimp only
  rw [seconds, firsts]
  rfl

theorem topkStep_eq (hs : s.poison = []) (s0 : h0.desc.space ≠ 6) (b0 : r.bind (bodyAt r.body 16 1) = some h0)
    (b1 : topkValues r.body = true → r.bind (bodyAt r.body 17 1) = some h1)
    (b2 : topkIndices r.body = true → r.bind (bodyAt r.body 18 1) = some h2)
    (hn : ∀ j, j < topkN r.body → topkValue r s h0 j ≠ .nan) : ∃ w f, (Job.mk s r).topkStep =
      ⟨elemsPut r (topkPuts r s h0 h1 h2) s, { r with wrote := w, flags := f, count := topkK r.body, ended := true }⟩ := by
  obtain ⟨f0, delivered⟩ := r.deliveredAll_eq h0.desc.fmt ((topkChosen r s h0).map (topkBits r s h0))
  obtain ⟨w, f, first⟩ := deliverTo_eq (topkValues r.body) (x := ⟨s, r⟩) b1 delivered
    ((rowCoords (topkK r.body) (bodyWord r.body 1) 0).zip ((topkChosen r s h0).map (topkBits r s h0)))
  generalize hu : elemsPut r (if topkValues r.body = true then [(h1, (rowCoords (topkK r.body) (bodyWord r.body 1) 0).zip
    ((topkChosen r s h0).map (topkBits r s h0)))] else []) s = u at first
  obtain ⟨w', f', second⟩ := deliverTo_eq (x := ⟨u, { r with wrote := w, flags := f }⟩) (q := { r with wrote := w, flags := f }) (f0 := f)
    (o := r.bind (bodyAt r.body 18 1)) (h := h2) (topkIndices r.body) b2 rfl
    ((rowCoords (topkK r.body) (bodyWord r.body 1) 0).zip (topkChosen r s h0))
  refine ⟨w', f', ?_⟩
  rw [topkStep_stages hs s0 b0 hn, topkPuts, elemsPut_append, hu]
  dsimp only at first second ⊢
  rw [first]
  exact congrArg (fun y : Job => { y with r := { y.r with count := topkK r.body, ended := true } }) second

theorem does_topk (h : recordRuns c e .topk r rest s) (s0 : h0.desc.space ≠ 6) (b0 : r.bind (bodyAt r.body 16 1) = some h0)
    (b1 : topkValues r.body = true → r.bind (bodyAt r.body 17 1) = some h1)
    (b2 : topkIndices r.body = true → r.bind (bodyAt r.body 18 1) = some h2)
    (hn : ∀ j, j < topkN r.body → topkValue r s h0 j ≠ .nan) :
    does (.engineIteration c e) s fun _ t => iterated c e r rest r.upc (topkK r.body) true (fun _ => True)
      (elemsPut r (topkPuts r s h0 h1 h2) s) t := by
  obtain ⟨-, -, -, -, -, hop, -, -, -, poison⟩ := id h
  obtain ⟨w, f, step⟩ := topkStep_eq poison s0 b0 b1 b2 hn
  have iter : (Job.mk s r).iterate = some (Job.mk s r).topkStep := by simp only [Job.iterate, hop]
  exact does_iterate h (by decide) (iter.trans (congrArg some step)) (engineWrote_elemsPut r poison _) rfl trivial rfl rfl rfl rfl

end

end Sys2Proof.Machine
end

section
/-! The records of the index engine (R360 to R363). -/

open Sys2Proof Sys2Proof.Machine Sys2Proof.Claims

namespace Sys2Proof.Machine

section
variable {s : State} {c e k : Nat} {r : Rec} {rest : List Rec} {h0 h1 h2 : Handle}

/-- Elements updated by those beside them. -/
theorem zip_updates {α β : Type} (f : β → Nat) (g : α → Nat) (u : Nat → Nat → Nat) (xs : List α) (ys : List β) :
    xs.zip (((ys.map f).zip (xs.map g)).map fun p => u p.2 p.1) = (xs.zip ys).map fun p => (p.1, u (g p.1) (f p.2)) := by
  induction xs generalizing ys with
  | nil => rfl
  | cons x xs ih =>
    cases ys with
    | nil => rfl
    | cons y ys => exact congrArg _ (ih ys)

/-- What a row of SCAT delivers, place by place. -/
theorem gathElems_scat : gathElems true r s h0 h1 h2 k = ((tableRow r s h1 k).zip (sideRow r k)).map fun p =>
    (p.1, if gathAdd r.body then rmwResult .add h0.desc.fmt (elemIn r s h0 p.1) (elemIn r s h2 p.2) else elemIn r s h2 p.2) := by
  rw [gathElems, if_pos rfl]
  cases gathAdd r.body
  · exact List.zip_map_right
  · exact zip_updates _ _ _ _ _

/-- GATH and SCAT, row by row (R360). -/
theorem does_gathRows (scat : Bool) (h : recordRuns c e (if scat then .scat else .gath) r rest s)
    (b0 : r.bind (bodyAt r.body 16 1) = some h0) (s0 : h0.desc.space ≠ 6) (b1 : r.bind (bodyAt r.body 17 1) = some h1)
    (s1 : h1.desc.space ≠ 6) (b2 : r.bind (bodyAt r.body 18 1) = some h2) (s2 : h2.desc.space ≠ 6) (hu : r.upc = [0, 0, 0, k]) :
    let j := rowIndex r s h1 k
    (j < 0 ∨ ((r.extents h0).getD 1 1 : Int) ≤ j → does (.engineIteration c e) s fun _ t => iterated c e r rest [0, 0, 0, k + 1]
      (r.val auxOut % 2 ^ 24 + 2 ^ 24 * ((r.val auxSkip + 1) % 2 ^ 24)) (decide (gathRows r.body ≤ k + 1))
      (fun r' => r'.flags.getLsbD 6 = true) s t) ∧
    (0 ≤ j → j < ((r.extents h0).getD 1 1 : Int) → does (.engineIteration c e) s fun _ t => iterated c e r rest [0, 0, 0, k + 1]
      ((r.val auxOut + 1) % 2 ^ 24 + 2 ^ 24 * (r.val auxSkip % 2 ^ 24)) (decide (gathRows r.body ≤ k + 1)) (fun _ => True)
      (elemsPut r [(if scat then h0 else h2, gathElems scat r s h0 h1 h2 k)] s) t) := by
  obtain ⟨-, -, -, -, -, -, -, -, -, poison⟩ := id h
  exact ⟨does_gathSkips poison hu s1 b0 b1 b2 scat h, fun lo hi =>
    does_gathMoves poison hu s0 s1 s2 b0 b1 b2 scat h fun out => out.elim (Int.not_lt.mpr lo) (Int.not_le.mpr hi)⟩

/-- An order of candidates as the claim states it. -/
theorem goesBefore_topk {i j : Nat} {v : Nat → Machine.Num} (hv : ∀ j, v j = if topkMag r.body then (topkValue r s h0 j).abs else topkValue r s h0 j)
    (h : goesBefore (topkBest r s h0) i j) : cmpNum (v i) (v j) = some (if topkSmallest r.body then .lt else .gt) ∨
      ¬ cmpNum (v j) (v i) = some (if topkSmallest r.body then .lt else .gt) ∧ i < j := by
  have best : ∀ i j, topkBest r s h0 i j = true ↔ cmpNum (v i) (v j) = some (if topkSmallest r.body then .lt else .gt) := fun i j => by
    rw [topkBest, topkBetter, beq_iff_eq, hv, hv]
  exact h.imp (best i j).mp fun ⟨no, lt⟩ => ⟨fun yes => Bool.false_ne_true (no.symm.trans ((best j i).mpr yes)), lt⟩

end

theorem indexIterations_hold : indexIterations := by
  intro c e k i r rest h0 h1 h2 s b0 s0 b two elem row ran
  refine ⟨fun ⟨b1, s1⟩ b2 s2 hu => ⟨fun h => ?_, fun h => ?_⟩, fun h ⟨b1, s1⟩ => ?_, fun h hk b1 b2 => ?_⟩
  · intro j w table side stops moved skipped count
    rcases h with h | h
    · obtain ⟨-, -, -, -, -, hop, -⟩ := id h
      obtain ⟨skips, moves⟩ := does_gathRows false h b0 s0 b1 s1 b2 s2 hu
      exact ⟨fun out => does_here (skips out), fun lo hi => ⟨fun _ => does_here (moves lo hi), fun scat => absurd (hop.symm.trans scat) (by decide)⟩⟩
    · obtain ⟨-, -, -, -, -, hop, -⟩ := id h
      obtain ⟨skips, moves⟩ := does_gathRows true h b0 s0 b1 s1 b2 s2 hu
      rw [gathElems_scat] at moves
      exact ⟨fun out => does_here (skips out), fun lo hi => ⟨fun gath => absurd (hop.symm.trans gath) (by decide), fun _ => does_here (moves lo hi)⟩⟩
  · intro kept out w stops
    have step := does_cmpt hu s0 s1 b0 b1 b2 h
    have same : kept = rowKept r s h1 k := rfl
    rw [← same] at step
    refine ⟨fun yes => ?_, fun no => ?_⟩
    · simp only [yes, if_true] at step
      exact does_here step
    · simp only [no, Bool.false_eq_true, if_false, elemsPut_no_elements] at step
      exact does_here step
  · intro w out taken live at_ key open_
    have alive : ∀ j, live j ↔ j < mergInputs r.body ∧ headLive r j = true := fun j => and_congr Iff.rfl decide_eq_true_iff.symm
    refine ⟨fun hopen hi least => ?_, fun hend => ?_⟩
    · obtain ⟨lt, li⟩ := (alive i).mp hi
      exact does_here (does_mergCopies h b0 b1 s0 hopen lt li fun j hj lj => least j ((alive j).mpr ⟨hj, lj⟩))
    · refine does_here (does_mergEnds h b0 b1 s0 (hend.imp id fun dead j hj => ?_))
      exact Bool.eq_false_iff.mpr fun lj => dead j ((alive j).mpr ⟨hj, lj⟩)
  · intro bits num better before hn
    have ranks := topk_ranks (r := r) (s := s) (h0 := h0) hn
    refine ⟨topkChosen r s h0, ?_, fun j hj => ?_, ?_, fun i j hi hj out => ?_, ?_⟩
    · rw [topkChosen, List.length_take, length_ranked, Nat.min_eq_left hk]
    · exact (mem_ranked _ _ j).mp (List.mem_of_mem_take hj)
    · exact ((pairwise_ranked ranks (Nat.le_refl _)).sublist (List.take_sublist _ _)).imp (goesBefore_topk fun _ => rfl)
    · exact goesBefore_topk (fun _ => rfl) (taken_goes_before ranks hi hj out)
    · intro ys
      exact does_here (does_topk h s0 b0 b1 b2 hn)

end Sys2Proof.Machine
end

section
/-! An iteration of MDRAIN (R313, R350, R351). -/

open Sys2Proof Sys2Proof.Machine Sys2Proof.Claims

namespace Sys2Proof.Machine

section
variable {s u : State} {c e row : Nat} {r : Rec} {rest : List Rec} {h : Handle} {ix : List Nat}

/-! ## Accumulators as they are read -/

/-- The accumulators of a core whose patches are the same, no word poisoned. -/
theorem accCells_eq (hs : s.poison = []) (hu : u.poison = []) (hz : (u.core c).z = (s.core c).z) (kind : PatchKind) (z n : Nat) :
    u.accCells kind c z n = s.accCells kind c z n := by
  have cells : ∀ y, u.zCells c y n = s.zCells c y n := fun y => by
    rw [State.zCells, State.zCells, hs, hu, Core.zRow, Core.zRow, hz]
    rfl
  cases kind
  · exact cells z
  · exact cells z
  · exact congrArg₂ pairCells (cells z) (cells (z + 1))

section
variable (hs : s.poison = []) (hu : u.poison = []) (hz : (u.core r.core).z = (s.core r.core).z)
include hs hu hz

theorem drainSkips_eq (lo hi : Nat) : u.drainSkips r ix lo hi = s.drainSkips r ix lo hi := by
  simp only [State.drainSkips, State.drainNan, accCells_eq hs hu hz]

theorem drainNan_eq (lo hi : Nat) : u.drainNan r ix lo hi = s.drainNan r ix lo hi := by
  simp only [State.drainNan, accCells_eq hs hu hz]

theorem drainDelivers_eq (lo hi : Nat) : u.drainDelivers r h ix row lo hi = s.drainDelivers r h ix row lo hi := by
  simp only [State.drainDelivers, accCells_eq hs hu hz]

end

/-! ## A part of a row -/

/-- A destination whose policy cannot break its symmetry (R144). -/
def Handle.unbreakable (h : Handle) : Prop := h.desc.sym = [] ∨ h.desc.policy ≠ 2

/-- Through such a destination elements are put, and no status bit is set. -/
theorem Job.deliver_unbroken (x : Job) (hb : h.unbreakable) (es : List (List Nat × Nat)) (value : List Nat → Option Nat) :
    ∃ w, x.deliver h es value = ⟨elemsPut x.r [(h, es)] x.s, { x.r with wrote := w }⟩ := by
  have whole : (h.desc.sym.isEmpty || decide (h.desc.policy ≠ 2)) = true := by
    rw [Bool.or_eq_true, List.isEmpty_iff, decide_eq_true_eq]
    exact hb
  have kept : ∀ (v : State) ys, (v.storeWith h ys value).2 = false := fun v ys => by
    rw [State.storeWith]
    dsimp only
    rw [if_pos whole]
  unfold Job.deliver
  dsimp only [Job.put]
  rw [kept, State.storeWith_fst]
  exact ⟨_, rfl⟩

theorem Rec.statusFlags_eq (r : Rec) (st : Nat) : ∃ f, r.statusFlags st = { r with flags := f } := by
  obtain ⟨f1, h1⟩ := r.markIf_eq (st.testBit 0) wNAN
  obtain ⟨f2, h2⟩ := Rec.markIf_eq { r with flags := f1 } (st.testBit 1) wINF
  obtain ⟨f3, h3⟩ := Rec.markIf_eq { r with flags := f2 } (st.testBit 2) wSYMBREAK
  obtain ⟨f4, h4⟩ := Rec.markIf_eq { r with flags := f3 } (st.testBit 3) wSAT
  exact ⟨f4, by rw [Rec.statusFlags, h1, h2, h3, h4]⟩

/-- What a part of a row puts, its cells as `s` has them. -/
def drainPuts (s : State) (r : Rec) (h : Handle) (ix : List Nat) (row : Nat) (p : Nat × Nat × Nat) : List (Handle × List (List Nat × Nat)) :=
  if s.drainSkips r ix p.2.1 p.2.2 then []
  else (match r.scaleOf h with | some k => [(k, (s.drainDelivers r h ix row p.2.1 p.2.2).2.1)] | none => []) ++
    [(h, (s.drainDelivers r h ix row p.2.1 p.2.2).1)]

/-- The patch is drained here for the first time. -/
def drainsFirst (r : Rec) (ix : List Nat) (row : Nat) : Bool :=
  row == 0 && !((drainIters r.body).any fun iy => indexGe ix iy && iy != ix && drainPatch r.body iy == drainPatch r.body ix)

theorem drainsFirst_iff : drainsFirst r ix row = true ↔
    row = 0 ∧ ∀ iy, iy ∈ drainIters r.body → drainPatch r.body iy = drainPatch r.body ix → iy = ix ∨ indexGe ix iy = false := by
  rw [drainsFirst, Bool.and_eq_true, beq_iff_eq, Bool.not_eq_true', List.any_eq_false]
  refine and_congr Iff.rfl (forall₂_congr fun iy _ => ?_)
  simp only [Bool.and_eq_true, bne_iff_ne, beq_iff_eq, not_and, ne_eq, ← Bool.not_eq_true]
  tauto

/-- The status of a patch after a row of a part. -/
def drainedStatus (s : State) (r : Rec) (h : Handle) (ix : List Nat) (row : Nat) (p : Nat × Nat × Nat) (x : Patch) : BitVec 4 :=
  (if drainsFirst r ix row then 0 else x.status) ||| BitVec.ofNat 4
    ((if row = 0 ∧ s.drainNan r ix p.2.1 p.2.2 = true then 1 else 0) ||| (if row = 0 ∧ x.broken = true then 4 else 0) |||
      (if s.drainSkips r ix p.2.1 p.2.2 then 0 else (s.drainDelivers r h ix row p.2.1 p.2.2).2.2))

/-- The state after a row of a part, in state `u`. -/
def drainedPart (s : State) (r : Rec) (h : Handle) (ix : List Nat) (row : Nat) (u : State) (p : Nat × Nat × Nat) : State :=
  let v := elemsPut r (drainPuts s r h ix row p) u
  v.setCore r.core ((v.core r.core).setPatch p.1
    { (v.core r.core).patch p.1 with status := drainedStatus s r h ix row p ((v.core r.core).patch p.1) })

/-- The elements that a row of a part stores. -/
def drainStored (s : State) (r : Rec) (h : Handle) (ix : List Nat) (row : Nat) (p : Nat × Nat × Nat) : Nat :=
  if s.drainSkips r ix p.2.1 p.2.2 then 0
  else ((s.drainDelivers r h ix row p.2.1 p.2.2).1.filter fun y => h.stores (r.through h y.1)).length

/-- What a row of a part delivers, its record's SYMBREAK cleared. -/
def Job.drainOut (x : Job) (h : Handle) (ix : List Nat) (row : Nat) (p : Nat × Nat × Nat) : Job :=
  let a := x.s.drainDelivers x.r h ix row p.2.1 p.2.2
  let clean : Job := { x with r := { x.r with flags := bvSetField x.r.flags wSYMBREAK 1 0 } }
  if x.s.drainSkips x.r ix p.2.1 p.2.2 then clean
  else
    let y := match clean.r.scaleOf h with | some k => clean.deliver k a.2.1 (deliveredIn k a.2.1) | none => clean
    let y := y.deliver h a.1 (x.drainValue h)
    { y with r := { y.r with count := y.r.count + (a.1.filter fun e => h.stores (y.r.through h e.1)).length } }

theorem Job.drainPart_out (x : Job) (p : Nat × Nat × Nat) : x.drainPart h ix row p =
    (let y := x.drainOut h ix row p
     let st := (if row = 0 then
         (if x.s.drainNan x.r ix p.2.1 p.2.2 then 1 else 0) + (if ((x.s.core x.r.core).patch p.1).broken then 4 else 0) else 0) |||
       (if x.s.drainSkips x.r ix p.2.1 p.2.2 then 0 else (x.s.drainDelivers x.r h ix row p.2.1 p.2.2).2.2) |||
       (if bvBit y.r.flags wSYMBREAK then 4 else 0)
     { s := y.s.setCore x.r.core ((y.s.core x.r.core).addStatus p.1 (drainsFirst x.r ix row) st)
       r := { y.r with flags := y.r.flags ||| x.r.flags }.statusFlags st }) := rfl

section
variable (hb : h.unbreakable) (hk : ∀ k, r.scaleOf h = some k → k.unbreakable)
include hb hk

theorem drainOut_eq (p : Nat × Nat × Nat) : ∃ w, (Job.mk s r).drainOut h ix row p = ⟨elemsPut r (drainPuts s r h ix row p) s, { r with
    wrote := w, flags := bvSetField r.flags wSYMBREAK 1 0, count := r.count + drainStored s r h ix row p }⟩ := by
  rw [Job.drainOut, drainPuts, drainStored]
  dsimp only
  split
  · exact ⟨r.wrote, rfl⟩
  · have scale : ({ r with flags := bvSetField r.flags wSYMBREAK 1 0 } : Rec).scaleOf h = r.scaleOf h := rfl
    rw [scale]
    cases hs : r.scaleOf h with
    | none =>
      obtain ⟨w, deliver⟩ := Job.deliver_unbroken ⟨s, { r with flags := bvSetField r.flags wSYMBREAK 1 0 }⟩ hb
        (s.drainDelivers r h ix row p.2.1 p.2.2).1 ((Job.mk s r).drainValue h)
      dsimp only
      rw [deliver]
      exact ⟨w, rfl⟩
    | some k =>
      obtain ⟨w, scales⟩ := Job.deliver_unbroken ⟨s, { r with flags := bvSetField r.flags wSYMBREAK 1 0 }⟩ (hk k hs)
        (s.drainDelivers r h ix row p.2.1 p.2.2).2.1 (deliveredIn k (s.drainDelivers r h ix row p.2.1 p.2.2).2.1)
      obtain ⟨w', deliver⟩ := Job.deliver_unbroken
        ⟨elemsPut r [(k, (s.drainDelivers r h ix row p.2.1 p.2.2).2.1)] s, { r with wrote := w, flags := bvSetField r.flags wSYMBREAK 1 0 }⟩ hb
        (s.drainDelivers r h ix row p.2.1 p.2.2).1 ((Job.mk s r).drainValue h)
      dsimp only at scales ⊢
      rw [scales]
      refine ⟨w', ?_⟩
      rw [elemsPut_append]
      exact congrArg (fun y : Job => { y with r := { y.r with
        count := y.r.count + ((s.drainDelivers r h ix row p.2.1 p.2.2).1.filter fun e : List Nat × Nat => h.stores (y.r.through h e.1)).length } }) deliver

/-- A row of one part (R351). -/
theorem drainPart_eq (hs : s.poison = []) (p : Nat × Nat × Nat) : ∃ w f, (Job.mk s r).drainPart h ix row p =
    ⟨drainedPart s r h ix row s p, { r with wrote := w, flags := f, count := r.count + drainStored s r h ix row p }⟩ := by
  obtain ⟨w, out⟩ := drainOut_eq (s := s) (ix := ix) (row := row) hb hk p
  have clear : bvBit (bvSetField r.flags wSYMBREAK 1 0) wSYMBREAK = false := by
    rw [bvBit_eq, getLsbD_bvSetField _ _ _ _ _ (by decide), if_pos ⟨Nat.le_refl _, Nat.lt_succ_self _⟩, Nat.zero_testBit]
  have patches : ((elemsPut r (drainPuts s r h ix row p) s).core r.core).patch p.1 = (s.core r.core).patch p.1 := by
    rw [(engineWrote_elemsPut r hs (drainPuts s r h ix row p)).2 r.core]
    rfl
  have start : (if row = 0 then (if s.drainNan r ix p.2.1 p.2.2 then 1 else 0) + (if ((s.core r.core).patch p.1).broken then 4 else 0) else 0) =
      (if row = 0 ∧ s.drainNan r ix p.2.1 p.2.2 = true then 1 else 0) ||| (if row = 0 ∧ ((s.core r.core).patch p.1).broken = true then 4 else 0) := by
    by_cases h0 : row = 0
    · cases s.drainNan r ix p.2.1 p.2.2 <;> cases ((s.core r.core).patch p.1).broken <;> simp [h0]
    · simp only [h0, false_and, if_false, Nat.or_zero]
  rw [Job.drainPart_out, out]
  dsimp only
  rw [clear, if_neg Bool.false_ne_true, Nat.or_zero, start, ← patches]
  obtain ⟨f, flags⟩ := Rec.statusFlags_eq { r with
    wrote := w, flags := bvSetField r.flags wSYMBREAK 1 0 ||| r.flags, count := r.count + drainStored s r h ix row p } _
  rw [flags]
  exact ⟨w, f, rfl⟩

end

/-! ## A row of all parts -/

/-- Writes of a part change no accumulator and no queue. -/
theorem drainedPart_frame (hu : u.poison = []) (p : Nat × Nat × Nat) : (drainedPart s r h ix row u p).poison = [] ∧
    ∀ d, ((drainedPart s r h ix row u p).core d).z = (u.core d).z ∧
      ((drainedPart s r h ix row u p).core d).engines = (u.core d).engines := by
  obtain ⟨poison, cores⟩ := engineWrote_elemsPut r hu (drainPuts s r h ix row p)
  refine ⟨poison, fun d => ?_⟩
  rw [drainedPart]
  dsimp only
  by_cases hd : d = r.core
  · subst hd
    rw [State.core_setCore_self, Core.setPatch]
    dsimp only
    rw [cores r.core]
    exact ⟨rfl, rfl⟩
  · rw [State.core_setCore_ne _ _ hd, cores d]
    exact ⟨rfl, rfl⟩

/-- What a part does is told by the accumulators as the row begins. -/
theorem drainedPart_same (hs : s.poison = []) (hu : u.poison = []) (hz : (u.core r.core).z = (s.core r.core).z) :
    drainedPart u r h ix row = drainedPart s r h ix row ∧ drainStored u r h ix row = drainStored s r h ix row := by
  have puts : drainPuts u r h ix row = drainPuts s r h ix row := by
    funext p
    simp only [drainPuts, drainSkips_eq hs hu hz, drainDelivers_eq hs hu hz]
  have status : drainedStatus u r h ix row = drainedStatus s r h ix row := by
    funext p x
    simp only [drainedStatus, drainSkips_eq hs hu hz, drainNan_eq hs hu hz, drainDelivers_eq hs hu hz]
  constructor
  · funext v p
    rw [drainedPart, drainedPart, puts, status]
  · funext p
    simp only [drainStored, drainSkips_eq hs hu hz, drainDelivers_eq hs hu hz]

section
variable (hb : h.unbreakable) (hk : ∀ k, r.scaleOf h = some k → k.unbreakable) (hs : s.poison = [])
include hb hk hs

theorem drainParts_eq (ps : List (Nat × Nat × Nat)) (hu : u.poison = []) (hz : (u.core r.core).z = (s.core r.core).z)
    (w : List (Nat × Nat)) (f : BitVec 16) (n : Nat) : ∃ w' f',
    ps.foldl (fun (y : Job) p => y.drainPart h ix row p) (Job.mk u { r with wrote := w, flags := f, count := n }) =
      ⟨ps.foldl (drainedPart s r h ix row) u, { r with wrote := w', flags := f', count := n + (ps.map (drainStored s r h ix row)).sum }⟩ := by
  induction ps generalizing u w f n with
  | nil => exact ⟨w, f, rfl⟩
  | cons p ps ih =>
    obtain ⟨w1, f1, part⟩ := drainPart_eq (s := u) (r := { r with wrote := w, flags := f, count := n }) (ix := ix) (row := row) hb hk hu p
    obtain ⟨same, stored⟩ := drainedPart_same (h := h) (ix := ix) (row := row) hs hu hz
    have next : drainedPart u { r with wrote := w, flags := f, count := n } h ix row u p = drainedPart s r h ix row u p :=
      congrFun (congrFun same u) p
    have more : drainStored u { r with wrote := w, flags := f, count := n } h ix row p = drainStored s r h ix row p := congrFun stored p
    obtain ⟨poison, cores⟩ := drainedPart_frame (s := s) (r := r) (h := h) (ix := ix) (row := row) hu p
    rw [next, more] at part
    rw [List.foldl_cons, part, List.foldl_cons, List.map_cons, List.sum_cons, ← Nat.add_assoc]
    exact ih poison ((cores r.core).1.trans hz) w1 f1 (n + drainStored s r h ix row p)

end

theorem drainParts_frame (ps : List (Nat × Nat × Nat)) (hu : u.poison = []) (d : Nat) :
    ((ps.foldl (drainedPart s r h ix row) u).core d).engines = (u.core d).engines := by
  induction ps generalizing u with
  | nil => rfl
  | cons p ps ih =>
    obtain ⟨poison, cores⟩ := drainedPart_frame (s := s) (r := r) (h := h) (ix := ix) (row := row) hu p
    exact (ih poison).trans (cores d).2

/-! ## The step -/

/-- Where no word is poisoned, no poisoned accumulator is met (R216). -/
theorem drainMeets_clean (hs : s.poison = []) : (Job.mk s r).drainMeets ix row = ⟨s, r⟩ := by
  have none_ : ∀ i, s.accPoison (r.drainKind ix) r.core (drainPatch r.body ix).toNat i (drainCols r.body) = [] := fun i => by
    unfold State.accPoison
    rw [hs]
    rfl
  unfold Job.drainMeets
  dsimp only
  rw [List.flatMap_eq_nil_iff.mpr fun i _ => none_ i]
  rfl

/-- A part of the row writes, and a row is left. -/
def drainsOn (s : State) (r : Rec) (ix : List Nat) (row : Nat) : Bool :=
  (r.drainParts ix).any (fun p => !(s.drainSkips r ix p.2.1 p.2.2)) && decide (row + 1 < drainRows r.body)

theorem mdrainStep_eq (hs : s.poison = []) (hr : r.bind (bodyAt r.body 16 1) = some h) (hb : h.unbreakable)
    (hk : ∀ k, r.scaleOf h = some k → k.unbreakable) (hu : r.upc = ix ++ [row]) (hl : ix.length = 3) (hn : r.ended = false) :
    ∃ w f, (Job.mk s r).mdrainStep = ⟨(r.drainParts ix).foldl (drainedPart s r h ix row) s, { r with
      wrote := w, flags := f, count := r.count + ((r.drainParts ix).map (drainStored s r h ix row)).sum
      upc := if drainsOn s r ix row then ix ++ [row + 1]
        else match nextIter (drainIters r.body) ix with | some iy => iy ++ [0] | none => ix ++ [drainRows r.body]
      ended := !(drainsOn s r ix row) && (nextIter (drainIters r.body) ix).isNone }⟩ := by
  have patch : r.upc.take 3 = ix := by rw [hu, ← hl, List.take_left]
  have at_ : r.upc.getD 3 0 = row := by rw [hu, ← hl, List.getD_append_right _ _ _ _ (Nat.le_refl _), Nat.sub_self]; rfl
  obtain ⟨w, f, parts⟩ := drainParts_eq (ix := ix) (row := row) hb hk hs (r.drainParts ix) hs rfl r.wrote r.flags r.count
  have goes : (!((r.drainParts ix).all fun p => s.drainSkips r ix p.2.1 p.2.2) && decide (row + 1 < drainRows r.body)) = drainsOn s r ix row := by
    rw [List.not_all_eq_any_not, drainsOn]
  refine ⟨w, f, ?_⟩
  unfold Job.mdrainStep
  dsimp only
  rw [patch, at_, hr]
  dsimp only
  rw [drainMeets_clean hs]
  dsimp only
  rw [parts, goes]
  dsimp only
  cases drainsOn s r ix row
  · rw [if_neg Bool.false_ne_true, if_neg Bool.false_ne_true]
    cases nextIter (drainIters r.body) ix
    · rfl
    · rw [Option.isNone_some, Bool.and_false, ← hn]
  · rw [if_pos rfl, if_pos rfl, Bool.not_true, Bool.false_and, ← hn]

/-- What a row of a part delivers, as the claim states it. -/
theorem drainDelivers_parts (lo hi : Nat) :
    let cells := ((s.accCells (r.drainKind ix) r.core (drainPatch r.body ix).toNat row).take hi).drop lo
    let places := ((drainRow r.body ix row).take hi).drop lo
    let out := cells.map (drainElem r.body (r.drainKind ix) h.desc.fmt)
    let blocks := quantUnit h.desc.fmt 4 (places.zip (cells.map fun v => (accValue (r.drainKind ix) v).scale (drainScale r.body)))
    s.drainDelivers r h ix row lo hi =
      (if isBlockTy h.desc.fmt then blocks.elems else places.zip (out.map fun v => v.1),
        if isBlockTy h.desc.fmt then blocks.scales else [],
        if isBlockTy h.desc.fmt then (if blocks.stats.any fun v => v.1 == wSAT then 8 else 0) else out.foldl (fun a v => a ||| v.2) 0) := by
  intro cells places out blocks
  rw [State.drainDelivers]
  dsimp only
  split
  · rfl
  · rfl

end

theorem drainIterations_hold : drainIterations := by
  intro c e row ix r rest h s hr hb hsym hscale hu hl
  obtain ⟨-, -, -, rfl, -, hop, -, ended, -, poison⟩ := id hr
  obtain ⟨w, f, step⟩ := mdrainStep_eq poison hb hsym hscale hu hl ended
  have iter : (Job.mk s r).iterate = some (Job.mk s r).mdrainStep := by simp only [Job.iterate, hop]
  intro b kind z columns parts nan skips block places out blocks es scaled stats first status part stored more after next
  have delivers : ∀ p : Nat × Nat × Nat, s.drainDelivers r h ix row p.2.1 p.2.2 = (es p, if block then (blocks p).scales else [], stats p) :=
    fun p => drainDelivers_parts p.2.1 p.2.2
  have hskips : ∀ p : Nat × Nat × Nat, s.drainSkips r ix p.2.1 p.2.2 = skips p := fun _ => rfl
  have hnan : ∀ p : Nat × Nat × Nat, s.drainNan r ix p.2.1 p.2.2 = nan p.2.1 p.2.2 := fun _ => rfl
  have hparts : r.drainParts ix = parts := rfl
  have hpart : drainedPart s r h ix row = part := by
    funext u p
    have puts : drainPuts s r h ix row p = if skips p then [] else scaled p ++ [(h, es p)] := by
      rw [drainPuts, delivers, hskips] <;> rfl
    have state : ∀ x, drainedStatus s r h ix row p x = status p x := fun x => by
      rw [drainedStatus, delivers, hskips, hnan]
      exact congrArg (· ||| _) (if_congr drainsFirst_iff rfl rfl)
    rw [drainedPart, puts, state]
  have hstored : drainStored s r h ix row = stored := by
    funext p
    rw [drainStored, delivers, hskips]
  have hmore : drainsOn s r ix row = more := rfl
  have hq : (((r.drainParts ix).foldl (drainedPart s r h ix row) s).core r.core).engines = (s.core r.core).engines :=
    drainParts_frame _ poison r.core
  obtain ⟨-, queue, -⟩ := id hr
  rw [hparts, hpart, hstored, hmore] at step
  rw [hparts, hpart] at hq
  have heads : (((parts.foldl part s).core r.core).engine e).queue = r :: rest := by
    rw [Core.engine, hq]
    exact queue
  exact does_here (does_step hr (by decide) (iter.trans (congrArg some step)) heads rfl trivial rfl rfl rfl rfl)

end Sys2Proof.Machine
end

section
/-! The accumulators of a patch, read and rewritten (R203, R343, R345). -/

open Sys2Proof Sys2Proof.Machine Sys2Proof.Claims

namespace Sys2Proof.Machine

/-! ## Elements of a packed row -/

theorem packElems_digit (w : Nat) (cs : List Nat) (i : Nat) : packElems w cs / 2 ^ (w * i) % 2 ^ w = cs.getD i 0 % 2 ^ w := by
  induction i generalizing cs with
  | zero =>
    cases cs with
    | nil => rw [packElems, Nat.zero_div]; rfl
    | cons v cs => rw [packElems, Nat.mul_zero, Nat.pow_zero, Nat.div_one, Nat.add_mul_mod_self_left, Nat.mod_mod]; rfl
  | succ i ih =>
    cases cs with
    | nil => rw [packElems, Nat.zero_div]; rfl
    | cons v cs =>
      rw [packElems, Nat.mul_succ, Nat.add_comm (w * i), Nat.pow_add, ← Nat.div_div_eq_div_mul, Nat.add_mul_div_left _ _ (Nat.two_pow_pos w),
        Nat.div_eq_of_lt (Nat.mod_lt v (Nat.two_pow_pos w)), Nat.zero_add, ih]
      rfl

theorem getD_map_upTo (g : Nat → Nat) {n i : Nat} (h : i < n) : ((upTo n).map g).getD i 0 = g i := by
  rw [upTo, List.getD_eq_getElem _ _ (by rw [List.length_map, List.length_range]; exact h), List.getElem_map, List.getElem_range]

/-- A number's field within a row. -/
theorem extract_ofNat (n : Nat) {lo w : Nat} (h : lo + w ≤ 4096) :
    (BitVec.ofNat 4096 n).extractLsb' lo w = BitVec.ofNat w (n / 2 ^ lo % 2 ^ w) := by
  refine BitVec.eq_of_getLsbD_eq fun i hi => ?_
  rw [BitVec.getLsbD_extractLsb', BitVec.getLsbD_ofNat, BitVec.getLsbD_ofNat, Nat.testBit_mod_two_pow, Nat.testBit_div_two_pow,
    Nat.add_comm i lo]
  simp only [hi, decide_true, Bool.true_and]
  rw [decide_eq_true (show lo + i < 4096 by omega), Bool.true_and]

/-- Cells of `w` bits of a row. -/
def packedRow (w : Nat) (cs : List Nat) : BitVec 4096 := BitVec.ofNat 4096 (packElems w cs)

theorem packedRow_cell {w i : Nat} (h : w * i + w ≤ 4096) (cs : List Nat) :
    (packedRow w cs).extractLsb' (w * i) w = BitVec.ofNat w (cs.getD i 0) := by
  rw [packedRow, extract_ofNat _ h, packElems_digit]
  exact BitVec.eq_of_toNat_eq (by rw [BitVec.toNat_ofNat, BitVec.toNat_ofNat, Nat.mod_mod])

/-- Cells of 64 bits as pairs of 32. -/
theorem packElems_unpairCells (cs : List Nat) : packElems 32 (unpairCells cs) = packElems 64 cs := by
  induction cs with
  | nil => rfl
  | cons v cs ih =>
    change packElems 32 ([v % 2 ^ 32, v / 2 ^ 32 % 2 ^ 32] ++ unpairCells cs) = _
    rw [List.cons_append, List.singleton_append, packElems, packElems, packElems, ih]
    omega

theorem unpairCells_take (cs : List Nat) (n : Nat) : (unpairCells cs).take (2 * n) = unpairCells (cs.take n) := by
  induction n generalizing cs with
  | zero => rfl
  | succ n ih =>
    cases cs with
    | nil => rfl
    | cons v cs => exact congrArg (fun l => v % 2 ^ 32 :: v / 2 ^ 32 % 2 ^ 32 :: l) (ih cs)

theorem unpairCells_drop (cs : List Nat) (n : Nat) : (unpairCells cs).drop (2 * n) = unpairCells (cs.drop n) := by
  induction n generalizing cs with
  | zero => rfl
  | succ n ih =>
    cases cs with
    | nil => rfl
    | cons v cs => exact ih cs

/-! ## The accumulators of a row (R343) -/

/-- The row of every patch with the accumulators of one patch, or pair, replaced. -/
def putRow (kind : PatchKind) (z : Nat) (cells : List Nat) (f : Nat → BitVec 4096) : Nat → BitVec 4096 :=
  match kind with
  | .fp64 => Function.update (Function.update f z (packedRow 32 ((unpairCells cells).take 128))) (z + 1)
      (packedRow 32 ((unpairCells cells).drop 128))
  | _ => Function.update f z (packedRow 32 cells)

/-- The accumulators of a row, from the rows of all patches. -/
def rowAcc (kind : PatchKind) (z : Nat) (f : Nat → BitVec 4096) : List Nat :=
  match kind with
  | .fp64 => pairCells (rowCells (f z)) (rowCells (f (z + 1)))
  | _ => rowCells (f z)

/-- One of them, as the claim reads it. -/
def accOf (kind : PatchKind) (z : Nat) (f : Nat → BitVec 4096) (col : Nat) : BitVec 64 :=
  match kind with
  | .fp64 => if col < 64 then (f z).extractLsb' (64 * col) 64 else (f (z + 1)).extractLsb' (64 * (col - 64)) 64
  | _ => ((f z).extractLsb' (32 * col) 32).setWidth 64

section
variable {kind : PatchKind} {z col y : Nat} {f : Nat → BitVec 4096} {cells : List Nat}

theorem putRow_other (h : ¬ (y = z ∨ kind = .fp64 ∧ y = z + 1)) : putRow kind z cells f y = f y := by
  obtain ⟨hz, hp⟩ := not_or.mp h
  cases kind
  · exact Function.update_of_ne hz _ _
  · exact Function.update_of_ne hz _ _
  · exact (Function.update_of_ne (fun h => hp ⟨rfl, h⟩) _ _).trans (Function.update_of_ne hz _ _)

theorem rowCells_cell (v : BitVec 4096) {i : Nat} (h : i < 128) : (rowCells v).getD i 0 = (v.extractLsb' (32 * i) 32).toNat := by
  rw [rowCells, unpackElems, getD_map_upTo _ h, BitVec.extractLsb'_toNat, Nat.shiftRight_eq_div_pow]
  rfl

theorem length_rowCells (v : BitVec 4096) : (rowCells v).length = 128 := by
  rw [rowCells, unpackElems, List.length_map, upTo, List.length_range]

/-- Two cells of 32 bits make one of 64. -/
theorem pair_cell (v : BitVec 4096) (i : Nat) :
    (v.extractLsb' (32 * (2 * i)) 32).toNat + 2 ^ 32 * (v.extractLsb' (32 * (2 * i + 1)) 32).toNat = (v.extractLsb' (64 * i) 64).toNat := by
  have next : v.toNat / 2 ^ (32 * (2 * i + 1)) = v.toNat / 2 ^ (64 * i) / 2 ^ 32 := by
    rw [Nat.div_div_eq_div_mul, ← Nat.pow_add]
    exact congrArg (v.toNat / 2 ^ ·) (by omega)
  simp only [BitVec.extractLsb'_toNat, Nat.shiftRight_eq_div_pow]
  rw [next, show 32 * (2 * i) = 64 * i by omega]
  omega

theorem rowAcc_cell (h : col < 128) : (rowAcc kind z f).getD col 0 = (accOf kind z f col).toNat := by
  have single : (rowCells (f z)).getD col 0 = (((f z).extractLsb' (32 * col) 32).setWidth 64).toNat := by
    rw [rowCells_cell _ h, BitVec.toNat_setWidth]
    exact (Nat.mod_eq_of_lt (Nat.lt_of_lt_of_le (BitVec.isLt _) (by decide))).symm
  cases kind
  · exact single
  · exact single
  · rw [rowAcc, pairCells, getD_map_upTo _ h, accOf]
    by_cases hc : col < 64
    · rw [if_pos hc, List.getD_append _ _ _ _ (by rw [length_rowCells]; omega), List.getD_append _ _ _ _ (by rw [length_rowCells]; omega),
        rowCells_cell _ (by omega), rowCells_cell _ (by omega), pair_cell]
    · obtain ⟨i, rfl⟩ := Nat.exists_eq_add_of_le (Nat.le_of_not_lt hc)
      rw [if_neg hc, List.getD_append_right _ _ _ _ (by rw [length_rowCells]; omega),
        List.getD_append_right _ _ _ _ (by rw [length_rowCells]; omega), length_rowCells, rowCells_cell _ (by omega),
        rowCells_cell _ (by omega), show 2 * (64 + i) - 128 = 2 * i by omega, show 2 * (64 + i) + 1 - 128 = 2 * i + 1 by omega,
        Nat.add_sub_cancel_left, pair_cell]

theorem length_rowAcc : (rowAcc kind z f).length = 128 := by
  cases kind
  · exact length_rowCells _
  · exact length_rowCells _
  · rw [rowAcc, pairCells, List.length_map, upTo, List.length_range]

/-- An accumulator rewritten. -/
theorem accOf_putRow (h : col < 128) : accOf kind z (putRow kind z cells f) col = accumulated kind (cells.getD col 0) := by
  have single : ((Function.update f z (packedRow 32 cells) z).extractLsb' (32 * col) 32).setWidth 64 =
      (BitVec.ofNat 32 (cells.getD col 0)).setWidth 64 := by
    rw [Function.update_self, packedRow_cell (by omega)]
  have pairs : ∀ cs, packedRow 32 (unpairCells cs) = packedRow 64 cs := fun cs => congrArg (BitVec.ofNat 4096) (packElems_unpairCells cs)
  have lo := unpairCells_take cells 64
  have hi := unpairCells_drop cells 64
  cases kind
  · exact single
  · exact single
  · rw [accOf, putRow, accumulated]
    by_cases hc : col < 64
    · rw [if_pos hc, Function.update_of_ne (Nat.ne_of_lt (Nat.lt_succ_self z)), Function.update_self, lo, pairs, packedRow_cell (by omega),
        List.getD_eq_getElem?_getD, List.getD_eq_getElem?_getD, List.getElem?_take_of_lt hc]
    · obtain ⟨i, rfl⟩ := Nat.exists_eq_add_of_le (Nat.le_of_not_lt hc)
      rw [if_neg hc, Function.update_self, hi, pairs, Nat.add_sub_cancel_left, packedRow_cell (by omega), List.getD_eq_getElem?_getD,
        List.getD_eq_getElem?_getD, List.getElem?_drop]

/-- An accumulator written back. -/
theorem accumulated_accOf : accumulated kind (accOf kind z f col).toNat = accOf kind z f col := by
  have single : (BitVec.ofNat 32 (((f z).extractLsb' (32 * col) 32).setWidth 64).toNat).setWidth 64 =
      ((f z).extractLsb' (32 * col) 32).setWidth 64 := by
    refine congrArg (BitVec.setWidth 64) ?_
    rw [BitVec.toNat_setWidth, Nat.mod_eq_of_lt (Nat.lt_of_lt_of_le (BitVec.isLt _) (by decide)), BitVec.ofNat_toNat, BitVec.setWidth_eq]
  cases kind
  · exact single
  · exact single
  · rw [accumulated, BitVec.ofNat_toNat, BitVec.setWidth_eq]

end

end Sys2Proof.Machine
end

section
/-! One group accumulated into a patch (R203, R345). -/

open Sys2Proof Sys2Proof.Machine Sys2Proof.Claims

namespace Sys2Proof.Machine

/-! ## A row of accumulators in a core -/

/-- A row of accumulators rewritten (R343). -/
def Core.putAcc (q : Core) (kind : PatchKind) (z row : Nat) (cells : List Nat) : Core :=
  match kind with
  | .fp64 => (q.setZRow z row ((unpairCells cells).take 128)).setZRow (z + 1) row ((unpairCells cells).drop 128)
  | _ => q.setZRow z row cells

section
variable {s : State} {c z row n : Nat} {kind : PatchKind}

theorem accPoison_clean (hs : s.poison = []) : s.accPoison kind c z row n = [] := by
  unfold State.accPoison
  rw [hs]
  rfl

theorem accCells_clean (hs : s.poison = []) : s.accCells kind c z row = rowAcc kind z fun y => (s.core c).zRow y row := by
  have cells : ∀ y, s.zCells c y row = rowCells ((s.core c).zRow y row) := fun y => by
    unfold State.zCells
    rw [hs]
    rfl
  cases kind
  · exact cells z
  · exact cells z
  · exact congrArg₂ pairCells (cells z) (cells (z + 1))

theorem putZRow_clean (hs : s.poison = []) (q : Core) (cells : List Nat) :
    (s.setCore c q).putZRow c z row n cells = s.setCore c (q.setZRow z row cells) := by
  unfold State.putZRow
  dsimp only
  rw [State.core_setCore_self, State.setCore_setCore, State.setCore_poison, hs]
  rfl

theorem putAcc_clean (hs : s.poison = []) (q : Core) (cells : List Nat) :
    (s.setCore c q).putAcc kind c z row n cells = s.setCore c (q.putAcc kind z row cells) := by
  cases kind
  · exact putZRow_clean hs q cells
  · exact putZRow_clean hs q cells
  · exact (congrArg (fun u : State => u.putZRow c (z + 1) row (2 * n - 128) _) (putZRow_clean hs q _)).trans (putZRow_clean hs _ _)

/-- A row of a patch rewritten, among those of all patches. -/
theorem zRow_setZRow (q : Core) (cells : List Nat) (hrow : row < 96) (y i : Nat) (hi : i < 96) :
    (q.setZRow z row cells).zRow y i =
      if i = row then Function.update (fun y => q.zRow y row) z (packedRow 32 cells) y else q.zRow y i := by
  by_cases h : i = row
  · subst h
    rw [if_pos rfl]
    by_cases hy : y = z
    · subst hy
      rw [Core.zRow_setZRow_self, Function.update_self]
      rfl
    · rw [Core.zRow_setZRow_ne _ _ hrow hi (.inl hy), Function.update_of_ne hy]
  · rw [if_neg h, Core.zRow_setZRow_ne _ _ hrow hi (.inr h)]

theorem zRow_putAcc (q : Core) (cells : List Nat) (hrow : row < 96) (y i : Nat) (hi : i < 96) :
    (q.putAcc kind z row cells).zRow y i = if i = row then putRow kind z cells (fun y => q.zRow y row) y else q.zRow y i := by
  cases kind
  · exact zRow_setZRow q cells hrow y i hi
  · exact zRow_setZRow q cells hrow y i hi
  · rw [Core.putAcc, zRow_setZRow _ _ hrow y i hi]
    by_cases h : i = row
    · have first : (fun y => (q.setZRow z row ((unpairCells cells).take 128)).zRow y row) =
          Function.update (fun y => q.zRow y row) z (packedRow 32 ((unpairCells cells).take 128)) := by
        funext y
        rw [zRow_setZRow _ _ hrow y row hrow, if_pos rfl]
      rw [if_pos h, if_pos h, first]
      rfl
    · rw [if_neg h, if_neg h, zRow_setZRow _ _ hrow y i hi, if_neg h]

theorem Core.putAcc_frame (q : Core) (cells : List Nat) : q.putAcc kind z row cells = { q with z := (q.putAcc kind z row cells).z } := by
  cases kind <;> rfl

end

/-! ## A group -/

/-- The accumulators of a row after a group. -/
def groupCells (kind : PatchKind) (z : Nat) (k : Block2) (lo hi row : Nat) (f : Nat → BitVec 4096) : List Nat :=
  (rowAcc kind z f).zipIdx.map fun p => if p.2 < Nat.min 128 k.b.rows then groupCell kind p.1 (k.terms lo hi row p.2) else p.1

/-- A core with a group accumulated into a row. -/
def Core.groupRow (kind : PatchKind) (z : Nat) (k : Block2) (lo hi : Nat) (q : Core) (row : Nat) : Core :=
  q.putAcc kind z row (groupCells kind z k lo hi row fun y => q.zRow y row)

section
variable {s : State} {r : Rec} {kind : PatchKind} {z lo hi : Nat} {k : Block2}

theorem groupCells_cell {row col : Nat} {f : Nat → BitVec 4096} (h : col < 128) :
    accumulated kind ((groupCells kind z k lo hi row f).getD col 0) =
      if col < k.b.rows then accumulated kind (groupCell kind (accOf kind z f col).toNat (k.terms lo hi row col)) else accOf kind z f col := by
  have length : col < (rowAcc kind z f).zipIdx.length := by rw [List.length_zipIdx, length_rowAcc]; exact h
  have cell : (rowAcc kind z f)[col]'(by rw [length_rowAcc]; exact h) = (accOf kind z f col).toNat := by
    rw [← rowAcc_cell h, List.getD_eq_getElem]
  rw [groupCells, List.getD_eq_getElem _ _ (by rw [List.length_map]; exact length), List.getElem_map, List.getElem_zipIdx, Nat.zero_add, cell]
  dsimp only
  by_cases hc : col < k.b.rows
  · rw [if_pos hc, if_pos (Nat.lt_min.mpr ⟨h, hc⟩)]
  · rw [if_neg hc, if_neg fun hm => hc (Nat.lt_min.mp hm).2, accumulated_accOf]

theorem Rec.wroteZ_eq (r : Rec) (z row n : Nat) : ∃ w, r.wroteZ z row n = { r with wrote := w } := ⟨_, r.wroteZ_frame z row n⟩

theorem Rec.wroteAcc_eq (r : Rec) (kind : PatchKind) (z row n : Nat) : ∃ w, r.wroteAcc kind z row n = { r with wrote := w } := by
  cases kind
  · exact r.wroteZ_eq z row n
  · exact r.wroteZ_eq z row n
  · obtain ⟨w, first⟩ := r.wroteZ_eq z row (Nat.min 128 (2 * n))
    obtain ⟨w', second⟩ := Rec.wroteZ_eq { r with wrote := w } (z + 1) row (2 * n - 128)
    exact ⟨w', by rw [Rec.wroteAcc, first, second]⟩

/-- A group, where no accumulator is poisoned. -/
theorem group_eq (hs : s.poison = []) (q : Core) : ∃ w, (Job.mk (s.setCore r.core q) r).group kind z k lo hi =
    ⟨s.setCore r.core ((List.range (Nat.min 96 k.a.rows)).foldl (Core.groupRow kind z k lo hi) q), { r with wrote := w }⟩ := by
  unfold Job.group upTo
  dsimp only
  generalize List.range (Nat.min 96 k.a.rows) = rows
  suffices step : ∀ (q : Core) (w : List (Nat × Nat)), ∃ w', rows.foldl (fun (x : Job) row =>
      let y := (x.s.accPoison kind r.core z row (Nat.min 128 k.b.rows)).foldl (fun (x : Job) u => x.meet true [u]) x
      let new := (y.s.accCells kind r.core z row).zipIdx.map fun p =>
        if p.2 < Nat.min 128 k.b.rows then groupCell kind p.1 (k.terms lo hi row p.2) else p.1
      ⟨y.s.putAcc kind r.core z row (Nat.min 128 k.b.rows) new, y.r.wroteAcc kind z row (Nat.min 128 k.b.rows)⟩)
        (Job.mk (s.setCore r.core q) { r with wrote := w }) =
        ⟨s.setCore r.core (rows.foldl (Core.groupRow kind z k lo hi) q), { r with wrote := w' }⟩ from step q r.wrote
  induction rows with
  | nil => exact fun q w => ⟨w, rfl⟩
  | cons row rows ih =>
    intro q w
    obtain ⟨w', wrote⟩ := Rec.wroteAcc_eq { r with wrote := w } kind z row (Nat.min 128 k.b.rows)
    rw [List.foldl_cons, List.foldl_cons]
    dsimp only
    rw [accPoison_clean (s := s.setCore r.core q) hs, List.foldl_nil, accCells_clean (s := s.setCore r.core q) hs, putAcc_clean hs, wrote,
      State.core_setCore_self]
    exact ih _ w'

/-- Rows that a group has been accumulated into. -/
theorem grouped_zRow (q : Core) {n : Nat} (hn : n ≤ 96) (y i : Nat) (hi' : i < 96) :
    ((List.range n).foldl (Core.groupRow kind z k lo hi) q).zRow y i =
      if i < n then putRow kind z (groupCells kind z k lo hi i fun y => q.zRow y i) (fun y => q.zRow y i) y else q.zRow y i := by
  induction n generalizing y i with
  | zero => rw [if_neg (Nat.not_lt_zero i)]; rfl
  | succ n ih =>
    have old : (fun y => ((List.range n).foldl (Core.groupRow kind z k lo hi) q).zRow y n) = fun y => q.zRow y n := by
      funext y
      rw [ih (Nat.le_of_succ_le hn) y n hn, if_neg (Nat.lt_irrefl n)]
    rw [List.range_succ, List.foldl_append, List.foldl_cons, List.foldl_nil, Core.groupRow, zRow_putAcc _ _ hn y i hi', old]
    by_cases h : i = n
    · subst h
      rw [if_pos rfl, if_pos (Nat.lt_succ_self i)]
    · rw [if_neg h, ih (Nat.le_of_succ_le hn) y i hi']
      exact if_congr (by omega) rfl rfl

theorem grouped_frame (q : Core) (rows : List Nat) : rows.foldl (Core.groupRow kind z k lo hi) q =
    { q with z := (rows.foldl (Core.groupRow kind z k lo hi) q).z } := by
  induction rows generalizing q with
  | nil => rfl
  | cons row rows ih =>
    rw [List.foldl_cons, ih, Core.groupRow, Core.putAcc_frame]

/-- A group changes the cells of its rows and columns (R345). -/
theorem grouped_acc (q : Core) {row col : Nat} (hrow : row < 96) (hcol : col < 128) :
    accumulator kind ((List.range (Nat.min 96 k.a.rows)).foldl (Core.groupRow kind z k lo hi) q) z row col =
      if row < k.a.rows ∧ col < k.b.rows then
        accumulated kind (groupCell kind (accumulator kind q z row col).toNat (k.terms lo hi row col))
      else accumulator kind q z row col := by
  have read : ∀ q : Core, accumulator kind q z row col = accOf kind z (fun y => q.zRow y row) col := fun q => by cases kind <;> rfl
  have rows : (fun y => ((List.range (Nat.min 96 k.a.rows)).foldl (Core.groupRow kind z k lo hi) q).zRow y row) =
      if row < k.a.rows then putRow kind z (groupCells kind z k lo hi row fun y => q.zRow y row) (fun y => q.zRow y row)
      else fun y => q.zRow y row := by
    funext y
    rw [grouped_zRow q (Nat.min_le_left 96 k.a.rows) y row hrow, ite_apply]
    exact if_congr (by rw [Nat.lt_min]; exact and_iff_right hrow) rfl rfl
  rw [read, rows, read]
  by_cases h : row < k.a.rows
  · rw [if_pos h, accOf_putRow hcol, groupCells_cell hcol]
    exact if_congr (and_iff_right h).symm rfl rfl
  · rw [if_neg h, if_neg fun both => h both.1]

/-- Other patches keep their rows. -/
theorem grouped_other (q : Core) {y row : Nat} (hrow : row < 96) (hy : ¬ (y = z ∨ kind = .fp64 ∧ y = z + 1)) :
    ((List.range (Nat.min 96 k.a.rows)).foldl (Core.groupRow kind z k lo hi) q).zRow y row = q.zRow y row := by
  rw [grouped_zRow q (Nat.min_le_left 96 k.a.rows) y row hrow]
  split
  · exact putRow_other hy
  · rfl

end

end Sys2Proof.Machine
end

section
/-! An iteration of MMA or OCON (R122, R344 to R349). -/

open Sys2Proof Sys2Proof.Machine Sys2Proof.Claims

namespace Sys2Proof.Machine

/-! ## Patches marked and streams popped -/

/-- A patch written by a group, its transpose check failed or not (R347). -/
def Patch.marked (p : Patch) (turned : Bool) : Patch :=
  { p with written := true, broken := p.broken || turned, status := if turned then p.status ||| 4 else p.status }

/-- A core with the patches of a group marked. -/
def Core.markPatches (kind : PatchKind) (z : Nat) (turned : Bool) (q : Core) : Core :=
  (withPairs (kind == .fp64) [z]).foldl (fun q z => q.setPatch z ((q.patch z).marked turned)) q

section
variable {kind : PatchKind} {z : Nat} {turned : Bool} {q : Core}

theorem Core.patch_setPatch (q : Core) (z : Nat) (p : Patch) (y : Nat) : (q.setPatch z p).patch y = if y = z then p else q.patch y := by
  by_cases h : y = z
  · subst h
    rw [if_pos rfl]
    exact mapGet_mapPut_self _ _ _ _
  · rw [if_neg h]
    exact mapGet_mapPut_ne _ _ _ h

theorem Core.markPatches_frame : q.markPatches kind z turned = { q with patches := (q.markPatches kind z turned).patches } := by
  cases kind <;> rfl

theorem Core.markPatches_patch (y : Nat) : (q.markPatches kind z turned).patch y =
    if y = z ∨ kind = .fp64 ∧ y = z + 1 then (q.patch y).marked turned else q.patch y := by
  have single : (q.setPatch z ((q.patch z).marked turned)).patch y = if y = z then (q.patch y).marked turned else q.patch y := by
    rw [Core.patch_setPatch]
    split
    · rename_i h
      rw [h]
    · rfl
  cases kind
  · exact single.trans (if_congr (by simp) rfl rfl)
  · exact single.trans (if_congr (by simp) rfl rfl)
  · change ((q.setPatch z ((q.patch z).marked turned)).setPatch (z + 1) (((q.setPatch z ((q.patch z).marked turned)).patch (z + 1)).marked turned)).patch y = _
    rw [Core.patch_setPatch, single, Core.patch_setPatch, if_neg (Nat.succ_ne_self z)]
    by_cases h : y = z + 1
    · subst h
      rw [if_pos rfl, if_pos (.inr ⟨rfl, rfl⟩)]
    · rw [if_neg h]
      exact if_congr (by simp [h]) rfl rfl

theorem Core.markPatches_zRow (y row : Nat) : (q.markPatches kind z turned).zRow y row = q.zRow y row := by
  cases kind <;> rfl

theorem Core.markPatches_acc (row col : Nat) : accumulator kind (q.markPatches kind z turned) z row col = accumulator kind q z row col := by
  cases kind <;> rfl

theorem Core.popStreams_frame (l : List Nat) (q : Core) : l.foldl Core.popStream q = { q with streams := (l.foldl Core.popStream q).streams } := by
  induction l generalizing q with
  | nil => rfl
  | cons n l ih => rw [List.foldl_cons, ih]; rfl

theorem Core.popStreams_stream {l : List Nat} (hl : l.Nodup) (q : Core) (n : Nat) : mapGet (l.foldl Core.popStream q).streams n [] =
    if n ∈ l then (mapGet q.streams n []).drop 1 else mapGet q.streams n [] := by
  induction l generalizing q with
  | nil => rfl
  | cons m l ih =>
    obtain ⟨fresh, hl⟩ := List.nodup_cons.mp hl
    rw [List.foldl_cons, ih hl]
    by_cases h : n = m
    · subst h
      rw [if_neg fresh, if_pos List.mem_cons_self]
      exact mapGet_mapPut_self _ _ _ _
    · have other : mapGet (q.popStream m).streams n [] = mapGet q.streams n [] := mapGet_mapPut_ne _ _ _ h
      rw [other]
      exact if_congr (by rw [List.mem_cons, or_iff_right h]) rfl rfl

end

/-! ## The streams that a product takes (R122, R346) -/

def streamA (b : BitVec 384) : Nat := bodyBits b 16 0 2
def streamB (b : BitVec 384) : Nat := 4 + bodyBits b 16 2 2
def streamM (b : BitVec 384) : Nat := 8 + bodyBits b 16 5 1
def sparse (b : BitVec 384) : Nat := bodyBits b 16 6 2

/-- The streams that must hold a chunk. -/
def streamsNeeded (b : BitVec 384) : List Nat := [streamA b, streamB b] ++ (if sparse b = 0 then [] else [streamM b])

theorem bodyBits_lt (b : BitVec 384) (off bit n : Nat) : bodyBits b off bit n < 2 ^ n := Nat.mod_lt _ (Nat.two_pow_pos n)

theorem mem_streamsNeeded {b : BitVec 384} {n : Nat} :
    n ∈ streamsNeeded b ↔ n = streamA b ∨ n = streamB b ∨ n = streamM b ∧ sparse b ≠ 0 := by
  rw [streamsNeeded]
  split
  · rename_i h
    simp [h]
  · rename_i h
    simp [h]

theorem nodup_streamsNeeded (b : BitVec 384) : (streamsNeeded b).Nodup := by
  have a := bodyBits_lt b 16 0 2
  have c := bodyBits_lt b 16 2 2
  have ab : streamA b ≠ streamB b := by unfold streamA streamB; omega
  have am : streamA b ≠ streamM b := by unfold streamA streamM; omega
  have bm : streamB b ≠ streamM b := by unfold streamB streamM; omega
  rw [streamsNeeded]
  split
  · simp [ab]
  · simp [ab, am, bm]

/-- The first stream that holds nothing. -/
def emptyStream (q : Core) (b : BitVec 384) : Option Nat := (streamsNeeded b).find? fun n => (mapGet q.streams n []).isEmpty

theorem emptyStream_none {q : Core} {b : BitVec 384} (ha : mapGet q.streams (streamA b) [] ≠ []) (hb : mapGet q.streams (streamB b) [] ≠ [])
    (hm : sparse b ≠ 0 → mapGet q.streams (streamM b) [] ≠ []) : emptyStream q b = none := by
  refine List.find?_eq_none.mpr fun n hn => ?_
  rw [List.isEmpty_iff]
  rcases mem_streamsNeeded.mp hn with rfl | rfl | ⟨rfl, h⟩
  · exact ha
  · exact hb
  · exact hm h

theorem emptyStream_some {q : Core} {b : BitVec 384} {n : Nat} (h : n = streamA b ∧ mapGet q.streams (streamA b) [] = [] ∨
    n = streamB b ∧ mapGet q.streams (streamA b) [] ≠ [] ∧ mapGet q.streams (streamB b) [] = [] ∨
    n = streamM b ∧ sparse b ≠ 0 ∧ mapGet q.streams (streamA b) [] ≠ [] ∧ mapGet q.streams (streamB b) [] ≠ [] ∧
      mapGet q.streams (streamM b) [] = []) : emptyStream q b = some n := by
  have holds : ∀ {n}, mapGet q.streams n [] ≠ [] → (mapGet q.streams n []).isEmpty = false := fun h =>
    Bool.eq_false_iff.mpr fun he => h (List.isEmpty_iff.mp he)
  rw [emptyStream, streamsNeeded, List.cons_append, List.cons_append, List.nil_append]
  rcases h with ⟨rfl, ha⟩ | ⟨rfl, ha, hb⟩ | ⟨rfl, hs, ha, hb, hm⟩
  · rw [List.find?_cons, ha]
    rfl
  · rw [List.find?_cons, holds ha, List.find?_cons, hb]
    rfl
  · rw [if_neg hs, List.find?_cons, holds ha, List.find?_cons, holds hb, List.find?_cons, hm]
    rfl

/-! ## The step -/

/-- The operands of a group as a record takes them. -/
def blockTaken (r : Rec) (ha hb : Handle) (ca cb : Chunk) (cm : Option Chunk) : Block2 :=
  { a := ca, b := cb, mask := cm, mixA := !(ca.matches (bodyAt r.body 17 1) (r.op == .ocon))
    mixB := !(cb.matches (bodyAt r.body 18 1) (r.op == .ocon)), tyA := ha.desc.fmt, tyB := hb.desc.fmt, spn := sparse r.body, oc := r.op == .ocon }

/-- A core with a group of the first chunks accumulated, and those popped where the K block is done. -/
def Core.product (q : Core) (r : Rec) (kind : PatchKind) (z : Nat) (k : Block2) (lo hi : Nat) (popped : Bool) : Core :=
  let turned := mmaXpose r.body && (k.a.rdim != k.b.rdim || k.a.kdim != k.b.kdim)
  let u := (List.range (Nat.min 96 k.a.rows)).foldl (Core.groupRow kind z k lo hi) (q.markPatches kind z turned)
  if popped then (streamsNeeded r.body).foldl Core.popStream u else u

section
variable (q : Core) (r : Rec) (kind : PatchKind) (z : Nat) (k : Block2) (lo hi : Nat) (popped : Bool)

theorem Core.product_frame : q.product r kind z k lo hi popped = { q with
    z := (q.product r kind z k lo hi popped).z, patches := (q.product r kind z k lo hi popped).patches
    streams := (q.product r kind z k lo hi popped).streams } := by
  unfold Core.product
  dsimp only
  split
  · rw [Core.popStreams_frame, grouped_frame, Core.markPatches_frame]
  · rw [grouped_frame, Core.markPatches_frame]

/-- Popping changes no patch. -/
theorem Core.product_grouped : ∃ x, q.product r kind z k lo hi popped = { (List.range (Nat.min 96 k.a.rows)).foldl
    (Core.groupRow kind z k lo hi) (q.markPatches kind z (mmaXpose r.body && (k.a.rdim != k.b.rdim || k.a.kdim != k.b.kdim))) with
      streams := x } := by
  unfold Core.product
  dsimp only
  split
  · exact ⟨_, Core.popStreams_frame _ _⟩
  · exact ⟨_, rfl⟩

theorem Core.product_acc {row col : Nat} (hrow : row < 96) (hcol : col < 128) :
    accumulator kind (q.product r kind z k lo hi popped) z row col =
      if row < k.a.rows ∧ col < k.b.rows then
        accumulated kind (groupCell kind (accumulator kind q z row col).toNat (k.terms lo hi row col))
      else accumulator kind q z row col := by
  obtain ⟨x, grouped⟩ := q.product_grouped r kind z k lo hi popped
  generalize (mmaXpose r.body && (k.a.rdim != k.b.rdim || k.a.kdim != k.b.kdim)) = turned at grouped
  have cells := grouped_acc (kind := kind) (z := z) (k := k) (lo := lo) (hi := hi) (q.markPatches kind z turned) hrow hcol
  rw [Core.markPatches_acc] at cells
  rw [grouped]
  exact Eq.trans (by cases kind <;> rfl) cells

theorem Core.product_zRow {y row : Nat} (hrow : row < 96) (hy : ¬ (y = z ∨ kind = .fp64 ∧ y = z + 1)) :
    (q.product r kind z k lo hi popped).zRow y row = q.zRow y row := by
  obtain ⟨x, grouped⟩ := q.product_grouped r kind z k lo hi popped
  rw [grouped]
  exact (grouped_other (k := k) (lo := lo) (hi := hi) _ hrow hy).trans (Core.markPatches_zRow y row)

theorem Core.product_patch (y : Nat) : (q.product r kind z k lo hi popped).patch y = if y = z ∨ kind = .fp64 ∧ y = z + 1 then
    (q.patch y).marked (mmaXpose r.body && (k.a.rdim != k.b.rdim || k.a.kdim != k.b.kdim)) else q.patch y := by
  obtain ⟨x, grouped⟩ := q.product_grouped r kind z k lo hi popped
  rw [grouped, grouped_frame]
  exact Core.markPatches_patch y

theorem Core.product_stream (n : Nat) : mapGet (q.product r kind z k lo hi popped).streams n [] =
    if popped = true ∧ n ∈ streamsNeeded r.body then (mapGet q.streams n []).drop 1 else mapGet q.streams n [] := by
  have kept : ∀ t, ((List.range (Nat.min 96 k.a.rows)).foldl (Core.groupRow kind z k lo hi) (q.markPatches kind z t)).streams = q.streams :=
    fun t => by rw [grouped_frame, Core.markPatches_frame]
  unfold Core.product
  dsimp only
  cases popped
  · rw [if_neg Bool.false_ne_true, if_neg fun h => Bool.false_ne_true h.1, kept]
  · rw [if_pos rfl, Core.popStreams_stream (nodup_streamsNeeded r.body), kept]
    exact if_congr (and_iff_right rfl).symm rfl rfl

end

section
variable {s : State} {r : Rec} {ha hb : Handle} {kind : PatchKind} {size k : Nat} {ix : List Nat}
  (ba : r.bind (bodyAt r.body 17 1) = some ha) (bb : r.bind (bodyAt r.body 18 1) = some hb)
  (hc : productClass ha.desc.fmt hb.desc.fmt = some (kind, size))
include ba bb hc

theorem productOf_eq : r.productOf = some (kind, size) := by
  rw [Rec.productOf, ba, bb]
  exact hc

theorem mmaStep_empty_nest (hk : bodyAt r.body 20 4 = 0) : (Job.mk s r).mmaStep = some ⟨s, { r with ended := true }⟩ := by
  unfold Job.mmaStep
  dsimp only
  rw [productOf_eq ba bb hc]
  dsimp only
  rw [if_pos hk]

theorem mmaStep_waits (hk : bodyAt r.body 20 4 ≠ 0) {n : Nat} (he : emptyStream (s.core r.core) r.body = some n) :
    (Job.mk s r).mmaStep =
      if (s.core r.core).starved n then some ⟨s, { r.mark wCHUNKMIX with ended := true }⟩ else none := by
  unfold Job.mmaStep
  dsimp only
  rw [productOf_eq ba bb hc]
  dsimp only
  rw [if_neg hk]
  change (match emptyStream (s.core r.core) r.body with | some n => _ | none => _) = _
  rw [he]

/-- A group is done, or the whole K block, or the patch. -/
def Rec.groupDone (r : Rec) (ix : List Nat) (k size : Nat) : Rec :=
  if k + size < bodyAt r.body 20 4 then { r with upc := ix ++ [k + size] }
  else match nextIter (mmaIters r.body) ix with
    | some iy => { r with upc := iy ++ [0] }
    | none => { r with upc := ix ++ [bodyAt r.body 20 4], ended := true }

/-- The sparsity metadata of a group. -/
def maskTaken (q : Core) (b : BitVec 384) : Option Chunk :=
  if sparse b = 0 then none else (mapGet q.streams (streamM b) []).head?

omit ba bb hc in
/-- CHUNKMIX set under a condition (R349). -/
theorem Rec.markIf_chunkMix (r : Rec) (c : Bool) :
    ∃ f, r.markIf c wCHUNKMIX = { r with flags := f } ∧ (c = true → f.getLsbD 15 = true) := by
  cases c
  · exact ⟨r.flags, rfl, fun h => absurd h Bool.false_ne_true⟩
  · refine ⟨_, rfl, fun _ => ?_⟩
    rw [BitVec.getLsbD_or, show (BitVec.ofNat 16 (2 ^ wCHUNKMIX)).getLsbD 15 = true by decide, Bool.or_true]

/-- A group accumulated (R345). -/
theorem mmaStep_group (hk : bodyAt r.body 20 4 ≠ 0) (hu : r.upc = ix ++ [k]) (hl : ix.length = 3) {ca cb : Chunk} {as bs : List Chunk}
    (hsa : mapGet (s.core r.core).streams (streamA r.body) [] = ca :: as) (hsb : mapGet (s.core r.core).streams (streamB r.body) [] = cb :: bs)
    (hsm : sparse r.body ≠ 0 → mapGet (s.core r.core).streams (streamM r.body) [] ≠ []) (hs : s.poison = []) :
    let blk := blockTaken r ha hb ca cb (maskTaken (s.core r.core) r.body)
    ∃ w f, (Job.mk s r).mmaStep = some ⟨s.setCore r.core ((s.core r.core).product r kind (mmaPatch r.body ix).toNat blk (k % 32)
          (Nat.min (k % 32 + size) (bodyAt r.body 20 4 - (k - k % 32)))
          (decide ((k + size) % 32 = 0) || decide (bodyAt r.body 20 4 ≤ k + size))),
        ({ r with wrote := w, flags := f, count := r.count + 1 } : Rec).groupDone ix k size⟩ ∧
      (blk.mixA = true ∨ blk.mixB = true → f.getLsbD 15 = true) := by
  intro blk
  have patch : r.upc.take 3 = ix := by rw [hu, ← hl, List.take_left]
  have at_ : r.upc.getD 3 0 = k := by rw [hu, ← hl, List.getD_append_right _ _ _ _ (Nat.le_refl _), Nat.sub_self]; rfl
  have full : emptyStream (s.core r.core) r.body = none :=
    emptyStream_none (by rw [hsa]; exact List.cons_ne_nil _ _) (by rw [hsb]; exact List.cons_ne_nil _ _) hsm
  have need : (([bodyBits r.body 16 0 2, 4 + bodyBits r.body 16 2 2] ++ if bodyBits r.body 16 6 2 = 0 then [] else [8 + bodyBits r.body 16 5 1]).find?
      fun n => (mapGet (s.core r.core).streams n []).isEmpty) = none := full
  have headA : mapGet (s.core r.core).streams (bodyBits r.body 16 0 2) [] = ca :: as := hsa
  have headB : mapGet (s.core r.core).streams (4 + bodyBits r.body 16 2 2) [] = cb :: bs := hsb
  obtain ⟨w, grouped⟩ := group_eq (r := r) (kind := kind) (z := (mmaPatch r.body ix).toNat) (k := blk) (lo := k % 32)
    (hi := Nat.min (k % 32 + size) (bodyAt r.body 20 4 - (k - k % 32))) hs
    ((s.core r.core).markPatches kind (mmaPatch r.body ix).toNat (mmaXpose r.body && (ca.rdim != cb.rdim || ca.kdim != cb.kdim)))
  unfold Job.mmaStep
  dsimp only
  rw [productOf_eq ba bb hc, patch, at_]
  dsimp only
  rw [if_neg hk, need]
  dsimp only
  rw [headA, headB]
  dsimp only
  rw [ba, bb]
  dsimp only
  generalize hg : Job.group _ _ _ _ _ _ = g
  rw [show g = _ from hg.symm.trans grouped]
  dsimp only
  generalize hm : (_ || _ || _ || _ : Bool) = mixed
  have mixes : blk.mixA = true ∨ blk.mixB = true → mixed = true := fun h => by
    rw [← hm, Bool.or_eq_true, Bool.or_eq_true, Bool.or_eq_true]
    exact .inl (.inl h)
  obtain ⟨f, marked, bit⟩ := Rec.markIf_chunkMix { r with wrote := w } mixed
  rw [marked]
  refine ⟨w, f, congrArg some (congrArg₂ Job.mk ?_ rfl), fun h => bit (mixes h)⟩
  rw [State.core_setCore_self, State.setCore_setCore, ← apply_ite (s.setCore r.core)]
  rfl

end

end Sys2Proof.Machine
end

section
/-! What a product does to its patches and streams (R122, R344 to R349). -/

open Sys2Proof Sys2Proof.Machine Sys2Proof.Claims

namespace Sys2Proof.Machine

/-! ## The terms of a group (R345, R346, R349) -/

theorem Chunk.value_eq (k : Chunk) {m : Bool} {p : Prop} [Decidable p] (h : m = true ↔ p) (ty : Ty) (rows row i : Nat) :
    k.value m ty rows row i = chunkValue k p ty rows row i := by
  unfold Chunk.value chunkValue upTo
  by_cases hp : p
  · simp only [h.mpr hp, hp, if_true]
  · simp only [Bool.eq_false_iff.mpr fun hm => hp (h.mp hm), hp, Bool.false_eq_true, if_false]

section
variable {q : Core} {r : Rec} {ha hb : Handle} {ca cb : Chunk}

/-- The mask of a row, as the claim reads it. -/
def maskBits (q : Core) (b : BitVec 384) (row : Nat) : Nat :=
  match mapGet q.streams (streamM b) [] with
  | m :: _ => bitsAt m.data (32 * row) 32
  | [] => 0

/-- The places of a row's terms: of every position, or of those that its mask names. -/
def termsAt (q : Core) (b : BitVec 384) (row : Nat) : List (Nat × Nat) :=
  if sparse b = 0 then (List.range 32).map fun i => (i, i)
  else ((((List.range 32).filter fun i => (maskBits q b row).testBit i).take (match sparse b with | 1 => 16 | 2 => 8 | _ => 32)).zipIdx).map
    fun p => (p.2, p.1)

theorem termPlaces_eq (row : Nat) : termPlaces (sparse r.body)
    ((blockTaken r ha hb ca cb (maskTaken q r.body)).maskOf row) = termsAt q r.body row := by
  rw [termPlaces, termsAt]
  by_cases hs : sparse r.body = 0
  · rw [if_pos hs, if_pos hs, upTo]
  · have mask : (blockTaken r ha hb ca cb (maskTaken q r.body)).maskOf row = maskBits q r.body row := by
      rw [maskTaken, if_neg hs, maskBits]
      cases mapGet q.streams (streamM r.body) [] <;> rfl
    rw [if_neg hs, if_neg hs, mask, maskPlaces, upTo]
    rfl

section
variable {mixA mixB : Prop} [Decidable mixA] [Decidable mixB]
  (hA : (!(ca.matches (bodyAt r.body 17 1) (r.op == .ocon))) = true ↔ mixA)
  (hB : (!(cb.matches (bodyAt r.body 18 1) (r.op == .ocon))) = true ↔ mixB)
include hA hB

theorem weight_eq (i : Nat) : (blockTaken r ha hb ca cb (maskTaken q r.body)).weight i =
    if r.op = .ocon ∧ ¬ mixA ∧ ¬ mixB ∧ ca.weights ≠ [] then ca.weights.getD i 1 else (1 : Int) := by
  rw [Block2.weight, blockTaken]
  refine if_congr ?_ rfl rfl
  rw [← hA, ← hB]
  simp only [Bool.and_eq_true, beq_iff_eq, Bool.not_eq_true', Bool.not_eq_false', Bool.not_eq_false, List.isEmpty_eq_false_iff, and_assoc]

/-- The terms of a cell. -/
theorem blockTaken_terms (lo hi row col : Nat) : (blockTaken r ha hb ca cb (maskTaken q r.body)).terms lo hi row col =
    ((termsAt q r.body row).filter fun p => lo ≤ p.2 ∧ p.2 < hi ∧ p.1 < ca.pos ∧ p.2 < cb.pos).map fun p =>
      (chunkValue ca mixA ha.desc.fmt 96 row p.1, chunkValue cb mixB hb.desc.fmt 128 col p.2,
        if r.op = .ocon ∧ ¬ mixA ∧ ¬ mixB ∧ ca.weights ≠ [] then ca.weights.getD p.1 1 else (1 : Int)) := by
  rw [Block2.terms]
  refine Eq.trans (congrArg₂ List.map (funext fun p => ?_) (congrArg₂ List.filter (funext fun p => ?_) (termPlaces_eq row))) rfl
  · rw [weight_eq hA hB]
    exact congrArg₂ Prod.mk (ca.value_eq hA _ _ _ _) (congrArg₂ Prod.mk (cb.value_eq hB _ _ _ _) rfl)
  · rw [Bool.decide_and, Bool.decide_and, Bool.decide_and, Bool.and_assoc, Bool.and_assoc]
    rfl

end

/-- A chunk of another's tag. -/
theorem Chunk.mismatch_iff (k : Chunk) (slot : Nat) (op : RecOp) :
    (!(k.matches slot (op == .ocon))) = true ↔ k.slot ≠ slot ∨ k.orbit ≠ decide (op = .ocon) := by
  rw [Chunk.matches, Bool.not_eq_true', Bool.and_eq_false_iff, beq_eq_false_iff_ne, beq_eq_false_iff_ne]
  exact Iff.rfl

end

/-! ## The iterations -/

section
variable {s : State} {r : Rec} {k size : Nat} {ix : List Nat}

theorem Rec.groupDone_eq (hn : r.ended = false) : r.groupDone ix k size = { r with
    upc := if bodyAt r.body 20 4 ≤ k + size then
        (match nextIter (mmaIters r.body) ix with | some iy => iy ++ [0] | none => ix ++ [bodyAt r.body 20 4])
      else ix ++ [k + size]
    ended := decide (bodyAt r.body 20 4 ≤ k + size) && (nextIter (mmaIters r.body) ix).isNone } := by
  rw [Rec.groupDone]
  by_cases h : k + size < bodyAt r.body 20 4
  · rw [if_pos h, if_neg (Nat.not_le.mpr h), decide_eq_false (Nat.not_le.mpr h), Bool.false_and, ← hn]
  · rw [if_neg h, if_pos (Nat.le_of_not_lt h), decide_eq_true (Nat.le_of_not_lt h), Bool.true_and]
    cases nextIter (mmaIters r.body) ix
    · rfl
    · rw [Option.isNone_some, ← hn]

theorem iterate_product (hop : r.op = .mma ∨ r.op = .ocon) : (Job.mk s r).iterate = (Job.mk s r).mmaStep := by
  rcases hop with hop | hop
  · simp only [Job.iterate, hop]
  · simp only [Job.iterate, hop]

end

theorem accumulator_engines (q : Core) (x : Map Engine) (kind : PatchKind) (z row col : Nat) :
    accumulator kind { q with engines := x } z row col = accumulator kind q z row col := by
  cases kind <;> rfl

theorem Patch.marked_iff (p : Patch) {b : Bool} {c : Prop} [Decidable c] (h : b = true ↔ c) :
    p.marked b = { p with written := true, broken := p.broken || decide c, status := if c then p.status ||| 4 else p.status } := by
  have same : b = decide c := by rw [Bool.eq_iff_iff, h, decide_eq_true_eq]
  rw [Patch.marked, same]
  simp only [decide_eq_true_eq]

theorem productIterations_hold : productIterations := by
  intro c e k size op kind ix ha hb r rest s hop hr ba bb hc hu hl
  obtain ⟨-, queue, -, rfl, -, rfl, -, ended, -, poison⟩ := id hr
  have nstrm : r.op ≠ .nstrm := by
    rcases hop with hop | hop <;> rw [hop] <;> decide
  intro b kk spn sa sb sm stream ends
  refine ⟨fun hk => ?_, fun n hk hn => ?_, fun ca cb as bs hk hsa hsb hsm => ?_⟩
  · have iter := (iterate_product (s := s) hop).trans (mmaStep_empty_nest ba bb hc hk)
    exact does_here (does_iterate hr nstrm iter (engineWrote_refl poison) rfl trivial rfl rfl rfl rfl)
  · have waits := (iterate_product (s := s) hop).trans (mmaStep_waits ba bb hc hk (emptyStream_some hn))
    refine ⟨fun hs => ?_, fun hs => ?_⟩
    · rw [hs, if_neg Bool.false_ne_true] at waits
      exact does_held hr nstrm waits
    · rw [hs, if_pos rfl] at waits
      have bit : (r.mark wCHUNKMIX).flags.getLsbD 15 = true := by
        rw [Rec.mark, BitVec.getLsbD_or, show (BitVec.ofNat 16 (2 ^ wCHUNKMIX)).getLsbD 15 = true by decide, Bool.or_true]
      exact does_here (does_iterate hr nstrm waits (engineWrote_refl poison) rfl bit rfl rfl rfl rfl)
  · intro z lo hi mixA mixB mask places terms turned mine last popped after next
    obtain ⟨w, f, group, mixes⟩ := mmaStep_group ba bb hc hk hu hl hsa hsb hsm poison
    rw [Rec.groupDone_eq (r := { r with wrote := w, flags := f, count := r.count + 1 }) ended] at group
    generalize hq : (s.core r.core).product r kind _ _ _ _ _ = q at group
    have engines : q.engines = (s.core r.core).engines := by rw [← hq, Core.product_frame]
    have turnedTest : (mmaXpose r.body && (ca.rdim != cb.rdim || ca.kdim != cb.kdim)) = true ↔ turned := by
      rw [Bool.and_eq_true, Bool.or_eq_true, bne_iff_ne, bne_iff_ne]
    have poppedTest : (decide ((k + size) % 32 = 0) || decide (bodyAt r.body 20 4 ≤ k + size)) = true ↔ popped := by
      rw [Bool.or_eq_true, decide_eq_true_eq, decide_eq_true_eq]
      exact or_comm
    have flag : mixA ∨ mixB → f.getLsbD 15 = true := fun h =>
      mixes (h.imp (ca.mismatch_iff _ _).mpr (cb.mismatch_iff _ _).mpr)
    have step := does_step hr nstrm (also := fun r' => mixA ∨ mixB → r'.flags.getLsbD 15 = true) (next := next)
      ((iterate_product (s := s) hop).trans group) (u := s.setCore r.core q)
      (by rw [State.core_setCore_self, Core.engine, engines]; exact queue) rfl flag rfl rfl rfl rfl
    refine does_mono step fun t ht => ?_
    obtain ⟨moved, frame, others, own⟩ := advanced_of_setCore engines ht
    have same : (t.core r.core).z = q.z ∧ (t.core r.core).patches = q.patches ∧ (t.core r.core).streams = q.streams := by
      rw [own]
      exact ⟨rfl, rfl, rfl⟩
    refine ⟨moved, frame, others, ?_, fun row col hrow hcol => ?_, fun y row hrow hy => ?_, fun y => ?_, fun n => ?_⟩
    · have kept : q = { s.core r.core with z := q.z, patches := q.patches, streams := q.streams } := by
        rw [← hq]
        exact Core.product_frame _ _ _ _ _ _ _ _
      rw [same.1, same.2.1, same.2.2]
      exact own.trans (congrArg (fun q : Core => { q with engines := (t.core r.core).engines }) kept)
    · rw [own, accumulator_engines, ← hq, Core.product_acc _ _ _ _ _ _ _ _ hrow hcol, blockTaken_terms (ca.mismatch_iff _ _) (cb.mismatch_iff _ _)]
      rfl
    · rw [own, ← hq]
      exact Core.product_zRow _ _ _ _ _ _ _ _ hrow hy
    · rw [own, ← hq]
      refine (Core.product_patch _ _ _ _ _ _ _ _ y).trans (if_congr Iff.rfl ?_ rfl)
      exact Patch.marked_iff _ turnedTest
    · have read : stream t n = mapGet q.streams n [] := congrArg (mapGet · n []) same.2.2
      rw [read, ← hq]
      exact (Core.product_stream _ _ _ _ _ _ _ _ n).trans (if_congr (and_congr poppedTest mem_streamsNeeded) rfl rfl)

end Sys2Proof.Machine

/-- Settles O60: a step of each kind is worked out as an equation for the state and the record that it leaves; the record moves on at
the head of its queue. -/
theorem engineIterations : Obligations.EngineIterations := by
  unfold Obligations.EngineIterations
  exact ⟨plainElements_hold, copyIterations_hold, chunkIterations_hold, productIterations_hold, drainIterations_hold, indexIterations_hold,
    pairRecords_hold, neighbourIterations_hold, chainIterations_hold⟩

end
